-- ==== Sys2Proof/Word.lean ====
section
/-! DEFINITION. Words, register names and the coded operand types of the instruction set (R15 to R27), and the records that
events carry (R282, R304, R309, R313, R327, R331). -/

namespace Sys2Proof

/-- A 64-bit scalar (R71). -/
abbrev Word := BitVec 64
/-- One byte. -/
abbrev Byte := BitVec 8
/-- A 96-bit instruction word (R15). -/
abbrev IWord := BitVec 96
/-- A 256-byte row, byte 0 in bits [7:0] (R46, R234). -/
abbrev Row := BitVec 2048
/-- A 128-byte vector register, byte 0 in bits [7:0] (R46, R71). -/
abbrev VWord := BitVec 1024
/-- The number of a scalar register s0 to s63. -/
abbrev SReg := BitVec 6
/-- The number of a vector register v0 to v2047, or what else an 11-bit V4 register field names (R19). -/
abbrev VReg := BitVec 11
/-- The number of a predicate p0 to p15. -/
abbrev PReg := BitVec 4
/-- The number of an exact accumulator e0 to e3. -/
abbrev EReg := BitVec 2
/-- The number of a stream register z0 to z63. -/
abbrev ZReg := BitVec 6
/-- The number of a handle h0 to h15. -/
abbrev HReg := BitVec 4
/-- The number of a descriptor d0 to d31. -/
abbrev DReg := BitVec 5
/-- A COREID (R6). -/
abbrev CoreId := Fin 128
/-- A DIEID (R5). -/
abbrev DieId := Fin 4
/-- A resident bank 0 to 2 of a core (R292). -/
abbrev BankId := Fin 3

/-- Section kinds, coded as KIND (R27). -/
inductive Kind where
  | c | l | x | s
  deriving DecidableEq, Repr

/-- Rounding modes (R24, R63). -/
inductive Rnd where
  | rne | rtz | rdn | rup | rna | sr
  deriving DecidableEq, Repr

/-- Element types of typed vector words (R23). -/
inductive ElemType where
  | f64 | f32 | bf16 | f16 | e4m3 | e5m2 | f4 | db8 | db4
  | i64 | i32 | i16 | i8 | i4 | n64 | n32 | n16 | n8 | n4
  deriving DecidableEq, Repr

/-- Comparison conditions (R25). -/
inductive Cond where
  | eq | ne | lt | le | gt | ge | lo | ls | hi | hs | un | ord
  deriving DecidableEq, Repr

/-- Timeline counters, coded as R26. -/
inductive Ctr where
  | tla | tls | tlm | tlp | tli | tlc
  deriving DecidableEq, Repr

/-- Ordering scopes of scalar accesses and fences (R105, R116). -/
inductive Scope where
  | core | die | module
  deriving DecidableEq, Repr

/-- The engines of a core (R162): load side, store side, index engine, matrix engine (with the brim and the acceptance
unit) and predictor (with the rime engine). -/
inductive Eng where
  | load | store | index | matrix | pred
  deriving DecidableEq, Repr

/-- The two units whose results have fixed latency (R79, R89). -/
inductive FixUnit where
  | ctl | vec
  deriving DecidableEq, Repr

/-- A guard with E = 1: predicate G and sense S (R16). -/
structure GuardOn where
  p   : PReg
  inv : Bool
  deriving DecidableEq, Repr

/-- The guard of a word; `none` is E = 0. -/
abbrev Guard := Option GuardOn
/-- The wait token of a word; `none` is T = 0 (R17). -/
abbrev Token := Option (BitVec 3)

/-- Fields of a C3 word (R18). -/
structure C3 where
  g   : Guard
  tok : Token
  sd  : SReg
  sa  : SReg
  sb  : SReg
  sc  : SReg
  imm : BitVec 52
  deriving DecidableEq, Repr

/-- Fields of a CI word (R18). -/
structure CI where
  g   : Guard
  sd  : SReg
  sa  : SReg
  imm : Word
  deriving DecidableEq, Repr

/-- Fields of a CB word (R18): the condition, link or index register, and the offset or table address. -/
structure CB where
  g   : Guard
  r   : SReg
  off : Word
  deriving DecidableEq, Repr

/-- Fields of a V4 word (R18). `ty` is F64, code 0x00, in an untyped word (R120). -/
structure V4 where
  g    : Guard
  tok  : Token
  vd   : VReg
  va   : VReg
  vb   : VReg
  vc   : VReg
  ty   : ElemType
  rnd  : Rnd
  mods : BitVec 23
  deriving DecidableEq, Repr

/-- Fields of a VS word (R18, R20). -/
structure VS where
  g   : Guard
  vd  : VReg
  va  : VReg
  sa  : SReg
  imm : BitVec 48
  deriving DecidableEq, Repr

/-- Fields of a VM word (R18, R147). -/
structure VM where
  g    : Guard
  v    : VReg
  h    : Bool
  base : BitVec 6
  off  : BitVec 16
  mods : BitVec 42
  deriving DecidableEq, Repr

/-- Fields of an EM word (R18, R160). -/
structure EM where
  tok  : Token
  d    : DReg
  sa   : SReg
  sb   : SReg
  sc   : SReg
  ha   : HReg
  hb   : HReg
  hau  : Bool
  hbu  : Bool
  du   : Bool
  mode : BitVec 10
  imm  : BitVec 32
  deriving DecidableEq, Repr

/-- Fields of a PX word (R18, R157). -/
structure PX where
  count : BitVec 16
  k0    : BitVec 6
  k1    : BitVec 6
  k2    : BitVec 6
  k3    : BitVec 6
  deriving DecidableEq, Repr

/-- Trap classes (R85). -/
inductive TrapClass where
  | p | q | a | e
  deriving DecidableEq, Repr

/-- Trap causes (R85). -/
inductive CauseCode where
  | illegal | sect | allot | hovf | hund | segv | perm | resid | poison | misslim | slot
  | corr | pend | divz | fpx | group | timeout | timer | swtrap | dupw | remote | watch
  deriving DecidableEq, Repr

/-- What a trap records: the cause, its class and sub-code (R84), the EVENT and ADDR words of the frame (R89), and for
class A the engine's counter and the macro's number on it. -/
structure Cause where
  code   : CauseCode
  cls    : TrapClass
  detail : BitVec 8 := 0
  event  : Word := 0
  addr   : Word := 0
  eng    : Option Ctr := none
  num    : Nat := 0
  deriving DecidableEq, Repr

/-- A 32-byte continuation record, byte 0 in bits [7:0] (R282). -/
abbrev Rec := BitVec 256

/-- A segment-table entry: four 64-bit words (R304). -/
structure SegEntry where
  w0 : Word := 0
  w1 : Word := 0
  w2 : Word := 0
  w3 : Word := 0
  deriving DecidableEq, Repr

/-- The definition of a row-governed object in LOAD_SEGMENTS (R313). -/
structure ObjDef where
  obj     : Nat
  rows    : Nat
  rowb    : Nat
  homeCap : Bool
  place   : Nat
  gdie    : DieId
  stslots : Nat
  rsslots : Nat
  deriving DecidableEq, Repr

/-- Where a layer's backing bytes stand (R309): a physical address of the capacity tier, or another node with an address
there. -/
structure Backing where
  node : Option (BitVec 19)
  addr : Nat
  deriving DecidableEq, Repr

/-- The definition of a model context in LOAD_SEGMENTS (R309): its number, its layers in order (segment index and
backing) and its eviction class. -/
structure ModelDef where
  num    : Nat
  layers : List (Nat × Backing)
  cls    : Nat
  deriving DecidableEq, Repr

/-- A command's sender, its SEQ, the TAG of its flit, and whether a reserved field of it is not zero (R327, R331, R332). -/
structure HostCmd where
  src  : BitVec 19
  seq  : BitVec 32
  tag  : Word := 0
  resv : Bool := false
  deriving DecidableEq, Repr

/-- The value of SET_POLICY key 0x07: DUP, and the dies that hold copies (R308, R334). -/
structure DupPolicy where
  dup   : BitVec 2
  dhold : BitVec 4
  deriving DecidableEq, Repr

/-- A command whose OPC, selector or key is not listed, with its OPC (R331, R332). -/
structure StrayCmd where
  cmd : HostCmd
  opc : Byte
  deriving DecidableEq, Repr

/-- A row of a pseudo-channel of a stack (R346). -/
structure PcRow where
  pc  : Nat
  row : Nat
  deriving DecidableEq, Repr

/-- A fabric transaction as it arrives: the header fields of R327 and R328 that its type uses, and its data flits, one
row each. `addr` is the remote address, `mask` the sectors that are moved, `handler` and `prio` belong to PUTH, `atype` to
COLLECTIVE, and `aop` to `cmp` to ATOMIC. -/
structure Flit where
  src     : BitVec 19
  dst     : BitVec 19
  asid    : BitVec 12
  addr    : Word
  tag     : Word
  mask    : BitVec 8 := 0
  nrows   : Nat := 0
  prio    : BitVec 3 := 0
  handler : Word := 0
  atype   : BitVec 2 := 0
  aop     : BitVec 8 := 0
  size    : BitVec 8 := 0
  operand : Word := 0
  cmp     : Word := 0
  resv    : Bool := false
  rows    : List Row := []
  deriving DecidableEq, Repr

/-- The configuration record in the flash: its 112 bytes as R355 lays them out. -/
structure ConfigRecord where
  bytes : List Byte := []
  deriving DecidableEq, Repr

/-- A firmware image slot of the flash: its version, its bytes and its 64-byte signature (R355). -/
structure ImageSlot where
  ver   : BitVec 32
  bytes : List Byte
  sig   : List Byte
  deriving DecidableEq, Repr, Inhabited

/-- What bring-up finds (R353, R354): the error-corrected PUF response, or none where it cannot be read; whether the rail that is
switched on rises, and whether the PLL locks;
the physical cores whose logic or ports fail self-test, and the SRAM banks of cores that show an error (core and bank); the
banks of each die's shared memory that fail; whether every die-to-die link passes; the pseudo-channels that do not train
(stack and channel); and the ports that do not train. -/
structure BringUp where
  puf       : Option (List Byte)
  railOk    : Bool
  pllOk     : Bool
  badCores  : List Nat
  sramErrs  : List (Nat × Nat)
  badBanks  : List (Nat × Nat)
  linksOk   : Bool
  badPcs    : List (Nat × Nat)
  badPorts  : List Nat
  deriving DecidableEq, Repr

end Sys2Proof
end

