-- ==== Sys2Proof/Syntax.lean ====
section
/-! DEFINITION. The instruction set: one constructor per row of the table of operations and events. A word carries the record
of its format (R18); an event carries what comes with it from outside or says whose event it is. -/

namespace Sys2Proof

/-- One step of the device: an instruction word, or an event of the device, its firmware, its host or its surroundings. -/
inductive Instr where
  /-- Writes sa + sb, modulo 2^64, to sd. (R92) -/
  | add (o : C3)
  /-- Writes sa − sb to sd. (R92) -/
  | sub (o : C3)
  /-- Writes the low 64 bits of sa × sb to sd. (R92) -/
  | mul (o : C3)
  /-- Writes the high 64 bits of the signed 128-bit product to sd. (R92) -/
  | mulh (o : C3)
  /-- Writes the high 64 bits of the unsigned 128-bit product to sd. (R92) -/
  | mulhn (o : C3)
  /-- Writes the signed truncated quotient to sd after 20 clk, or raises DIVZ when sb is zero. (R96) -/
  | div (o : C3)
  /-- Writes the unsigned quotient to sd after 20 clk, or raises DIVZ when sb is zero. (R96) -/
  | divn (o : C3)
  /-- Writes the signed remainder to sd after 20 clk, or raises DIVZ when sb is zero. (R96) -/
  | rem (o : C3)
  /-- Writes the unsigned remainder to sd after 20 clk, or raises DIVZ when sb is zero. (R96) -/
  | remn (o : C3)
  /-- Writes the bitwise AND of sa and sb to sd. (R92) -/
  | and (o : C3)
  /-- Writes the bitwise OR of sa and sb to sd. (R92) -/
  | or (o : C3)
  /-- Writes the bitwise XOR of sa and sb to sd. (R92) -/
  | xor (o : C3)
  /-- Writes sa AND NOT sb to sd. (R92) -/
  | andn (o : C3)
  /-- Shifts sa left by a register or immediate amount. (R93) -/
  | shl (o : C3)
  /-- Shifts sa right arithmetically. (R93) -/
  | shra (o : C3)
  /-- Shifts sa right logically. (R93) -/
  | shrl (o : C3)
  /-- Rotates sa left. (R93) -/
  | rol (o : C3)
  /-- Counts the leading zero bits of sa. (R92) -/
  | clz (o : C3)
  /-- Counts the trailing zero bits of sa. (R92) -/
  | ctz (o : C3)
  /-- Counts the one bits of sa. (R92) -/
  | popc (o : C3)
  /-- Writes the signed minimum of sa and sb to sd. (R92) -/
  | min (o : C3)
  /-- Writes the signed maximum of sa and sb to sd. (R92) -/
  | max (o : C3)
  /-- Writes the unsigned minimum of sa and sb to sd. (R92) -/
  | minn (o : C3)
  /-- Writes the unsigned maximum of sa and sb to sd. (R92) -/
  | maxn (o : C3)
  /-- Writes sa to sd if sc is non-zero, and sb otherwise. (R92) -/
  | sel (o : C3)
  /-- Writes 1 to sd if the encoded condition holds, and 0 otherwise. (R95) -/
  | cmp (o : C3)
  /-- Extracts a bit field of sa, zero- or sign-extended. (R94) -/
  | extr (o : C3)
  /-- Writes sb with a bit field replaced by the low bits of sa. (R94) -/
  | ins (o : C3)
  /-- Writes sa plus a 64-bit immediate to sd. (R97) -/
  | addi (o : CI)
  /-- Writes a 64-bit immediate to sd. (R97) -/
  | li (o : CI)
  /-- Writes a 32-bit immediate into the high half of sd, keeping the low half of sa. (R97) -/
  | lih (o : CI)
  /-- Writes the address of the word plus an offset to sd. (R97) -/
  | lea (o : CI)
  /-- Branches to the section header at PC + offset. (R98) -/
  | br (o : CB)
  /-- Branches to PC + offset when the condition register is non-zero. (R98) -/
  | bc (o : CB)
  /-- Writes the next header's address to the link register and branches. (R98) -/
  | call (o : CB)
  /-- Branches to the header address held in sa. (R98) -/
  | ret (o : C3)
  /-- Reads a bounded jump table and branches to entry si, or continues when the index is out of bounds. (R100) -/
  | jtab (o : CB)
  /-- Branches to the fragment-table entry that FRAG selects. (R102) -/
  | jfrag (o : C3)
  /-- Waits for every operation of the thread, delivers pending faults, releases at module scope and frees the context slot. (R103) -/
  | done (o : C3)
  /-- Switches to another ready resident context of equal or higher priority, or does nothing. (R104) -/
  | yield (o : C3)
  /-- Loads 1 to 8 bytes from virtual or scratchpad memory into sd. (R107) -/
  | sld (o : C3)
  /-- Stores the low bytes of sb to virtual or scratchpad memory. (R108) -/
  | sst (o : C3)
  /-- Holds the control core until the named token counts are zero, then acquires. (R112) -/
  | await (o : C3)
  /-- Performs an indivisible read-compute-write at a die shared memory bank ALU and returns the old value. (R110) -/
  | amo (o : C3)
  /-- Performs an indivisible floating-point add at a die shared memory bank ALU. (R111) -/
  | amof (o : C3)
  /-- Reads a system register into sd. (R113) -/
  | mfs (o : C3)
  /-- Writes sa to a system register that has no write behaviour of its own, after checking its map. (R113) -/
  | mts (o : C3)
  /-- Writes TMR, starting the countdown or cancelling an undelivered TIMER. (R87) -/
  | mtsTmr (o : C3)
  /-- Writes SRSEED and reseeds the four stochastic-rounding generators in queue order. (R64) -/
  | mtsSrseed (o : C3)
  /-- Writes SEED and resets the sixteen rime generators in predictor push order. (R203) -/
  | mtsSeed (o : C3)
  /-- Writes the rotating-region size and sets RRB to 0. (R75) -/
  | mtsRotsz (o : C3)
  /-- Writes the rotating base in the control core's clock. (R75) -/
  | mtsRrb (o : C3)
  /-- Waits for users of the handle, then sets its geometry and empties the ring. (R237) -/
  | mtsHandleLow (o : C3)
  /-- Waits for users of the handle, then sets HEAD, TAIL and FILLED. (R237) -/
  | mtsHandleHigh (o : C3)
  /-- Writes FRAG when it executes, ordered against ACCEPT and FRAGSET completions. (R102) -/
  | mtsFrag (o : C3)
  /-- Writes word 3 of a segment entry to every die's copy as a module-scope release that translations read live. (R306) -/
  | mtsStw3 (o : C3)
  /-- Writes word 0, 1 or 2 of a segment entry, which takes effect after an SFLUSH. (R307) -/
  | mtsStw (o : C3)
  /-- Writes the row tier unit's configuration on every die, after the budget and range checks. (R315) -/
  | mtsHeatcfg (o : C3)
  /-- Raises SWTRAP with DETAIL n, resuming at the next header. (R114) -/
  | trap (o : C3)
  /-- Raises SWTRAP with DETAIL 0xFF. (R114) -/
  | brkpt (o : C3)
  /-- Waits for trap-mode words, then chains into a pending fault or validates the frame and resumes. (R90) -/
  | rtt (o : C3)
  /-- Holds the control core until earlier scalar accesses and acquired operations are performed at the scope. (R116) -/
  | fence (o : C3)
  /-- Discards stale translations and instruction-cache contents of an ASID on every core, then drains. (R117) -/
  | sflush (o : C3)
  /-- Completes the SFLUSH once every access translated before the discards has completed. (R117) -/
  | sflushDrainEnd (c : CoreId) (b : BankId)
  /-- Looks up a block in a software-managed cache and returns the slot, branching on a miss. (R118) -/
  | probe (o : C3)
  /-- Looks up a block, and on a miss tags a victim way and queues a fill before branching. (R118) -/
  | probeF (o : C3)
  /-- The last row of a PROBE fill lands and clears PENDING if the entry still holds the block. (R241) -/
  | probeFillLanding (c : CoreId) (b : BankId)
  /-- Occupies the issuing queue for n clk. (R13) -/
  | nop (o : C3)
  /-- Adds elements with one rounding. (R122) -/
  | vadd (o : V4)
  /-- Subtracts elements with one rounding. (R122) -/
  | vsub (o : V4)
  /-- Multiplies elements with one rounding. (R122) -/
  | vmul (o : V4)
  /-- Computes a × b + c with one rounding. (R122) -/
  | vfma (o : V4)
  /-- Computes a × b − c with one rounding. (R122) -/
  | vfms (o : V4)
  /-- Computes c − a × b with one rounding. (R122) -/
  | vfnma (o : V4)
  /-- Writes the smaller element. (R122) -/
  | vmin (o : V4)
  /-- Writes the larger element. (R122) -/
  | vmax (o : V4)
  /-- Clears the sign bit of each element. (R122) -/
  | vabs (o : V4)
  /-- Inverts the sign bit of each element. (R122) -/
  | vneg (o : V4)
  /-- Computes the correctly rounded reciprocal. (R122) -/
  | vrcp (o : V4)
  /-- Computes the correctly rounded reciprocal square root. (R122) -/
  | vrsq (o : V4)
  /-- Computes the correctly rounded 2^a. (R122) -/
  | vexp2 (o : V4)
  /-- Computes the correctly rounded log2 a. (R122) -/
  | vlog2 (o : V4)
  /-- Compares floating-point elements and writes predicate bits. (R124) -/
  | vcmp (o : V4)
  /-- Selects elements from va or vb by a predicate. (R125) -/
  | vsel (o : V4)
  /-- Adds integer elements, wrapping or saturating. (R126) -/
  | viadd (o : V4)
  /-- Subtracts integer elements. (R126) -/
  | visub (o : V4)
  /-- Multiplies integer elements. (R126) -/
  | vimul (o : V4)
  /-- Writes the upper half of each integer product. (R126) -/
  | vimulh (o : V4)
  /-- Computes a × b + c on integer elements. (R126) -/
  | vimad (o : V4)
  /-- Writes the integer minimum. (R126) -/
  | vimin (o : V4)
  /-- Writes the integer maximum. (R126) -/
  | vimax (o : V4)
  /-- Shifts integer elements left. (R126) -/
  | vishl (o : V4)
  /-- Shifts integer elements right. (R126) -/
  | vishr (o : V4)
  /-- Writes the absolute value of signed elements. (R126) -/
  | viabs (o : V4)
  /-- Clamps integer elements to B bits. (R126) -/
  | visat (o : V4)
  /-- Compares integer elements and writes predicate bits. (R127) -/
  | vicmp (o : V4)
  /-- Applies an 8-bit truth table bitwise to three registers. (R128) -/
  | vlop3 (o : V4)
  /-- Funnel-shifts left within each 32-bit element. (R129) -/
  | vfshl (o : V4)
  /-- Funnel-shifts right within each 32-bit element. (R129) -/
  | vfshr (o : V4)
  /-- Counts the one bits of each element. (R129) -/
  | vpopc (o : V4)
  /-- Counts the leading zero bits of each element. (R129) -/
  | vclz (o : V4)
  /-- Converts elements between types under RND and SAT. (R131) -/
  | vcvt (o : V4)
  /-- Narrows two registers of integers into one. (R132) -/
  | vpack (o : V4)
  /-- Widens one part of a register of integers. (R132) -/
  | vunpk (o : V4)
  /-- Quantises 32 F32 elements into DB8, DB4, I4 or N4. (R133) -/
  | vqnt (o : V4)
  /-- Dequantises a block or group into 32 F32 elements. (R134) -/
  | vdqnt (o : V4)
  /-- Permutes bytes from two registers by an index register. (R135) -/
  | vpermb (o : V4)
  /-- Permutes lanes from two registers by an index register. (R135) -/
  | vperml (o : V4)
  /-- Broadcasts a scalar or immediate into every active element. (R136) -/
  | vbcast (o : VS)
  /-- Rotates a register by m bytes. (R137) -/
  | vrot (o : V4)
  /-- Takes 128 bytes at offset m from two concatenated registers. (R137) -/
  | vrmrg (o : V4)
  /-- Inserts a scalar into one element. (R138) -/
  | vinsl (o : VS)
  /-- Extracts one element into a scalar register. (R138) -/
  | vextl (o : VS)
  /-- Writes its index into every active element. (R139) -/
  | viota (o : V4)
  /-- Sums the participating elements by a pairwise tree into element 0. (R140) -/
  | vrsum (o : V4)
  /-- Writes the maximum of the participating elements. (R140) -/
  | vrmax (o : V4)
  /-- Writes the minimum of the participating elements. (R140) -/
  | vrmin (o : V4)
  /-- Writes the best value and its index under the ranking of R70. (R140) -/
  | vrargmax (o : V4)
  /-- Computes an inclusive prefix sum over the elements. (R140) -/
  | vscan (o : V4)
  /-- Sorts 16 key-value pairs by a bitonic network. (R143) -/
  | vbsort (o : V4)
  /-- Merges two sorted pair registers into a register pair. (R143) -/
  | vbmerge (o : V4)
  /-- Performs one compare-exchange step on pairs. (R142) -/
  | vbstep (o : V4)
  /-- Merges two sorted pair registers and keeps the first 16 pairs. (R143) -/
  | vmergek (o : V4)
  /-- Intersects two sorted key sets, combining values. (R144) -/
  | visect (o : V4)
  /-- Unites two sorted key sets, combining values. (R144) -/
  | vunion (o : V4)
  /-- Clears an exact accumulator. (R145) -/
  | xclr (o : V4)
  /-- Adds participating F64 elements exactly into an accumulator. (R145) -/
  | xadd (o : V4)
  /-- Adds exact F64 products into an accumulator. (R145) -/
  | xacc (o : V4)
  /-- Rounds an exact accumulator once into element 0 of vd. (R67) -/
  | xrnd (o : V4)
  /-- Copies one exact accumulator to another. (R145) -/
  | xmov (o : V4)
  /-- Loads a scratchpad row, or half of one, into registers. (R148) -/
  | vld (o : VM)
  /-- Stores registers into a scratchpad row as one atomic write. (R148) -/
  | vst (o : VM)
  /-- Waits for a filled handle slot, then loads a row of it. (R149) -/
  | vldh (o : VM)
  /-- Waits for a free handle slot, then stores a row into it. (R149) -/
  | vsth (o : VM)
  /-- Advances the consumer side of a handle, freeing n slots. (R150) -/
  | hadvc (o : VM)
  /-- Waits for earlier stores, then advances the producer side of a handle with release. (R150) -/
  | hadvp (o : VM)
  /-- Replays a loop body once for every position of a descriptor's nest. (R154) -/
  | vloop (o : EM)
  /-- Ends the current loop when its guard passes. (R155) -/
  | vexit (o : V4)
  /-- Sets RRB in X-queue order. (R156) -/
  | rrbset (o : VS)
  /-- Issues the next vector word count times with strided register fields. (R157) -/
  | rep (o : PX)
  /-- ANDs two predicates. (R159) -/
  | pand (o : V4)
  /-- ORs two predicates. (R159) -/
  | por (o : V4)
  /-- XORs two predicates. (R159) -/
  | pxor (o : V4)
  /-- Inverts a predicate. (R159) -/
  | pnot (o : V4)
  /-- Copies a predicate. (R159) -/
  | pmov (o : V4)
  /-- Sets a predicate from an immediate or a scalar. (R159) -/
  | pset (o : VS)
  /-- Counts predicate bits into a scalar register. (R159) -/
  | ppopc (o : VS)
  /-- Moves rows from global memory into the scratchpad. (R169) -/
  | ldt (o : EM)
  /-- Moves rows from the scratchpad to global memory. (R169) -/
  | stt (o : EM)
  /-- Copies between scratchpad operands, converting formats. (R170) -/
  | cpy (o : EM)
  /-- Decodes source elements and adds them into accumulator rows in its port slot. (R171) -/
  | cpya (o : EM)
  /-- Fetches the listed rows of a row-governed object through the row tier unit. (R173) -/
  | rowg (o : EM)
  /-- Copies rows to every other member of a group and reports failed members. (R175) -/
  | mcast (o : EM)
  /-- Sends rows with a handler to a remote core's message region. (R176) -/
  | puth (o : EM)
  /-- Reads rows from a remote node into the scratchpad. (R169) -/
  | get (o : EM)
  /-- Writes rows from the scratchpad to a remote node. (R169) -/
  | put (o : EM)
  /-- Sends rows whose elements are added at the receiver's bank ALUs. (R330) -/
  | collectiveContribution (o : EM)
  /-- Writes a residency status word for an address range without faulting. (R174) -/
  | pft (o : EM)
  /-- Gathers indexed elements into the scratchpad. (R178) -/
  | ixg (o : EM)
  /-- Scatters elements to indexed places. (R178) -/
  | ixs (o : EM)
  /-- Scatter-adds elements at bank ALUs. (R178) -/
  | ixsa (o : EM)
  /-- Multiplies activation rows by scratchpad weights into accumulators. (R180) -/
  | mma (o : EM)
  /-- Streams weight rows once against up to 64 activation rows. (R180) -/
  | mmv (o : EM)
  /-- Runs gathered rows in neuron or output direction. (R181) -/
  | mmg (o : EM)
  /-- Computes masked attention scores into accumulators. (R184) -/
  | matt (o : EM)
  /-- Loads the context's mask parameter block. (R279) -/
  | mpbld (o : EM)
  /-- Clears accumulator rows to +0.0. (R185) -/
  | aclr (o : EM)
  /-- Drains accumulator rows through the brim program and encodes them. (R192) -/
  | adrain (o : EM)
  /-- Loads the brim program and its parameter row. (R187) -/
  | bset (o : EM)
  /-- Sets up brim state slots for sampling. (R191) -/
  | bsamp (o : EM)
  /-- Writes the state of brim slots to the scratchpad. (R193) -/
  | bread (o : EM)
  /-- Scores neurons with stochastic streams and writes the predicted list. (R195) -/
  | pred (o : EM)
  /-- Checks neurons against a sketch, writes the miss list and COUNT, and may raise MISSLIM or set FLAG. (R196) -/
  | pchk (o : EM)
  /-- Writes the predictor statistics counters and optionally clears them. (R197) -/
  | pstat (o : EM)
  /-- Accepts a path of the draft tree, writes the out row and FRAG, and commits the path to the ring. (R198) -/
  | accept (o : EM)
  /-- Writes FRAG at its completion. (R200) -/
  | fragset (o : EM)
  /-- Generates a fresh stream from a vector register. (R207) -/
  | sgen (o : V4)
  /-- ANDs two streams after the correlation check. (R208) -/
  | sand (o : V4)
  /-- XNORs two streams after the correlation check. (R208) -/
  | sxnor (o : V4)
  /-- ORs two streams. (R208) -/
  | sor (o : V4)
  /-- Inverts a stream. (R208) -/
  | snot (o : V4)
  /-- Multiplexes two streams by a select stream. (R208) -/
  | smux (o : V4)
  /-- Takes the bitwise majority of three streams. (R208) -/
  | smaj (o : V4)
  /-- Counts the ones of each stream lane into a vector register. (R209) -/
  | scnt (o : V4)
  /-- Converts a stream to binary values or raw bits in vector registers. (R209) -/
  | s2b (o : V4)
  /-- Regenerates a stream of the same value from a fresh class. (R210) -/
  | sregen (o : V4)
  /-- Changes a stream's length. (R210) -/
  | slen (o : V4)
  /-- Copies a stream with a new ancestor-class mask. (R210) -/
  | scls (o : V4)
  /-- Loads a stream from vector registers with a length and mask. (R210) -/
  | sclsV (o : V4)
  /-- Initialises a transaction barrier. (R213) -/
  | binit (o : C3)
  /-- Waits for room in the phase, then arrives with expected bytes and releases. (R214) -/
  | arrive (o : C3)
  /-- Waits for a barrier phase to complete, then acquires. (R216) -/
  | bwait (o : C3)
  /-- Waits until a timeline counter reaches n, then acquires. (R217) -/
  | twait (o : C3)
  /-- Returns the number of the most recent macro pushed on a counter. (R218) -/
  | tread (o : C3)
  /-- Adds a member to a group and returns its number. (R220) -/
  | join (o : C3)
  /-- Removes a member from a group, counting as its arrival. (R221) -/
  | leave (o : C3)
  /-- Arrives at a group barrier and waits for the phase to complete. (R222) -/
  | barg (o : C3)
  /-- Reads a continuation record and pushes it when its join counter is zero. (R224) -/
  | spawn (o : C3)
  /-- Decrements a join counter at a bank ALU and pushes the record on the last decrement. (R225) -/
  | jdec (o : C3)
  /-- The control core decodes and accepts a section header. (R32) -/
  | sectionDispatch (hdr : Word)
  /-- A named earlier section retires and the waiting section may issue with acquire. (R33) -/
  | backReferenceSatisfied
  /-- The control core pushes an L, X or S word into its queue, capturing its scalars. (R35) -/
  | wordPush (w : IWord)
  /-- An engine section retires when all its words have completed. (R32) -/
  | sectionRetirement (c : CoreId) (b : BankId) (k : Kind) (trapm : Bool)
  /-- A fixed-latency result lands at its destination. (R79) -/
  | resultLanding (c : CoreId) (b : BankId) (u : FixUnit)
  /-- A macro's writes land, its counter advances and its token count falls. (R163) -/
  | macroCompletion (c : CoreId) (b : BankId) (e : Eng)
  /-- TMR reaches zero and raises TIMER. (R87) -/
  | timerExpiry (c : CoreId) (b : BankId)
  /-- Latches in-flight results, writes the frame and enters TVEC in trap mode. (R88) -/
  | trapEntry (cause : Cause)
  /-- A PUT transaction's rows land at the receiver. (R259) -/
  | receivePut (t : Flit)
  /-- A receiver answers a GET with a PUT carrying RESP. (R327) -/
  | receiveGet (t : Flit)
  /-- A PUTH payload lands in the message region and a handler continuation is created. (R176) -/
  | receivePuth (t : Flit)
  /-- A host ATOMIC is performed at a bank and answered with the old value. (R328) -/
  | receiveAtomic (t : Flit)
  /-- Collective rows are added element by element at the receiver's bank ALUs. (R330) -/
  | receiveCollective (t : Flit)
  /-- An answer or refusal returns to the issuing macro. (R329) -/
  | receiveAnswer (tag : Word) (refused : Option Byte) (rows : List Row)
  /-- A flit of reserved TYPE is discarded and reported. (R327) -/
  | rxbad (src : BitVec 19) (code : Byte)
  /-- A COMMAND flit with an unknown OPC, or with an unlisted QUERY selector or SET_POLICY key, is answered BADCMD. (R332) -/
  | unknownCommand (h : StrayCmd)
  /-- A transaction with no answer within FTOUT faults with REMOTE. (R329) -/
  | fabricTimeout (tag : Word)
  /-- Retries refused as gang member not started pass FTOUT and raise TIMEOUT. (R339) -/
  | gangRetryTimeout (tag : Word)
  /-- ARMUS passes without GANG_GO; the slot is released and GANGEXP sent. (R338) -/
  | gangexp (gang : Nat)
  /-- Creates an empty locked segment table for an ASID. (R333) -/
  | createSpace (h : HostCmd) (asid : BitVec 12)
  /-- Writes entries, creates objects and model contexts, then flushes. (R313) -/
  | loadSegments (h : HostCmd) (asid : BitVec 12) (first : Nat) (es : List SegEntry) (os : List ObjDef) (ms : List ModelDef)
  /-- Copies a model context's absent layers in list order. (R310) -/
  | swapin (h : HostCmd) (m : Nat)
  /-- A layer's last byte lands and RES is set with release. (R310) -/
  | layerResident (m : Nat) (bytes : List Byte)
  /-- Clears RES of named layers, drains, and returns the space. (R312) -/
  | evict (h : HostCmd) (m : Nat) (layer : BitVec 16)
  /-- Pushes a host-supplied record on a named die. (R333) -/
  | launch (h : HostCmd) (d : DieId) (asid : BitVec 12) (r : Rec)
  /-- Reserves a context slot for a gang record. (R338) -/
  | gangArm (h : HostCmd) (gang : Nat) (asid : BitVec 12) (armus : BitVec 32) (r : Rec)
  /-- Dispatches an armed gang record at once. (R338) -/
  | gangGo (h : HostCmd) (gang : Nat)
  /-- Returns HEATST0 to HEATST3 of every die. (R335) -/
  | queryHeatStatistics (h : HostCmd)
  /-- Returns pool sizes and bytes placed. (R335) -/
  | queryPoolOccupancy (h : HostCmd)
  /-- Returns the loaded ASIDs. (R335) -/
  | queryLoadedSpaces (h : HostCmd)
  /-- Returns the event count and the last 16 events. (R335) -/
  | queryEventLog (h : HostCmd)
  /-- Returns the eight error counters. (R341) -/
  | queryErrorCounters (h : HostCmd)
  /-- Returns the device certificate. (R356) -/
  | queryCertificate (h : HostCmd)
  /-- Returns the sparing map. (R354) -/
  | querySparingMap (h : HostCmd)
  /-- Returns remaining spare pseudo-channels, repairs and failed devices. (R335) -/
  | queryMemorySpares (h : HostCmd)
  /-- Changes a core's message region once no allotment covers the affected banks. (R244) -/
  | setMsgn (h : HostCmd) (c : CoreId) (v : Word)
  /-- Sets the blocking threshold for context switches. (R334) -/
  | setBlkthr (h : HostCmd) (v : Word)
  /-- Sets the row tier configuration of every die. (R315) -/
  | setHeatcfg (h : HostCmd) (v : Word)
  /-- Enables or disables deep retention with DRIDLE. (R323) -/
  | setDeepRetention (h : HostCmd) (v : Word)
  /-- Sets the fabric timeout. (R334) -/
  | setFtout (h : HostCmd) (v : Word)
  /-- Sets the ageing interval of one priority level. (R290) -/
  | setAgeus (h : HostCmd) (p : BitVec 3) (v : Word)
  /-- Restores read duplication of a segment. (R308) -/
  | setDuplication (h : HostCmd) (asid : BitVec 12) (idx : Nat) (v : DupPolicy)
  /-- Sets an object's row-store budget, calving copies that no longer fit. (R320) -/
  | setRsslots (h : HostCmd) (obj : Nat) (slots : Nat)
  /-- Returns a signed measurement over a nonce. (R357) -/
  | attest (h : HostCmd) (nonce : List Byte)
  /-- Stops accepting launches and optionally answers once every context is done. (R333) -/
  | retire (h : HostCmd) (drain : Bool)
  /-- An idle slot takes work from its deque, the die ready queues or a victim, and dispatches it. (R293) -/
  | idleSlotDispatch (c : CoreId)
  /-- At a microsecond tick, raises aged queue entries and moves aged deque entries. (R290) -/
  | ageingTick
  /-- The core changes its active context on priority, BLKTHR, stall or DONE. (R296) -/
  | contextSwitch (c : CoreId)
  /-- An engine moves to another context's queue, latching vector results. (R298) -/
  | engineContextChange (c : CoreId) (e : Option Eng)
  /-- The queue unit parks a low-priority resident context to admit a higher entry. (R299) -/
  | park (d : DieId)
  /-- A parked context returns through the staging bank to an emptied bank. (R299) -/
  | parkedResume (c : CoreId)
  /-- A group watchdog expires and waiting threads receive TIMEOUT. (R223) -/
  | watchdogExpiry (pa : Nat)
  /-- A STALL-mode wait passes STALLUS and raises RESID. (R305) -/
  | stallLimitExpiry (c : CoreId) (b : BankId) (e : Option Eng)
  /-- A write from another die is applied to this die's view under the vector-clock rule. (R248) -/
  | writePropagation (k : Nat)
  /-- Firmware collapses a read-duplicated segment on a write and resumes the writer. (R308) -/
  | dupw (c : CoreId) (b : BankId) (e : Option Eng)
  /-- An idle stack die past DRIDLE has its contents moved and is powered off. (R323) -/
  | deepRetentionRetire (stack : Nat) (die : Nat)
  /-- The scrubber reads and conditionally rewrites an SRAM row. (R343) -/
  | scrubVisit (err : Bool)
  /-- A register parity error restores from the duplicate and reissues the word. (R344) -/
  | registerParityReplay (c : CoreId) (b : BankId) (dupBad : Bool)
  /-- An uncorrectable scratchpad or accumulator error marks the row poisoned. (R345) -/
  | scratchpadRowPoison (c : CoreId) (acc : Bool) (row : Nat)
  /-- A stack row reaching 8 corrected errors receives a soft post-package repair. (R346) -/
  | rowRepair (stack : Nat) (at_ : PcRow)
  /-- A worn pseudo-channel is retired to a spare and its segments migrated. (R346) -/
  | pseudoChannelSparing (stack : Nat) (pc : Nat)
  /-- A capacity device fails; a second failure moves every segment out of the package. (R347) -/
  | capacityDeviceFailure (pkg : Nat)
  /-- An uncorrectable read of a replicated segment is served from the replica and repaired. (R348) -/
  | replicaRead (asid : BitVec 12) (idx : Nat)
  /-- An uncorrectable read with no good copy poisons the segment and sends POISON once. (R349) -/
  | segmentPoisoning (asid : BitVec 12) (idx : Nat)
  /-- Firmware stops a failed core, replays or stops its contexts and spares it. (R350) -/
  | coreFailure (c : CoreId) (lost : List Nat)
  /-- A lane fails retraining and the port narrows. (R352) -/
  | lanedeg (port : Nat)
  /-- Runs the bring-up sequence to READY or FAILED. (R353) -/
  | powerOn (b : BringUp)
  /-- Power above PLIM or heat above 100 °C makes the die skip whole clocks. (R359) -/
  | thermalThrottle (watts : Nat) (temps : List Nat)
  /-- A sensor at 115 °C drops every rail but VAUX. (R359) -/
  | thermalShutdown (sensor : Nat) (temp : Nat)
  /-- Returns the module state and reason over the side-band. (R360) -/
  | readState
  /-- Returns the 32 sensor readings. (R360) -/
  | readTemperatures
  /-- Returns module power and throttling time. (R360) -/
  | readPower
  /-- Sets the power limit within 1,200 to 2,400 W. (R359) -/
  | setPlim (watts : Nat)
  /-- Restarts the module at step 1 of bring-up. (R360) -/
  | requestReset (b : BringUp)
  /-- A tagged or posted scalar access, AMO, AMOF, SPAWN or JDEC completes some time after issue: its result lands, its write becomes visible and its token count falls. (R77) -/
  | scalarAccessCompletion (c : CoreId) (b : BankId) (k : Nat)
  /-- The core finishes clearing the rows of an allotment that was freed last, so a dispatch waiting for those rows may proceed. (R232) -/
  | rowClearingDone (c : CoreId)
  /-- The nearer copy made by an accretion lands, and later fetches of the row are served from it. (R318) -/
  | accretionCopyLanded (obj : Nat) (row : Nat)
  /-- Removal of power makes the rails fall in the reverse of their rising order. (R358) -/
  | powerOff
  /-- Module power falls back within PLIM and every sensor reads 100 °C or below, so the die stops skipping clocks. (R359) -/
  | thermalThrottleEnd (watts : Nat) (temps : List Nat)
  deriving DecidableEq, Repr

end Sys2Proof
end

