-- ==== Sys2Proof/Decode.lean ====
section
/-! DEFINITION. Decoding of 96-bit instruction words (R15 to R26, R41, R43), total on any bits, with the checks that the word
alone decides (step 3 of R43), and after it the encoder written from the same tables. -/

namespace Sys2Proof

/-- Bits [lo + n − 1 : lo] of a bit vector. -/
abbrev fieldOf {w : Nat} (x : BitVec w) (lo n : Nat) : BitVec n := x.extractLsb' lo n

/-- A field as a number. -/
abbrev fieldNat {w : Nat} (x : BitVec w) (lo n : Nat) : Nat := (x.extractLsb' lo n).toNat

/-! ### Coded fields -/

/-- TYPE codes (R23). -/
def ElemType.ofCode : Nat → Option ElemType
  | 0x00 => some .f64 | 0x01 => some .f32 | 0x02 => some .bf16 | 0x03 => some .f16
  | 0x04 => some .e4m3 | 0x05 => some .e5m2 | 0x06 => some .f4 | 0x07 => some .db8 | 0x08 => some .db4
  | 0x10 => some .i64 | 0x11 => some .i32 | 0x12 => some .i16 | 0x13 => some .i8 | 0x14 => some .i4
  | 0x18 => some .n64 | 0x19 => some .n32 | 0x1A => some .n16 | 0x1B => some .n8 | 0x1C => some .n4
  | _ => none

def ElemType.code : ElemType → BitVec 6
  | .f64 => 0x00 | .f32 => 0x01 | .bf16 => 0x02 | .f16 => 0x03 | .e4m3 => 0x04 | .e5m2 => 0x05
  | .f4 => 0x06 | .db8 => 0x07 | .db4 => 0x08 | .i64 => 0x10 | .i32 => 0x11 | .i16 => 0x12
  | .i8 => 0x13 | .i4 => 0x14 | .n64 => 0x18 | .n32 => 0x19 | .n16 => 0x1A | .n8 => 0x1B | .n4 => 0x1C

/-- RND codes (R24). -/
def Rnd.ofCode : Nat → Option Rnd
  | 0 => some .rne | 1 => some .rtz | 2 => some .rdn | 3 => some .rup | 4 => some .rna | 5 => some .sr
  | _ => none

def Rnd.code : Rnd → BitVec 3
  | .rne => 0 | .rtz => 1 | .rdn => 2 | .rup => 3 | .rna => 4 | .sr => 5

/-- Condition codes (R25). -/
def Cond.ofCode : Nat → Option Cond
  | 0x0 => some .eq | 0x1 => some .ne | 0x2 => some .lt | 0x3 => some .le | 0x4 => some .gt | 0x5 => some .ge
  | 0x6 => some .lo | 0x7 => some .ls | 0x8 => some .hi | 0x9 => some .hs | 0xA => some .un | 0xB => some .ord
  | _ => none

def Cond.code : Cond → BitVec 4
  | .eq => 0x0 | .ne => 0x1 | .lt => 0x2 | .le => 0x3 | .gt => 0x4 | .ge => 0x5
  | .lo => 0x6 | .ls => 0x7 | .hi => 0x8 | .hs => 0x9 | .un => 0xA | .ord => 0xB

/-- Timeline codes (R26). -/
def Ctr.ofCode : Nat → Option Ctr
  | 0 => some .tla | 1 => some .tls | 2 => some .tlm | 3 => some .tlp | 4 => some .tli | 5 => some .tlc
  | _ => none

def Ctr.code : Ctr → BitVec 3
  | .tla => 0 | .tls => 1 | .tlm => 2 | .tlp => 3 | .tli => 4 | .tlc => 5

/-- KIND codes of a section header (R27). -/
def Kind.ofCode (k : BitVec 2) : Kind :=
  match k.toNat with
  | 0 => .c | 1 => .l | 2 => .x | _ => .s

def Kind.code : Kind → BitVec 2
  | .c => 0 | .l => 1 | .x => 2 | .s => 3

/-- Width in bits of one element (R47, R52, R55). -/
def ElemType.width : ElemType → Nat
  | .f64 | .i64 | .n64 => 64
  | .f32 | .i32 | .n32 => 32
  | .bf16 | .f16 | .i16 | .n16 => 16
  | .e4m3 | .e5m2 | .db8 | .i8 | .n8 => 8
  | .f4 | .db4 | .i4 | .n4 => 4

/-- F64, F32, BF16 and F16 (R122). -/
def ElemType.isFloat : ElemType → Bool
  | .f64 | .f32 | .bf16 | .f16 => true
  | _ => false

/-- The integer types of R126. -/
def ElemType.isInt : ElemType → Bool
  | .i64 | .i32 | .i16 | .i8 | .n64 | .n32 | .n16 | .n8 => true
  | _ => false

/-- Signed integer types (R55). -/
def ElemType.isSigned : ElemType → Bool
  | .i64 | .i32 | .i16 | .i8 | .i4 => true
  | _ => false

/-- All integer types, those of 4 bits among them (R55). -/
def ElemType.isAnyInt : ElemType → Bool
  | .i64 | .i32 | .i16 | .i8 | .i4 | .n64 | .n32 | .n16 | .n8 | .n4 => true
  | _ => false

/-- The block formats DB8 and DB4 (R52). -/
def ElemType.isDB : ElemType → Bool
  | .db8 | .db4 => true
  | _ => false

/-! ### The fields of the formats -/

/-- The guard fields E, G and S (R16): with E = 0, G and S must be zero. -/
def readGuard (w : IWord) : Option Guard :=
  if fieldOf w 85 1 = 1 then some (some ⟨fieldOf w 81 4, fieldOf w 80 1 = 1⟩)
  else if fieldOf w 80 5 = 0 then some none else none

/-- The token fields T and TOK (R17): with T = 0, TOK must be zero. -/
def readToken (w : IWord) : Option Token :=
  if fieldOf w 79 1 = 1 then some (some (fieldOf w 76 3))
  else if fieldOf w 76 3 = 0 then some none else none

/-- A format without a guard needs E, G and S zero (R16). -/
def readNoGuard (w : IWord) : Option Unit := if fieldOf w 80 6 = 0 then some () else none

/-- A format without a token needs T and TOK zero (R17). -/
def readNoToken (w : IWord) : Option Unit := if fieldOf w 76 4 = 0 then some () else none

def readC3 (w : IWord) : Option C3 := do
  let g ← readGuard w
  let tok ← readToken w
  pure ⟨g, tok, fieldOf w 70 6, fieldOf w 64 6, fieldOf w 58 6, fieldOf w 52 6, fieldOf w 0 52⟩

def readCI (w : IWord) : Option CI := do
  let g ← readGuard w
  let _ ← readNoToken w
  pure ⟨g, fieldOf w 70 6, fieldOf w 64 6, fieldOf w 0 64⟩

def readCB (w : IWord) : Option CB := do
  let g ← readGuard w
  let _ ← readNoToken w
  if fieldOf w 64 6 = 0 then pure ⟨g, fieldOf w 70 6, fieldOf w 0 64⟩ else none

def readV4 (w : IWord) : Option V4 := do
  let g ← readGuard w
  let tok ← readToken w
  let ty ← ElemType.ofCode (fieldNat w 26 6)
  let rnd ← Rnd.ofCode (fieldNat w 23 3)
  pure ⟨g, tok, fieldOf w 65 11, fieldOf w 54 11, fieldOf w 43 11, fieldOf w 32 11, ty, rnd, fieldOf w 0 23⟩

def readVS (w : IWord) : Option VS := do
  let g ← readGuard w
  let _ ← readNoToken w
  pure ⟨g, fieldOf w 65 11, fieldOf w 54 11, fieldOf w 48 6, fieldOf w 0 48⟩

def readVM (w : IWord) : Option VM := do
  let g ← readGuard w
  let _ ← readNoToken w
  pure ⟨g, fieldOf w 65 11, fieldOf w 64 1 = 1, fieldOf w 58 6, fieldOf w 42 16, fieldOf w 0 42⟩

def readEM (w : IWord) : Option EM := do
  let _ ← readNoGuard w
  let tok ← readToken w
  pure ⟨tok, fieldOf w 71 5, fieldOf w 65 6, fieldOf w 59 6, fieldOf w 53 6, fieldOf w 49 4, fieldOf w 45 4,
    fieldOf w 44 1 = 1, fieldOf w 43 1 = 1, fieldOf w 42 1 = 1, fieldOf w 32 10, fieldOf w 0 32⟩

def readPX (w : IWord) : Option PX := do
  let _ ← readNoGuard w
  let _ ← readNoToken w
  if fieldOf w 0 36 = 0 then pure ⟨fieldOf w 60 16, fieldOf w 54 6, fieldOf w 48 6, fieldOf w 42 6, fieldOf w 36 6⟩
  else none

/-- How an opcode makes an instruction from the fields of its format. -/
inductive Maker where
  | c3 (f : C3 → Instr)
  | ci (f : CI → Instr)
  | cb (f : CB → Instr)
  | v4 (f : V4 → Instr)
  | vs (f : VS → Instr)
  | vm (f : VM → Instr)
  | em (f : EM → Instr)
  | px (f : PX → Instr)

/-- The instruction a maker reads from a word; `none` where a field is malformed or a code reserved. -/
def Maker.read (w : IWord) : Maker → Option Instr
  | .c3 f => (readC3 w).map f
  | .ci f => (readCI w).map f
  | .cb f => (readCB w).map f
  | .v4 f => (readV4 w).map f
  | .vs f => (readVS w).map f
  | .vm f => (readVM w).map f
  | .em f => (readEM w).map f
  | .px f => (readPX w).map f

/-- The register number of MFS and MTS (R113). -/
def C3.sysNum (o : C3) : Nat := fieldNat o.imm 0 12

/-- MTS is one opcode; a register with a write behaviour of its own has an operation of its own (R72). -/
def mkMts (o : C3) : Instr :=
  let n := o.sysNum
  if n = 0x013 then .mtsTmr o
  else if n = 0x028 then .mtsSrseed o
  else if n = 0x029 then .mtsSeed o
  else if n = 0x021 then .mtsRotsz o
  else if n = 0x020 then .mtsRrb o
  else if n = 0x022 then .mtsFrag o
  else if n = 0x085 then .mtsStw3 o
  else if 0x082 ≤ n ∧ n ≤ 0x084 then .mtsStw o
  else if n = 0x038 then .mtsHeatcfg o
  else if 0x100 ≤ n ∧ n < 0x120 then (if n % 2 = 0 then .mtsHandleLow o else .mtsHandleHigh o)
  else .mts o

/-- PROBE with FILL is PROBE.F (R118). -/
def mkProbe (o : C3) : Instr := if fieldOf o.imm 32 1 = 1 then .probeF o else .probe o

/-- PUT with ADD is a collective contribution (R330). -/
def mkPut (o : EM) : Instr := if fieldOf o.mode 8 1 = 1 then .collectiveContribution o else .put o

/-- SCLS with V loads from vector registers (R206, R210). -/
def mkScls (o : V4) : Instr := if fieldOf o.mods 20 1 = 1 then .sclsV o else .scls o

/-- Opcode class 000 (R41). -/
def makersControl : List (Nat × Maker) := [
  (0x000, .c3 Instr.add), (0x001, .c3 Instr.sub), (0x002, .c3 Instr.mul), (0x003, .c3 Instr.mulh),
  (0x004, .c3 Instr.mulhn), (0x005, .c3 Instr.div), (0x006, .c3 Instr.divn), (0x007, .c3 Instr.rem),
  (0x008, .c3 Instr.remn), (0x009, .c3 Instr.and), (0x00A, .c3 Instr.or), (0x00B, .c3 Instr.xor),
  (0x00C, .c3 Instr.andn), (0x00D, .c3 Instr.shl), (0x00E, .c3 Instr.shra), (0x00F, .c3 Instr.shrl),
  (0x010, .c3 Instr.rol), (0x011, .c3 Instr.clz), (0x012, .c3 Instr.ctz), (0x013, .c3 Instr.popc),
  (0x014, .c3 Instr.min), (0x015, .c3 Instr.max), (0x016, .c3 Instr.minn), (0x017, .c3 Instr.maxn),
  (0x018, .c3 Instr.sel), (0x019, .c3 Instr.cmp), (0x01A, .c3 Instr.extr), (0x01B, .c3 Instr.ins),
  (0x020, .ci Instr.addi), (0x021, .ci Instr.li), (0x022, .ci Instr.lih), (0x023, .ci Instr.lea),
  (0x040, .cb Instr.br), (0x041, .cb Instr.bc), (0x042, .cb Instr.call), (0x043, .c3 Instr.ret),
  (0x044, .cb Instr.jtab), (0x045, .c3 Instr.jfrag), (0x046, .c3 Instr.done), (0x047, .c3 Instr.yield)]

/-- Opcode class 001 (R41). -/
def makersSystem : List (Nat × Maker) := [
  (0x080, .c3 Instr.sld), (0x081, .c3 Instr.sst), (0x082, .c3 Instr.await), (0x083, .c3 Instr.amo),
  (0x084, .c3 Instr.amof), (0x0A0, .c3 Instr.mfs), (0x0A1, .c3 mkMts), (0x0A2, .c3 Instr.trap),
  (0x0A7, .c3 Instr.brkpt), (0x0A3, .c3 Instr.rtt), (0x0A4, .c3 Instr.fence), (0x0A5, .c3 Instr.sflush),
  (0x0A6, .c3 mkProbe), (0x0A8, .c3 Instr.nop)]

/-- Opcode class 010 (R41). -/
def makersFloat : List (Nat × Maker) := [
  (0x100, .v4 Instr.vadd), (0x101, .v4 Instr.vsub), (0x102, .v4 Instr.vmul), (0x103, .v4 Instr.vfma),
  (0x104, .v4 Instr.vfms), (0x105, .v4 Instr.vfnma), (0x106, .v4 Instr.vmin), (0x107, .v4 Instr.vmax),
  (0x108, .v4 Instr.vabs), (0x109, .v4 Instr.vneg), (0x10A, .v4 Instr.vrcp), (0x10B, .v4 Instr.vrsq),
  (0x10C, .v4 Instr.vexp2), (0x10D, .v4 Instr.vlog2), (0x10E, .v4 Instr.vcmp), (0x10F, .v4 Instr.vsel)]

/-- Opcode class 011 (R41). -/
def makersVector : List (Nat × Maker) := [
  (0x180, .v4 Instr.viadd), (0x181, .v4 Instr.visub), (0x182, .v4 Instr.vimul), (0x183, .v4 Instr.vimulh),
  (0x184, .v4 Instr.vimad), (0x185, .v4 Instr.vimin), (0x186, .v4 Instr.vimax), (0x187, .v4 Instr.vishl),
  (0x188, .v4 Instr.vishr), (0x189, .v4 Instr.viabs), (0x18A, .v4 Instr.visat), (0x18B, .v4 Instr.vicmp),
  (0x190, .v4 Instr.vlop3), (0x191, .v4 Instr.vfshl), (0x192, .v4 Instr.vfshr), (0x193, .v4 Instr.vpopc),
  (0x194, .v4 Instr.vclz), (0x1A0, .v4 Instr.vcvt), (0x1A1, .v4 Instr.vpack), (0x1A2, .v4 Instr.vunpk),
  (0x1A3, .v4 Instr.vqnt), (0x1A4, .v4 Instr.vdqnt), (0x1B0, .v4 Instr.vpermb), (0x1B1, .v4 Instr.vperml),
  (0x1B2, .vs Instr.vbcast), (0x1B3, .v4 Instr.vrot), (0x1B4, .v4 Instr.vrmrg), (0x1B5, .vs Instr.vinsl),
  (0x1B6, .vs Instr.vextl), (0x1B7, .v4 Instr.viota), (0x1C0, .v4 Instr.vrsum), (0x1C1, .v4 Instr.vrmax),
  (0x1C2, .v4 Instr.vrmin), (0x1C3, .v4 Instr.vrargmax), (0x1C4, .v4 Instr.vscan), (0x1C8, .v4 Instr.vbsort),
  (0x1C9, .v4 Instr.vbmerge), (0x1CA, .v4 Instr.vbstep), (0x1CB, .v4 Instr.vmergek), (0x1CC, .v4 Instr.visect),
  (0x1CD, .v4 Instr.vunion), (0x1D0, .v4 Instr.xclr), (0x1D1, .v4 Instr.xadd), (0x1D2, .v4 Instr.xacc),
  (0x1D3, .v4 Instr.xrnd), (0x1D4, .v4 Instr.xmov), (0x1E0, .vm Instr.vld), (0x1E1, .vm Instr.vst),
  (0x1E2, .vm Instr.vldh), (0x1E3, .vm Instr.vsth), (0x1E4, .vm Instr.hadvc), (0x1E5, .vm Instr.hadvp),
  (0x1F0, .em Instr.vloop), (0x1F1, .v4 Instr.vexit), (0x1F2, .vs Instr.rrbset), (0x1F3, .px Instr.rep),
  (0x1F8, .v4 Instr.pand), (0x1F9, .v4 Instr.por), (0x1FA, .v4 Instr.pxor), (0x1FB, .v4 Instr.pnot),
  (0x1FC, .v4 Instr.pmov), (0x1FD, .vs Instr.pset), (0x1FE, .vs Instr.ppopc)]

/-- Opcode class 100 (R41). -/
def makersAccess : List (Nat × Maker) := [
  (0x200, .em Instr.ldt), (0x201, .em Instr.stt), (0x202, .em Instr.cpy), (0x203, .em Instr.cpya),
  (0x204, .em Instr.rowg), (0x205, .em Instr.mcast), (0x206, .em Instr.puth), (0x207, .em Instr.get),
  (0x208, .em mkPut), (0x209, .em Instr.pft), (0x20A, .em Instr.ixg), (0x20B, .em Instr.ixs), (0x20C, .em Instr.ixsa)]

/-- Opcode class 101 (R41). -/
def makersMatrix : List (Nat × Maker) := [
  (0x280, .em Instr.mma), (0x281, .em Instr.mmv), (0x282, .em Instr.mmg), (0x283, .em Instr.matt),
  (0x284, .em Instr.mpbld), (0x285, .em Instr.aclr), (0x286, .em Instr.adrain), (0x290, .em Instr.bset),
  (0x291, .em Instr.bsamp), (0x292, .em Instr.bread), (0x2A0, .em Instr.pred), (0x2A1, .em Instr.pchk),
  (0x2A2, .em Instr.pstat), (0x2B0, .em Instr.accept), (0x2B1, .em Instr.fragset)]

/-- Opcode class 110 (R41). -/
def makersSync : List (Nat × Maker) := [
  (0x300, .v4 Instr.sgen), (0x301, .v4 Instr.sand), (0x302, .v4 Instr.sxnor), (0x303, .v4 Instr.sor),
  (0x304, .v4 Instr.snot), (0x305, .v4 Instr.smux), (0x306, .v4 Instr.smaj), (0x307, .v4 Instr.scnt),
  (0x308, .v4 Instr.s2b), (0x309, .v4 Instr.sregen), (0x30A, .v4 Instr.slen), (0x30B, .v4 mkScls),
  (0x340, .c3 Instr.binit), (0x341, .c3 Instr.arrive), (0x342, .c3 Instr.bwait), (0x343, .c3 Instr.twait),
  (0x344, .c3 Instr.tread), (0x348, .c3 Instr.join), (0x349, .c3 Instr.leave), (0x34A, .c3 Instr.barg),
  (0x34B, .c3 Instr.spawn), (0x34C, .c3 Instr.jdec)]

/-- The opcode map: the maker of every assigned opcode (R41). -/
def makers : List (Nat × Maker) :=
  makersControl ++ makersSystem ++ makersFloat ++ makersVector ++ makersAccess ++ makersMatrix ++ makersSync

/-! ### Named fields of immediates and modifiers -/

/-- Shifts: I, the amount of an immediate shift (R93). -/
def C3.shI (o : C3) : Bool := fieldOf o.imm 6 1 = 1
def C3.shAmt (o : C3) : Nat := fieldNat o.imm 0 6
/-- EXTR and INS: POS, LEN and SX (R94). -/
def C3.pos (o : C3) : Nat := fieldNat o.imm 0 6
def C3.len (o : C3) : Nat := fieldNat o.imm 6 6 + 1
def C3.sx (o : C3) : Bool := fieldOf o.imm 12 1 = 1
/-- CMP: the condition code (R95). -/
def C3.ccCode (o : C3) : Nat := fieldNat o.imm 48 4
/-- Scalar memory: AOP, SP, SCOPE, ORD, SX, SIZE and OFFSET (R105). -/
def C3.aop (o : C3) : Nat := fieldNat o.imm 40 4
def C3.sp (o : C3) : Bool := fieldOf o.imm 39 1 = 1
def C3.scopeCode (o : C3) : Nat := fieldNat o.imm 37 2
def C3.acq (o : C3) : Bool := fieldOf o.imm 35 1 = 1
def C3.rel (o : C3) : Bool := fieldOf o.imm 36 1 = 1
def C3.msx (o : C3) : Bool := fieldOf o.imm 34 1 = 1
def C3.size (o : C3) : Nat := fieldNat o.imm 32 2
def C3.offset (o : C3) : Word := (fieldOf o.imm 0 32).signExtend 64
/-- FXT of the words of R122 (R123). -/
def V4.fxt (o : V4) : Bool := fieldOf o.mods 0 1 = 1
/-- SAT (R121). -/
def V4.sat (o : V4) : Bool := fieldOf o.mods 0 1 = 1
/-- VCMP and VICMP: condition and ELT (R124). -/
def V4.ccCode (o : V4) : Nat := fieldNat o.mods 19 4
def V4.elt (o : V4) : Nat := fieldNat o.mods 17 2
/-- IMM and the immediate amounts of shifts, funnel shifts and rotates (R126, R129, R137); B of VISAT. -/
def V4.immBit (o : V4) : Bool := fieldOf o.mods 1 1 = 1
def V4.amt6 (o : V4) : Nat := fieldNat o.mods 2 6
def V4.amt5 (o : V4) : Nat := fieldNat o.mods 2 5
def V4.amt7 (o : V4) : Nat := fieldNat o.mods 2 7
/-- VLOP3: the truth table (R128). -/
def V4.tt (o : V4) : BitVec 8 := fieldOf o.mods 15 8
/-- Conversions: SRC, PART and BANK (R130). -/
def V4.src (o : V4) : Option ElemType := ElemType.ofCode (fieldNat o.mods 17 6)
def V4.part (o : V4) : Nat := fieldNat o.mods 13 4
def V4.bank (o : V4) : Nat := fieldNat o.mods 8 5
/-- DESC, j and k of the sorting words (R142). -/
def V4.desc (o : V4) : Bool := fieldOf o.mods 0 1 = 1
def V4.stepJ (o : V4) : Nat := 2 ^ fieldNat o.mods 1 2
def V4.stepK (o : V4) : Nat := 2 ^ (fieldNat o.mods 3 2 + 1)
/-- COMB of the set words (R144). -/
def V4.comb (o : V4) : Nat := fieldNat o.mods 0 2
/-- LEN, CLS, BIP, HI or RAW, and MASK of the stream words (R206). -/
def V4.lenCode (o : V4) : BitVec 2 := fieldOf o.mods 21 2
def V4.clsNum (o : V4) : Nat := fieldNat o.mods 17 4
def V4.bip (o : V4) : Bool := fieldOf o.mods 16 1 = 1
def V4.hi (o : V4) : Bool := fieldOf o.mods 15 1 = 1
def V4.raw (o : V4) : Bool := fieldOf o.mods 15 1 = 1
def V4.mask (o : V4) : BitVec 16 := fieldOf o.mods 0 16
/-- VS words: the element type, the modifiers and the 32-bit immediate (R20). -/
def VS.ty (o : VS) : Option ElemType := ElemType.ofCode (fieldNat o.imm 42 6)
def VS.srcBit (o : VS) : Bool := fieldOf o.imm 32 1 = 1
def VS.imm32 (o : VS) : BitVec 32 := fieldOf o.imm 0 32
def VS.n12 (o : VS) : Nat := fieldNat o.imm 0 12
/-- VM words: SLOT, NEST, ROWSTEP, PART and the handle (R20, R147). -/
def VM.slot (o : VM) : Nat := fieldNat o.mods 24 8
def VM.nest (o : VM) : Bool := fieldOf o.mods 19 1 = 1
def VM.rowstep (o : VM) : BitVec 16 := fieldOf o.mods 3 16
def VM.part (o : VM) : Nat := fieldNat o.mods 0 2
def VM.handle (o : VM) : HReg := fieldOf o.base 0 4
/-- Macro fields (R160). -/
def EM.nrows (o : EM) : Nat := fieldNat o.imm 0 14
def EM.smask (o : EM) : BitVec 8 := fieldOf o.mode 0 8
def EM.bar (o : EM) : Bool := fieldOf o.mode 8 1 = 1
def EM.acc (o : EM) : Nat := fieldNat o.imm 0 9
def EM.n10 (o : EM) : Nat := fieldNat o.imm 9 10
def EM.slot (o : EM) : Nat := fieldNat o.mode 0 2
def EM.aslot (o : EM) : BitVec 4 := fieldOf o.mode 0 4
def EM.rho (o : EM) : Nat := fieldNat o.mode 4 6
def EM.crx (o : EM) : Bool := fieldOf o.mode 0 1 = 1
def EM.modeRows (o : EM) : Nat := o.mode.toNat + 1
def EM.castBar (o : EM) : Bool := fieldOf o.imm 0 1 = 1
def EM.barAddr (o : EM) : Nat := fieldNat o.imm 4 17 * 16
def EM.prio (o : EM) : BitVec 3 := fieldOf o.imm 0 3
def EM.k (o : EM) : Nat := fieldNat o.imm 16 16
def EM.mRows (o : EM) : Nat := fieldNat o.imm 9 7 + 1
def EM.b6 (o : EM) : Nat := fieldNat o.imm 9 6 + 1
def EM.dir (o : EM) : Bool := fieldOf o.imm 15 1 = 1
def EM.kc (o : EM) : Nat := 64 * 2 ^ fieldNat o.imm 24 2
def EM.msk (o : EM) : Bool := fieldOf o.imm 23 1 = 1
def EM.nk (o : EM) : Nat := fieldNat o.imm 15 8 + 1
def EM.nq (o : EM) : Nat := fieldNat o.imm 0 6 + 1
def EM.one (o : EM) : Bool := fieldOf o.imm 26 1 = 1
def EM.clr (o : EM) : Bool := fieldOf o.imm 25 1 = 1
def EM.state (o : EM) : Nat := fieldNat o.imm 19 6
def EM.possrc (o : EM) : Bool := fieldOf o.imm 19 1 = 1
def EM.kh (o : EM) : Nat := fieldNat o.imm 12 7
def EM.slots (o : EM) : Nat := fieldNat o.imm 6 6 + 1
def EM.first (o : EM) : Nat := fieldNat o.imm 0 6
def EM.nn (o : EM) : Nat := fieldNat o.imm 0 16
def EM.rk (o : EM) : Nat := fieldNat o.imm 16 6 + 1
def EM.pclr (o : EM) : Bool := fieldOf o.mode 0 1 = 1
def EM.nocommit (o : EM) : Bool := fieldOf o.imm 7 1 = 1
def EM.nodes (o : EM) : Nat := fieldNat o.imm 0 7
def EM.index (o : EM) : BitVec 6 := fieldOf o.imm 0 6
def EM.atype (o : EM) : BitVec 2 := fieldOf o.imm 16 2

/-! ### The checks of step 3 of R43 -/

/-- Register fields that are not used are zero (R19); a word outside the token list holds no token (R17). -/
def C3.uses (o : C3) (d a b c tok : Bool) (mask : BitVec 52) : Bool :=
  (d || o.sd == 0) && (a || o.sa == 0) && (b || o.sb == 0) && (c || o.sc == 0) && (tok || o.tok == none)
    && (o.imm &&& ~~~mask) == 0

def V4.uses (o : V4) (d a b c : Bool) (mask : BitVec 23) : Bool :=
  (d || o.vd == 0) && (a || o.va == 0) && (b || o.vb == 0) && (c || o.vc == 0) && o.tok == none
    && (o.mods &&& ~~~mask) == 0

/-- An untyped word holds TYPE 0x00 and does not round (R120). -/
def V4.untyped (o : V4) : Bool := o.ty == .f64 && o.rnd == .rne

/-- The words of R122 that use three, two or one sources. -/
def V4.arith (o : V4) (b c rounds : Bool) : Bool :=
  o.uses true true b c 1 && o.ty.isFloat && (rounds || o.rnd == .rne)

/-- The integer words (R126). -/
def V4.intOp (o : V4) (b c : Bool) (mask : BitVec 23) : Bool :=
  o.uses true true b c mask && o.ty.isInt && o.rnd == .rne

/-- The shift amount of VISHL and VISHR (R126). -/
def V4.shiftOk (o : V4) : Bool :=
  if o.immBit then o.vb == 0 && o.amt6 < o.ty.width else o.amt6 == 0

/-- ELT runs over the sub-elements of a lane (R124, R127). -/
def V4.eltOk (o : V4) : Bool :=
  o.elt == 0 || (o.ty.width == 16 && o.elt < 2) || (o.ty.width == 8)

/-- Conditions that VCMP and VICMP accept (R124, R127). -/
def V4.fcondOk (o : V4) : Bool := o.ccCode < 6 || o.ccCode == 10 || o.ccCode == 11
def V4.icondOk (o : V4) : Bool := o.ccCode < 10

/-- The source types of VCVT: every type of R23 but DB8 and DB4 (R131). -/
def V4.convOk (o : V4) (src : ElemType) : Bool :=
  o.part < max src.width o.ty.width / min src.width o.ty.width

def V4.cvtOk (o : V4) : Bool :=
  match o.src with
  | none => false
  | some src => o.uses true true false false 0x7FFF01 && !o.ty.isDB && !src.isDB && o.convOk src
      && (o.bank == 0 || src == .f4)

def V4.packOk (o : V4) : Bool :=
  match o.src with
  | none => false
  | some src => o.uses true true true false 0x7FFF01 && o.ty.isAnyInt && src.isAnyInt
      && src.width == 2 * o.ty.width && o.part == 0 && o.bank == 0 && o.rnd == .rne

def V4.unpkOk (o : V4) : Bool :=
  match o.src with
  | none => false
  | some src => o.uses true true false false 0x7FFF01 && o.ty.isAnyInt && src.isAnyInt
      && o.ty.width == 2 * src.width && o.convOk src && o.bank == 0 && o.rnd == .rne

def V4.qntOk (o : V4) : Bool :=
  o.uses true true (!o.ty.isDB) false 0x7FFF01 && o.src == some .f32 && o.bank == 0
    && ((o.ty.isDB && o.part == 0 && o.g == none) || ((o.ty == .i4 || o.ty == .n4) && o.part < 8))

def V4.dqntOk (o : V4) : Bool :=
  match o.src with
  | none => false
  | some src => o.uses true true (!src.isDB) false 0x7FFF01 && o.ty == .f32 && o.bank == 0 && o.rnd == .rne
      && ((src.isDB && o.part == 0) || ((src == .i4 || src == .n4) && o.part < 8))

/-- A field that names a predicate, an accumulator or a stream register uses its low bits only (R19). -/
def isPred (r : VReg) : Bool := r.toNat < 16
def isExact (r : VReg) : Bool := r.toNat < 4
def isStream (r : VReg) : Bool := r.toNat < 64

/-- Reductions (R140). -/
def V4.reduceOk (o : V4) (ints : Bool) : Bool :=
  o.uses true true false false 0 && o.rnd == .rne
    && (o.ty.isFloat || (ints && (o.ty == .i32 || o.ty == .i64 || o.ty == .n32 || o.ty == .n64)))

/-- Sorting and set words are unguarded (R141). -/
def V4.sortOk (o : V4) (b : Bool) (mask : BitVec 23) : Bool :=
  o.uses true true b false mask && o.g == none && o.rnd == .rne && (o.ty == .n32 || o.ty == .i32 || o.ty == .f32)

def V4.setOk (o : V4) : Bool :=
  o.uses true true true false 3 && o.g == none && o.rnd == .rne && o.ty == .n32

/-- Stream words are unguarded and may hold a token (R205, R206). -/
def V4.stream (o : V4) (a b c : Bool) (mask : BitVec 23) : Bool :=
  (a || o.va == 0) && (b || o.vb == 0) && (c || o.vc == 0) && o.g == none && o.rnd == .rne
    && (o.mods &&& ~~~mask) == 0

def V4.streamLogic (o : V4) (b c : Bool) : Bool :=
  o.stream true b c 0 && o.ty == .f64 && isStream o.vd && isStream o.va && isStream o.vb && isStream o.vc

/-- Predicate words (R159). -/
def V4.predOp (o : V4) (b : Bool) : Bool :=
  o.uses true true b false 0 && o.untyped && isPred o.vd && isPred o.va && isPred o.vb

def VS.typed (o : VS) : Bool := fieldOf o.imm 33 9 == 0

def VM.rowOk (o : VM) (h : Bool) : Bool :=
  o.h == h && (!h || o.base.toNat < 16) && o.part != 1 && fieldOf o.mods 2 1 == 0 && fieldOf o.mods 20 4 == 0
    && (h || o.slot == 0) && fieldOf o.mods 32 10 == 0

def VM.advOk (o : VM) : Bool :=
  o.h && o.base.toNat < 16 && o.v == 0 && o.mods == 0 && 1 ≤ o.off.toNat && o.off.toNat ≤ 256

/-- Macro words: which register, handle and descriptor fields the entry of R160 gives; a handle stands in place of its
scalar (R160, R161). -/
def EM.uses (o : EM) (a b c ha hb d : Bool) (mode : BitVec 10) (imm : BitVec 32) : Bool :=
  (if o.hau then ha && o.sa == 0 else o.ha == 0 && (a || o.sa == 0))
    && (if o.hbu then hb && o.sb == 0 else o.hb == 0 && (b || o.sb == 0))
    && (c || o.sc == 0) && (if o.du then d else o.d == 0)
    && (o.mode &&& ~~~mode) == 0 && (o.imm &&& ~~~imm) == 0

def EM.rowsOk (o : EM) : Bool :=
  if o.du then o.nrows == 0 else 1 ≤ o.nrows && o.nrows ≤ 8192

/-- The step codes of a brim program, in order, up to the first END (R187). -/
def EM.brimSteps (o : EM) : List Nat :=
  ((List.range 8).map fun i => fieldNat o.imm (4 * i) 4).takeWhile (· != 0)

/-- The program rule of R187. -/
def EM.brimOk (o : EM) : Bool :=
  let codes := (List.range 8).map fun i => fieldNat o.imm (4 * i) 4
  let steps := o.brimSteps
  codes.all (· < 13) && decide steps.Nodup && (codes.drop steps.length).all (· == 0)
    && !(steps.contains 7 && steps.contains 8)
    && (!steps.contains 12 || steps.getLast? == some 12)
    && (o.sa != 0 || !(steps.contains 1 || steps.contains 2 || steps.contains 4 || steps.contains 5))

/-- Step 3 of R43, as far as the word alone decides it: reserved fields, codes the instruction does not accept, and the
limits that its entry checks at decode. An event has no word and no such check. R206 gives S2B a BIP bit, and R209 gives its N16 form
and its RAW form no value with it: the word is ILLEGAL there (DESIGN CHOICE, log 75). -/
def Instr.fieldsOk : Instr → Bool
  | .add o | .sub o | .mul o | .mulh o | .mulhn o | .div o | .divn o | .rem o | .remn o | .and o | .or o | .xor o
  | .andn o | .min o | .max o | .minn o | .maxn o => o.uses true true true false false 0
  | .shl o | .shra o | .shrl o | .rol o =>
      o.uses true true true false false 0x7F && (if o.shI then o.sb == 0 else o.shAmt == 0)
  | .clz o | .ctz o | .popc o => o.uses true true false false false 0
  | .sel o => o.uses true true true true false 0
  | .cmp o => o.uses true true true false false 0xF000000000000 && o.ccCode < 10
  | .extr o => o.uses true true false false false 0x1FFF && o.pos + o.len ≤ 64
  | .ins o => o.uses true true true false false 0xFFF && o.pos + o.len ≤ 64
  | .addi _ => true
  | .li o | .lea o => o.sa == 0
  | .lih o => fieldOf o.imm 32 32 == 0
  | .br o => o.r == 0
  | .bc _ | .call _ => true
  | .ret o => o.uses false true false false false 0
  | .jtab o => fieldOf o.off 0 3 == 0
  | .jfrag o | .done o | .yield o | .rtt o => o.uses false false false false false 0
  | .sld o => o.uses true true false false true 0xFFFFFFFFFF && !o.rel && o.scopeCode < 3
      && (o.acq || o.scopeCode == 0) && !(o.acq && o.tok != none)
  | .sst o => o.uses false true true false true 0xFFFFFFFFFF && !o.acq && !o.msx && o.scopeCode < 3
      && (o.rel || o.scopeCode == 0)
  | .amo o => o.uses true true true (o.aop == 9) true 0xFFFFFFFFFFF && o.aop < 10 && !o.sp && !o.msx && 2 ≤ o.size
      && o.scopeCode < 3 && (o.acq || o.rel || o.scopeCode == 0) && !(o.acq && o.tok != none)
  | .amof o => o.uses true true true false true 0xFFFFFFFFFFF && o.aop < 2 && !o.sp && !o.msx && o.size == 0
      && o.scopeCode < 3 && (o.acq || o.rel || o.scopeCode == 0) && !(o.acq && o.tok != none)
  | .await o => o.uses false false false false false 0xFF && o.imm != 0
  | .mfs o => o.uses true false false false false 0xFFF
  | .mts o => o.uses false true false false false 0xFFF && mkMts o == .mts o
  | .mtsTmr o => o.uses false true false false false 0xFFF && mkMts o == .mtsTmr o
  | .mtsSrseed o => o.uses false true false false false 0xFFF && mkMts o == .mtsSrseed o
  | .mtsSeed o => o.uses false true false false false 0xFFF && mkMts o == .mtsSeed o
  | .mtsRotsz o => o.uses false true false false false 0xFFF && mkMts o == .mtsRotsz o
  | .mtsRrb o => o.uses false true false false false 0xFFF && mkMts o == .mtsRrb o
  | .mtsHandleLow o => o.uses false true false false false 0xFFF && mkMts o == .mtsHandleLow o
  | .mtsHandleHigh o => o.uses false true false false false 0xFFF && mkMts o == .mtsHandleHigh o
  | .mtsFrag o => o.uses false true false false false 0xFFF && mkMts o == .mtsFrag o
  | .mtsStw3 o => o.uses false true false false false 0xFFF && mkMts o == .mtsStw3 o
  | .mtsStw o => o.uses false true false false false 0xFFF && mkMts o == .mtsStw o
  | .mtsHeatcfg o => o.uses false true false false false 0xFFF && mkMts o == .mtsHeatcfg o
  | .trap o => o.uses false false false false false 0xFF && o.imm != 0xFF
  | .brkpt o => o.uses false false false false false 0xFF && o.imm == 0xFF
  | .fence o => o.uses false false false false false 3 && o.imm != 3
  | .sflush o => o.uses false true false false true 0
  | .probe o => o.uses true true true false false 0xFFFFFFFF
  | .probeF o => o.uses true true true false true 0x1FFFFFFFF && fieldOf o.imm 32 1 == 1
  | .nop o => o.uses false false false false false 0x3F
  | .vadd o | .vsub o | .vmul o => o.arith true false true
  | .vfma o | .vfms o | .vfnma o => o.arith true true true
  | .vmin o | .vmax o => o.arith true false false
  | .vabs o | .vneg o => o.arith false false false
  | .vrcp o | .vrsq o | .vexp2 o | .vlog2 o => o.arith false false true
  | .vcmp o => o.uses true true true false 0x7E0000 && o.ty.isFloat && o.rnd == .rne && isPred o.vd && o.eltOk
      && o.fcondOk
  | .vsel o => o.uses true true true true 0 && o.rnd == .rne && isPred o.vc
  | .viadd o | .visub o | .vimul o => o.intOp true false 1
  | .vimulh o | .vimin o | .vimax o => o.intOp true false 0
  | .vimad o => o.intOp true true 1
  | .vishl o => o.intOp true false 0xFF && o.shiftOk
  | .vishr o => o.intOp true false 0xFE && o.shiftOk
  | .viabs o => o.intOp false false 1 && o.ty.isSigned
  | .visat o => o.intOp false false 0xFC && o.amt6 < o.ty.width
  | .vicmp o => o.intOp true false 0x7E0000 && isPred o.vd && o.eltOk && o.icondOk
  | .vlop3 o => o.uses true true true true 0x7F8000 && o.untyped
  | .vfshl o | .vfshr o => o.uses true true true true 0x7E && o.untyped
      && (if o.immBit then o.vc == 0 else o.amt5 == 0)
  | .vpopc o | .vclz o => o.intOp false false 0
  | .vcvt o => o.cvtOk
  | .vpack o => o.packOk
  | .vunpk o => o.unpkOk
  | .vqnt o => o.qntOk
  | .vdqnt o => o.dqntOk
  | .vpermb o | .vperml o => o.uses true true true true 0 && o.untyped
  | .vbcast o => o.typed && o.va == 0 && (if o.srcBit then o.imm32 == 0 else o.sa == 0)
      && (match o.ty with | some t => !t.isDB | none => false)
  | .vrot o => o.uses true true false true 0x1FE && o.untyped && (if o.immBit then o.vc == 0 else o.amt7 == 0)
  | .vrmrg o => o.uses true true true true 0x1FE && o.untyped && (if o.immBit then o.vc == 0 else o.amt7 == 0)
  | .vinsl o => fieldOf o.imm 32 10 == 0 && o.va == 0
      && (match o.ty with | some t => 8 ≤ t.width && o.imm32.toNat < 1024 / t.width | none => false)
  | .vextl o => fieldOf o.imm 32 10 == 0 && o.vd == 0
      && (match o.ty with | some t => 8 ≤ t.width && o.imm32.toNat < 1024 / t.width | none => false)
  | .viota o => o.uses true false false false 0 && o.rnd == .rne && (o.ty.isInt || o.ty == .f32)
  | .vrsum o | .vscan o => o.reduceOk true
  | .vrmax o | .vrmin o | .vrargmax o => o.reduceOk false
  | .vbsort o => o.sortOk false 1
  | .vbmerge o | .vmergek o => o.sortOk true 1
  | .vbstep o => o.sortOk false 0x1F && o.stepJ < o.stepK
  | .visect o | .vunion o => o.setOk
  | .xclr o => o.uses true false false false 0 && o.untyped && isExact o.vd
  | .xadd o => o.uses true true false false 0 && o.untyped && isExact o.vd
  | .xacc o => o.uses true true true false 0 && o.untyped && isExact o.vd
  | .xrnd o => o.uses true true false false 0 && o.ty == .f64 && isExact o.va
  | .xmov o => o.uses true true false false 0 && o.untyped && isExact o.vd && isExact o.va
  | .vld o | .vst o => o.rowOk false
  | .vldh o | .vsth o => o.rowOk true
  | .hadvc o | .hadvp o => o.advOk
  | .vloop o => o.uses false false false false false true 0 0xFF && o.du && o.tok == none && 1 ≤ o.imm.toNat
      && o.imm.toNat ≤ 128
  | .vexit o => o.uses false false false false 0 && o.untyped
  | .rrbset o => o.vd == 0 && o.va == 0 && o.sa == 0 && fieldOf o.imm 12 36 == 0
  | .rep _ => true
  | .pand o | .por o | .pxor o => o.predOp true
  | .pnot o | .pmov o => o.predOp false
  | .pset o => isPred o.vd && o.va == 0 && fieldOf o.imm 33 15 == 0 && (if o.srcBit then o.imm32 == 0 else o.sa == 0)
  | .ppopc o => o.vd == 0 && isPred o.va && o.imm == 0
  | .ldt o => o.uses true true o.bar true false true 0x1FF 0x3FFF && o.rowsOk
  | .stt o => o.uses true true false false true true 0xFF 0x3FFF && o.rowsOk
  | .cpy o => o.uses true true o.bar true true false 0x100 0x3FFF && o.rowsOk
  | .cpya o => o.uses false true false false true false 3 0x7FFFF && 1 ≤ o.n10 && o.acc + o.n10 ≤ 512
  | .rowg o => o.uses true true true true false false 0x101 (if o.bar then 0x1FFFF0 else 0)
  | .mcast o => o.uses true true true false false false 0x3FF (if o.castBar then 0x1FFFF1 else 0)
  | .puth o => o.uses true true true false false false 0x3FF 7
  | .get o => o.uses true true true true false false 0xFF 0x3FFF && o.rowsOk
  | .put o => o.uses true true true false true false 0xFF 0x3FFF && o.rowsOk
  | .collectiveContribution o => o.uses true true true false true false 0x1FF 0x33FFF && o.rowsOk && o.bar
  | .pft o => o.uses true true false false false false 0 0xFFFFFFFF
  | .ixg o | .ixs o | .ixsa o => o.uses true false false false false false 0 0
  | .mma o => o.uses true true false false false false 0xF 0xFFFFFFFF && 1 ≤ o.k && o.acc + o.mRows ≤ 512
  | .mmv o => o.uses true true false false true false 0xF 0xFFFF7FFF && 1 ≤ o.k && o.acc + o.b6 ≤ 512
  | .mmg o => o.uses true true true false true false 0x3FF 0xFFFFFFFF && (if o.dir then o.k == 0 else 1 ≤ o.k)
      && o.acc + o.b6 ≤ 512
  | .matt o => o.uses true true true false true false 0x3FF 0x3FFFFFF && o.acc + o.b6 ≤ 512
  | .mpbld o => o.uses true false false false false false 0 0x3F
  | .aclr o => o.uses false false false false false false 0xF 0x7FFFF && 1 ≤ o.n10 && o.acc + o.n10 ≤ 512
  | .adrain o => o.uses true false true true false false 0xF 0x7FFFFFF && 1 ≤ o.n10 && o.acc + o.n10 ≤ 512
      && (o.one || o.state + o.n10 ≤ 64)
  | .bset o => o.uses true false false false false false 0 0xFFFFFFFF && o.brimOk
  | .bsamp o => o.uses true false false false false false 0 0xFFFFF && o.kh ≤ 64 && o.first + o.slots ≤ 64
  | .bread o => o.uses true false false false false false 0 0xFFF && o.first + o.slots ≤ 64
  | .pred o => o.uses true true true false false false 0 0xFFFF && 1 ≤ o.nn
  | .pchk o => o.uses true true true false false false 0 0x3FFFFF && 1 ≤ o.nn
  | .pstat o => o.uses true false false false false false 1 0
  | .accept o => o.uses true true true false false false 0 0xFF && 1 ≤ o.nodes && o.nodes ≤ 64
  | .fragset o => o.uses false false false false false false 0 0x3F
  | .sgen o => o.stream true false false 0x7F8000 && isStream o.vd
      && ((o.ty == .f32 && !o.hi) || (o.ty == .n16 && !o.bip))
  | .sand o | .sxnor o | .sor o => o.streamLogic true false
  | .snot o => o.streamLogic false false
  | .smux o | .smaj o => o.streamLogic true true
  | .scnt o => o.stream true false false 0 && o.ty == .n32 && isStream o.va
  | .s2b o => o.stream true false false 0x18000 && isStream o.va
      && (if o.raw then o.ty == .f64 && !o.bip else o.ty == .f32 || (o.ty == .n16 && !o.bip))
  | .sregen o => o.stream true false false 0x1E0000 && o.ty == .f64 && isStream o.vd && isStream o.va
  | .slen o => o.stream true false false 0x600000 && o.ty == .f64 && isStream o.vd && isStream o.va
  | .scls o => o.stream true false false 0xFFFF && o.ty == .f64 && isStream o.vd && isStream o.va
  | .sclsV o => o.stream true false false 0x70FFFF && o.ty == .f64 && isStream o.vd && fieldOf o.mods 20 1 == 1
  | .binit o => o.uses false true false false false 0xFFFFFFF && 1 ≤ o.imm.toNat && o.imm.toNat < 2 ^ 27
  | .arrive o | .leave o | .barg o => o.uses false true true false false 0
  | .bwait o => o.uses false true true false false 0x1F
      && (if fieldOf o.imm 4 1 == 1 then o.sb == 0 else fieldOf o.imm 0 4 == 0)
  | .twait o => o.uses false true false false false 7 && o.imm.toNat < 6
  | .tread o => o.uses true false false false false 7 && o.imm.toNat < 6
  | .join o => o.uses true true false false false 0
  | .spawn o => o.uses false true false false true 0
  | .jdec o => o.uses true true false false true 0
  | .sflushDrainEnd _ _ | .probeFillLanding _ _ | .sectionDispatch _ | .backReferenceSatisfied | .wordPush _
  | .sectionRetirement _ _ _ _ | .resultLanding _ _ _ | .macroCompletion _ _ _ | .timerExpiry _ _ | .trapEntry _
  | .idleSlotDispatch _ | .ageingTick | .contextSwitch _ | .engineContextChange _ _ | .park _ | .parkedResume _
  | .watchdogExpiry _ | .stallLimitExpiry _ _ _ | .writePropagation _ | .dupw _ _ _ | .receivePut _ | .receiveGet _
  | .receivePuth _ | .receiveAtomic _ | .receiveCollective _ | .receiveAnswer _ _ _ | .rxbad _ _ | .fabricTimeout _
  | .gangRetryTimeout _ | .gangexp _ | .createSpace _ _ | .loadSegments _ _ _ _ _ _ | .swapin _ _
  | .layerResident _ _ | .evict _ _ _ | .launch _ _ _ _ | .gangArm _ _ _ _ _ | .gangGo _ _ | .queryHeatStatistics _
  | .queryPoolOccupancy _ | .queryLoadedSpaces _ | .queryEventLog _ | .queryErrorCounters _ | .queryCertificate _
  | .querySparingMap _ | .queryMemorySpares _ | .setMsgn _ _ _ | .setBlkthr _ _ | .setHeatcfg _ _
  | .setDeepRetention _ _ | .setFtout _ _ | .setAgeus _ _ _ | .setDuplication _ _ _ _ | .setRsslots _ _ _
  | .attest _ _ | .retire _ _ | .deepRetentionRetire _ _ | .scrubVisit _ | .registerParityReplay _ _ _
  | .scratchpadRowPoison _ _ _ | .rowRepair _ _ | .pseudoChannelSparing _ _ | .capacityDeviceFailure _
  | .replicaRead _ _ | .segmentPoisoning _ _ | .coreFailure _ _ | .lanedeg _ | .powerOn _ | .thermalThrottle _ _
  | .thermalShutdown _ _ | .readState | .readTemperatures | .readPower | .setPlim _ | .requestReset _
  | .scalarAccessCompletion _ _ _ | .rowClearingDone _ | .accretionCopyLanded _ _ | .powerOff
  | .thermalThrottleEnd _ _ | .unknownCommand _ => true

/-! ### Section kinds -/

/-- The section kinds that an opcode is permitted in (R41). -/
def opKinds (op : Nat) : List Kind :=
  if op = 0x0A8 ∨ (0x341 ≤ op ∧ op ≤ 0x343) then [.c, .l, .x, .s]
  else if op < 0x100 then [.c]
  else if op < 0x200 then [.x]
  else if op = 0x202 then [.l, .s]
  else if op = 0x201 ∨ op = 0x205 ∨ op = 0x206 ∨ op = 0x208 ∨ op = 0x20B ∨ op = 0x20C then [.s]
  else if op < 0x280 then [.l]
  else if op < 0x340 then [.x]
  else [.c]

/-! ### Decoding -/

/-- OP, bits [95:86] (R15). -/
def opOf (w : IWord) : Nat := fieldNat w 86 10

/-- The word's instruction before the checks of step 3 that need its entry. -/
def decodeRaw (w : IWord) : Option Instr := (makers.lookup (opOf w)).bind (Maker.read w)

/-- The instruction a word holds; `none` where R43 raises ILLEGAL in step 1 or in the part of step 3 that the word alone
decides. -/
def decode (w : IWord) : Option Instr := (decodeRaw w).filter Instr.fieldsOk

/-- Steps 1 to 3 of R43 in a section of kind `k`, in their order. -/
def decodeIn (k : Kind) (w : IWord) : Except CauseCode Instr :=
  match makers.lookup (opOf w) with
  | none => .error .illegal
  | some _ =>
    if (opKinds (opOf w)).contains k then
      match decode w with
      | some i => .ok i
      | none => .error .illegal
    else .error .sect

/-- The twelve bytes of a word, least significant first (R15). -/
def wordBytes (w : IWord) : List Byte := (List.range 12).map fun i => fieldOf w (8 * i) 8

/-- A word from its bytes, least significant first; bytes that are missing are zero. -/
def ofBytes (n : Nat) (bs : List Byte) : BitVec n :=
  BitVec.ofNat n (bs.foldr (fun b acc => acc * 256 + b.toNat) 0)

/-- The instruction that twelve bytes hold (R15). -/
def decodeBytes (bs : List Byte) : Option Instr := decode (ofBytes 96 bs)

/-- The decoder on a word whose low `nbits` bits are given, as the table numbers them; every bit above them is zero. -/
def decodeTableWord (nbits w : Nat) : Option Instr :=
  decodeBytes (wordBytes (BitVec.ofNat 96 (w % 2 ^ min nbits 96)))

/-! ### Section headers (R27) -/

/-- The fields of a section header. -/
structure Header where
  kind  : Kind
  len   : Nat
  depA  : Nat
  depB  : Nat
  depC  : Nat
  trapm : Bool
  deriving DecidableEq, Repr

/-- A header, or ILLEGAL where LEN is 0 or bit [0] is set (R28). -/
def decodeHeader (h : Word) : Option Header :=
  if fieldOf h 0 1 = 0 ∧ fieldNat h 50 12 ≠ 0 then
    some ⟨Kind.ofCode (fieldOf h 62 2), fieldNat h 50 12, fieldNat h 34 16, fieldNat h 18 16, fieldNat h 2 16,
      fieldOf h 1 1 = 1⟩
  else none

/-- The kinds that DEP_A, DEP_B and DEP_C name (R27). -/
def Kind.others : Kind → Kind × Kind × Kind
  | .c => (.l, .x, .s)
  | .l => (.c, .x, .s)
  | .x => (.c, .l, .s)
  | .s => (.c, .l, .x)

/-- The 64 bits of a header. -/
def encodeHeader (h : Header) : Word :=
  h.kind.code ++ BitVec.ofNat 12 h.len ++ BitVec.ofNat 16 h.depA ++ BitVec.ofNat 16 h.depB ++ BitVec.ofNat 16 h.depC
    ++ BitVec.ofBool h.trapm ++ 0#1

/-! ### The encoder -/

def encGuard : Guard → BitVec 6
  | none => 0
  | some g => 1#1 ++ g.p ++ BitVec.ofBool g.inv

def encToken : Token → BitVec 4
  | none => 0
  | some t => 1#1 ++ t

def encC3 (op : BitVec 10) (o : C3) : IWord :=
  op ++ encGuard o.g ++ encToken o.tok ++ o.sd ++ o.sa ++ o.sb ++ o.sc ++ o.imm

def encCI (op : BitVec 10) (o : CI) : IWord := op ++ encGuard o.g ++ 0#4 ++ o.sd ++ o.sa ++ o.imm

def encCB (op : BitVec 10) (o : CB) : IWord := op ++ encGuard o.g ++ 0#4 ++ o.r ++ 0#6 ++ o.off

def encV4 (op : BitVec 10) (o : V4) : IWord :=
  op ++ encGuard o.g ++ encToken o.tok ++ o.vd ++ o.va ++ o.vb ++ o.vc ++ o.ty.code ++ o.rnd.code ++ o.mods

def encVS (op : BitVec 10) (o : VS) : IWord := op ++ encGuard o.g ++ 0#4 ++ o.vd ++ o.va ++ o.sa ++ o.imm

def encVM (op : BitVec 10) (o : VM) : IWord :=
  op ++ encGuard o.g ++ 0#4 ++ o.v ++ BitVec.ofBool o.h ++ o.base ++ o.off ++ o.mods

def encEM (op : BitVec 10) (o : EM) : IWord :=
  op ++ 0#6 ++ encToken o.tok ++ o.d ++ o.sa ++ o.sb ++ o.sc ++ o.ha ++ o.hb ++ BitVec.ofBool o.hau
    ++ BitVec.ofBool o.hbu ++ BitVec.ofBool o.du ++ o.mode ++ o.imm

def encPX (op : BitVec 10) (o : PX) : IWord :=
  op ++ 0#6 ++ 0#4 ++ o.count ++ o.k0 ++ o.k1 ++ o.k2 ++ o.k3 ++ 0#36

/-- The 96 bits of an instruction word, written from the formats of R18 and the opcode map of R41. An event has no word. -/
def encode : Instr → Option IWord
  | .add o => some (encC3 0x000 o)
  | .sub o => some (encC3 0x001 o)
  | .mul o => some (encC3 0x002 o)
  | .mulh o => some (encC3 0x003 o)
  | .mulhn o => some (encC3 0x004 o)
  | .div o => some (encC3 0x005 o)
  | .divn o => some (encC3 0x006 o)
  | .rem o => some (encC3 0x007 o)
  | .remn o => some (encC3 0x008 o)
  | .and o => some (encC3 0x009 o)
  | .or o => some (encC3 0x00A o)
  | .xor o => some (encC3 0x00B o)
  | .andn o => some (encC3 0x00C o)
  | .shl o => some (encC3 0x00D o)
  | .shra o => some (encC3 0x00E o)
  | .shrl o => some (encC3 0x00F o)
  | .rol o => some (encC3 0x010 o)
  | .clz o => some (encC3 0x011 o)
  | .ctz o => some (encC3 0x012 o)
  | .popc o => some (encC3 0x013 o)
  | .min o => some (encC3 0x014 o)
  | .max o => some (encC3 0x015 o)
  | .minn o => some (encC3 0x016 o)
  | .maxn o => some (encC3 0x017 o)
  | .sel o => some (encC3 0x018 o)
  | .cmp o => some (encC3 0x019 o)
  | .extr o => some (encC3 0x01A o)
  | .ins o => some (encC3 0x01B o)
  | .addi o => some (encCI 0x020 o)
  | .li o => some (encCI 0x021 o)
  | .lih o => some (encCI 0x022 o)
  | .lea o => some (encCI 0x023 o)
  | .br o => some (encCB 0x040 o)
  | .bc o => some (encCB 0x041 o)
  | .call o => some (encCB 0x042 o)
  | .ret o => some (encC3 0x043 o)
  | .jtab o => some (encCB 0x044 o)
  | .jfrag o => some (encC3 0x045 o)
  | .done o => some (encC3 0x046 o)
  | .yield o => some (encC3 0x047 o)
  | .sld o => some (encC3 0x080 o)
  | .sst o => some (encC3 0x081 o)
  | .await o => some (encC3 0x082 o)
  | .amo o => some (encC3 0x083 o)
  | .amof o => some (encC3 0x084 o)
  | .mfs o => some (encC3 0x0A0 o)
  | .mts o => some (encC3 0x0A1 o)
  | .mtsTmr o => some (encC3 0x0A1 o)
  | .mtsSrseed o => some (encC3 0x0A1 o)
  | .mtsSeed o => some (encC3 0x0A1 o)
  | .mtsRotsz o => some (encC3 0x0A1 o)
  | .mtsRrb o => some (encC3 0x0A1 o)
  | .mtsHandleLow o => some (encC3 0x0A1 o)
  | .mtsHandleHigh o => some (encC3 0x0A1 o)
  | .mtsFrag o => some (encC3 0x0A1 o)
  | .mtsStw3 o => some (encC3 0x0A1 o)
  | .mtsStw o => some (encC3 0x0A1 o)
  | .mtsHeatcfg o => some (encC3 0x0A1 o)
  | .trap o => some (encC3 0x0A2 o)
  | .brkpt o => some (encC3 0x0A7 o)
  | .rtt o => some (encC3 0x0A3 o)
  | .fence o => some (encC3 0x0A4 o)
  | .sflush o => some (encC3 0x0A5 o)
  | .sflushDrainEnd _ _ => none
  | .probe o => some (encC3 0x0A6 o)
  | .probeF o => some (encC3 0x0A6 o)
  | .probeFillLanding _ _ => none
  | .nop o => some (encC3 0x0A8 o)
  | .vadd o => some (encV4 0x100 o)
  | .vsub o => some (encV4 0x101 o)
  | .vmul o => some (encV4 0x102 o)
  | .vfma o => some (encV4 0x103 o)
  | .vfms o => some (encV4 0x104 o)
  | .vfnma o => some (encV4 0x105 o)
  | .vmin o => some (encV4 0x106 o)
  | .vmax o => some (encV4 0x107 o)
  | .vabs o => some (encV4 0x108 o)
  | .vneg o => some (encV4 0x109 o)
  | .vrcp o => some (encV4 0x10A o)
  | .vrsq o => some (encV4 0x10B o)
  | .vexp2 o => some (encV4 0x10C o)
  | .vlog2 o => some (encV4 0x10D o)
  | .vcmp o => some (encV4 0x10E o)
  | .vsel o => some (encV4 0x10F o)
  | .viadd o => some (encV4 0x180 o)
  | .visub o => some (encV4 0x181 o)
  | .vimul o => some (encV4 0x182 o)
  | .vimulh o => some (encV4 0x183 o)
  | .vimad o => some (encV4 0x184 o)
  | .vimin o => some (encV4 0x185 o)
  | .vimax o => some (encV4 0x186 o)
  | .vishl o => some (encV4 0x187 o)
  | .vishr o => some (encV4 0x188 o)
  | .viabs o => some (encV4 0x189 o)
  | .visat o => some (encV4 0x18A o)
  | .vicmp o => some (encV4 0x18B o)
  | .vlop3 o => some (encV4 0x190 o)
  | .vfshl o => some (encV4 0x191 o)
  | .vfshr o => some (encV4 0x192 o)
  | .vpopc o => some (encV4 0x193 o)
  | .vclz o => some (encV4 0x194 o)
  | .vcvt o => some (encV4 0x1A0 o)
  | .vpack o => some (encV4 0x1A1 o)
  | .vunpk o => some (encV4 0x1A2 o)
  | .vqnt o => some (encV4 0x1A3 o)
  | .vdqnt o => some (encV4 0x1A4 o)
  | .vpermb o => some (encV4 0x1B0 o)
  | .vperml o => some (encV4 0x1B1 o)
  | .vbcast o => some (encVS 0x1B2 o)
  | .vrot o => some (encV4 0x1B3 o)
  | .vrmrg o => some (encV4 0x1B4 o)
  | .vinsl o => some (encVS 0x1B5 o)
  | .vextl o => some (encVS 0x1B6 o)
  | .viota o => some (encV4 0x1B7 o)
  | .vrsum o => some (encV4 0x1C0 o)
  | .vrmax o => some (encV4 0x1C1 o)
  | .vrmin o => some (encV4 0x1C2 o)
  | .vrargmax o => some (encV4 0x1C3 o)
  | .vscan o => some (encV4 0x1C4 o)
  | .vbsort o => some (encV4 0x1C8 o)
  | .vbmerge o => some (encV4 0x1C9 o)
  | .vbstep o => some (encV4 0x1CA o)
  | .vmergek o => some (encV4 0x1CB o)
  | .visect o => some (encV4 0x1CC o)
  | .vunion o => some (encV4 0x1CD o)
  | .xclr o => some (encV4 0x1D0 o)
  | .xadd o => some (encV4 0x1D1 o)
  | .xacc o => some (encV4 0x1D2 o)
  | .xrnd o => some (encV4 0x1D3 o)
  | .xmov o => some (encV4 0x1D4 o)
  | .vld o => some (encVM 0x1E0 o)
  | .vst o => some (encVM 0x1E1 o)
  | .vldh o => some (encVM 0x1E2 o)
  | .vsth o => some (encVM 0x1E3 o)
  | .hadvc o => some (encVM 0x1E4 o)
  | .hadvp o => some (encVM 0x1E5 o)
  | .vloop o => some (encEM 0x1F0 o)
  | .vexit o => some (encV4 0x1F1 o)
  | .rrbset o => some (encVS 0x1F2 o)
  | .rep o => some (encPX 0x1F3 o)
  | .pand o => some (encV4 0x1F8 o)
  | .por o => some (encV4 0x1F9 o)
  | .pxor o => some (encV4 0x1FA o)
  | .pnot o => some (encV4 0x1FB o)
  | .pmov o => some (encV4 0x1FC o)
  | .pset o => some (encVS 0x1FD o)
  | .ppopc o => some (encVS 0x1FE o)
  | .ldt o => some (encEM 0x200 o)
  | .stt o => some (encEM 0x201 o)
  | .cpy o => some (encEM 0x202 o)
  | .cpya o => some (encEM 0x203 o)
  | .rowg o => some (encEM 0x204 o)
  | .mcast o => some (encEM 0x205 o)
  | .puth o => some (encEM 0x206 o)
  | .get o => some (encEM 0x207 o)
  | .put o => some (encEM 0x208 o)
  | .collectiveContribution o => some (encEM 0x208 o)
  | .pft o => some (encEM 0x209 o)
  | .ixg o => some (encEM 0x20A o)
  | .ixs o => some (encEM 0x20B o)
  | .ixsa o => some (encEM 0x20C o)
  | .mma o => some (encEM 0x280 o)
  | .mmv o => some (encEM 0x281 o)
  | .mmg o => some (encEM 0x282 o)
  | .matt o => some (encEM 0x283 o)
  | .mpbld o => some (encEM 0x284 o)
  | .aclr o => some (encEM 0x285 o)
  | .adrain o => some (encEM 0x286 o)
  | .bset o => some (encEM 0x290 o)
  | .bsamp o => some (encEM 0x291 o)
  | .bread o => some (encEM 0x292 o)
  | .pred o => some (encEM 0x2A0 o)
  | .pchk o => some (encEM 0x2A1 o)
  | .pstat o => some (encEM 0x2A2 o)
  | .accept o => some (encEM 0x2B0 o)
  | .fragset o => some (encEM 0x2B1 o)
  | .sgen o => some (encV4 0x300 o)
  | .sand o => some (encV4 0x301 o)
  | .sxnor o => some (encV4 0x302 o)
  | .sor o => some (encV4 0x303 o)
  | .snot o => some (encV4 0x304 o)
  | .smux o => some (encV4 0x305 o)
  | .smaj o => some (encV4 0x306 o)
  | .scnt o => some (encV4 0x307 o)
  | .s2b o => some (encV4 0x308 o)
  | .sregen o => some (encV4 0x309 o)
  | .slen o => some (encV4 0x30A o)
  | .scls o => some (encV4 0x30B o)
  | .sclsV o => some (encV4 0x30B o)
  | .binit o => some (encC3 0x340 o)
  | .arrive o => some (encC3 0x341 o)
  | .bwait o => some (encC3 0x342 o)
  | .twait o => some (encC3 0x343 o)
  | .tread o => some (encC3 0x344 o)
  | .join o => some (encC3 0x348 o)
  | .leave o => some (encC3 0x349 o)
  | .barg o => some (encC3 0x34A o)
  | .spawn o => some (encC3 0x34B o)
  | .jdec o => some (encC3 0x34C o)
  | .sectionDispatch _ => none
  | .backReferenceSatisfied => none
  | .wordPush _ => none
  | .sectionRetirement _ _ _ _ => none
  | .resultLanding _ _ _ => none
  | .macroCompletion _ _ _ => none
  | .timerExpiry _ _ => none
  | .trapEntry _ => none
  | .idleSlotDispatch _ => none
  | .ageingTick => none
  | .contextSwitch _ => none
  | .engineContextChange _ _ => none
  | .park _ => none
  | .parkedResume _ => none
  | .watchdogExpiry _ => none
  | .stallLimitExpiry _ _ _ => none
  | .writePropagation _ => none
  | .dupw _ _ _ => none
  | .receivePut _ => none
  | .receiveGet _ => none
  | .receivePuth _ => none
  | .receiveAtomic _ => none
  | .receiveCollective _ => none
  | .receiveAnswer _ _ _ => none
  | .rxbad _ _ => none
  | .fabricTimeout _ => none
  | .gangRetryTimeout _ => none
  | .gangexp _ => none
  | .createSpace _ _ => none
  | .loadSegments _ _ _ _ _ _ => none
  | .swapin _ _ => none
  | .layerResident _ _ => none
  | .evict _ _ _ => none
  | .launch _ _ _ _ => none
  | .gangArm _ _ _ _ _ => none
  | .gangGo _ _ => none
  | .queryHeatStatistics _ => none
  | .queryPoolOccupancy _ => none
  | .queryLoadedSpaces _ => none
  | .queryEventLog _ => none
  | .queryErrorCounters _ => none
  | .queryCertificate _ => none
  | .querySparingMap _ => none
  | .queryMemorySpares _ => none
  | .setMsgn _ _ _ => none
  | .setBlkthr _ _ => none
  | .setHeatcfg _ _ => none
  | .setDeepRetention _ _ => none
  | .setFtout _ _ => none
  | .setAgeus _ _ _ => none
  | .setDuplication _ _ _ _ => none
  | .setRsslots _ _ _ => none
  | .attest _ _ => none
  | .retire _ _ => none
  | .deepRetentionRetire _ _ => none
  | .scrubVisit _ => none
  | .registerParityReplay _ _ _ => none
  | .scratchpadRowPoison _ _ _ => none
  | .rowRepair _ _ => none
  | .pseudoChannelSparing _ _ => none
  | .capacityDeviceFailure _ => none
  | .replicaRead _ _ => none
  | .segmentPoisoning _ _ => none
  | .coreFailure _ _ => none
  | .lanedeg _ => none
  | .powerOn _ => none
  | .thermalThrottle _ _ => none
  | .thermalShutdown _ _ => none
  | .readState => none
  | .readTemperatures => none
  | .readPower => none
  | .setPlim _ => none
  | .requestReset _ => none
  | .scalarAccessCompletion _ _ _ => none
  | .rowClearingDone _ => none
  | .accretionCopyLanded _ _ => none
  | .powerOff => none
  | .thermalThrottleEnd _ _ => none
  | .unknownCommand _ => none

end Sys2Proof
end

