-- ==== Sys2Proof/Config.lean ====
section
/-! DEFINITION. What the device fixes (capacities, addresses of the tiers), and the free values: which agent moves next, what
comes from outside, and the outcomes the manual leaves open. A constant without a value is one nothing can be proved about. -/

namespace Sys2Proof

/-- The agent that moves next (log 1): the control core of a resident context, one of its L, X and S queues, one of its
engines, an event of the device, its firmware, its host or its surroundings, or a transaction that arrives as flits (R327). -/
inductive Turn where
  | control (c : CoreId) (b : BankId)
  | queue (c : CoreId) (b : BankId) (k : Kind)
  | engine (c : CoreId) (b : BankId) (e : Eng)
  | event (i : Instr)
  | wire (header : List Byte) (rows : List Row)
  deriving DecidableEq, Repr, Inhabited

/-- The agent that moves after the n-th step. DESIGN CHOICE (log 1): a free value, so a claim holds for every interleaving
of the agents and every input from outside. -/
opaque Config.nextTurn : Nat → Turn

/-- The choices that the manual leaves to the device in a step, numbered by the step and by what is chosen for: the old or
the new code sector (R31), the old or the new words of a segment entry (R306), and the others that log 4 lists. Free (log 4). -/
opaque Config.choice : Nat → Nat → Nat

/-- What a latched accumulator term adds when the frame gives it an exponent below the grid of R67, by its magnitude and
exponent: the manual gives no value. Free (log 7). -/
opaque Config.offGrid : Nat → Int → Nat

/-- The SM3 digest of a byte string (R355, R357): the manual names the standard and does not give it. Free (log 5). -/
opaque Config.sm3 : List Byte → BitVec 256

/-- The n-th SM2 signature of a byte string with a private key (R356, R357): free (log 5). -/
opaque Config.sm2Sign : BitVec 256 → List Byte → Nat → BitVec 512

/-- The SM3 key derivation function on the PUF response (R356): free (log 5). -/
opaque Config.sm3Kdf : List Byte → BitVec 256

/-- The device certificate and the ROM as byte strings, and the digest of the signing public key that the ROM holds (R355 to
R357): free (log 5). -/
opaque Config.certificate : List Byte
opaque Config.romBytes : List Byte
opaque Config.signingKeyDigest : BitVec 256

/-- What the flash holds when the module is built: image slots and the configuration record (R355). Free (log 5). -/
opaque Config.flashSlots : Vector ImageSlot 2
opaque Config.flashRecord : List Byte

/-- SM2 verification with the key whose digest is given, of a signature over an SM3 digest (R355): free (log 5). -/
opaque Config.sm2Verify : BitVec 256 → BitVec 256 → List Byte → Bool

/-- Where a field of a command stands in its arguments, ARGS and data flits one after the other: the first bit and the number of bits,
by the OPC, the field's path and the arguments. ARGS is not laid out but for QUERY's selector (R331, R333, R335). Free (log 7). -/
opaque Config.argPlace : Nat → List Nat → List Byte → Nat × Nat

/-- A command's arguments have another form than its OPC asks for, or set a reserved field: free, as they are not laid out (log 7). -/
opaque Config.argsBad : Nat → List Byte → Bool

/-- The sectors that an arriving PUT, GET or COLLECTIVE moves, and the rows that a GET asks for, by its header: R327 gives them no
place. Free (log 7). -/
opaque Config.wireMask : List Byte → BitVec 8
opaque Config.wireRows : List Byte → Nat

/-- The entries that the memory region of a die's ready queues holds, which firmware sets (R286). Free (log 35). -/
opaque Config.queueRegion : Nat → Nat

/-- The physical placement that firmware chooses where the manual leaves it to firmware (R310, R323, R346): free (log 6). -/
opaque Config.placement : Nat → Nat

/-- Bytes of each die's shared memory that its deque spill regions and park areas take (R287, R299, R315): the manual gives no
size. Free (log 6). -/
opaque Config.dsmReserved : Nat → Nat

/-- The SEQ of an event, by its code and its number, the first byte in ARGS and the bytes of each of its arguments, by the code and the
argument's position, and the bytes of ARGS that hold none: R336 gives them no place. Free (log 7). -/
opaque Config.eventSeq : Nat → Nat → Nat
opaque Config.eventPlace : Nat → Nat → Nat × Nat
opaque Config.eventFill : Nat → Nat → Nat → Byte

/-- The value of a word that the manual does not give: element bits that no rule states. Free (log 7). -/
opaque Config.freeBits : Nat → Nat

/-- Clocks in one microsecond tick (R290). -/
abbrev clkPerUs : Nat := 850
/-- Words that an L, X or S queue holds (R35). -/
abbrev queueWords : Nat := 128
/-- Results in flight at once (R81). -/
abbrev maxFlights : Nat := 12
/-- Sectors of 32 bytes that a core's 64 KiB instruction cache holds (R8, R31). -/
abbrev icacheLines : Nat := 2048
/-- Physical vector registers, scratchpad banks and rows, and accumulator rows of a core (R8). -/
abbrev physRegs : Nat := 4096
abbrev spadBanks : Nat := 32
abbrev spadRows : Nat := 8192
abbrev accRows : Nat := 512
/-- The module's address of a byte of the stack tier, the capacity tier, or a die's shared memory (R242, R375): the model
gives the three memories disjoint ranges of one address line (log 3). -/
abbrev capacityBase : Nat := 2 ^ 41
abbrev dsmBase : Nat := 2 ^ 42
abbrev dsmBytes : Nat := 2 ^ 26
/-- Sizes of the stack and capacity pools in bytes (R8, R311). -/
abbrev stackBytes : Nat := 768 * 2 ^ 30
abbrev capacityBytes : Nat := 2 ^ 41

end Sys2Proof
end

