-- ==== Sys2Proof/Machine/State.lean ====
section
/-! DEFINITION. The state of the module: its memories, tiers, dies, cores and contexts (R71, R292, R303 to R318), what is on
its way (fixed-latency results, scalar operations, macros, writes to other dies, fabric transactions), and the model's own
fields (turn, tick, cur and the local clocks). All of it is plain data. -/

namespace Sys2Proof.Machine

/-! ### Memories -/

/-- A memory of w-bit cells in its one canonical form: pairs of an address and a cell, addresses strictly rising, and no cell
equal to what an unlisted address reads as, zero (log 3). -/
abbrev Sparse (w : Nat) := List (Nat × BitVec w)

/-- A view of module memory: bytes at the module's addresses (`Host.Cell`). -/
abbrev Memory := List Host.Cell

/-- The canonical form. -/
def Sparse.wf {w : Nat} (m : Sparse w) : Bool :=
  decide ((m.map (·.1)).Pairwise (· < ·)) && m.all (fun c => decide (c.2 ≠ 0))

/-- The canonical form of a view of module memory. -/
def Memory.wf (m : Memory) : Bool := Sparse.wf m

/-! ### Register values -/

/-- A handle's fields (R236). -/
structure Handle where
  bank   : Nat := 0
  row    : Nat := 0
  slots  : Nat := 0
  rps    : Nat := 0
  head   : Nat := 0
  tail   : Nat := 0
  filled : Nat := 0
  deriving DecidableEq, Repr

/-- A stream register: lane i's bits at [512·i + 511 : 512·i], of which the length code uses the low ones; its mask and its
length code (R201). -/
structure Stream where
  bits : BitVec 16384 := 0
  acm  : BitVec 16 := 0
  lc   : BitVec 2 := 0
  deriving DecidableEq, Repr

/-- The register files of a context (R71). -/
structure Regs where
  s : Vector Word 64
  p : Vector (BitVec 32) 16
  w : Vector Nat 8
  e : Vector (BitVec 4352) 4
  z : Vector Stream 64
  h : Vector Handle 16
  d : Vector (Vector Word 13) 32
  deriving DecidableEq, Repr

/-- The system registers of a context that MFS and MTS reach (R72), less those that are views of other state. -/
structure Sys where
  tvec    : Word := 0
  tframe  : Word := 0
  tcause  : Word := 0
  tmr     : Word := 0
  dbgctl  : Word := 0
  watcha  : Word := 0
  rrb     : Nat := 0
  rotsz   : Nat := 0
  frag    : Word := 0
  ftabb   : Word := 0
  srseed  : Word := 1
  seed    : Word := 0
  temper  : Word := 0x3F800000
  predcfg : Word := 0x10000000
  chkcfg  : Word := 0x7F800000
  misslim : Word := 0xFFFF
  misscnt : Word := 0
  stasid  : Word := 0
  stidx   : Word := 0
  bfmt    : Vector Word 32
  deriving DecidableEq, Repr

/-- The four rounding generators (R64). -/
structure RndGens where
  vec   : BitVec 32 := 0x00000001
  load  : BitVec 32 := 0x55555554
  store : BitVec 32 := 0xAAAAAAAB
  brim  : BitVec 32 := 0xFFFFFFFE
  deriving DecidableEq, Repr

/-- A timeline counter (R78): the last number pushed, its value, and the completed numbers above the value. -/
structure Timeline where
  pushed : Nat := 0
  value  : Nat := 0
  ahead  : List Nat := []
  deriving DecidableEq, Repr

/-- The six timeline counters. -/
structure Timelines where
  a : Timeline := {}
  s : Timeline := {}
  m : Timeline := {}
  p : Timeline := {}
  i : Timeline := {}
  c : Timeline := {}
  deriving DecidableEq, Repr

/-- A brim state slot (R191, R270): the candidate, the heap, m, l, the position, invt and SEED[31:0]. -/
structure BrimSlot where
  candV : BitVec 32 := 0xFF800000
  candI : BitVec 32 := 0xFFFFFFFF
  kh    : Nat := 0
  heap  : List (BitVec 32 × BitVec 32) := []
  m     : BitVec 32 := 0xFF800000
  l     : BitVec 32 := 0
  pos   : BitVec 32 := 0
  invt  : BitVec 32 := 0x3F800000
  seed  : BitVec 32 := 0
  deriving DecidableEq, Repr

/-- One query row of the mask block (R183). -/
structure MaskRow where
  anc : Word
  pre : BitVec 32
  pos : BitVec 32
  deriving DecidableEq, Repr

/-- The brim program, its parameter row, its state slots and the mask block (R183, R187, R270). -/
structure Brim where
  prog  : List Nat := []
  param : Row := 0
  slots : Vector BrimSlot 64
  mask  : List MaskRow := []
  deriving DecidableEq, Repr

/-! ### Results in flight -/

/-- One lane pair's term of an exact accumulation (R89): class 0 finite ± mag · 2^ex, 1 +∞, 2 −∞, 3 NaN. -/
structure ETerm where
  cls : Nat := 0
  neg : Bool := false
  mag : Nat := 0
  ex  : Int := 0
  deriving DecidableEq, Repr

/-- What a fixed-latency result writes when it lands (R79, R80, R89). -/
inductive FlightVal where
  /-- A scalar register. -/
  | scalar (r : SReg) (v : Word)
  /-- Bytes of a physical vector register. -/
  | vec (phys : Nat) (bytes : BitVec 128) (v : VWord)
  /-- Lanes of two physical vector registers. -/
  | pair (lo hi : Nat) (lanes : BitVec 64) (v : Row)
  /-- Bits of a predicate. -/
  | pred (r : PReg) (mask v : BitVec 32)
  /-- Terms added to an exact accumulator. -/
  | terms (e : EReg) (ts : List ETerm)
  /-- A value that replaces an exact accumulator. -/
  | exact (e : EReg) (v : BitVec 4352)
  /-- Lanes of a context row of the scratchpad. -/
  | row (r : Nat) (lanes : BitVec 64) (v : Row)
  deriving DecidableEq, Repr

/-- A result in flight: its unit, the local clock in which it lands, what it writes, the section of its word, and the handle that
the word names (R237). -/
structure Flight where
  unit : FixUnit
  land : Nat
  val  : FlightVal
  uid  : Nat := 0
  hnd  : Option HReg := none
  deriving DecidableEq, Repr

/-! ### Queues and macros -/

/-- What a word captures when it is pushed (R14, R60, R73, R191, R194); `gen` and `rime` number the resets of the rounding and of the
rime generators that precede it in push order (R64, R203). -/
structure Capture where
  sa   : Word := 0
  sb   : Word := 0
  sc   : Word := 0
  ha   : Handle := {}
  hb   : Handle := {}
  desc : Vector Word 13
  bfmt : Vector Word 32
  pred : Word := 0
  chk  : Word := 0
  lim  : Word := 0
  seed : Word := 0
  temp : Word := 0
  gen  : Nat := 0
  rime : Nat := 0
  deriving DecidableEq, Repr

/-- A word in a queue: the word, the section it belongs to, its place there, its captured operands, the timeline number it
took, the block and slot rows of a PROBE fill (R118), and the step that pushed it. -/
structure QWord where
  w     : IWord
  uid   : Nat
  hdr   : Word
  idx   : Nat
  kind  : Kind
  trapm : Bool
  cap   : Capture
  num   : Nat := 0
  fill  : Option (Nat × Nat × Nat × Nat) := none
  born  : Nat := 0
  deriving DecidableEq, Repr

/-- A running VLOOP (R154): its descriptor, the length of its body, the body's words that the loop buffer has taken, the position, the
next word of the body, RRB as the present iteration began, and its section. -/
structure LoopSt where
  desc  : Vector Word 13
  len   : Nat
  body  : List QWord := []
  pos   : List Nat := [0, 0, 0, 0, 0, 0]
  idx   : Nat := 0
  rrb   : Nat := 0
  uid   : Nat := 0
  deriving DecidableEq, Repr

/-- A running REP (R157, R158): its prefix and the next repetition; `half` is 1 between the two repetitions of one clock and 2
where the second issues in a clock of its own; `bank` is the bank the first of a pair addressed. -/
structure RepSt where
  px   : PX
  i    : Nat := 0
  half : Nat := 0
  bank : Nat := 0
  deriving DecidableEq, Repr

/-- Where a queue's micro-program counter stands (R83); `uid` is the section whose REP or VLOOP set `rep` or `skip`. -/
structure Micro where
  loop : Option LoopSt := none
  rep  : Option RepSt := none
  nop  : Nat := 0
  skip : Nat := 0
  uid  : Nat := 0
  deriving DecidableEq, Repr

/-- An L, X or S queue: its words, its position, and the ordinary position saved in trap mode. -/
structure Queue where
  items : List QWord := []
  cur   : Micro := {}
  saved : Micro := {}
  deriving DecidableEq, Repr

/-- A macro handed to its engine: the word, its counter, its progress (R168), what it holds between progress units, whether
it has finished, its held fault (R86), the segment, address and tick since which it stalls on an absent segment (R305), the
segment and address of a DUPW (R308), the handle for whose slots it waits, whether it produces into it, and how many it needs (R165), and the rows
whose banks' formats govern its source and its destination where a handle's slots give them (R164). -/
structure Run where
  q       : QWord
  ctr     : Ctr
  done    : Nat := 0
  tstep   : Nat := 0
  started : Bool := false
  aux     : List Nat := []
  fin     : Bool := false
  fault   : Option Cause := none
  held    : Bool := false
  stall   : Option (Nat × Nat × Nat) := none
  dupw    : Option (Nat × Nat) := none
  wait    : Option (HReg × Bool × Nat) := none
  srcRow  : Option Nat := none
  dstRow  : Option Nat := none
  deriving DecidableEq, Repr

/-- The macros handed to each engine, in order (R162). -/
structure Engines where
  load   : List Run := []
  store  : List Run := []
  index  : List Run := []
  matrix : List Run := []
  pred   : List Run := []
  deriving DecidableEq, Repr

/-! ### Sections -/

/-- A number for each section kind. -/
structure Counts where
  c : Nat := 0
  l : Nat := 0
  x : Nat := 0
  s : Nat := 0
  deriving DecidableEq, Repr

/-- A section in an engine queue that has not retired (R32): its header address and length, how many of its words have been
pushed, whether it is closed (R44), and the numbers of the sections its back-references name. -/
structure Sec where
  uid     : Nat
  kind    : Kind
  hdr     : Word
  len     : Nat
  trapm   : Bool
  counted : Bool := true
  pushed  : Nat := 0
  closed  : Bool := false
  deps    : Counts := {}
  open_   : Bool := false
  deriving DecidableEq, Repr

/-- Where the control core stands: at a header, waiting for a C header's back-references, or inside a section. -/
inductive Phase where
  | header
  | waiting
  | inside
  deriving DecidableEq, Repr

/-- The section the control core is in: its header's address and fields, the next word's index, its uid, the numbers its
back-references name, how many words of a VLOOP body follow (R153), and whether the last word was a REP (R147). -/
structure CtlSec where
  hdr   : Word
  h     : Header
  idx   : Nat := 0
  uid   : Nat := 0
  deps  : Counts := {}
  body  : Nat := 0
  rep   : Bool := false
  deriving DecidableEq, Repr

/-- The control core's position (R29). -/
structure CtlPos where
  pc    : Word
  phase : Phase := .header
  sec   : Option CtlSec := none
  deriving DecidableEq, Repr

/-! ### Scalar operations on their way (R77, R107, R108, R110) -/

/-- Where a scalar access goes: module memory, the scratchpad (physical byte address), or a heat window (R314). -/
inductive Loc where
  | mem (pa : Nat)
  | spad (a : Nat)
  | heat (obj off : Nat)
  deriving DecidableEq, Repr

/-- A queued record (R284); `clock` is the die clock that its start acquires (R255). -/
structure QRec where
  rec_    : Rec
  asid    : BitVec 12
  stamp   : Nat
  priv    : Bool
  share   : Option (Nat × Nat) := none
  bound   : Option CoreId := none
  level   : Nat := 0
  entered : Nat := 0
  puth    : Bool := false
  order   : Nat := 0
  clock   : List Nat := []
  deriving DecidableEq, Repr

/-- What a pending scalar operation does; `deliver` is the way back of a value from another die's bank, with the clock that it
carries (R248); `writes` says that it came from an operation that writes. An SFLUSH lists the cores
that have not discarded, when the others did, and the writes of each die that a discarding core must have reached (R117). -/
inductive OpKind where
  | load (sd : SReg) (sx : Bool)
  | store (v : Nat)
  | amo (sd : SReg) (aop : Nat) (b c : Nat)
  | amof (sd : SReg) (f64 : Bool) (b : Nat)
  | jdec (sd : SReg)
  | spawn (r : QRec) (die : Option DieId)
  | binit (v : BitVec 128)
  | sflush (asid : BitVec 12) (left : List CoreId) (at_ : List (CoreId × Nat)) (need : List Nat)
  | deliver (sd : SReg) (v : Word) (vc : List Nat) (writes : Bool)
  deriving DecidableEq, Repr

/-- A scalar operation not yet complete: where it goes, its size in bytes, whether it acquires or releases and at which
scope, the token it counts on, whether the control core holds for it, and the step that issued it. -/
structure Op where
  kind  : OpKind
  loc   : Loc := .mem 0
  size  : Nat := 0
  acq   : Bool := false
  rel   : Bool := false
  scope : Nat := 0
  tok   : Token := none
  held  : Bool := false
  born  : Nat := 0
  deriving DecidableEq, Repr

/-! ### Contexts -/

/-- What dispatch fixes (R74, R230, R294), and the launch copy of the record (R284, R350). -/
structure Ident where
  asid   : BitVec 12
  serial : BitVec 32
  bank   : BankId
  share  : Bool
  replay : Bool
  priv   : Bool
  pri    : Nat
  vbase  : Nat
  vlen   : Nat
  sbank  : Nat
  snb    : Nat
  abase  : Nat
  alen   : Nat
  copy   : QRec
  deriving DecidableEq, Repr

/-- What a word that waits at a boundary waits for (R227, R296): a header's back-references, the tokens of an AWAIT, a value of
a timeline counter, a barrier's phase or a free arrival of it (physical address), a group's phase, room for a push, or the
users of a handle. -/
inductive WaitOn where
  | header
  | tokens (mask : Nat)
  | timeline (c : Ctr) (n : Nat)
  | barPhase (a : Nat) (phase : BitVec 4)
  | barRoom (a : Nat)
  | group (pa : Nat)
  | room (k : Kind) (t : Token)
  | handle (h : HReg)
  deriving DecidableEq, Repr

/-- What the control core of a context is held at (R227, R296): a wait at a word boundary, a word that has issued and completes
before any boundary, one that issues once a result has landed (R81), a stall on an absent segment, or a DUPW. -/
inductive Hold where
  | none
  | wait (on : WaitOn)
  | busy
  | full
  | stall (idx va : Nat)
  | dupw (idx va : Nat)
  deriving DecidableEq, Repr

/-- A class-Q trap that stopped the X queue (R85), with the word that raised it. -/
structure PendQ where
  cause : Cause
  hdr   : Word
  idx   : Nat
  kind  : Kind
  deriving DecidableEq, Repr

/-- A word that holds the control core has issued: the word, and the scalar registers in the clock in which it issued (R91). -/
structure Issued where
  word : IWord
  s    : Vector Word 64
  deriving DecidableEq, Repr

/-- A context (R292). `stall` is the address of the word, or header, whose translations found segments absent, and when each
segment was first found so (R227); `ctlFresh` and `xFresh` say that the unit has not issued since its results were put in flight
again (R90, R297); `parking` that the queue unit is parking it (R299). `gens` and `rime` are the generators since their last reset,
which `genNum` and `rimeNum` count, and `oldGens` and `oldRime` those that words pushed before a reset still use (R64, R203).
`fatal` is the TCAUSE of a context that has stopped while what it issued completes (R88). `issue` is the word that has issued
and holds the control core (R91), and `begun` the step in which the thread was dispatched (R31). -/
structure Ctx where
  id        : Ident
  regs      : Regs
  sys       : Sys
  gens      : RndGens := {}
  genNum    : Nat := 0
  oldGens   : List (Nat × RndGens) := []
  rime      : Vector (BitVec 32) 16
  rimeNum   : Nat := 0
  oldRime   : List (Nat × Vector (BitVec 32) 16) := []
  tl        : Timelines := {}
  pstat     : Vector Nat 6
  brim      : Brim
  ctl       : CtlPos
  saved     : Option CtlPos := none
  trapMode  : Bool := false
  trapPc    : Word := 0
  latchRec  : List (Nat × BitVec 6) := []
  heldMov   : List (Nat × BitVec 4352) := []
  latchUid  : List (Nat × Option HReg) := []
  flights   : List Flight := []
  cclk      : Nat := 0
  xclk      : Nat := 0
  ql        : Queue := {}
  qx        : Queue := {}
  qs        : Queue := {}
  eng       : Engines := {}
  secs      : List Sec := []
  nextUid   : Nat := 1
  disp      : Counts := {}
  retired   : Counts := {}
  trapDisp  : Counts := {}
  trapRet   : Counts := {}
  ops       : List Op := []
  pendQ     : Option PendQ := none
  pendE     : List Cause := []
  deliver   : List Eng := []
  hold      : Hold := .none
  heldClk   : Nat := 0
  issue     : Option Issued := none
  stall     : Option (Word × List (Nat × Nat)) := none
  stallSave : Option (Word × List (Nat × Nat)) := none
  ctlFresh  : Bool := false
  xFresh    : Bool := false
  parking   : Bool := false
  barg      : Option (Nat × Nat) := none
  ending    : Bool := false
  fatal     : Option Word := none
  outSince  : Nat := 0
  begun     : Nat := 0
  deriving DecidableEq, Repr

/-! ### Cores -/

/-- A line of the instruction cache: a 32-byte sector of an address space, the bytes it holds, and the step that read them (R31). -/
structure ICLine where
  asid : BitVec 12
  va   : Nat
  data : BitVec 256
  born : Nat
  deriving DecidableEq, Repr

/-- A shared allotment (R295): its banks, the records that name it and have not ended, and whether its owner has ended. -/
structure Share where
  sbank : Nat
  snb   : Nat
  count : Nat
  ended : Bool
  deriving DecidableEq, Repr

/-- What a gang's record holds on its core until GANG_GO: groups of vector registers, banks, groups of accumulator rows (R338). -/
structure Reserve where
  gang    : Nat
  vgroup  : Nat
  vgroups : Nat
  sbank   : Nat
  snb     : Nat
  agroup  : Nat
  agroups : Nat
  deriving DecidableEq, Repr

/-- Where a context's allotments stand: a group of eight registers, a bank, a group of eight accumulator rows (R293). -/
structure Place where
  vgroup : Nat
  sbank  : Nat
  snb    : Nat
  agroup : Nat
  deriving DecidableEq, Repr

/-- A record that an idle slot has obtained and not yet started: the record, its level, and its place on the core (R232, R293). -/
structure Due where
  rec_  : QRec
  level : Nat
  place : Place
  deriving DecidableEq, Repr

/-- A core (R9, R287, R292). `staging` is the fourth bank: the context it holds, and whether that context is on its way back to
a resident bank. `steal` is where each bank's idle slot stands in the round of R293: 0 at its start, n after its n-th victim; `due`
lists the records that its slots have obtained, until they are dispatched (R232). `msgnNew`
lists the changes of MSGN that wait, in arrival order (R244). `barriers` holds the physical addresses of the barriers that
BINIT has set up (R212, log 11). -/
structure Core where
  phys      : Option Nat
  banks     : Vector (Option Ctx) 3
  active    : Option BankId := none
  staging   : Option (Ctx × Bool) := none
  parked    : List Ctx := []
  serial    : BitVec 32 := 0
  msgn      : Nat := 1
  msgnNew   : List (Nat × HostCmd) := []
  spad      : Sparse 2048 := []
  acc       : Sparse 8192 := []
  vregs     : Sparse 1024 := []
  spadBad   : List Nat := []
  accBad    : List Nat := []
  clearing  : List (Bool × Nat) := []
  barriers  : List Nat := []
  deque     : List QRec := []
  spill     : List QRec := []
  lastThief : Nat
  steal     : Vector Nat 3 := #v[0, 0, 0]
  due       : List Due := []
  shares    : List Share := []
  reserved  : List Reserve := []
  icache    : List ICLine := []
  discards  : List (BitVec 12 × Nat) := []
  owners    : Vector (Option BankId) 6 := Vector.replicate 6 none
  dupFail   : List Nat := []
  deriving DecidableEq, Repr

/-- A die's scheduler and row tier unit (R289, R316, R354, R359); `region` is how many entries the memory region of its ready
queues holds, and `held` the records that firmware pushes there and that wait for room, oldest first (R286). -/
structure Die where
  ready     : List QRec := []
  held      : List QRec := []
  region    : Nat := 65536
  lastCore  : Nat
  spares    : List Nat
  badBanks  : List Nat := []
  fetch     : Nat := 0
  cfetch    : Nat := 0
  accRs     : Nat := 0
  accSt     : Nat := 0
  calvRs    : Nat := 0
  calvSt    : Nat := 0
  throttled : Bool := false
  deriving DecidableEq, Repr

/-! ### Tiers and firmware -/

/-- The segment table of an address space (R303): the entries that are not all zero. -/
structure Space where
  asid    : BitVec 12
  entries : List (Nat × SegEntry) := []
  deriving DecidableEq, Repr

/-- A value that word 0, 1 or 2 of an entry held until the given step (R306). -/
structure SegOld where
  asid : BitVec 12
  idx  : Nat
  word : Nat
  val  : Word
  till : Nat
  deriving DecidableEq, Repr

/-- A row of a governed object whose record is not all zero (R314, R318): heat, level, LAST, and the copies that have
landed. -/
structure RowRec where
  row    : Nat
  heat   : Nat := 0
  level  : Nat := 0
  last   : Nat := 0
  landed : Nat := 0
  deriving DecidableEq, Repr

/-- A row-governed object (R313). -/
structure Obj where
  defn   : ObjDef
  tokens : Nat := 0
  rows   : List RowRec := []
  deriving DecidableEq, Repr

/-- Swap states (R309). -/
inductive Swap where
  | absent
  | swapping
  | resident
  | evicting
  deriving DecidableEq, Repr

/-- A model context (R309), with the SWAPIN command that is being performed, and the layers whose eviction has cleared RES and
still drains (R312). -/
structure Model where
  defn    : ModelDef
  asid    : BitVec 12
  swap    : Swap := .absent
  lastUse : Nat := 0
  cmd     : Option HostCmd := none
  leaving : List Nat := []
  deriving DecidableEq, Repr

/-- A command's response (R331): status and the bytes of ARGS and of the data flits that the result gives. -/
structure Response where
  cmd    : HostCmd
  opc    : Nat
  status : Nat
  args   : List Byte := []
  flits  : List Row := []
  deriving DecidableEq, Repr

/-- An event sent to every host (R336). -/
structure Ev where
  code : Nat
  args : List Nat := []
  deriving DecidableEq, Repr

/-- An armed gang (R338). -/
structure Gang where
  num   : Nat
  core  : CoreId
  bank  : BankId
  rec_  : QRec
  since : Nat
  armus : Nat
  deriving DecidableEq, Repr

/-- A fabric transaction sent and not answered (R327, R329, R339): its flit, the macro that sent it, its row, when it was
sent, when it was first refused with DETAIL 0x06, and the rows of its answer. -/
structure Txn where
  flit  : Flit
  typ   : Nat
  core  : CoreId
  bank  : BankId
  eng   : Eng
  num   : Nat
  row   : Nat
  sent  : Nat
  since : Option Nat := none
  reply : Option (List Row) := none
  deriving DecidableEq, Repr

/-- A flit that left the module (R327): its type, whether it is an answer or a refusal, its fields, and for COMMAND the bytes of
its BODY and the arguments of an event, whose places R336 does not give. -/
structure Sent where
  typ    : Nat
  resp   : Bool := false
  refuse : Option Nat := none
  flit   : Flit
  body   : List Byte := []
  args   : List Nat := []
  deriving DecidableEq, Repr

/-- A write on its way to another die (R248, R249): from and to, its stamp, its unit of the home order, its bytes with their
addresses, and its place in that order; and the context that made it. -/
structure Transit where
  src   : DieId
  dst   : DieId
  stamp : List Nat
  key   : Nat
  cells : List Host.Cell
  seq   : Nat
  own   : Option (CoreId × BitVec 32) := none
  deriving DecidableEq, Repr

/-- A group's watchdog (R223). -/
structure Watch where
  pa    : Nat
  us    : Nat
  since : Nat
  deriving DecidableEq, Repr

/-- What commands that may not overtake each other act on (R331). -/
inductive CmdOn where
  | model (m : Nat)
  | space (asid : BitVec 12)
  | gang (g : Nat)
  deriving DecidableEq, Repr

/-- Why firmware moves segments: a pseudo-channel is retired (R346), a stack die is retired (R323), or every segment leaves a
capacity package (R347). -/
inductive MoveOf where
  | channel (stack pc : Nat)
  | die (stack die : Nat)
  | package (pkg : Nat)
  deriving DecidableEq, Repr

/-- A migration that has begun: the segments whose RES it has cleared, as address space and index (R346). -/
structure Moving where
  what : MoveOf
  segs : List (BitVec 12 × Nat)
  deriving DecidableEq, Repr

/-- Module states of the side-band (R353, R360); bring-up stands before the given step. -/
inductive ModState where
  | reset
  | bringup (step : Nat)
  | ready
  | failed (reason : Nat)
  deriving DecidableEq, Repr

/-- The module's configuration and firmware state. `slots` and `record` stand in the flash (R355); `waiting` lists the commands
that have arrived and wait for their turn (R331), `early` those that came before READY (R360); `dieUse` is the last access of
a stack die, by its number 16·stack + die (R323); `repaired` lists pseudo-channels, once for each row repaired, and `retired` those
that are retired (R346); `moving` lists the migrations that have begun (R323, R346, R347). -/
structure Firm where
  st        : ModState := .reset
  pwrCount  : Nat := 0
  node      : BitVec 19 := 0
  hosts     : List (BitVec 19) := []
  imgFloor  : Nat := 0
  recFloor  : Nat := 0
  slots     : Vector ImageSlot 2 := Config.flashSlots
  record    : ConfigRecord := ⟨Config.flashRecord⟩
  image     : Option ImageSlot := none
  idKey     : BitVec 256 := 0
  meas      : BitVec 256 := 0
  plim      : Nat := 2400
  watts     : Nat := 0
  throtUs   : Nat := 0
  sensors   : List Nat := List.replicate 32 0
  rails     : List Nat := []
  us        : Nat := 0
  heatcfg   : Word := 0x0000001008040000
  ageus     : Vector Nat 8 := Vector.replicate 8 1000
  blkthr    : Nat := 1024
  dridle    : Nat := 0
  ftout     : Nat := 1000
  nextEvent : Nat := 1
  evCount   : Nat := 0
  events    : List Ev := []
  responses : List Response := []
  accepting : Bool := true
  drained   : Bool := false
  draining  : List HostCmd := []
  waiting   : List (HostCmd × CmdOn) := []
  early     : List (HostCmd × Nat) := []
  errs      : Vector Nat 8 := Vector.replicate 8 0
  lanes     : Vector Nat 16 := Vector.replicate 16 8
  sparePc   : Vector Nat 12 := Vector.replicate 12 2
  softRep   : Vector Nat 12 := Vector.replicate 12 0
  rowErrs   : List (Nat × Nat × Nat × Nat) := []
  hardRep   : List (Nat × Nat × Nat) := []
  repaired  : List (Nat × Nat) := []
  retired   : List (Nat × Nat) := []
  moving    : List Moving := []
  dieUse    : List (Nat × Nat) := []
  dieOff    : List (Nat × Nat) := []
  badDev    : Vector Nat 16 := Vector.replicate 16 0
  stackCap  : Nat := stackBytes
  capCap    : Nat := capacityBytes
  nextTag   : Nat := 0
  order     : Nat := 0
  sideband  : List Nat := []
  deriving DecidableEq, Repr

/-- Who is executing (the model's own): a context's control core, one of its queues (with the word being issued), or one of
its engines; or no context. -/
inductive Unit_ where
  | ctl
  | queue (k : Kind)
  | eng (e : Eng)
  | none
  deriving DecidableEq, Repr

/-- The executing unit, the word that a queue issues with its repetition index, and the word that the control core has decoded. -/
structure Cur where
  core : CoreId := 0
  bank : BankId := 0
  unit : Unit_ := .none
  word : Option QWord := none
  rep  : Nat := 0
  raw  : IWord := 0
  deriving DecidableEq, Repr

/-- The state of the module. -/
structure State where
  firm     : Firm
  dies     : Vector Die 4
  cores    : Vector Core 128
  spaces   : List Space
  segOld   : List SegOld
  objs     : List Obj
  models   : List Model
  gangs    : List Gang
  txns     : List Txn
  outbox   : List Sent
  views    : Vector Memory 4
  vc       : Vector (Vector Nat 4) 4
  transit  : List Transit
  homeSeq  : List (Nat × Nat)
  applied  : List (Nat × Nat × Nat)
  watches  : List Watch
  /-- Which agent moves next (log 1). -/
  turn     : Turn
  /-- Steps taken, which numbers the free choices of `Config.nextTurn` and `Config.choice` (log 1, log 4). -/
  tick     : Nat
  /-- Who is executing. -/
  cur      : Cur
  deriving DecidableEq, Repr

/-! ### Reset -/

/-- A core at reset: COREID c of die d stands on physical core 34·d + (c mod 32) until self-test (R6, R354). -/
def Core.reset (c : Nat) : Core where
  phys := some (34 * (c / 32) + c % 32)
  banks := Vector.replicate 3 none
  lastThief := 32 * (c / 32) + 31

/-- A die at reset. -/
def Die.reset (d : Nat) : Die where
  lastCore := 32 * d + 31
  spares := [34 * d + 32, 34 * d + 33]

/-- The module right after reset (R353): nothing is loaded, queued or in flight, and every register holds its reset value. -/
def State.reset : State where
  firm := {}
  dies := #v[Die.reset 0, Die.reset 1, Die.reset 2, Die.reset 3]
  cores := ⟨((List.range 128).map Core.reset).toArray, by simp⟩
  spaces := []
  segOld := []
  objs := []
  models := []
  gangs := []
  txns := []
  outbox := []
  views := Vector.replicate 4 []
  vc := Vector.replicate 4 (Vector.replicate 4 0)
  transit := []
  homeSeq := []
  applied := []
  watches := []
  turn := Config.nextTurn 0
  tick := 1
  cur := {}

/-! ### Outcomes -/

/-- Why the machine stops with a fault. -/
inductive Fault where
  /-- Raised by an access whose physical address lies past the tier's memory, which no segment may name (R304, R375).
  Safe: the manual gives such an address no byte. -/
  | physicalHole
  deriving DecidableEq, Repr

/-- Why the model has no meaning. -/
inductive Refusal where
  /-- Raised by a dispatch arm whose instruction has no meaning yet. Safe: nothing is claimed of it. -/
  | notModelled (mnemonic : String)
  deriving DecidableEq, Repr

/-- The outcome of a step of this machine. -/
abbrev Out := Host.Outcome State Fault Refusal

end Sys2Proof.Machine
end

