-- ==== Sys2Proof/Machine/Ops.lean ====
section
/-! DEFINITION. The named operations over memories, registers, results in flight, tokens, handles, sections and fabric views,
and taking a trap and returning from one (R79, R88 to R90, R231, R235, R247 to R249, R303 to R308). -/

namespace Sys2Proof.Machine

/-! ### Bits and bytes -/

/-- The value of b-bit elements, the first lowest. -/
def ofElems (b : Nat) (xs : List Nat) : Nat := xs.foldr (fun x acc => acc * 2 ^ b + x % 2 ^ b) 0

/-- Element j of b bits (R46). -/
def elemOf {w : Nat} (b : Nat) (v : BitVec w) (j : Nat) : Nat := (v.toNat >>> (b * j)) % 2 ^ b

/-- All elements of b bits. -/
def elemsOf {w : Nat} (b : Nat) (v : BitVec w) : List Nat := (List.range (w / b)).map (elemOf b v)

/-- Each bit of a mask repeated n times. -/
def spread {k : Nat} (n w : Nat) (m : BitVec k) : BitVec w :=
  BitVec.ofNat w (ofElems n ((List.range k).map fun i => if m.getLsbD i then 2 ^ n - 1 else 0))

/-- `old` with the bits of `mask` taken from `new`. -/
def merge {w : Nat} (mask old new : BitVec w) : BitVec w := (old &&& ~~~mask) ||| (new &&& mask)

/-- The n low bytes of a number, least significant first (R2). -/
def bytesOf (n v : Nat) : List Byte := (List.range n).map fun i => BitVec.ofNat 8 (v >>> (8 * i))

/-- The number that bytes hold, least significant first (R2). -/
def natOfBytes (bs : List Byte) : Nat := ofElems 8 (bs.map BitVec.toNat)

/-- A number read as two's complement of b bits. -/
def signedOf (b v : Nat) : Int := if v % 2 ^ b < 2 ^ (b - 1) then (v % 2 ^ b : Nat) else (v % 2 ^ b : Nat) - (2 ^ b : Nat)

/-- The low b bits of an integer. -/
def wrapInt (b : Nat) (i : Int) : Nat := (i % (2 ^ b : Nat)).toNat

/-- x before the first member that it may precede. -/
def insertBy {α : Type} (le : α → α → Bool) (x : α) : List α → List α
  | [] => [x]
  | y :: l => if le x y then x :: y :: l else y :: insertBy le x l
/-- A list in order; members that may stand either way keep theirs. -/
def sortBy {α : Type} (le : α → α → Bool) (l : List α) : List α := l.foldr (insertBy le) []

/-! ### Sparse memories -/

def Sparse.read {w : Nat} (m : Sparse w) (k : Nat) : BitVec w :=
  match m with
  | [] => 0
  | (a, v) :: r => if a = k then v else Sparse.read r k

/-- A write keeps the canonical form: the zero cell is removed. -/
def Sparse.write {w : Nat} (m : Sparse w) (k : Nat) (v : BitVec w) : Sparse w :=
  match m with
  | [] => if v = 0 then [] else [(k, v)]
  | (a, u) :: r =>
    if k < a then (if v = 0 then (a, u) :: r else (k, v) :: (a, u) :: r)
    else if k = a then (if v = 0 then r else (k, v) :: r)
    else (a, u) :: Sparse.write r k v

def Sparse.writeAll {w : Nat} (m : Sparse w) (a : Nat) : List (BitVec w) → Sparse w
  | [] => m
  | v :: vs => Sparse.writeAll (m.write a v) (a + 1) vs

/-! ### Access to cores and contexts -/

/-- The die of a core (R6). -/
def dieOf (c : CoreId) : DieId := ⟨c.val / 32, by omega⟩

def State.core (s : State) (c : CoreId) : Core := s.cores[c]

def State.setCore (s : State) (c : CoreId) (k : Core) : State := { s with cores := s.cores.set c k }

def State.ctxAt (s : State) (c : CoreId) (b : BankId) : Option Ctx := (s.core c).banks[b]

def State.setCtxAt (s : State) (c : CoreId) (b : BankId) (x : Option Ctx) : State :=
  s.setCore c { s.core c with banks := (s.core c).banks.set b x }

/-- The context whose unit executes. -/
def State.ctx? (s : State) : Option Ctx := s.ctxAt s.cur.core s.cur.bank

/-- Puts the executing context back. -/
def State.putCtx (s : State) (x : Ctx) : State := s.setCtxAt s.cur.core s.cur.bank (some x)

/-- The executing core, and putting it back. -/
def State.myCore (s : State) : Core := s.core s.cur.core
def State.putCore (s : State) (k : Core) : State := s.setCore s.cur.core k

def State.myDie (s : State) : DieId := dieOf s.cur.core

def State.setDie (s : State) (d : DieId) (x : Die) : State := { s with dies := s.dies.set d x }

/-! ### Scalar, predicate and vector registers -/

/-- A scalar register as the control core's word reads it: in the clock in which the word issued (R91); s0 reads zero (R71). -/
def Ctx.rd (x : Ctx) (r : SReg) : Word :=
  if r = 0 then 0 else (match x.issue with | some h => h.s | none => x.regs.s)[r.toNat]'r.isLt

/-- A write to s0 is discarded (R71). -/
def Ctx.wr (x : Ctx) (r : SReg) (v : Word) : Ctx :=
  if r = 0 then x else { x with regs := { x.regs with s := x.regs.s.set r.toNat v r.isLt } }

def Ctx.pred (x : Ctx) (r : PReg) : BitVec 32 := x.regs.p[r.toNat]'r.isLt

def Ctx.setPred (x : Ctx) (r : PReg) (v : BitVec 32) : Ctx :=
  { x with regs := { x.regs with p := x.regs.p.set r.toNat v r.isLt } }

def Ctx.exact (x : Ctx) (e : EReg) : BitVec 4352 := x.regs.e[e.toNat]'e.isLt

def Ctx.setExact (x : Ctx) (e : EReg) (v : BitVec 4352) : Ctx :=
  { x with regs := { x.regs with e := x.regs.e.set e.toNat v e.isLt } }

def Ctx.handle (x : Ctx) (h : HReg) : Handle := x.regs.h[h.toNat]'h.isLt

def Ctx.setHandle (x : Ctx) (h : HReg) (v : Handle) : Ctx :=
  { x with regs := { x.regs with h := x.regs.h.set h.toNat v h.isLt } }

def Ctx.stream (x : Ctx) (z : VReg) : Stream := x.regs.z[z.toNat % 64]'(Nat.mod_lt _ (by decide))

def Ctx.setStream (x : Ctx) (z : VReg) (v : Stream) : Ctx :=
  { x with regs := { x.regs with z := x.regs.z.set (z.toNat % 64) v (Nat.mod_lt _ (by decide)) } }

def Ctx.desc (x : Ctx) (d : DReg) : Vector Word 13 := x.regs.d[d.toNat]'d.isLt

/-- VLEN as a number of names (R74). -/
def Ctx.vlen (x : Ctx) : Nat := x.id.vlen

/-- The physical register that a name means under the RRB in force (R76). -/
def Ctx.phys (x : Ctx) (n : Nat) : Nat :=
  let q := x.vlen - x.sys.rotsz
  if n < q then x.id.vbase + n else x.id.vbase + q + (n - q + x.sys.rrb) % x.sys.rotsz

/-- The guard of a word at bit `i` (R16). -/
def Ctx.guardBit (x : Ctx) (g : Guard) (i : Nat) : Bool :=
  match g with
  | none => true
  | some g => (x.pred g.p).getLsbD i != g.inv

/-- A control word tests bit 0 of its guard (R16). -/
def Ctx.guardOk (x : Ctx) (g : Guard) : Bool := x.guardBit g 0

/-- DBGCTL and WATCHA fields (R82). -/
def Ctx.wen (x : Ctx) : Bool := x.sys.dbgctl.getLsbD 3
def Ctx.atrap (x : Ctx) : Bool := x.sys.dbgctl.getLsbD 2
def Ctx.pendr (x : Ctx) : Bool := x.sys.dbgctl.getLsbD 1
def Ctx.pends (x : Ctx) : Bool := x.sys.dbgctl.getLsbD 0

/-! ### Generators (R64, R203) -/

/-- The rounding generators that a word of the n-th reset uses, and their new state. -/
def Ctx.gensAt (x : Ctx) (n : Nat) : RndGens := if n = x.genNum then x.gens else (x.oldGens.lookup n).getD x.gens
def Ctx.setGensAt (x : Ctx) (n : Nat) (g : RndGens) : Ctx :=
  if n = x.genNum then { x with gens := g } else { x with oldGens := (n, g) :: x.oldGens.filter (·.1 != n) }

/-- The rime generators that a word of the n-th reset uses, and their new state. -/
def Ctx.rimeAt (x : Ctx) (n : Nat) : Vector (BitVec 32) 16 :=
  if n = x.rimeNum then x.rime else (x.oldRime.lookup n).getD x.rime
def Ctx.setRimeAt (x : Ctx) (n : Nat) (g : Vector (BitVec 32) 16) : Ctx :=
  if n = x.rimeNum then { x with rime := g } else { x with oldRime := (n, g) :: x.oldRime.filter (·.1 != n) }

/-! ### Scratchpad and accumulator rows (R231, R235, R239, R345) -/

/-- The physical row of a context row, if the allotment holds it. -/
def Ctx.spadRow (x : Ctx) (r : Nat) : Option Nat :=
  if r < x.id.snb * 256 then some (x.id.sbank * 256 + r) else none

/-- The physical accumulator row of a context row, if the allotment holds it. -/
def Ctx.accRow (x : Ctx) (r : Nat) : Option Nat := if r < x.id.alen then some (x.id.abase + r) else none

/-- A write of a whole row clears its poison mark (R345). -/
def Core.putRow (k : Core) (r : Nat) (v : Row) : Core :=
  { k with spad := k.spad.write r v, spadBad := k.spadBad.filter (· != r) }

/-- A byte-enabled write of a row: the other bytes keep their values, and the mark stays (R235, R345). -/
def Core.putRowBytes (k : Core) (r : Nat) (enable : BitVec 256) (v : Row) : Core :=
  if enable = BitVec.allOnes 256 then k.putRow r v
  else { k with spad := k.spad.write r (merge (spread 8 2048 enable) (k.spad.read r) v) }

def Core.putAcc (k : Core) (r : Nat) (v : BitVec 8192) : Core :=
  { k with acc := k.acc.write r v, accBad := k.accBad.filter (· != r) }

/-- Bytes at a physical byte address of the scratchpad, and their byte-enabled write, within one row. -/
def Core.spadBytes (k : Core) (a n : Nat) : List Byte :=
  bytesOf n ((k.spad.read (a / 256)).toNat >>> (8 * (a % 256)))

def Core.putSpadBytes (k : Core) (a : Nat) (bs : List Byte) : Core :=
  k.putRowBytes (a / 256) (BitVec.ofNat 256 ((2 ^ bs.length - 1) <<< (a % 256)))
    (BitVec.ofNat 2048 (natOfBytes bs <<< (8 * (a % 256))))

/-! ### Exact accumulators (R67, R145) -/

/-- The value of XVAL. -/
def xval (e : BitVec 4352) : Int := signedOf 4348 e.toNat

/-- An accumulator from its flags and its value; XOVF is set when the value leaves its range. -/
def mkExact (nan pinf ninf ovf : Bool) (v : Int) : BitVec 4352 :=
  let out := v < -(2 ^ 4347 : Nat) || (2 ^ 4347 : Nat) ≤ v
  BitVec.ofBool nan ++ BitVec.ofBool pinf ++ BitVec.ofBool ninf ++ BitVec.ofBool (ovf || out)
    ++ BitVec.ofNat 4348 (wrapInt 4348 v)

/-- One term's value on the grid of R67. -/
def ETerm.grid (t : ETerm) : Int :=
  let m : Nat := if t.ex < -2148 then Config.offGrid t.mag t.ex else t.mag <<< (t.ex + 2148).toNat
  if t.neg then -(m : Int) else m

/-- Adds terms to an accumulator. -/
def addTerms (e : BitVec 4352) (ts : List ETerm) : BitVec 4352 :=
  mkExact (e.getLsbD 4351 || ts.any (·.cls == 3)) (e.getLsbD 4350 || ts.any (·.cls == 1))
    (e.getLsbD 4349 || ts.any (·.cls == 2)) (e.getLsbD 4348)
    (xval e + ((ts.filter (·.cls == 0)).map ETerm.grid).foldr (· + ·) 0)

/-! ### Results in flight (R79 to R81) -/

/-- What a landing result does to its core and context (R80). -/
def land (v : FlightVal) (k : Core) (x : Ctx) : Core × Ctx :=
  match v with
  | .scalar r w => (k, x.wr r w)
  | .vec p en w => ({ k with vregs := k.vregs.write p (merge (spread 8 1024 en) (k.vregs.read p) w) }, x)
  | .pair lo hi ln w =>
      let m := spread 32 2048 ln
      let k1 := { k with vregs := k.vregs.write lo (merge (fieldOf m 0 1024) (k.vregs.read lo) (fieldOf w 0 1024)) }
      ({ k1 with vregs := k1.vregs.write hi (merge (fieldOf m 1024 1024) (k1.vregs.read hi) (fieldOf w 1024 1024)) }, x)
  | .pred r m w => (k, x.setPred r (merge m (x.pred r) w))
  | .terms e ts => (k, x.setExact e (addTerms (x.exact e) ts))
  | .exact e w => (k, x.setExact e w)
  | .row r ln w =>
      match x.spadRow r with
      | some p => (k.putRowBytes p (spread 4 256 ln) w, x)
      | none => (k, x)

/-- Inserts a result after those that land no later: landing order, and issue order within a clock. -/
def insertFlight (f : Flight) : List Flight → List Flight
  | [] => [f]
  | g :: r => if g.land ≤ f.land then g :: insertFlight f r else f :: g :: r

/-- The unit's clock. -/
def Ctx.clk (x : Ctx) : FixUnit → Nat
  | .ctl => x.cclk
  | .vec => x.xclk

/-- Lands the results of a unit whose landing clock is below the bound. -/
def landBefore (u : FixUnit) (bound : Nat) (k : Core) (x : Ctx) : Core × Ctx :=
  let due := x.flights.filter fun f => f.unit == u && decide (f.land < bound)
  let ordered := due.foldl (fun acc f => insertFlight f acc) []
  ordered.foldl (fun a f => land f.val a.1 a.2)
    (k, { x with flights := x.flights.filter fun f => !(f.unit == u && decide (f.land < bound)) })

/-- Lands every result of the unit that a word of its present clock reads (R79). -/
def landDue (u : FixUnit) (k : Core) (x : Ctx) : Core × Ctx := landBefore u (x.clk u + 1) k x

/-- The results in flight that a word of the unit counts (R81): those that land after the present clock of their unit. What was put back
in flight is in flight from its unit's first issue (R229); it counts before that for words of its own unit (DEDUCED, log 16). -/
def Ctx.flying (x : Ctx) (u : FixUnit) : List Flight :=
  x.flights.filter fun f => decide (x.clk f.unit < f.land) &&
    (f.unit == u || !(match f.unit with | .ctl => x.ctlFresh | .vec => x.xFresh))

/-- One more result may be in flight (R81). -/
def Ctx.room (x : Ctx) (u : FixUnit) : Bool := decide ((x.flying u).length < maxFlights)

/-- The context as a control word sees it; control-core results are scalars (R79, log 15). -/
def Ctx.landed (x : Ctx) (k : Core) : Ctx := (landDue .ctl k x).2

/-- Lands what is due of a unit of a resident context. -/
def State.landAt (s : State) (c : CoreId) (b : BankId) (u : FixUnit) : State :=
  match s.ctxAt c b with
  | none => s
  | some x =>
    let (k, x) := landDue u (s.core c) x
    (s.setCore c k).setCtxAt c b (some x)

/-- A held word goes on or gives way: nothing holds the control core (R227). -/
def Ctx.unheld (x : Ctx) : Ctx := { x with hold := .none, heldClk := 0, issue := none, stall := none }

/-- A clk in which the unit issues nothing passes: until it first issues again, results that were put back in flight wait with it
(R90, R229, R297). -/
def Ctx.postpone (x : Ctx) (u : FixUnit) (n : Nat) : Ctx :=
  { x with flights := x.flights.map fun f => if f.unit = u then { f with land := f.land + n } else f }

/-- TMR counts n clocks down while the context is active and outside trap mode; reaching 0 raises TIMER (R87). -/
def Ctx.countTmr (x : Ctx) (active : Bool) (n : Nat) : Ctx :=
  if active && !x.trapMode && x.sys.tmr != 0 then
    if x.sys.tmr.toNat ≤ n then
      { x with sys := { x.sys with tmr := 0 }, pendE := x.pendE ++ [{ code := .timer, cls := .e }] }
    else { x with sys := { x.sys with tmr := x.sys.tmr - BitVec.ofNat 64 n } }
  else x

/-- The executing control core's clock passes n clk. -/
def State.passCtl (s : State) (x : Ctx) (n : Nat) : State :=
  s.putCtx ({ x with cclk := x.cclk + n }.countTmr ((s.myCore.active) == some s.cur.bank) n)

/-- True when a flight will write the scalar register. -/
def Ctx.scalarPending (x : Ctx) (r : SReg) : Bool :=
  r != 0 && x.flights.any fun f => match f.val with | .scalar q _ => q == r | _ => false

def Ctx.predPending (x : Ctx) (g : PReg) : Bool :=
  x.flights.any fun f => match f.val with | .pred q _ _ => q == g | _ => false

def Ctx.vecPending (x : Ctx) (p : Nat) : Bool :=
  x.flights.any fun f => match f.val with | .vec q _ _ => q == p | .pair lo hi _ _ => lo == p || hi == p | _ => false

def Ctx.exactPending (x : Ctx) (e : EReg) : Bool :=
  x.flights.any fun f => match f.val with | .terms q _ => q == e | .exact q _ => q == e | _ => false

def Ctx.rowPending (x : Ctx) (r : Nat) : Bool :=
  x.flights.any fun f => match f.val with | .row q _ _ => q == r | _ => false

def Ctx.guardPending (x : Ctx) (g : Guard) : Bool :=
  match g with
  | none => false
  | some g => x.predPending g.p

/-! ### Tokens and timelines (R77, R78) -/

def Ctx.tokCount (x : Ctx) (t : BitVec 3) : Nat := x.regs.w[t.toNat]'t.isLt

def Ctx.tokFull (x : Ctx) (t : Token) : Bool := match t with | none => false | some t => 63 ≤ x.tokCount t

def Ctx.tokAdd (x : Ctx) (t : Token) : Ctx :=
  match t with
  | none => x
  | some t => { x with regs := { x.regs with w := x.regs.w.set t.toNat (x.tokCount t + 1) t.isLt } }

def Ctx.tokDone (x : Ctx) (t : Token) : Ctx :=
  match t with
  | none => x
  | some t => { x with regs := { x.regs with w := x.regs.w.set t.toNat (x.tokCount t - 1) t.isLt } }

def Timelines.get (t : Timelines) : Ctr → Timeline
  | .tla => t.a | .tls => t.s | .tlm => t.m | .tlp => t.p | .tli => t.i | .tlc => t.c

def Timelines.set (t : Timelines) (k : Ctr) (v : Timeline) : Timelines :=
  match k with
  | .tla => { t with a := v } | .tls => { t with s := v } | .tlm => { t with m := v }
  | .tlp => { t with p := v } | .tli => { t with i := v } | .tlc => { t with c := v }

/-- The value rises over every completed number that follows it. -/
def Timeline.rise (t : Timeline) : Nat → Timeline
  | 0 => t
  | n + 1 =>
    if t.ahead.contains (t.value + 1) then
      Timeline.rise { t with value := t.value + 1, ahead := t.ahead.filter (· != t.value + 1) } n
    else t

/-- Macro n completes. -/
def Timeline.complete (t : Timeline) (n : Nat) : Timeline :=
  Timeline.rise { t with ahead := n :: t.ahead } (t.ahead.length + 1)

/-! ### Module memory: addresses, views and writes (R247 to R249, R375) -/

/-- The home die of a byte of module memory (R242, R375). -/
def homeDie (pa : Nat) : DieId :=
  if pa < capacityBase then Fin.ofNat 4 (pa / (192 * 2 ^ 30))
  else if pa < dsmBase then Fin.ofNat 4 ((pa - capacityBase) / 2 ^ 39)
  else Fin.ofNat 4 ((pa - dsmBase) / dsmBytes)

/-- True where the tier holds the byte. -/
def isMemory (pa : Nat) : Bool :=
  decide (pa < stackBytes) || (decide (capacityBase ≤ pa) && decide (pa < capacityBase + capacityBytes))
    || (decide (dsmBase ≤ pa) && decide (pa < dsmBase + 4 * dsmBytes))

/-- The unit of the home order that a byte belongs to: its sector, or its row in die shared memory (R249). -/
def orderKey (pa : Nat) : Nat := if dsmBase ≤ pa then 2 * (pa / 256) + 1 else 2 * (pa / 32)

def State.readView (s : State) (d : DieId) (pa n : Nat) : List Byte :=
  (List.range n).map fun i => Sparse.read (s.views[d]) (pa + i)

def State.applyView (s : State) (d : DieId) (pa : Nat) (bs : List Byte) : State :=
  { s with views := s.views.set d (Sparse.writeAll (w := 8) s.views[d] pa bs) }

def State.seqOf (s : State) (key : Nat) : Nat := (s.homeSeq.lookup key).getD 0

def State.appliedOf (s : State) (d : DieId) (key : Nat) : Nat :=
  match s.applied.find? fun a => a.1 == d.val && a.2.1 == key with
  | some a => a.2.2
  | none => 0

def State.setApplied (s : State) (d : DieId) (key n : Nat) : State :=
  { s with applied := (d.val, key, n) :: s.applied.filter fun a => !(a.1 == d.val && a.2.1 == key) }

/-- Bytes with their addresses, written to a view. -/
def State.applyCells (s : State) (d : DieId) (cs : List Host.Cell) : State :=
  { s with views := s.views.set d (cs.foldl (fun m c => Sparse.write (w := 8) m c.1 c.2) s.views[d]) }

/-- A write by an agent of die d whose bytes lie in one unit of the home order. It takes its place, is stamped and applied to
view d, and travels to the other dies; `none` while an earlier write of the unit has not reached view d (R248, R249, log 19). -/
def State.writeCells (s : State) (d : DieId) (key : Nat) (cs : List Host.Cell) (own : Option (CoreId × BitVec 32)) :
    Option State :=
  let n := s.seqOf key
  if s.appliedOf d key = n then
    let vcd := s.vc[d].set d (s.vc[d][d] + 1)
    let s := { s with vc := s.vc.set d vcd, homeSeq := (key, n + 1) :: s.homeSeq.filter (·.1 != key) }
    let s := (s.applyCells d cs).setApplied d key (n + 1)
    some { s with
      transit := s.transit ++ (([0, 1, 2, 3] : List DieId).filter (· != d)).map fun e =>
        { src := d, dst := e, stamp := vcd.toList, key := key, cells := cs, seq := n + 1, own := own } }
  else none

/-- A write of consecutive bytes within one unit. -/
def State.writeMem (s : State) (d : DieId) (pa : Nat) (bs : List Byte) (own : Option (CoreId × BitVec 32)) :
    Option State :=
  s.writeCells d (orderKey pa) (bs.zipIdx.map fun (b, i) => (pa + i, b)) own

/-- Firmware and hosts' writes reach every view at once (R333: LOAD_SEGMENTS, SWAPIN and migrations end with a drain). -/
def State.writeAllViews (s : State) (pa : Nat) (bs : List Byte) : State :=
  ([0, 1, 2, 3] : List DieId).foldl (fun s d => s.applyView d pa bs) s

/-- No write of the context is on its way to another die. -/
def State.drained (s : State) (own : CoreId × BitVec 32) : Bool := s.transit.all fun t => t.own != some own

/-- Every entry of die e's clock has reached c (R248). -/
def State.clockReached (s : State) (e : DieId) (c : List Nat) : Bool :=
  (s.vc[e].toList.zip c).all fun p => decide (p.2 ≤ p.1)

/-! ### Segments (R303 to R308) -/

end Sys2Proof.Machine

namespace Sys2Proof

def SegEntry.word (e : SegEntry) : Nat → Word
  | 0 => e.w0 | 1 => e.w1 | 2 => e.w2 | _ => e.w3

def SegEntry.setWord (e : SegEntry) (k : Nat) (v : Word) : SegEntry :=
  match k with
  | 0 => { e with w0 := v } | 1 => { e with w1 := v } | 2 => { e with w2 := v } | _ => { e with w3 := v }

def SegEntry.vbase (e : SegEntry) : Nat := fieldNat e.w0 16 36
def SegEntry.vleng (e : SegEntry) : Nat := fieldNat e.w1 16 36
def SegEntry.x (e : SegEntry) : Bool := e.w1.getLsbD 3
def SegEntry.w (e : SegEntry) : Bool := e.w1.getLsbD 2
def SegEntry.rp (e : SegEntry) : Bool := e.w1.getLsbD 1
def SegEntry.tier (e : SegEntry) : Nat := fieldNat e.w2 60 4
def SegEntry.obj (e : SegEntry) : Nat := fieldNat e.w2 0 10
def SegEntry.pevent (e : SegEntry) : Nat := fieldNat e.w3 32 32
def SegEntry.stallus (e : SegEntry) : Nat := fieldNat e.w3 16 16
def SegEntry.dhold (e : SegEntry) : Nat := fieldNat e.w3 12 4
def SegEntry.res (e : SegEntry) : Bool := e.w3.getLsbD 7
def SegEntry.amode (e : SegEntry) : Bool := e.w3.getLsbD 6
def SegEntry.dup (e : SegEntry) : Nat := fieldNat e.w3 4 2
def SegEntry.pois (e : SegEntry) : Bool := e.w3.getLsbD 3
def SegEntry.repl (e : SegEntry) : Bool := e.w3.getLsbD 2
def SegEntry.bytes (e : SegEntry) : Nat := e.vleng * 2 ^ 16

/-- The module address of the segment's first byte in the tiers 0x0 to 0x2 (R304). -/
def SegEntry.base (e : SegEntry) : Nat :=
  match e.tier with
  | 0 => fieldNat e.w2 16 32 * 2 ^ 16
  | 1 => capacityBase + fieldNat e.w2 16 32 * 2 ^ 16
  | _ => dsmBase + fieldNat e.w2 56 2 * dsmBytes + fieldNat e.w2 16 10 * 2 ^ 16

/-- The segment is valid and covers the address. -/
def SegEntry.holds (e : SegEntry) (va : Nat) : Bool :=
  e.vleng != 0 && decide (va < 2 ^ 52) && decide (e.vbase * 2 ^ 16 ≤ va) && decide (va < (e.vbase + e.vleng) * 2 ^ 16)

end Sys2Proof

namespace Sys2Proof.Machine

def State.space (s : State) (asid : BitVec 12) : Option Space := s.spaces.find? (·.asid == asid)

def Space.entry (t : Space) (i : Nat) : SegEntry := (t.entries.lookup i).getD {}

def State.entry (s : State) (asid : BitVec 12) (i : Nat) : SegEntry :=
  match s.space asid with
  | some t => t.entry i
  | none => {}

/-- Writes an entry of a loaded table; an entry of zeros is not listed. -/
def State.setEntry (s : State) (asid : BitVec 12) (i : Nat) (e : SegEntry) : State :=
  { s with spaces := s.spaces.map fun t =>
      if t.asid = asid then
        let rest := t.entries.filter (·.1 != i)
        { t with entries := if e = {} then rest else
            rest.filter (fun p => decide (p.1 < i)) ++ (i, e) :: rest.filter (fun p => decide (i < p.1)) }
      else t }

def State.obj (s : State) (n : Nat) : Option Obj := s.objs.find? (·.defn.obj == n)

/-- Puts an object back in its place. -/
def State.setObj (s : State) (o : Obj) : State :=
  { s with objs := s.objs.map fun p => if p.defn.obj = o.defn.obj then o else p }

/-- The home copy's first byte of a governed object (R313). -/
def Obj.base (o : Obj) : Nat := if o.defn.homeCap then capacityBase + o.defn.place else o.defn.place

def Obj.rowBytes (o : Obj) : Nat := 256 * o.defn.rowb

/-- Word k of an entry as a translation of the core may use it: the word as it stands, or as the die's copy held it since
the core's last discard (R306, log 4). Word 3 is read live. -/
def State.segWord (s : State) (k : Core) (asid : BitVec 12) (i w va : Nat) : Word :=
  let now := (s.entry asid i).word w
  let from_ := (k.discards.lookup asid).getD 0
  match s.segOld.filter fun o => o.asid == asid && o.idx == i && o.word == w && decide (from_ < o.till) with
  | [] => now
  | olds => ((now :: olds.map (·.val))[Config.choice s.tick (4096 + 2 * ((va * 1024 + i) * 4 + w)) % (olds.length + 1)]?).getD now

def State.segEntry (s : State) (k : Core) (asid : BitVec 12) (i va : Nat) : SegEntry :=
  { w0 := s.segWord k asid i 0 va, w1 := s.segWord k asid i 1 va, w2 := s.segWord k asid i 2 va,
    w3 := (s.entry asid i).w3 }

/-- The lowest-numbered valid entry whose range holds the address (R305). -/
def State.findSeg (s : State) (k : Core) (asid : BitVec 12) (va : Nat) : Option (Nat × SegEntry) :=
  let idxs := (match s.space asid with | some t => t.entries.map (·.1) | none => [])
    ++ (s.segOld.filter (·.asid == asid)).map (·.idx)
  let hit := idxs.filter fun i => (s.segEntry k asid i va).holds va
  match hit.min? with
  | none => none
  | some i => some (i, s.segEntry k asid i va)

/-- What an access is for. -/
inductive AccKind where
  | read
  | write
  | fetch
  deriving DecidableEq, Repr

/-- The outcome of a translation (R305). -/
inductive Xlat where
  | ok (loc : Loc) (seg : Nat)
  | segv
  | perm
  | poison (ev : Nat)
  | resid
  | absent (seg : Nat)
  | dup (seg : Nat)
  | hole
  deriving DecidableEq, Repr

/-- Where a translated byte stands. -/
def State.place (s : State) (e : SegEntry) (off : Nat) : Option Loc :=
  if e.tier = 3 then
    match s.obj e.obj with
    | some o => if isMemory (o.base + off) then some (.mem (o.base + off)) else none
    | none => none
  else if e.tier = 4 then some (.heat e.obj off)
  else if isMemory (e.base + off) && (decide (e.tier ≠ 2) || decide (fieldNat e.w2 16 10 * 2 ^ 16 + off < dsmBytes))
    && (decide (e.tier ≠ 0) || decide (e.base + off < stackBytes))
    && (decide (e.tier ≠ 1) || decide (e.base + off < capacityBase + capacityBytes))
  then some (.mem (e.base + off)) else none

/-- Translation in the order of R305. -/
def State.translate (s : State) (k : Core) (asid : BitVec 12) (va : Nat) (acc : AccKind) : Xlat :=
  match s.findSeg k asid va with
  | none => .segv
  | some (i, e) =>
    let ok := match acc with | .read => e.rp | .write => e.w | .fetch => e.x
    if !ok then .perm
    else if e.pois then .poison e.pevent
    else if acc == AccKind.write && e.dup != 0 then .dup i
    else if !e.res then (if e.amode then .resid else .absent i)
    else match s.place e (va - e.vbase * 2 ^ 16) with
      | some l => .ok l i
      | none => .hole

/-- The stack dies, numbered 16·stack + die, that have been accessed, with the microsecond of the last access (R323). -/
def Firm.touch (f : Firm) (l : Loc) : Firm :=
  match l with
  | .mem pa => if pa < stackBytes then { f with dieUse := (pa / 2 ^ 32, f.us) :: f.dieUse.filter (·.1 != pa / 2 ^ 32) } else f
  | _ => f

/-- A translation of a layer segment is its model context's last use (R311). -/
def State.noteSeg (s : State) (asid : BitVec 12) (seg : Nat) : State :=
  { s with models := s.models.map fun m =>
      if m.asid = asid ∧ (m.defn.layers.map (·.1)).contains seg then { m with lastUse := s.firm.us } else m }

/-- A translation that gives a place is also an access of the stack die that holds it (R323). -/
def State.noteUse (s : State) (asid : BitVec 12) (seg : Nat) (l : Loc) : State :=
  { s.noteSeg asid seg with firm := s.firm.touch l }

/-- A translation that gives no place, but found a segment, is a translation of that segment too (R311). -/
def State.noteXlat (s : State) (k : Core) (asid : BitVec 12) (va : Nat) : State :=
  match s.findSeg k asid va with
  | some (i, _) => s.noteSeg asid i
  | none => s

/-! ### The heat window (R314) -/

def Obj.row (o : Obj) (j : Nat) : RowRec :=
  match o.rows.find? (·.row == j) with
  | some r => r
  | none => { row := j, level := if o.defn.homeCap then 0 else 1, landed := if o.defn.homeCap then 0 else 1 }

def Obj.usedAt (o : Obj) (l : Nat) : Nat :=
  if l = 1 then (if o.defn.homeCap then (o.rows.filter fun r => decide (1 ≤ r.level)).length else 0)
  else (o.rows.filter fun r => decide (2 ≤ r.level)).length

/-- Bytes 8·q to 8·q + 7 of the window. -/
def Obj.heatWord (o : Obj) (q : Nat) : Nat :=
  match q with
  | 0 => o.tokens
  | 1 => o.defn.rows + o.defn.rowb * 2 ^ 32 + (if o.defn.homeCap then 2 ^ 40 else 0) + o.defn.gdie.val * 2 ^ 48
  | 2 => o.defn.stslots + o.defn.rsslots * 2 ^ 32
  | 3 => o.usedAt 1 + o.usedAt 2 * 2 ^ 32
  | q =>
    if q < 8 then 0
    else if q - 8 < o.defn.rows then
      let r := o.row (q - 8)
      r.heat + r.level * 2 ^ 8 + (r.last % 2 ^ 48) * 2 ^ 16
    else 0

/-- Bytes read at a location by an agent of die d on core k. -/
def State.readLoc (s : State) (d : DieId) (k : Core) (l : Loc) (n : Nat) : List Byte :=
  match l with
  | .mem pa => s.readView d pa n
  | .spad a => k.spadBytes a n
  | .heat o off =>
    match s.obj o with
    | none => List.replicate n 0
    | some o => (List.range n).map fun i =>
        BitVec.ofNat 8 (o.heatWord ((off + i) / 8) / 2 ^ (8 * ((off + i) % 8)))

/-! ### Instruction fetch (R30, R31) -/

/-- The sector of code at an aligned address: a line that was read since the thread's dispatch, or the memory, whichever the cache gives
(R31, log 14). -/
def State.codeSector (s : State) (c : CoreId) (asid : BitVec 12) (since va : Nat) (loc : Loc) : BitVec 256 :=
  let mem := BitVec.ofNat 256 (natOfBytes (s.readLoc (dieOf c) (s.core c) loc 32))
  match (s.core c).icache.find? fun l => l.asid == asid && l.va == va && decide (since ≤ l.born) with
  | none => mem
  | some l => if l.data = mem then mem else if Config.choice s.tick (4097 + 2 * va) % 2 = 0 then l.data else mem

/-- A sector joins the 64 KiB of the instruction cache (R8); which one gives way when it is full is free (log 14). -/
def Core.cacheSector (k : Core) (asid : BitVec 12) (va : Nat) (d : BitVec 256) (born n : Nat) : List ICLine :=
  let rest := k.icache.filter fun l => !(l.asid == asid && l.va == va)
  ⟨asid, va, d, born⟩ :: (if rest.length < icacheLines then rest else rest.eraseIdx (n % rest.length))

/-- The core holds the sector it fetched. -/
def State.holdSector (s : State) (c : CoreId) (asid : BitVec 12) (va : Nat) (d : BitVec 256) : State :=
  s.setCore c { s.core c with icache := (s.core c).cacheSector asid va d s.tick (Config.choice s.tick 6) }

/-- The sector that core c reads ahead, by the free choice: its address space and address. -/
def State.aheadOf (s : State) (c : Nat) : BitVec 12 × Nat :=
  (BitVec.ofNat 12 (Config.choice s.tick (1000 + c)), Config.choice s.tick (1000 + c) / 4096 * 32)

/-- Cores read code ahead at any time: with the sectors that the free choice names, where they translate, which is a use of their segments
(R31, R311, log 14). -/
def State.readAhead (s : State) : State :=
  let s' := { s with cores := s.cores.zipIdx.map fun (k, c) =>
      let (asid, va) := s.aheadOf c
      { k with icache := match s.translate k asid va .fetch with
          | .ok (.mem pa) _ => if Config.choice s.tick (2000 + c) % 2 = 0 then k.icache
              else k.cacheSector asid va (BitVec.ofNat 256 (natOfBytes (s.readView (Fin.ofNat 4 (c / 32)) pa 32))) s.tick
                (Config.choice s.tick 6)
          | _ => k.icache } }
  (List.range 128).foldl (fun t c =>
    let (asid, va) := s.aheadOf c
    match s.translate (s.core (Fin.ofNat 128 c)) asid va .fetch with
    | .ok l i => if Config.choice s.tick (2000 + c) % 2 = 0 then t else t.noteUse asid i l
    | _ => t) s'

/-- A code fetch that fails: the address whose translation fails, the translation, and the state in which what was translated before it
is noted. -/
structure NoFetch where
  at_ : Nat
  why : Xlat
  st  : State

/-- Fetches n ≤ 32 bytes of code at va, for a thread dispatched in step `since`: the bytes and the state with the sectors held, or why not. -/
def State.fetch (s : State) (c : CoreId) (asid : BitVec 12) (since : Nat) (va : Word) (n : Nat) : Except NoFetch (Nat × State) :=
  let a := va.toNat
  let lo := a / 32 * 32
  let hi := (a + n - 1) / 32 * 32
  match s.translate (s.core c) asid lo .fetch with
  | .ok l i =>
    let d := s.codeSector c asid since lo l
    let s := (s.noteUse asid i l).holdSector c asid lo d
    if hi = lo then .ok ((d.toNat >>> (8 * (a % 32))) % 2 ^ (8 * n), s)
    else match s.translate (s.core c) asid hi .fetch with
      | .ok l2 j =>
        let d2 := s.codeSector c asid since hi l2
        .ok (((d.toNat + d2.toNat * 2 ^ 256) >>> (8 * (a % 32))) % 2 ^ (8 * n), (s.noteUse asid j l2).holdSector c asid hi d2)
      | e => .error ⟨hi, e, s⟩
  | e => .error ⟨lo, e, s⟩

/-! ### Sections (R27 to R44) -/

def Counts.get (n : Counts) : Kind → Nat
  | .c => n.c | .l => n.l | .x => n.x | .s => n.s

def Counts.set (n : Counts) (k : Kind) (v : Nat) : Counts :=
  match k with
  | .c => { n with c := v } | .l => { n with l := v } | .x => { n with x := v } | .s => { n with s := v }

/-- The counts of the mode (R36). -/
def Ctx.dispOf (x : Ctx) (trapm : Bool) : Counts := if trapm then x.trapDisp else x.disp
def Ctx.retOf (x : Ctx) (trapm : Bool) : Counts := if trapm then x.trapRet else x.retired

def Ctx.setDisp (x : Ctx) (trapm : Bool) (n : Counts) : Ctx :=
  if trapm then { x with trapDisp := n } else { x with disp := n }
def Ctx.setRet (x : Ctx) (trapm : Bool) (n : Counts) : Ctx :=
  if trapm then { x with trapRet := n } else { x with retired := n }

/-- Every section that the back-references name has retired (R33). -/
def Ctx.depsMet (x : Ctx) (trapm : Bool) (d : Counts) : Bool :=
  let r := x.retOf trapm
  decide (d.c ≤ r.c) && decide (d.l ≤ r.l) && decide (d.x ≤ r.x) && decide (d.s ≤ r.s)

/-- The number of the section that a DEP field names, 0 for none and for one before the first (R33). -/
def depNumber (dispatched field : Nat) : Nat := if field = 0xFFFF then 0 else dispatched - field

/-- The numbers that a header's back-references name. -/
def headerDeps (h : Header) (n : Counts) : Counts :=
  let (p, q, r) := h.kind.others
  (((({} : Counts).set p (depNumber (n.get p) h.depA)).set q (depNumber (n.get q) h.depB)).set r
    (depNumber (n.get r) h.depC))

/-- The address of the header that follows (R28). -/
def CtlSec.next (c : CtlSec) : Word := c.hdr + BitVec.ofNat 64 ((8 + 12 * c.h.len + 7) / 8 * 8)

/-- Where the section's words end: its padding, when LEN is odd (R28). -/
def CtlSec.pad (c : CtlSec) : Word := c.hdr + BitVec.ofNat 64 (8 + 12 * c.h.len)

/-- Closes a partly pushed section (R44). -/
def Ctx.closeSec (x : Ctx) (uid : Nat) : Ctx :=
  { x with secs := x.secs.map fun t => if t.uid = uid then { t with closed := true } else t }

/-- The control core leaves its section: a C section retires (R32), a partly pushed one is closed (R44). -/
def Ctx.leaveSec (x : Ctx) (p : CtlPos) : Ctx :=
  match p.sec with
  | none => x
  | some c =>
    if c.h.kind = .c then
      let m := c.h.trapm
      x.setRet m ((x.retOf m).set .c ((x.dispOf m).get .c))
    else x.closeSec c.uid

/-- The control core goes to a header (R38). -/
def Ctx.goto (x : Ctx) (target : Word) : Ctx :=
  { (x.leaveSec x.ctl) with ctl := { pc := target, phase := .header, sec := none } }

/-- The next word of the section. -/
def CtlPos.step (p : CtlPos) : CtlPos :=
  { p with pc := p.pc + 12, sec := p.sec.map fun c => { c with idx := c.idx + 1 } }

/-! ### Control words -/

/-- The address that is the control core's PC: of its word, or of the header whose back-references it waits for (R29, R227). -/
def CtlPos.addr (p : CtlPos) : Word :=
  match p.phase, p.sec with
  | .waiting, some c => c.hdr
  | _, _ => p.pc

/-- The control core's word has issued, and nothing holds it. -/
def Ctx.issued (x : Ctx) : Ctx := { x.unheld with ctlFresh := false }

/-- The control core's clock passes n clk, what lands by then lands, and only then the word has the given effect. -/
def State.ctlAfter (s : State) (x : Ctx) (n : Nat) (f : Ctx → Ctx) : State :=
  let s := (s.passCtl x.issued n).landAt s.cur.core s.cur.bank .ctl
  match s.ctx? with
  | none => s
  | some x => s.putCtx (f x)

/-- A control word has executed and took n clk: the next word. -/
def State.ctlDone (s : State) (x : Ctx) (n : Nat := 1) : State :=
  s.passCtl { x.issued with ctl := x.ctl.step } n

/-- The word at which the control core stands, as it issued, or as it issues now (R91). -/
def State.issuing (s : State) (x : Ctx) : Issued := x.issue.getD ⟨s.cur.raw, x.regs.s⟩

/-- The control core holds at its word for one more clk (R296). A word that completes before any boundary has issued, and keeps what it
read (R91); one that waits has not, and what was put in flight again waits with it, but where it waits for a result to land (R81, R227,
R229). -/
def State.ctlHold (s : State) (x : Ctx) (h : Hold) : State :=
  let y := if h = .busy then { x with ctlFresh := false, issue := some (s.issuing x) }
    else { (if x.ctlFresh && h != .full then x.postpone .ctl 1 else x) with issue := none }
  s.passCtl { y with hold := h, heldClk := x.heldClk + 1 } 1

/-- The control core holds at a word that completes before any boundary (R227). -/
def State.ctlBusy (s : State) (x : Ctx) : State := s.ctlHold x .busy

/-- A control word whose result lands in sd after lat clk; s0 takes none, and a thirteenth result waits until one lands (R81, R91). -/
def State.ctlResult (s : State) (x : Ctx) (sd : SReg) (v : Word) (lat : Nat := 1) : State :=
  if sd = 0 then s.ctlDone x
  else if x.room .ctl then
    s.ctlDone { x with flights := x.flights ++ [{ unit := .ctl, land := x.cclk + lat, val := .scalar sd v }] }
  else s.ctlHold x .full

/-- The executing control core's clock passes n clk, its context as it stands. -/
def State.passNow (s : State) (n : Nat) : State :=
  match s.ctx? with
  | some x => s.passCtl x n
  | none => s

/-- A taken branch (R38, R99). -/
def State.ctlBranch (s : State) (x : Ctx) (target : Word) (n : Nat := 3) : State :=
  s.passCtl (x.goto target).issued n

/-! ### Engines -/

def Engines.get (q : Engines) : Eng → List Run
  | .load => q.load | .store => q.store | .index => q.index | .matrix => q.matrix | .pred => q.pred

def Engines.set (q : Engines) (e : Eng) (v : List Run) : Engines :=
  match e with
  | .load => { q with load := v } | .store => { q with store := v } | .index => { q with index := v }
  | .matrix => { q with matrix := v } | .pred => { q with pred := v }

def allEngines : List Eng := [.load, .store, .index, .matrix, .pred]

/-- Every macro of the context that has been handed to an engine. -/
def Ctx.runs (x : Ctx) : List Run := allEngines.flatMap x.eng.get

/-- The macro with the given counter and number, put back. -/
def Ctx.setRun (x : Ctx) (r : Run) : Ctx :=
  let f := fun t : Run => if t.ctr = r.ctr ∧ t.q.num = r.q.num then r else t
  { x with eng := { load := x.eng.load.map f, store := x.eng.store.map f, index := x.eng.index.map f,
                    matrix := x.eng.matrix.map f, pred := x.eng.pred.map f } }

/-- The held fault of lowest ENG code among the engines asked for (R86). -/
def Ctx.faultOn (x : Ctx) (want : Eng → Bool) : Option Run :=
  ([.tla, .tls, .tlm, .tlp, .tli, .tlc] : List Ctr).findSome? fun k =>
    (allEngines.filter want).findSome? fun e => (x.eng.get e).find? fun r => r.ctr == k && r.fault.isSome

/-- The timeline counter on which a word is numbered (R78). -/
def ctrOf (op : Nat) (k : Kind) : Option Ctr :=
  if op = 0x200 ∨ op = 0x203 ∨ op = 0x204 ∨ op = 0x209 then some .tla
  else if op = 0x201 then some .tls
  else if op = 0x202 then some (if k = .l then .tla else .tls)
  else if 0x205 ≤ op ∧ op ≤ 0x208 then some .tlc
  else if 0x20A ≤ op ∧ op ≤ 0x20C then some .tli
  else if (0x280 ≤ op ∧ op < 0x2A0) ∨ op = 0x2B0 ∨ op = 0x2B1 then some .tlm
  else if (0x2A0 ≤ op ∧ op ≤ 0x2A2) ∨ (0x300 ≤ op ∧ op ≤ 0x30B) then some .tlp
  else none

/-- The engine that runs a macro (R162). -/
def engOf (op : Nat) (k : Kind) : Eng :=
  if op = 0x202 then (if k = .l then .load else .store)
  else if op = 0x201 ∨ op = 0x205 ∨ op = 0x206 ∨ op = 0x208 then .store
  else if 0x20A ≤ op ∧ op ≤ 0x20C then .index
  else if op < 0x280 then .load
  else if op < 0x2A0 ∨ op = 0x2B0 ∨ op = 0x2B1 then .matrix
  else .pred

def QWord.eng (q : QWord) : Eng := engOf (opOf q.w) q.kind

/-- A word that carries handles and a descriptor in its EM fields. -/
def isEM (w : IWord) : Bool := opOf w == 0x1F0 || (decide (0x200 ≤ opOf w) && decide (opOf w < 0x300))

/-! ### Events and commands (R331, R336) -/

/-- The ARGS bytes of an event: each argument least significant byte first (R2), at a place that R336 does not give (log 7). -/
def eventArgs (code n : Nat) (args : List Nat) : List Byte :=
  (List.range 216).map fun j =>
    match args.zipIdx.find? fun (_, i) =>
      decide ((Config.eventPlace code i).1 ≤ j) && decide (j < (Config.eventPlace code i).1 + (Config.eventPlace code i).2) with
    | some (a, i) => BitVec.ofNat 8 (a / 256 ^ (j - (Config.eventPlace code i).1))
    | none => Config.eventFill code n j

/-- The BODY of an event: OPC 0, the code in STATUS, KIND 2, a SEQ that R336 does not give (log 7), and ARGS (R331, R336). -/
def eventBody (code n : Nat) (args : List Nat) : List Byte :=
  [0, BitVec.ofNat 8 code, 2, 0] ++ bytesOf 4 (Config.eventSeq code n) ++ eventArgs code n args

/-- Sends an event to every host. A module that is not in service
sends none (R336, R353, log 62). -/
def State.send (s : State) (code : Nat) (args : List Nat := []) : State :=
  { s with
    firm := { s.firm with evCount := s.firm.evCount + 1, events := s.firm.events ++ [{ code := code, args := args }] }
    outbox := s.outbox ++ (if s.firm.st = .ready then s.firm.hosts else []).map fun h =>
      { typ := 6, flit := { src := s.firm.node, dst := h, asid := 0, addr := 0, tag := 0 },
        body := eventBody code s.firm.evCount args, args := args } }

/-! ### Queues (R35, R83, R154) -/

def Ctx.queue (x : Ctx) : Kind → Queue
  | .l => x.ql | .s => x.qs | _ => x.qx

def Ctx.setQueue (x : Ctx) (k : Kind) (q : Queue) : Ctx :=
  match k with
  | .l => { x with ql := q } | .s => { x with qs := q } | _ => { x with qx := q }

/-- The first entry that the mode lets issue (R88, R90). -/
def Queue.head (q : Queue) (mode : Bool) : Option QWord := q.items.find? (·.trapm == mode)

/-- The queue without that entry. -/
def Queue.pop (q : Queue) (mode : Bool) : Queue := { q with items := q.items.eraseP (·.trapm == mode) }

/-- The words that take room in a queue of 128 (R35): those that have not issued, and the macros of its sections that no engine has
begun. The predictor takes a stream word when it issues (R205). Trap-mode words and the ordinary words that they pass take room
together (DESIGN CHOICE, log 22). -/
def Ctx.filled (x : Ctx) (k : Kind) : Nat :=
  (x.queue k).items.length + (x.runs.filter fun r => r.q.kind == k && !r.started && decide (opOf r.q.w < 0x300)).length

/-- The macros pushed that have not completed. -/
def Ctx.macros (x : Ctx) : List QWord :=
  (x.ql.items ++ x.qx.items ++ x.qs.items ++ x.runs.map (·.q)).filter fun q => (ctrOf (opOf q.w) q.kind).isSome

/-- The engines with an uncompleted macro of a kind (R86, R149). -/
def Ctx.enginesOf (x : Ctx) (want : QWord → Bool) (e : Eng) : Bool := x.macros.any fun q => want q && q.eng == e

/-- The held faults of some engines become deliverable (R86). -/
def Ctx.deliverFor (x : Ctx) (want : Eng → Bool) : Ctx :=
  let new := allEngines.filter fun e => want e && !x.deliver.contains e && (x.eng.get e).any (·.fault.isSome)
  { x with deliver := x.deliver ++ new }

/-- The next position of a nest, or none after the last (R154). -/
def nextPos (d : Vector Word 13) (pos : List Nat) : Option (List Nat) :=
  go 0 pos
where
  go (j : Nat) : List Nat → Option (List Nat)
    | [] => none
    | i :: r =>
      let b := fieldNat (d.toList[2 * j + 1]?.getD 0) 0 32
      if i + 1 < b then some ((i + 1) :: r) else (go (j + 1) r).map (0 :: ·)

/-- The rotation of RRB with an iteration's advance (R76, R154). -/
def Ctx.rotate (x : Ctx) : Ctx :=
  if x.sys.rotsz = 0 then x
  else { x with sys := { x.sys with rrb := (x.sys.rrb + x.sys.rotsz - 1) % x.sys.rotsz } }

/-- The word at the head of queue k has issued whole: the next word, or the next iteration of the loop, with its rotation in
one step, or the word after the loop (R154). -/
def Ctx.qNext (x : Ctx) (k : Kind) : Ctx :=
  let q := x.queue k
  match q.cur.loop with
  | none => x.setQueue k { q.pop x.trapMode with cur := { q.cur with rep := none, uid := 0 } }
  | some l =>
    if l.idx + 1 < l.len then x.setQueue k { q with cur := { q.cur with loop := some { l with idx := l.idx + 1 }, rep := none, uid := 0 } }
    else match nextPos l.desc l.pos with
      | some pos =>
        (x.setQueue k { q with cur := { q.cur with
          loop := some { l with idx := 0, pos := pos, rrb := x.sys.rrb }, rep := none, uid := 0 } }).rotate
      | none => x.setQueue k { q with cur := { q.cur with loop := none, rep := none, uid := 0 } }

/-- The X queue's clock passes one clk in which it issued; the second repetition of a split pair then issues alone (R158). -/
def Ctx.xTick (x : Ctx) : Ctx :=
  { x with xclk := x.xclk + 1, xFresh := false,
           qx := { x.qx with cur := { x.qx.cur with rep := x.qx.cur.rep.map fun r =>
             if r.half = 1 then { r with half := 2 } else r } } }

/-- The X queue stands between the two repetitions of one clock, where no boundary falls (R83). -/
def Ctx.midClk (x : Ctx) : Bool := match x.qx.cur.rep with | some r => r.half == 1 | none => false

/-- Something of the context waits for what the X queue has in flight: DONE, a header that names an X section, an MTS to a handle that a
word of the X queue names, or the word at the head of the L or S queue, whose section names an X section. -/
def Ctx.xAwaited (x : Ctx) : Bool :=
  x.ending || (match x.hold with
    | .wait .header => (match x.ctl.sec with | some t => decide ((x.retOf t.h.trapm).x < t.deps.x) | none => false)
    | .wait (.handle h) => x.flights.any fun f => f.unit == .vec && f.hnd == some h
    | _ => false)
    || ([.l, .s] : List Kind).any fun k => match (x.queue k).head x.trapMode with
      | none => false
      | some w => x.secs.any fun t => t.uid == w.uid && !t.open_ && decide ((x.retOf t.trapm).x < t.deps.x)

/-- A clk passes in which the X queue issues nothing: until its first issue since a return or a change of context, what was put back
in flight waits with it, unless its queue is empty and something waits for it (R90, R229, R297, log 16). -/
def Ctx.xWait (x : Ctx) : Ctx :=
  if x.midClk then x.xTick else
  let idle := x.qx.items.isEmpty && x.qx.cur == {}
  let y := if x.xFresh && !(idle && x.xAwaited) then x.postpone .vec 1 else x
  { y with xclk := x.xclk + 1 }

/-- The queue's word has issued, or waits: on the X queue a clk passes. -/
def Ctx.qTick (x : Ctx) (k : Kind) : Ctx := if k = .x then x.xTick else x
def Ctx.qIdle (x : Ctx) (k : Kind) : Ctx := if k = .x then x.xWait else x

/-- A section that was closed gives no further word: the REP, the VLOOP body or the skipped body that waits for one ends (R44). -/
def Ctx.abandon (x : Ctx) (k : Kind) : Ctx :=
  let q := x.queue k
  let gone := fun uid : Nat => !(x.secs.any fun t => t.uid == uid && !t.closed) && !(q.items.any (·.uid == uid))
  match q.cur.loop with
  | some l => if (l.body[l.idx]?).isNone && gone l.uid then x.setQueue k { q with cur := {} } else x
  | none => if (q.cur.rep.isSome || q.cur.skip != 0) && gone q.cur.uid
      then x.setQueue k { q with cur := { q.cur with rep := none, skip := 0, uid := 0 } } else x

/-! ### Ending a context (R103, R295, R300) -/

/-- The scratchpad banks and the accumulator groups of 8 rows that an allotment covers. -/
def Ident.banks (i : Ident) : List Nat := (List.range i.snb).map (i.sbank + ·)
def Ident.groups (i : Ident) : List Nat := (List.range (i.alen / 8)).map (i.abase / 8 + ·)

def Core.residents (k : Core) : List Ctx := k.banks.toList.filterMap id ++ (k.staging.map (·.1)).toList ++ k.parked

/-- Frees an allotment: a row is cleared when no other allotment covers it; rows of the message region are not (R232). -/
def Core.release (k : Core) (i : Ident) : Core :=
  let shares := k.shares.map fun t =>
    if t.sbank = i.sbank ∧ t.snb = i.snb then
      (if i.share then { t with count := t.count - 1 } else { t with ended := true })
    else t
  let shares := shares.filter fun t => !(t.ended && t.count == 0)
  let heldBanks := k.residents.flatMap (·.id.banks) ++ shares.flatMap fun t => (List.range t.snb).map (t.sbank + ·)
  let heldGroups := k.residents.flatMap (·.id.groups)
  { k with
    shares := shares
    clearing := k.clearing
      ++ (i.banks.filter fun b => !heldBanks.contains b && decide (k.msgn ≤ b)).map (fun b => (false, b))
      ++ (i.groups.filter fun g => !heldGroups.contains g).map (fun g => (true, g)) }

/-- The context ends: its bank and its allotments are free (R300). -/
def State.freeBank (s : State) (c : CoreId) (b : BankId) : State :=
  match s.ctxAt c b with
  | none => s
  | some x =>
    let k := s.core c
    let k := { k with banks := k.banks.set b none, active := if k.active = some b then none else k.active,
                      owners := k.owners.map fun o => if o = some b then none else o }
    { s.setCore c (k.release x.id) with
      txns := s.txns.filter fun t => !(t.core == c && t.bank == b) }

/-! ### TCAUSE and the trap frame (R84, R85, R89) -/

end Sys2Proof.Machine

namespace Sys2Proof

def Kind.num (k : Kind) : Nat := k.code.toNat

def CauseCode.num : CauseCode → Nat
  | .illegal => 0x01 | .sect => 0x02 | .allot => 0x03 | .hovf => 0x04 | .hund => 0x05 | .segv => 0x06 | .perm => 0x07
  | .resid => 0x08 | .poison => 0x09 | .misslim => 0x0A | .slot => 0x0B | .corr => 0x0C | .pend => 0x0D | .divz => 0x0E
  | .fpx => 0x0F | .group => 0x10 | .timeout => 0x11 | .timer => 0x12 | .swtrap => 0x13 | .dupw => 0x14
  | .remote => 0x15 | .watch => 0x16

def TrapClass.num : TrapClass → Nat
  | .p => 0 | .q => 1 | .a => 2 | .e => 3

/-- TCAUSE (R84). -/
def Cause.tcause (c : Cause) (kind : Kind) (chain : Nat) : Word :=
  BitVec.ofNat 64 (c.code.num + c.detail.toNat * 2 ^ 8 + c.cls.num * 2 ^ 16 + kind.num * 2 ^ 20
    + (match c.eng with | some e => e.code.toNat | none => 7) * 2 ^ 24 + min chain 255 * 2 ^ 32)

end Sys2Proof

namespace Sys2Proof.Machine

/-- The position in a loop nest after n steps (R154). -/
def nestPos (d : Vector Word 13) (n : Nat) : List Nat :=
  ((List.range 6).foldl (fun (acc : List Nat × Nat) j =>
    let b := fieldNat (d.toList[2 * j + 1]?.getD 0) 0 32
    (acc.1 ++ [if b = 0 then 0 else acc.2 % b], if b = 0 then 0 else acc.2 / b)) ([], n)).1

/-- The 64 bytes of a micro-program counter: the fields of R83 in order, one after the other with no gap (log 8). -/
def microBits (wpc : Nat) (pos : List Nat) (body rep nop rowprog : Nat) : Nat :=
  wpc % 2 ^ 64 + ofElems 32 ((pos ++ [0, 0, 0, 0, 0, 0]).take 6) * 2 ^ 64 + (body % 2 ^ 12) * 2 ^ 256
    + (rep % 2 ^ 16) * 2 ^ 268 + (nop % 2 ^ 8) * 2 ^ 284 + (rowprog % 2 ^ 64) * 2 ^ 292

/-- ROWPROG of a macro (R168). -/
def Run.rowprog (r : Run) : Nat := r.done % 2 ^ 32 + (r.tstep % 2 ^ 16) * 2 ^ 32

def QWord.addr (q : QWord) : Nat := q.hdr.toNat + 8 + 12 * q.idx

/-- The micro-program counter of a queue (R83): that of a NOP that runs; of the macro in progress that the L or S queue issued, while no
other word than a macro stands behind it; else of the next word. An empty queue gives WPC 0, and IDX0 of a macro without a descriptor
is the count of its units done (log 8). -/
def Queue.microOf (q : Queue) (run : Option Run) (rowprog : Nat) : Nat :=
  let head := q.head false
  let behind := match head with | some w => (ctrOf (opOf w.w) w.kind).isSome | none => true
  match (if q.cur.nop == 0 && behind then run else none) with
  | some r => microBits r.q.addr (if fieldOf r.q.w 42 1 = 1 then nestPos r.q.cap.desc r.done else [r.done]) 0 0 0 rowprog
  | none =>
    let rep := match q.cur.rep with | some r => r.px.count.toNat - r.i | none => 0
    match q.cur.loop with
    | some l =>
      microBits (match (l.body[l.idx]?).orElse fun _ => head with | some w => w.addr | none => 0) l.pos l.idx rep q.cur.nop
        rowprog
    | none => microBits (match head with | some w => w.addr | none => 0) [] 0 rep q.cur.nop rowprog

/-- The 128 bits of a handle (R236). -/
def Handle.low (h : Handle) : Word := BitVec.ofNat 64 (h.row + h.bank * 2 ^ 8 + h.slots * 2 ^ 20 + h.rps * 2 ^ 32)
def Handle.high (h : Handle) : Word := BitVec.ofNat 64 (h.head * 2 ^ 16 + h.tail * 2 ^ 24 + h.filled * 2 ^ 32)

/-- The lanes of a byte mask that hold an enabled byte, and whether every lane is whole. -/
def lanesOf (b : BitVec 128) : BitVec 32 :=
  BitVec.ofNat 32 (ofElems 1 ((List.range 32).map fun i => if fieldNat b (4 * i) 4 = 0 then 0 else 1))
def wholeLanes (b : BitVec 128) : Bool := (List.range 32).all fun i => fieldNat b (4 * i) 4 == 0 || fieldNat b (4 * i) 4 == 15

def ETerm.bits (t : ETerm) : Nat :=
  t.mag % 2 ^ 106 + wrapInt 13 t.ex * 2 ^ 106 + (if t.neg then 2 ^ 119 else 0) + (t.cls % 4) * 2 ^ 120

def ETerm.ofBits (n : Nat) : ETerm :=
  { mag := n % 2 ^ 106, ex := signedOf 13 (n >>> 106), neg := (n >>> 119) % 2 = 1, cls := (n >>> 120) % 4 }

/-- A latch slot's directory fields KIND, DEST, DEST2 and MASK, and its value (R89, log 25). -/
def FlightVal.slot (v : FlightVal) (x : Ctx) : Nat × Nat × Nat × Nat × Nat :=
  match v with
  | .scalar r w => (1, r.toNat, 0, 0, w.toNat)
  | .vec p b w => (2, p - x.id.vbase, 0, (lanesOf b).toNat,
      w.toNat + (if wholeLanes b then 2 ^ 128 - 1 else b.toNat) * 2 ^ 1024)
  | .pair lo hi m w => (3, lo - x.id.vbase, hi - x.id.vbase, m.toNat, w.toNat)
  | .pred r m w => (4, r.toNat, 0, m.toNat, w.toNat)
  | .terms e ts => (5, e.toNat, 0, 0, ofElems 128 (((ts ++ List.replicate 16 ({} : ETerm)).take 16).map ETerm.bits))
  | .exact e _ => (5, e.toNat, 0, 0, 2 * 2 ^ 122)
  | .row r m w => (6, r, 0, m.toNat, w.toNat)

/-- The results that trap entry latches, control core first, in issue order (R88). -/
def Ctx.latched (x : Ctx) : List Flight :=
  (x.flights.filter (·.unit == .ctl)) ++ x.flights.filter (·.unit == .vec)

/-- What finds no slot of the frame lands at the trap entry: results that were put in flight again and wait with their unit, and have left
room to the other unit's (DESIGN CHOICE, log 16). -/
def landOver (k : Core) (x : Ctx) : Core × Ctx :=
  let late := x.latched.drop maxFlights
  late.foldl (fun a f => land f.val a.1 a.2) (k, { x with flights := x.latched.take maxFlights })

/-- Bytes placed in a frame: offset and value. -/
def placeAll (fs : List (Nat × Nat)) : Nat := (fs.map fun f => f.2 <<< (8 * f.1)).foldr (· + ·) 0

/-- Frame bytes 0 to 47: CAUSE, PC, QPC, TLNUM, EVENT and ADDR (R89). EVENT is 0 for a cause whose entry names none
(DESIGN CHOICE, log 28). -/
def frameHead (cause : Cause) (tcause pc : Word) (qpc num : Nat) : List (Nat × Nat) :=
  [(0, tcause.toNat), (8, pc.toNat), (16, qpc % 2 ^ 64), (24, num % 2 ^ 64), (32, cause.event.toNat), (40, cause.addr.toNat)]

/-- Frame bytes 256 to 479 for class A (R89); IDX0 of a macro without a descriptor is 0 here (log 8). -/
def frameRun (r : Run) : List (Nat × Nat) :=
  let pos := if fieldOf r.q.w 42 1 = 1 then nestPos r.q.cap.desc r.done else []
  [(256, r.q.hdr.toNat), (264, r.q.idx % 2 ^ 64), (272, microBits r.q.addr pos 0 0 0 r.rowprog),
   (336, ofElems 64 (r.q.cap.desc.toList.map BitVec.toNat)),
   (440, ofElems 64 [r.q.cap.ha.low.toNat, r.q.cap.ha.high.toNat, r.q.cap.hb.low.toNat, r.q.cap.hb.high.toNat]),
   (472, r.rowprog)]

/-- The latch part of the frame: LATCHV, the directory and the values (R89). -/
def frameLatches (x : Ctx) : List (Nat × Nat) :=
  let ls := x.latched
  (48, 2 ^ ls.length - 1) :: (ls.zipIdx.flatMap fun (f, j) =>
    let (kind, dest, dest2, mask, val) := f.val.slot x
    [(512 + 16 * j, kind + (if f.unit = .ctl then 0 else 1) * 2 ^ 8 + (dest % 2 ^ 16) * 2 ^ 16
        + ((f.land - x.clk f.unit) % 2 ^ 16) * 2 ^ 32 + (dest2 % 2 ^ 16) * 2 ^ 48 + mask * 2 ^ 64),
     (768 + 256 * j, val % 2 ^ 2048)])

/-- The QPC word (R89). -/
def qpcOf (hdr : Word) (idx : Nat) : Nat := hdr.toNat * 4096 + idx

/-- Writes the 15 rows of a frame. -/
def Core.putFrame (k : Core) (first : Nat) (v : Nat) : Core :=
  (List.range 15).foldl (fun k i => k.putRow (first + i) (BitVec.ofNat 2048 (v >>> (2048 * i)))) k

/-- The bytes of a frame as one number. -/
def Core.frame (k : Core) (first : Nat) : Nat :=
  ofElems 2048 ((List.range 15).map fun i => (k.spad.read (first + i)).toNat)

def Ctx.frameRow (x : Ctx) : Nat := fieldNat x.sys.tframe 0 13

/-- The macro waits for slots of a handle that are not there (R165). -/
def Run.blocked (x : Ctx) (r : Run) : Bool :=
  match r.wait with
  | some (h, true, n) => decide ((x.handle h).slots - (x.handle h).filled < n)
  | some (h, false, n) => decide ((x.handle h).filled < n)
  | none => false

/-- An engine goes on with a macro of the context: the first, unless it has stopped or waits for a slot. -/
def Ctx.engGoing (x : Ctx) (e : Eng) : Bool :=
  match (x.eng.get e).head? with
  | none => false
  | some r => r.fault.isNone && !r.held && !r.blocked x

/-- Nothing that the context issued goes on: neither its scalar operations nor its macros. -/
def Ctx.spent (x : Ctx) : Bool := x.ops.isEmpty && allEngines.all fun e => !x.engGoing e

/-- The slot of a stopped context is free; its record and TCAUSE go to the host (R88, R344, R345). -/
def State.endFatal (s : State) (c : CoreId) (b : BankId) (tcause : Word) : State :=
  match s.ctxAt c b with
  | none => s
  | some x => (s.freeBank c b).send 0x11 [x.id.copy.rec_.toNat, tcause.toNat]

/-- The context issues nothing more: its queued words are dropped, and what it issued goes on (R88). -/
def Ctx.stopped (x : Ctx) (tcause : Word) : Ctx :=
  { x.unheld with
    fatal := some tcause
    ql := {}
    qx := {}
    qs := {}
    flights := []
    pendQ := none
    pendE := []
    deliver := []
    parking := false
    barg := none
    ending := false }

/-- A context stops (R88, R344, R345): at once where nothing that it issued is on its way, and else once that has completed, since
operations already issued go on (log 28). -/
def State.ctxFatal (s : State) (c : CoreId) (b : BankId) (tcause : Word) : State :=
  match s.ctxAt c b with
  | none => s
  | some x =>
    if x.spent then s.endFatal c b tcause
    else
      let k := s.core c
      s.setCore c { k with banks := k.banks.set b (some (x.stopped tcause)), active := if k.active = some b then none else k.active }

/-- Where a trap comes from: the kind for TCAUSE, QPC and TLNUM, and the macro of class A. -/
structure TrapSrc where
  kind : Kind
  qpc  : Nat := 0
  num  : Nat := 0
  run  : Option Run := none

/-- The kind of the section that the control core decodes next: of a header that cannot be fetched, whose kind nothing gives, C
(DESIGN CHOICE, log 28). -/
def State.nextKind (s : State) (x : Ctx) : Kind :=
  let header := fun a : Word => match s.fetch s.cur.core x.id.asid x.begun a 8 with
    | .ok (h, _) => Kind.ofCode (fieldOf (BitVec.ofNat 64 h) 62 2)
    | .error _ => .c
  match x.ctl.sec with
  | some c => if c.idx < c.h.len then c.h.kind else header c.next
  | none => header x.ctl.pc

def State.trapSrc (s : State) (x : Ctx) (cause : Cause) : TrapSrc :=
  match cause.cls with
  | .q => match x.pendQ with
    | some q => { kind := q.kind, qpc := qpcOf q.hdr q.idx }
    | none => { kind := .x }
  | .a => match x.runs.find? fun r => cause.eng == some r.ctr && r.q.num == cause.num with
    | some r => { kind := r.q.kind, qpc := qpcOf r.q.hdr r.q.idx, num := r.q.num, run := some r }
    | none => { kind := .c }
  | .p => { kind := match x.ctl.sec with | some c => c.h.kind | none => s.nextKind x }
  | .e => { kind := s.nextKind x }

/-- The header at TVEC, which must open a trap-mode C section (R40, R88). One whose fetch fails or finds its segment absent
opens none, and the context stops (DESIGN CHOICE, log 28). -/
def State.tvecOk (s : State) (x : Ctx) : Bool :=
  fieldNat x.sys.tvec 0 3 == 0 &&
  match s.fetch s.cur.core x.id.asid x.begun x.sys.tvec 8 with
  | .ok (h, _) => match decodeHeader (BitVec.ofNat 64 h) with
    | some h => h.kind == .c && h.trapm
    | none => false
  | .error _ => false

/-- TVEC is no trap-mode C header, or the frame leaves the allotment: a context that would enter its handler stops (R88). -/
def State.noHandler (s : State) (x : Ctx) : Bool := decide (x.id.snb * 256 < x.frameRow + 15) || !s.tvecOk x

/-- A delivered fault leaves its macro stopped until the RTT that resumes; a delivered class-Q trap leaves the queue. -/
def Ctx.delivered (x : Ctx) (cause : Cause) (src : TrapSrc) : Ctx :=
  match cause.cls with
  | .q => { x with pendQ := none }
  | .a => match src.run with
    | some r => { x.setRun { r with fault := none, held := true } with deliver := x.deliver.filter (· != r.q.eng) }
    | none => x
  | .e => { x with pendE := x.pendE.drop 1 }
  | .p => if x.pendE.head? = some cause then { x with pendE := x.pendE.drop 1 } else x

/-- TRAP ENTRY (R88, R89), the one operation by which every trap is taken: the control core stands at `x.ctl.pc`; results in
flight are latched into the frame, the frame and TCAUSE are written, the queues stop, and the control core enters TVEC in
trap mode. The context stops where R88 says so. The stall limit of a word that traps counts anew when RTT lets it execute again (DESIGN
CHOICE, log 75). -/
def State.takeTrap (s : State) (x : Ctx) (cause : Cause) (kind : Option Kind := none) : State :=
  let src := s.trapSrc x cause
  let src := { src with kind := kind.getD src.kind }
  -- results that land before the units' next clocks have landed; the word that traps reads, and does not land, the others
  let x := match s.ctx? with
    | some y => { x with flights := y.flights, regs := { x.regs with s := y.regs.s } }
    | none => x
  let (k, x) := landBefore .ctl x.cclk s.myCore x
  let (k, x) := landBefore .vec x.xclk k x
  let (k, x) := landOver k x
  let s := s.putCore k
  let tc := cause.tcause src.kind 0
  let first := x.frameRow
  if (x.trapMode && (cause.cls == .p || cause.cls == .q)) || s.noHandler x then
    s.ctxFatal s.cur.core s.cur.bank tc
  else
    let run := fun k : Kind => x.runs.find? fun r => r.q.kind == k && !r.fin
    let prog := fun r : Option Run => match r with | some r => r.rowprog | none => 0
    let fields := frameHead cause tc x.ctl.addr src.qpc src.num ++ frameLatches x
      ++ [(64, x.ql.microOf (run .l) (prog (run .l))), (128, x.qx.microOf none (prog (run .x))),
          (192, x.qs.microOf (run .s) (prog (run .s)))]
      ++ (match src.run with | some r => frameRun r | none => [])
    let ls := x.latched.zipIdx
    let movs := ls.filterMap fun (f, j) => match f.val with | .exact _ v => some (j, v) | _ => none
    let s := s.putCore (s.myCore.putFrame (x.id.sbank * 256 + first) (placeAll fields))
    s.putCtx { x.delivered cause src with
      trapMode := true
      saved := some x.ctl
      trapPc := x.ctl.addr
      latchRec := movs.map fun m => (m.1, 2)
      heldMov := movs
      latchUid := x.latched.map fun f => (f.uid, f.hnd)
      flights := []
      sys := { x.sys with tcause := tc }
      ctl := { pc := x.sys.tvec }
      ql := { x.ql with saved := x.ql.cur, cur := {} }
      qx := { x.qx with saved := x.qx.cur, cur := {} }
      qs := { x.qs with saved := x.qs.cur, cur := {} }
      secs := x.secs.map fun t => if t.trapm then { t with counted := false } else t
      trapDisp := {}
      trapRet := {}
      hold := .none
      heldClk := 0
      issue := none
      stall := none
      stallSave := if cause.cls == .p then none else x.stall
      ctlFresh := false
      xFresh := false
      barg := none
      ending := false }

/-- A class-Q trap of a queue's word: the queue stops before the word takes effect, and the control core takes the trap at its
next boundary; in trap mode the context stops. The clk of a first repetition of the word ends with it (R83, R85, R88, log 13). -/
def State.raiseQ (s : State) (x : Ctx) (q : QWord) (c : Cause) : State :=
  if x.trapMode then s.ctxFatal s.cur.core s.cur.bank (c.tcause q.kind 0)
  else if x.pendQ.isSome then s.putCtx (x.qIdle q.kind)
  else
    let x := match x.qx.cur.rep with | some r => if q.kind = Kind.x ∧ r.half = 1 then x.xTick else x | none => x
    s.putCtx { x with pendQ := some { cause := c, hdr := q.hdr, idx := q.idx, kind := q.kind } }

/-- A class-P trap at the word the control core stands at (R44, R91). -/
def State.trapP (s : State) (x : Ctx) (code : CauseCode) (detail : Nat := 0) (event addr : Nat := 0) : State :=
  s.takeTrap x { code := code, cls := .p, detail := BitVec.ofNat 8 detail, event := BitVec.ofNat 64 event,
                 addr := BitVec.ofNat 64 addr }

/-- When the translations of the control core's word found segments absent (R227). -/
def Ctx.stalls (x : Ctx) : List (Nat × Nat) :=
  match x.stall with
  | some (a, l) => if a = x.ctl.addr then l else []
  | none => []

/-- When its word first found the segment absent, or now. -/
def Ctx.stalledFrom (x : Ctx) (seg now : Nat) : Nat := (x.stalls.lookup seg).getD now

/-- The control core stalls on an absent segment; the stall limit counts from the first translation of the word that found it
absent, and past the limit RESID is raised (R227, R305). -/
def State.ctlStall (s : State) (x : Ctx) (i va : Nat) : State :=
  let from_ := x.stalledFrom i s.firm.us
  let lim := (s.entry x.id.asid i).stallus
  if lim ≠ 0 ∧ lim ≤ s.firm.us - from_ then s.trapP x .resid 0 0 va
  else s.ctlHold { x with stall := some (x.ctl.addr, (i, from_) :: x.stalls.filter (·.1 != i)) } (.stall i va)

/-! ### Return from a trap (R90) -/

/-- A latch slot read back from the frame: its unit, REMAIN and value; `none` where validation rejects it. -/
def Ctx.readSlot (x : Ctx) (fr j : Nat) : Option (FixUnit × Nat × FlightVal) :=
  let dir := (fr >>> (8 * (512 + 16 * j))) % 2 ^ 128
  let val := (fr >>> (8 * (768 + 256 * j))) % 2 ^ 2048
  let kind := dir % 256
  let unit := (dir >>> 8) % 256
  let dest := (dir >>> 16) % 2 ^ 16
  let remain := (dir >>> 32) % 2 ^ 16
  let dest2 := (dir >>> 48) % 2 ^ 16
  let mask := dir >>> 64
  let rec0 : BitVec 6 := BitVec.ofNat 6 (val >>> 122)
  if 2 ≤ unit ∨ 20 ≤ remain then none
  else
    let u : FixUnit := if unit = 0 then .ctl else .vec
    let v : Option FlightVal := match kind with
      | 1 => if dest < 64 then some (.scalar (BitVec.ofNat 6 dest) (BitVec.ofNat 64 val)) else none
      | 2 => if dest < x.vlen then
          some (.vec (x.id.vbase + dest)
            (BitVec.ofNat 128 (val >>> 1024) &&& spread 4 128 (BitVec.ofNat 32 mask)) (BitVec.ofNat 1024 val)) else none
      | 3 => if dest < x.vlen ∧ dest2 < x.vlen then
          some (.pair (x.id.vbase + dest) (x.id.vbase + dest2) (BitVec.ofNat 64 mask) (BitVec.ofNat 2048 val)) else none
      | 4 => if dest < 16 then
          some (.pred (BitVec.ofNat 4 dest) (BitVec.ofNat 32 mask) (BitVec.ofNat 32 val)) else none
      | 5 => if dest < 4 ∧ rec0 = (x.latchRec.lookup j).getD 0 then
          match x.heldMov.lookup j with
          | some m => some (.exact (BitVec.ofNat 2 dest) m)
          | none => some (.terms (BitVec.ofNat 2 dest)
              ((List.range 16).map fun i => ETerm.ofBits ((val >>> (128 * i)) % 2 ^ 128)))
        else none
      | 6 => if dest < x.id.snb * 256 then some (.row dest (BitVec.ofNat 64 mask) (BitVec.ofNat 2048 val)) else none
      | _ => none
    v.map fun v => (u, remain, v)

/-- The valid slots of a frame in slot order, each with its word's section and handle; `none` where one is rejected. -/
def Ctx.readSlots (x : Ctx) (fr : Nat) : Option (List (FixUnit × Nat × FlightVal × Nat × Option HReg)) :=
  ((List.range 12).filter fun j => (fr >>> (8 * 48 + j)) % 2 = 1).mapM fun j =>
    (x.readSlot fr j).map fun (u, rem, v) => (u, rem, v, (x.latchUid[j]?).getD (0, none))

/-- Chaining at RTT: the new fault overwrites offsets 0, 16 to 47 and 256 to 511 of the frame, CHAIN rises, and the handler
is entered again; the context stops where a trap entry would stop it (R88, R90; log 28). -/
def State.chain (s : State) (x : Ctx) (r : Run) (cause : Cause) : State :=
  let chain := min (fieldNat x.sys.tcause 32 8 + 1) 255
  let tc := cause.tcause r.q.kind chain
  if s.noHandler x then s.ctxFatal s.cur.core s.cur.bank tc else
  let first := x.id.sbank * 256 + x.frameRow
  let new := placeAll ((frameHead cause tc 0 (qpcOf r.q.hdr r.q.idx) r.q.num).filter (·.1 != 8) ++ frameRun r)
  -- bytes 0 to 7 and 16 to 47 of the first row, and the second row
  let s := s.putCore ((s.myCore.putRowBytes first (BitVec.ofNat 256 (2 ^ 48 - 2 ^ 16 + 2 ^ 8 - 1)) (BitVec.ofNat 2048 new)).putRow
    (first + 1) (BitVec.ofNat 2048 (new >>> 2048)))
  s.putCtx { (x.setRun { r with fault := none, held := true }).unheld with
    deliver := x.deliver.filter (· != r.q.eng)
    sys := { x.sys with tcause := tc }
    ctl := { pc := x.sys.tvec }
    secs := x.secs.map fun t => if t.trapm then { t with counted := false } else t
    trapDisp := {}
    trapRet := {} }

/-- Resuming after RTT: the slots are put in flight again relative to the clock in which each unit first issues, and the control
core and the queues stand where the frame says (R90, R229, log 16). The RTT itself takes one clk (log 28). -/
def State.resume (s : State) (x : Ctx) (slots : List (FixUnit × Nat × FlightVal × Nat × Option HReg)) (pc : Word) : State :=
  let stall := x.stallSave
  let x : Ctx := { x.unheld with
    trapMode := false
    ctlFresh := true
    xFresh := true
    stallSave := none
    sys := { x.sys with tcause := x.sys.tcause &&& 0xFFFFFF00FFFFFFFF }
    latchRec := []
    heldMov := []
    latchUid := []
    cclk := x.cclk + 1
    flights := x.flights ++ slots.map fun (u, rem, v, uid, h) =>
      { unit := u, land := (if u = .ctl then x.cclk + 1 else x.xclk) + rem, val := v, uid := uid, hnd := h }
    ql := { x.ql with cur := x.ql.saved, saved := {} }
    qx := { x.qx with cur := x.qx.saved, saved := {} }
    qs := { x.qs with cur := x.qs.saved, saved := {} }
    eng := allEngines.foldl (fun (q : Engines) e => q.set e ((q.get e).map fun r => { r with held := false })) x.eng }
  let x := match x.saved with
    | some p => if pc = x.trapPc then { x with ctl := p, saved := none, stall := stall }
        else { (x.leaveSec p) with ctl := { pc := pc }, saved := none }
    | none => { x with ctl := { pc := pc } }
  s.putCtx x

/-! ### Thread start (R12, R71) -/

/-- The brim at thread start (R270). -/
def Brim.start : Brim := { slots := Vector.replicate 64 {} }

/-- A context as dispatch leaves it: s1 holds the frame pointer, and every other register its starting value (R12). -/
def Ctx.start (id : Ident) : Ctx where
  id := id
  regs :=
    { s := (Vector.replicate 64 0).set 1 (fieldOf id.copy.rec_ 64 64)
      p := Vector.replicate 16 0
      w := Vector.replicate 8 0
      e := Vector.replicate 4 0
      z := Vector.replicate 64 {}
      h := Vector.replicate 16 {}
      d := Vector.replicate 32 (Vector.replicate 13 0) }
  sys := { bfmt := Vector.replicate 32 0 }
  rime := Vector.ofFn fun c => let g := BitVec.ofNat 32 (c.val * 0x9E3779B9); if g = 0 then 1 else g
  pstat := Vector.replicate 6 0
  brim := Brim.start
  ctl := { pc := fieldOf id.copy.rec_ 0 64 }
end Sys2Proof.Machine
end

