-- ==== Sys2Proof/Machine/Num.lean ====
section
/-! DEFINITION. Numbers: formats and their exact values, rounding, encoding, and the correctly rounded functions (R47 to R54,
R56, R62 to R65, R68, R122, R189). -/

namespace Sys2Proof.Machine

/-- The value of a floating-point datum: a NaN, an infinity, or ± mag · 2^ex. -/
inductive FVal where
  | nan
  | inf (neg : Bool)
  | fin (neg : Bool) (mag : Nat) (ex : Int)
  deriving DecidableEq, Repr

/-- A format of R47: exponent and fraction widths; E4M3 has no infinity. -/
structure FFmt where
  eb    : Nat
  fb    : Nat
  noInf : Bool := false
  deriving DecidableEq, Repr

def f64F : FFmt := { eb := 11, fb := 52 }
def f32F : FFmt := { eb := 8, fb := 23 }
def f16F : FFmt := { eb := 5, fb := 10 }
def bf16F : FFmt := { eb := 8, fb := 7 }
def e5m2F : FFmt := { eb := 5, fb := 2 }
def e4m3F : FFmt := { eb := 4, fb := 3, noInf := true }

def bias (f : FFmt) : Int := (2 ^ (f.eb - 1) : Nat) - 1
/-- The exponent of the last place of a subnormal. -/
def qmin (f : FFmt) : Int := 1 - bias f - f.fb

/-- Decoding of R47. -/
def decodeF (f : FFmt) (bits : Nat) : FVal :=
  let neg := bits.testBit (f.eb + f.fb)
  let e := (bits >>> f.fb) % 2 ^ f.eb
  let fr := bits % 2 ^ f.fb
  if e = 2 ^ f.eb - 1 ∧ !f.noInf then (if fr = 0 then .inf neg else .nan)
  else if e = 2 ^ f.eb - 1 ∧ fr = 2 ^ f.fb - 1 then .nan
  else if e = 0 then .fin neg fr (qmin f)
  else .fin neg (fr + 2 ^ f.fb) (qmin f + (e - 1 : Nat))

/-- The canonical NaN (R49), infinities and largest finite values as bits. -/
def nanBits (f : FFmt) : Nat :=
  if f.noInf then 2 ^ (f.eb + f.fb) - 1 else (2 ^ f.eb - 1) * 2 ^ f.fb + 2 ^ (f.fb - 1)
def signBit (f : FFmt) (neg : Bool) : Nat := if neg then 2 ^ (f.eb + f.fb) else 0
def infBits (f : FFmt) (neg : Bool) : Nat := signBit f neg + (2 ^ f.eb - 1) * 2 ^ f.fb
def maxBits (f : FFmt) (neg : Bool) : Nat :=
  signBit f neg + (if f.noInf then 2 ^ (f.eb + f.fb) - 2 else (2 ^ f.eb - 1) * 2 ^ f.fb - 1)

/-! ### Rounding (R63, R64) -/

/-- Whether a magnitude with the discarded part rem/den of a last place is rounded away from zero. `sticky` says that a
positive amount below 1/den is discarded besides; r is the draw of SR. -/
def roundUp (rnd : Rnd) (neg odd : Bool) (rem den : Nat) (sticky : Bool) (r : Nat) : Bool :=
  if rem = 0 && !sticky then false
  else match rnd with
    | .rne => decide (den < 2 * rem) || (decide (den = 2 * rem) && (sticky || odd))
    | .rtz => false
    | .rdn => neg
    | .rup => !neg
    | .rna => decide (den ≤ 2 * rem)
    | .sr => decide (2 ^ 32 ≤ rem * 2 ^ 32 / den + r)

/-- num/den rounded to an integer magnitude. -/
def roundQuot (rnd : Rnd) (neg : Bool) (num den : Nat) (sticky : Bool) (r : Nat) : Nat :=
  let k := num / den
  if roundUp rnd neg (k % 2 == 1) (num % den) den sticky r then k + 1 else k

/-- mag · 2^ex rounded to a multiple of 2^q: the multiple. -/
def roundAt (rnd : Rnd) (neg : Bool) (mag : Nat) (ex q : Int) (sticky : Bool) (r : Nat) : Nat :=
  if q ≤ ex then mag <<< (ex - q).toNat else roundQuot rnd neg mag (2 ^ (q - ex).toNat) sticky r

/-- One clock of a rounding generator (R64). -/
def srNext (g : BitVec 32) : BitVec 32 :=
  if g.getLsbD 0 then (g >>> 1) ^^^ 0x80200003 else g >>> 1

/-- A mode that never rounds a number of this sign away from zero (R62). -/
def neverAway (rnd : Rnd) (neg : Bool) : Bool :=
  match rnd with
  | .rtz => true
  | .rdn => !neg
  | .rup => neg
  | _ => false

/-- Encoding into a floating-point format (R62). -/
def encodeF (f : FFmt) (rnd : Rnd) (sat : Bool) (r : Nat) (v : FVal) (sticky : Bool := false) : Nat :=
  match v with
  | .nan => nanBits f
  | .inf neg => if sat then maxBits f neg else if f.noInf then nanBits f else infBits f neg
  | .fin neg mag ex =>
    if mag = 0 then signBit f neg
    else
      let q := max ((mag.log2 : Int) + ex - f.fb) (qmin f)
      let m := roundAt rnd neg mag ex q sticky r
      let bits := (q - qmin f).toNat * 2 ^ f.fb + m
      if bits ≤ maxBits f false then signBit f neg + bits
      else if sat then maxBits f neg
      else if f.noInf then nanBits f
      else if neverAway rnd neg then maxBits f neg else infBits f neg

/-- FP32 rounded to nearest even. -/
def rne32 (v : FVal) : FVal := decodeF f32F (encodeF f32F .rne false 0 v)

/-! ### Exact arithmetic -/

def FVal.neg? : FVal → Bool
  | .nan => false
  | .inf n => n
  | .fin n _ _ => n

def FVal.negate : FVal → FVal
  | .nan => .nan
  | .inf n => .inf !n
  | .fin n m e => .fin (!n) m e

def FVal.isZero : FVal → Bool
  | .fin _ 0 _ => true
  | _ => false

def FVal.isNan : FVal → Bool
  | .nan => true
  | _ => false

def FVal.ofInt (i : Int) : FVal := .fin (decide (i < 0)) i.natAbs 0

/-- The signed multiple of 2^e that a finite value is, for e at or below its exponent. -/
def FVal.atExp (e : Int) : FVal → Int
  | .fin n m x => if n then -((m <<< (x - e).toNat : Nat) : Int) else (m <<< (x - e).toNat : Nat)
  | _ => 0

/-- A finite value's exponent; a zero has none of its own. -/
def FVal.expOr (d : Int) : FVal → Int
  | .fin _ 0 _ => d
  | .fin _ _ e => e
  | _ => d

def FVal.mul : FVal → FVal → FVal
  | .nan, _ => .nan
  | _, .nan => .nan
  | .inf n, b => if b.isZero then .nan else .inf (n != b.neg?)
  | a, .inf n => if a.isZero then .nan else .inf (a.neg? != n)
  | .fin n m e, .fin p q f => .fin (n != p) (m * q) (e + f)

/-- The exact sum; a zero sum of values that differ in sign is −0.0 under RDN and +0.0 under every other mode (IEEE 754). -/
def FVal.add (rnd : Rnd) (a b : FVal) : FVal :=
  match a, b with
  | .nan, _ => .nan
  | _, .nan => .nan
  | .inf n, .inf p => if n = p then .inf n else .nan
  | .inf n, _ => .inf n
  | _, .inf n => .inf n
  | .fin n m e, .fin p q f =>
    if m = 0 ∧ q = 0 then .fin (if n = p then n else decide (rnd = .rdn)) 0 0
    else
      let x := min (FVal.expOr f a) (FVal.expOr e b)
      let t := FVal.atExp x (if m = 0 then .fin n 0 x else a) + FVal.atExp x (if q = 0 then .fin p 0 x else b)
      if t = 0 then .fin (decide (rnd = .rdn)) 0 0 else .fin (decide (t < 0)) t.natAbs x

/-- Exact sum of many values, with the special values of R65; a zero sum is −0.0 only when every term is (log 53). -/
def FVal.sum (vs : List FVal) : FVal :=
  match vs with
  | [] => .fin false 0 0
  | v :: r => r.foldl (FVal.add .rne) v

/-- −1, 0 or 1, or none where a value is a NaN; −0.0 equals +0.0. -/
def FVal.cmp (a b : FVal) : Option Int :=
  match a, b with
  | .nan, _ => none
  | _, .nan => none
  | .inf n, .inf p => some (if n = p then 0 else if n then -1 else 1)
  | .inf n, _ => some (if n then -1 else 1)
  | _, .inf n => some (if n then 1 else -1)
  | a, b =>
    let x := min (FVal.expOr 0 a) (FVal.expOr 0 b)
    some (Int.sign (FVal.atExp x a - FVal.atExp x b))

/-- A floating-point condition (R124). -/
def floatCond (cc : Nat) (a b : FVal) : Bool :=
  match FVal.cmp a b, Cond.ofCode cc with
  | none, some .ne => true
  | none, some .un => true
  | none, _ => false
  | some c, some .eq => c == 0
  | some c, some .ne => c != 0
  | some c, some .lt => decide (c < 0)
  | some c, some .le => decide (c ≤ 0)
  | some c, some .gt => decide (0 < c)
  | some c, some .ge => decide (0 ≤ c)
  | some _, some .ord => true
  | some _, _ => false

/-- The smaller and the larger, −0.0 below +0.0, a NaN if either is one (R122, R140). -/
def FVal.min (a b : FVal) : FVal :=
  match FVal.cmp a b with
  | none => .nan
  | some c => if c < 0 then a else if 0 < c then b else if a.neg? then a else b
def FVal.max (a b : FVal) : FVal :=
  match FVal.cmp a b with
  | none => .nan
  | some c => if c < 0 then b else if 0 < c then a else if a.neg? then b else a

/-- The rank of R70: a NaN below −∞, −0.0 equal to +0.0. True when a ranks strictly before b. -/
def rankBefore (a b : FVal) : Bool :=
  match a.isNan, b.isNan with
  | true, _ => false
  | false, true => true
  | false, false => match FVal.cmp a b with | some c => decide (0 < c) | none => false

/-! ### Reciprocals and roots -/

/-- floor(√n) for n below 4^k. -/
def isqrt (n : Nat) : Nat → Nat
  | 0 => 0
  | k + 1 =>
    let r := 2 * isqrt (n / 4) k
    if (r + 1) * (r + 1) ≤ n then r + 1 else r

/-- A result with more bits than any format, and whether it lies strictly above them. -/
abbrev Near := FVal × Bool

/-- 1 / a, to 100 bits. -/
def recip : FVal → Near
  | .nan => (.nan, false)
  | .inf n => (.fin n 0 0, false)
  | .fin n 0 _ => (.inf n, false)
  | .fin n m e =>
    let k := m.log2 + 100
    (.fin n (2 ^ k / m) (-e - k), decide (2 ^ k % m ≠ 0))

/-- 1 / √a, to 100 bits. -/
def rsqrt : FVal → Near
  | .nan => (.nan, false)
  | .inf n => if n then (.nan, false) else (.fin false 0 0, false)
  | .fin n 0 _ => (.inf n, false)
  | .fin n m e =>
    if n then (.nan, false)
    else
      let (m, e) := if e % 2 = 0 then (m, e) else (2 * m, e - 1)
      let k := (m.log2 + 201) / 2
      let t := 2 ^ (2 * k) / m
      let r := isqrt t 110
      (.fin false r (-(e / 2) - k), decide (r * r * m ≠ 2 ^ (2 * k)))

/-! ### Exponentials and logarithms, by rational intervals -/

/-- ln 2 · 2^p from below, within p + 8 units. -/
def ln2Low (p : Nat) : Nat :=
  ((List.range (p / 3 + 2)).foldl (fun (acc : Nat × Nat) i => (acc.1 + acc.2 / (2 * i + 1), acc.2 / 9)) (0, 2 * 2 ^ p / 3)).1

/-- Bounds of e^x · 2^p for 0 ≤ x < 2, where x · 2^p lies between lo and hi. -/
def expBounds (p lo hi : Nat) : Nat × Nat :=
  let series := fun x : Nat => ((List.range (p + 8)).foldl
    (fun (acc : Nat × Nat) i => (acc.1 + acc.2, acc.2 * x / 2 ^ p / (i + 1))) (0, 2 ^ p)).1
  (series lo, series hi + 8 * (p + 8) + 8)

/-- Bounds of ln(m / 2^b) · 2^p for 2^b ≤ m ≤ 2^(b+1). -/
def lnBounds (p m b : Nat) : Nat × Nat :=
  let z := (m - 2 ^ b) * 2 ^ p / (m + 2 ^ b)
  let terms := fun z : Nat => ((List.range (p / 3 + 4)).foldl
    (fun (acc : Nat × Nat) i => (acc.1 + acc.2 / (2 * i + 1), acc.2 * z / 2 ^ p * z / 2 ^ p)) (0, z)).1
  (2 * terms z, 2 * terms (z + 1) + 4 * (p + 8))

/-- The floor of a value times 2^w, from bounds that narrow as their precision grows. -/
def settle (w : Nat) (bounds : Nat → Int × Int) : Int :=
  let try_ := fun g : Nat =>
    let (lo, hi) := bounds (w + g)
    let l := lo / (2 ^ g : Nat)
    if l = hi / (2 ^ g : Nat) then some l else none
  ((try_ 40).orElse fun _ => (try_ 120).orElse fun _ => (try_ 400).orElse fun _ => try_ 1600).getD
    ((bounds w).1)

/-- ln a · 2^p within bounds, for a = m · 2^e > 0. -/
def lnAll (m : Nat) (e : Int) (p : Nat) : Int × Int :=
  let b := m.log2
  let (lo, hi) := lnBounds p m b
  let l2 := ln2Low p
  let k := e + b
  if 0 ≤ k then (lo + k * l2, hi + k * (l2 + p + 8)) else (lo + k * (l2 + p + 8), hi + k * l2)

/-- A signed value with w fraction bits, strictly above its floor. -/
def nearOf (floor : Int) (w : Nat) : Near :=
  if 0 ≤ floor then (.fin false floor.toNat (-(w : Int)), true) else (.fin true (-floor - 1).toNat (-(w : Int)), true)

/-- 2^f for 0 < f = num / 2^den < 1: the floor of 2^f · 2^200. -/
def exp2Frac (num den : Nat) : Nat :=
  (settle 200 fun p =>
    let lo := ln2Low p * num / 2 ^ den
    let hi := (ln2Low p + p + 8) * num / 2 ^ den + 1
    let (a, b) := expBounds p lo hi
    (a, b)).toNat

/-- 2^a. -/
def exp2 : FVal → Near
  | .nan => (.nan, false)
  | .inf n => if n then (.fin false 0 0, false) else (.inf false, false)
  | .fin _ 0 _ => (.fin false 1 0, false)
  | .fin n m e =>
    if 12 < (m.log2 : Int) + e then (if n then (.fin false 1 (-5000), true) else (.fin false 1 5000, false))
    else if (m.log2 : Int) + e < -200 then
      -- |a| < 2^-200: the result differs from 1 by less than any format shows
      (if n then (.fin false (2 ^ 150 - 1) (-150), true) else (.fin false (2 ^ 150) (-150), true))
    else
      let v : Int := FVal.atExp (Min.min e 0) (.fin n m e)
      let den := (-(Min.min e 0)).toNat
      let whole := v / (2 ^ den : Nat)
      let num := (v % (2 ^ den : Nat)).toNat
      if num = 0 then (.fin false 1 whole, false) else (.fin false (exp2Frac num den) (whole - 200), true)

/-- log2 a. -/
def log2F : FVal → Near
  | .nan => (.nan, false)
  | .inf n => if n then (.nan, false) else (.inf false, false)
  | .fin _ 0 _ => (.inf true, false)
  | .fin n m e =>
    if n then (.nan, false)
    else if 2 ^ m.log2 = m then (FVal.ofInt (e + m.log2), false)
    else nearOf (settle 200 fun p =>
      let (lo, hi) := lnBounds p m m.log2
      let l2 := ln2Low p
      ((e + m.log2) * (2 ^ p : Nat) + (lo * 2 ^ p / (l2 + p + 8) : Nat),
       (e + m.log2) * (2 ^ p : Nat) + (hi * 2 ^ p / l2 + 1 : Nat))) 200

/-- e^x (R189). -/
def expF : FVal → Near
  | .nan => (.nan, false)
  | .inf n => if n then (.fin false 0 0, false) else (.inf false, false)
  | .fin _ 0 _ => (.fin false 1 0, false)
  | .fin n m e =>
    if 12 < (m.log2 : Int) + e then (if n then (.fin false 1 (-5000), true) else (.fin false 1 5000, false))
    else if (m.log2 : Int) + e < -200 then
      (if n then (.fin false (2 ^ 150 - 1) (-150), true) else (.fin false (2 ^ 150) (-150), true))
    else
      -- x = k·ln 2 + r with 0 ≤ r < 2: k from a coarse quotient
      let x := fun p : Nat => FVal.atExp (Min.min (e + p) 0) (.fin n m (e + p)) / (2 ^ (-(Min.min (e + p) 0)).toNat : Nat)
      let k : Int := (x 64 - 2 ^ 20) / (ln2Low 64 : Int)
      let fl := settle 200 fun p =>
        let l2 := ln2Low p
        let lo := x p - (if 0 ≤ k then k * (l2 + p + 8) else k * l2)
        let hi := x p + 1 - (if 0 ≤ k then k * l2 else k * (l2 + p + 8))
        let (a, b) := expBounds p lo.toNat hi.toNat
        (a, b)
      (.fin false fl.toNat (k - 200), true)

/-- ln x (R193). -/
def lnF : FVal → Near
  | .nan => (.nan, false)
  | .inf n => if n then (.nan, false) else (.inf false, false)
  | .fin _ 0 _ => (.inf true, false)
  | .fin n m e =>
    if n then (.nan, false)
    else if 2 ^ m.log2 = m ∧ e + m.log2 = 0 then (.fin false 0 0, false)
    else nearOf (settle 200 (lnAll m e)) 200

/-- e^x and ln x, correctly rounded to FP32. -/
def exp32 (v : FVal) : FVal := let (r, st) := expF v; decodeF f32F (encodeF f32F .rne false 0 r st)
def ln32 (v : FVal) : FVal := let (r, st) := lnF v; decodeF f32F (encodeF f32F .rne false 0 r st)

/-- Entry i of the Gumbel table: −ln(−ln((i + 0.5)/1024)), rounded to FP32 (R68). -/
def gumbelEntry (i : Nat) : FVal :=
  let (v, st) := nearOf (settle 100 fun p =>
    -- u = −ln((2i+1)/2048) lies between a and b, over 2^q
    let q := p + 40
    let (lo, hi) := lnAll (2 * i + 1) (-11) q
    let a := (-hi).toNat
    let b := (-lo).toNat
    let l1 := (lnAll a (-(q : Int)) p).1
    let h1 := (lnAll b (-(q : Int)) p).2
    (-h1, -l1)) 100
  decodeF f32F (encodeF f32F .rne false 0 v st)

/-! ### Element formats -/

end Sys2Proof.Machine

namespace Sys2Proof

/-- The floating-point format of a type. -/
def ElemType.ffmt? : ElemType → Option Machine.FFmt
  | .f64 => some Machine.f64F | .f32 => some Machine.f32F | .bf16 => some Machine.bf16F | .f16 => some Machine.f16F
  | .e4m3 => some Machine.e4m3F | .e5m2 => some Machine.e5m2F
  | _ => none

end Sys2Proof

namespace Sys2Proof.Machine

/-- F4 magnitudes in halves (R50). -/
def f4Halves : List Nat := [0, 1, 2, 3, 4, 6, 8, 12]

def decodeF4 (f4x code : Nat) : FVal :=
  if code % 16 = 8 then decodeF bf16F f4x
  else .fin (decide (8 ≤ code % 16)) (f4Halves[code % 8]?.getD 0) (-1)

/-- Encoding into F4 (R51). -/
def encodeF4 (rnd : Rnd) (r : Nat) (v : FVal) : Nat :=
  match v with
  | .nan => 0
  | .inf n => if n then 15 else 7
  | .fin n m e =>
    let num := m <<< (e + 1).toNat
    let den := 2 ^ (-(e + 1)).toNat
    let i := (f4Halves.filter fun h => decide (h * den ≤ num)).length - 1
    let lo := f4Halves[i]?.getD 0
    let i := match f4Halves[i + 1]? with
      | none => i
      | some hi => if roundUp rnd n (i % 2 == 1) (num - lo * den) ((hi - lo) * den) false r then i + 1 else i
    if i = 0 then 0 else if n then 8 + i else i

/-- The range of an integer type. -/
def intMin (t : ElemType) : Int := if t.isSigned then -(2 ^ (t.width - 1) : Nat) else 0
def intMax (t : ElemType) : Int := if t.isSigned then (2 ^ (t.width - 1) : Nat) - 1 else (2 ^ t.width : Nat) - 1

def clampInt (lo hi i : Int) : Int := if i < lo then lo else if hi < i then hi else i

/-- An integer into an integer type: the low bits, or clamped (R62). -/
def encodeInt (t : ElemType) (sat : Bool) (i : Int) : Nat :=
  wrapInt t.width (if sat then clampInt (intMin t) (intMax t) i else i)

/-- A floating-point value into an integer type: rounded, then clamped (R62). -/
def floatToInt (t : ElemType) (rnd : Rnd) (r : Nat) (v : FVal) : Nat :=
  match v with
  | .nan => 0
  | .inf n => wrapInt t.width (if n then intMin t else intMax t)
  | .fin n m e =>
    let k : Int := roundAt rnd n m e 0 false r
    wrapInt t.width (clampInt (intMin t) (intMax t) (if n then -k else k))

/-- The value of an element's bits; integers give their value. -/
def decodeElem (t : ElemType) (f4x bits : Nat) : FVal :=
  match t.ffmt? with
  | some f => decodeF f bits
  | none => if t = .f4 then decodeF4 f4x bits
      else FVal.ofInt (if t.isSigned then signedOf t.width bits else (bits % 2 ^ t.width : Nat))

/-- Encoding of an element (R62); `int` says that the source is an integer type. -/
def encodeElem (t : ElemType) (rnd : Rnd) (sat : Bool) (r : Nat) (int : Bool) (v : FVal) (sticky : Bool := false) : Nat :=
  match t.ffmt? with
  | some f => encodeF f rnd sat r v sticky
  | none =>
    if t = .f4 then encodeF4 rnd r v
    else if int then encodeInt t sat (FVal.atExp 0 v) else floatToInt t rnd r v

/-- One draw for each element under SR, in element order (R64). -/
def mapDraw {α β : Type} (rnd : Rnd) (f : Nat → α → β) : BitVec 32 → List α → List β × BitVec 32
  | g, [] => ([], g)
  | g, a :: r =>
    let g := if rnd = .sr then srNext g else g
    let (bs, g') := mapDraw rnd f g r
    (f g.toNat a :: bs, g')

/-! ### Dual-exponent blocks (R52, R54) -/

/-- k of DB8 and DB4. -/
def dbK (t : ElemType) : Nat := if t = .db8 then 6 else 2

def decodeDB (t : ElemType) (side code : Nat) : FVal :=
  let k := dbK t
  let e := if code.testBit (k + 1) then (side >>> 8) % 256 else side % 256
  if e = 255 then .nan else .fin (code.testBit k) (code % 2 ^ k) ((e : Int) - 127 - k)

/-- The exponent of step 1 of R54 for one value. -/
def dbExp : FVal → Int
  | .fin _ m e => (m.log2 : Int) + e + 128
  | _ => 0

/-- Values of step 4: infinities, and finite values whose exponent would exceed 254. -/
def dbOver : FVal → Bool
  | .inf _ => true
  | .fin _ 0 _ => false
  | v@(.fin _ _ _) => decide (254 < dbExp v)
  | .nan => false

/-- Encodes a block: the element codes, the sidecar word and the generator (R54). M is taken over all finite values, over-range
ones too. One draw for an element, and E0 of a block whose infinity sets E1 to 254 follows as 254 − k (DESIGN CHOICE, log 12). -/
def encodeDB (t : ElemType) (rnd : Rnd) (sat : Bool) (g : BitVec 32) (vs : List FVal) : List Nat × Nat × BitVec 32 :=
  let k := dbK t
  let top := 2 ^ k - 1
  let exps := (vs.filter fun v => match v with | .fin _ m _ => m != 0 | _ => false).map dbExp
  let step1 : Int := match exps.max? with
    | none => k
    | some e => clampInt k 254 e
  let past := vs.any dbOver
  let hasNan := vs.any FVal.isNan || (!sat && past)
  let e1 : Int := if hasNan then 255 else if past then 254 else step1
  let e0 : Int := if hasNan then step1 else e1 - k
  let mag := fun (e : Int) (r : Nat) (v : FVal) => match v with
    | .fin n m x => roundAt rnd n m x (e - 127 - k) false r
    | _ => 0
  let sgn := fun v : FVal => if v.neg? then 2 ^ k else 0
  let (codes, g) := mapDraw rnd (fun r v =>
    if v.isNan || (!sat && dbOver v) then 2 ^ (k + 1)
    else if dbOver v then (if hasNan then 0 else 2 ^ (k + 1)) + sgn v + top
    else if hasNan then sgn v + min (mag e0 r v) top
    else if mag e0 r v ≤ top then sgn v + mag e0 r v
    else 2 ^ (k + 1) + sgn v + min (mag e1 r v) top) g vs
  (codes, (e0 + 256 * e1).toNat, g)

/-- A grouped 4-bit weight (R56). -/
def groupWeight (signed : Bool) (q zp : Nat) (scale : Nat) : FVal :=
  let t : Int := if signed then signedOf 4 q else (q : Int) - zp
  decodeF bf16F (encodeF bf16F .rne false 0 (FVal.mul (FVal.ofInt t) (decodeF bf16F scale)))
end Sys2Proof.Machine
end

