-- ==== Sys2Proof/Machine/Operands.lean ====
section
/-! DEFINITION. Operand forms of control words: guards, pending-bit debug mode, register and immediate operands (R16, R82, R91,
R93, R94), and addresses of scalar accesses (R105, R106). -/

namespace Sys2Proof.Machine

/-- A control word: its guard, the pending bits, then its effect on the executing context (R16, R82, R91). A word that has issued and holds
the control core goes on with its effect. -/
def ctlWord (g : Guard) (reads : List SReg) (s : State) (k : Ctx → Out) : Out :=
  match s.ctx? with
  | none => .next s
  | some x =>
    let x := x.landed s.myCore
    if x.issue.isSome then k x
    else if x.pendr && x.guardPending g then .next (s.trapP x .pend)
    else if !x.guardOk g then .next (s.ctlDone x)
    else if x.pendr && reads.any x.scalarPending then .next (s.trapP x .pend)
    else k x

/-- A control word with a result, where it makes one: one that would make a thirteenth waits until one lands, and reads its operands, and
raises its traps, in the clock in which it issues (R81, R91, log 16). -/
def ctlWordRes (g : Guard) (reads : List SReg) (makes : Ctx → Bool) (s : State) (k : Ctx → Out) : Out :=
  match s.ctx? with
  | none => .next s
  | some x =>
    let x := x.landed s.myCore
    if !x.room .ctl && makes x && ((x.pendr && x.guardPending g) || x.guardOk g) then .next (s.ctlHold x .full)
    else ctlWord g reads s k

/-- A control word that computes a value from three registers. -/
def ctlAlu (o : C3) (lat : Nat) (f : Word → Word → Word → Word) (s : State) : Out :=
  ctlWordRes o.g [o.sa, o.sb, o.sc] (fun _ => o.sd != 0) s fun x =>
    .next (s.ctlResult x o.sd (f (x.rd o.sa) (x.rd o.sb) (x.rd o.sc)) lat)

/-- A division: DIVZ on a zero divisor, else a result after 20 clk (R96). -/
def ctlDiv (o : C3) (f : Word → Word → Word) (s : State) : Out :=
  ctlWordRes o.g [o.sa, o.sb] (fun _ => o.sd != 0) s fun x =>
    if x.rd o.sb = 0 then .next (s.trapP x .divz)
    else .next (s.ctlResult x o.sd (f (x.rd o.sa) (x.rd o.sb)) 20)

/-- The amount of a shift (R93). -/
def shiftAmt (o : C3) (b : Word) : Nat := if o.shI then o.shAmt else fieldNat b 0 6

/-- A control word with a 64-bit immediate. -/
def ctlImm (o : CI) (f : Ctx → Word) (s : State) : Out :=
  ctlWordRes o.g [o.sa] (fun _ => o.sd != 0) s fun x => .next (s.ctlResult x o.sd (f x))

/-- The clocks that an operation of variable latency takes beyond one: free (log 4). -/
def State.freeClk (s : State) : Nat := Config.choice s.tick 0

/-- A taken branch checks its target (R38); the target's first word issues n clk later (R99). -/
def branchTo (s : State) (x : Ctx) (target : Word) (n : Nat := 3) : Out :=
  if fieldNat target 0 3 = 0 then .next (s.ctlBranch x target n) else .next (s.trapP x .illegal)

/-- A word that held the control core ends, with its effect, after a free number of clk (R107). -/
def State.ctlHeld (s : State) (x : Ctx) (f : Ctx → Ctx) : State :=
  s.ctlAfter x (1 + s.freeClk) fun x => let y := f x; { y with ctl := y.ctl.step }

/-- A wait of the control core is a delivery point for the held faults of some engines (R86). -/
def State.deliverOr (s : State) (x : Ctx) (want : Eng → Bool) (k : State) : State :=
  if x.trapMode then k
  else match (x.faultOn want).bind (·.fault) with
    | some f => s.takeTrap x f
    | none => k

/-! ### Transaction barriers (R212) -/

/-- The 16 bytes at a physical byte address of the scratchpad. -/
def Core.barrier (k : Core) (a : Nat) : BitVec 128 := BitVec.ofNat 128 ((k.spad.read (a / 256)).toNat >>> (8 * (a % 256)))

def Core.putBarrier (k : Core) (a : Nat) (v : BitVec 128) : Core := k.putSpadBytes a (bytesOf 16 v.toNat)

/-- PHASE, ARRIVALS, BYTES and RELOAD. -/
def barPhase (b : BitVec 128) : BitVec 4 := fieldOf b 0 4
def barArrivals (b : BitVec 128) : BitVec 28 := fieldOf b 4 28
def barBytes (b : BitVec 128) : BitVec 48 := fieldOf b 32 48
def barReload (b : BitVec 128) : BitVec 28 := fieldOf b 80 28
def mkBarrier (reload : BitVec 28) (bytes : BitVec 48) (arrivals : BitVec 28) (phase : BitVec 4) :
    BitVec 128 := (0 : BitVec 20) ++ reload ++ bytes ++ arrivals ++ phase

/-- The completion rule (R212); the reserved bits of what is written are zero (R3). -/
def barComplete (b : BitVec 128) : BitVec 128 :=
  if barArrivals b = 0 ∧ barBytes b = 0 then
    mkBarrier (barReload b) (barBytes b) (barReload b) (barPhase b + 1)
  else mkBarrier (barReload b) (barBytes b) (barArrivals b) (barPhase b)

/-- One update of a barrier under the completion rule. -/
def Core.updBarrier (k : Core) (a : Nat) (arrive : BitVec 28) (bytes : BitVec 48) : Core :=
  let b := k.barrier a
  k.putBarrier a (barComplete
    (mkBarrier (barReload b) (barBytes b + bytes) (barArrivals b - arrive) (barPhase b)))

/-- Byte credit of a landed row (R166). -/
def Core.credit (k : Core) (a n : Nat) : Core := k.updBarrier a 0 (-(BitVec.ofNat 48 n))

/-- The phase is full (R214). -/
def barFull (b : BitVec 128) : Bool := barArrivals b == 0

/-- The phase that BWAIT waits for (R216). -/
def bwaitPhase (o : C3) (sb : Word) : BitVec 4 := if fieldOf o.imm 4 1 = 1 then fieldOf o.imm 0 4 else fieldOf sb 0 4

/-- The counter that TWAIT or TREAD names (R26). -/
def C3.ctr (o : C3) : Ctr := (Ctr.ofCode (fieldNat o.imm 0 3)).getD .tla

/-- The physical address of a context's scratchpad byte, if its row lies in the allotment. -/
def Ctx.spadAddr (x : Ctx) (a : Nat) : Option Nat := (x.spadRow (a / 256)).map fun r => r * 256 + a % 256

/-- Bytes of an access of SIZE (R105). -/
def C3size (o : C3) : Nat := 2 ^ o.size

/-- The address of a scalar access, aligned down to its size (R105, R106). -/
def scalarAddr (x : Ctx) (o : C3) : Nat :=
  let a := (x.rd o.sa + o.offset).toNat
  a - a % C3size o

/-- Two byte ranges share a byte. -/
def overlaps (p n q m : Nat) : Bool := decide (p < q + m) && decide (q < p + n)

/-- An earlier operation of the thread that touches the bytes (R109). -/
def Op.touches (o : Op) (l : Loc) (n : Nat) : Bool :=
  match o.loc, l with
  | .mem p, .mem q => o.size != 0 && overlaps p o.size q n
  | .spad p, .spad q => o.size != 0 && overlaps p o.size q n
  | _, _ => false

def Ctx.mustWait (x : Ctx) (l : Loc) (n : Nat) : Bool := x.ops.any (·.touches l n)

/-- A translation of the control core goes on with the place, traps, or holds (R106, R305). -/
def withXlat (s : State) (x : Ctx) (e : Xlat) (va : Nat) (k : Loc → State → Out) : Out :=
  let trap (c : CauseCode) (ev : Nat) : Out := .next ((s.noteXlat s.myCore x.id.asid va).trapP x c 0 ev va)
  match e with
  | .ok l i => k l (s.noteUse x.id.asid i l)
  | .segv => trap .segv 0
  | .perm => trap .perm 0
  | .poison ev => trap .poison ev
  | .resid => trap .resid 0
  | .absent i => .next ((s.noteSeg x.id.asid i).ctlStall x i va)
  | .dup i => .next ((s.noteSeg x.id.asid i).ctlHold x (.dupw i va))
  | .hole => .fault .physicalHole

/-- Translation of an address by the executing context. -/
def State.xlat (s : State) (x : Ctx) (va : Nat) (acc : AccKind) : Xlat := s.translate s.myCore x.id.asid va acc

/-- Translation of a table word that R or X permission admits (R100). -/
def State.xlatTable (s : State) (x : Ctx) (va : Nat) : Xlat :=
  match s.xlat x va .read with
  | .perm => s.xlat x va .fetch
  | e => e
end Sys2Proof.Machine
end

