-- ==== Sys2Proof/Machine/Fetch.lean ====
section
/-! DEFINITION. The checks of R43 that need a word's section, allotment or loop body (R21, R22, R39, R114, R147, R153, R156, R237),
what a wait depends on and the trap that a word boundary takes (R37, R86, R112, R149, R214, R217), and what is ready at the head of
a queue or of an engine (R162, R298). -/

namespace Sys2Proof.Machine

/-- What a turn comes to: nothing more than the given state, or an instruction run in it. -/
inductive Act where
  | idle (s : State)
  | run (i : Instr) (s : State)
  | stop (f : Fault)

/-- The trap that a translation raises at the control core (R30, R106, R305). -/
def Xlat.cause (e : Xlat) (va : Nat) : Option Cause :=
  match e with
  | .segv => some { code := .segv, cls := .p, addr := BitVec.ofNat 64 va }
  | .perm => some { code := .perm, cls := .p, addr := BitVec.ofNat 64 va }
  | .poison ev => some { code := .poison, cls := .p, event := BitVec.ofNat 64 ev, addr := BitVec.ofNat 64 va }
  | .resid => some { code := .resid, cls := .p, addr := BitVec.ofNat 64 va }
  | _ => none

/-! ### Vector-register fields (R19, R22, R157) -/

/-- The vector-register fields of a word, in the order of R20; `none` where the field is unused or names another file. -/
def vecFields : Instr → List (Option VReg)
  | .vadd o | .vsub o | .vmul o | .vmin o | .vmax o | .viadd o | .visub o | .vimul o | .vimulh o | .vimin o | .vimax o
  | .vpack o | .vmergek o | .visect o | .vbmerge o | .vunion o | .vsel o => [some o.vd, some o.va, some o.vb, none]
  | .vfma o | .vfms o | .vfnma o | .vimad o | .vlop3 o | .vpermb o | .vperml o =>
      [some o.vd, some o.va, some o.vb, some o.vc]
  | .vabs o | .vneg o | .vrcp o | .vrsq o | .vexp2 o | .vlog2 o | .viabs o | .visat o | .vpopc o | .vclz o | .vcvt o
  | .vunpk o | .vrsum o | .vrmax o | .vrmin o | .vrargmax o | .vscan o | .vbsort o | .vbstep o =>
      [some o.vd, some o.va, none, none]
  | .vishl o | .vishr o => [some o.vd, some o.va, if o.immBit then none else some o.vb, none]
  | .vfshl o | .vfshr o | .vrmrg o => [some o.vd, some o.va, some o.vb, if o.immBit then none else some o.vc]
  | .vrot o => [some o.vd, some o.va, none, if o.immBit then none else some o.vc]
  | .vcmp o | .vicmp o | .xacc o => [none, some o.va, some o.vb, none]
  | .vqnt o => [some o.vd, some o.va, if o.ty.isDB then none else some o.vb, none]
  | .vdqnt o => [some o.vd, some o.va, if o.src == some .db8 || o.src == some .db4 then none else some o.vb, none]
  | .viota o | .xrnd o | .scnt o | .s2b o => [some o.vd, none, none, none]
  | .xadd o | .sgen o | .sclsV o => [none, some o.va, none, none]
  | .vbcast o | .vinsl o => [some o.vd, none]
  | .vextl o => [none, some o.va]
  | .vld o | .vst o | .vldh o | .vsth o => [some o.v]
  | _ => []

/-- The registers past field j that the word also names: the second destination of VBMERGE and VUNION, a pair's second
register, or a stream's registers (R141, R147, R210). -/
def vecExtra (i : Instr) (j : Nat) : Nat :=
  match i with
  | .vbmerge _ | .vunion _ => if j = 0 then 1 else 0
  | .vld o | .vst o | .vldh o | .vsth o => if o.part = 0 then 1 else 0
  | .sclsV o => 2 * 2 ^ o.lenCode.toNat - 1
  | _ => 0

/-- A field moved by i strides (R157). -/
def strideReg (r : VReg) (k : BitVec 6) (i : Nat) : Int := r.toNat + i * k.toInt

/-- The stride of each field. -/
def PX.strides (p : PX) : List (BitVec 6) := [p.k0, p.k1, p.k2, p.k3]

/-- Every vector register that the word names lies in the allotment, at repetition n (R22, R157). -/
def inAllot (x : Ctx) (i : Instr) (p : PX) (n : Nat) : Bool :=
  ((vecFields i).zip (PX.strides p)).zipIdx.all fun f => match f.1.1 with
    | none => true
    | some r => let r := strideReg r f.1.2 n; decide (0 ≤ r) && decide (r + vecExtra i f.2 < x.vlen)

/-- A stride with no field to apply to (R20, R157, log 27). -/
def strideOk (i : Instr) (p : PX) : Bool :=
  ((vecFields i ++ [none, none, none, none]).zip (PX.strides p)).all fun f => f.1.isSome || f.2 == 0

/-- The instruction whose vector-register fields REP moves: that of the word, or, where the guard, the token, TYPE or RND of the word is bad, of
the word with others in their place, since the opcode alone gives the format (R18, R20). -/
def strideInstr (w : IWord) : Option Instr :=
  let plain := w &&& ~~~((0x3FF : IWord) <<< 76)
  ((decodeRaw w).orElse fun _ => decodeRaw plain).orElse fun _ =>
    decodeRaw ((plain &&& ~~~((0x1FF : IWord) <<< 23)) ||| ((1 : IWord) <<< 26))

/-- A word that REP may prefix: of class 010 or 011 in the V4, VS or VM format (R21). An unassigned opcode of these classes has
no format, and the model accepts the REP, so that the next word raises ILLEGAL (DESIGN CHOICE, log 31). -/
def repTarget (w : IWord) : Bool :=
  decide (0x100 ≤ opOf w) && decide (opOf w < 0x200) && opOf w != 0x1F0 && opOf w != 0x1F3

def noStride : PX := ⟨0, 0, 0, 0, 0⟩

/-- The word with its vector-register fields moved by n strides (R157). -/
def strideWord (w : IWord) (p : PX) (n : Nat) : IWord :=
  let mv (lo : Nat) (k : BitVec 6) : IWord :=
    let r : BitVec 11 := fieldOf w lo 11
    let r' : BitVec 11 := BitVec.ofInt 11 (strideReg r k n)
    ((r.zeroExtend 96) ^^^ (r'.zeroExtend 96)) <<< lo
  w ^^^ mv 65 p.k0 ^^^ (if p.k1 = 0 then 0 else mv 54 p.k1) ^^^ (if p.k2 = 0 then 0 else mv 43 p.k2)
    ^^^ (if p.k3 = 0 then 0 else mv 32 p.k3)

/-! ### The checks of R43 that need the context -/

/-- The handles that a word names (R237). -/
def handlesOf : Instr → List HReg
  | .vldh o | .vsth o | .hadvc o | .hadvp o => [o.handle]
  | .ldt o | .stt o | .cpy o | .cpya o | .rowg o | .get o | .put o | .collectiveContribution o | .mmv o | .mmg o | .matt o
  | .adrain o => (if o.hau then [o.ha] else []) ++ (if o.hbu then [o.hb] else [])
  | _ => []

/-- A word that a VLOOP body may hold (R153). -/
def bodyWord (w : IWord) (i : Instr) : Bool :=
  (decide (0x100 ≤ opOf w) && decide (opOf w < 0x200) || opOf w == 0x0A8)
    && (match i with | .vloop _ | .rrbset _ => false | _ => true)

/-- The part of step 3 that needs the section or the context. -/
def ctxFieldsOk (x : Ctx) (c : CtlSec) (w : IWord) (next : Option IWord) (i : Instr) : Bool :=
  (c.body == 0 || bodyWord w i) &&
  match i with
  | .vloop o => decide (c.idx + 1 + o.imm.toNat ≤ c.h.len)
  | .vexit _ => c.body != 0
  | .rrbset o => decide (o.n12 < x.sys.rotsz) || (o.n12 == 0 && x.sys.rotsz == 0)
  | .vld o | .vst o | .vldh o | .vsth o => (!o.nest || c.body != 0) && (o.rowstep == 0 || c.rep)
  | .hadvc o | .hadvp o => decide (o.off.toNat ≤ (x.handle o.handle).slots) || (x.handle o.handle).slots == 0
  | .rep o => match next.bind strideInstr with
    | some t => strideOk t o
    | none => true
  | _ => true

/-- Step 4: R21, R39 and R114. -/
def structureOk (c : CtlSec) (next : Option IWord) (i : Instr) : Bool :=
  let last := c.idx + 1 == c.h.len
  match i with
  | .call _ | .trap _ | .brkpt _ => last
  | .rep _ => !last && (match next with | some n => repTarget n | none => true)
  | _ => true

/-- Steps 1 to 5 of R43, and the empty handle of R237: the instruction, or the first trap that applies. -/
def checkWord (x : Ctx) (c : CtlSec) (w : IWord) (next : Option IWord) : Except Cause Instr :=
  match decodeIn c.h.kind w with
  | .error e => .error { code := e, cls := .p }
  | .ok i =>
    if !ctxFieldsOk x c w next i || !structureOk c next i then .error { code := .illegal, cls := .p }
    else if !inAllot x i noStride 0 then .error { code := .allot, cls := .p }
    else if (handlesOf i).any fun h => (x.handle h).slots == 0 then
      .error { code := .illegal, cls := .p, detail := 0x0A }
    else .ok i

/-! ### Waits and boundaries -/

/-- The word names the handle. -/
def QWord.names (q : QWord) (h : HReg) : Bool := match decodeRaw q.w with | some i => (handlesOf i).contains h | none => false

/-- The token that a macro's word names (R17). -/
def QWord.tok (q : QWord) : Token := if fieldOf q.w 79 1 = 1 then some (fieldOf q.w 76 3) else none

/-- A macro that credits the barrier at a scratchpad address (R166, R214). -/
def QWord.credits (q : QWord) (a : Nat) : Bool :=
  let op := opOf q.w
  fieldOf q.w 40 1 == 1 &&
    ((op == 0x200 || op == 0x202) && q.cap.sc.toNat / 16 * 16 == a || op == 0x204 && fieldNat q.w 4 17 * 16 == a)

/-- The sections that back-references wait for: those up to the named ones that have not retired. -/
def Ctx.awaited (x : Ctx) (trapm : Bool) (d : Counts) : List Nat :=
  ([.l, .x, .s] : List Kind).flatMap fun k =>
    ((x.secs.filter fun t => t.kind == k && t.trapm == trapm && t.counted).take (d.get k - (x.retOf trapm).get k)).map (·.uid)

/-- The engines that a header wait depends on: those with an uncompleted macro of a section waited for (R37). -/
def Ctx.waitEngines (x : Ctx) (trapm : Bool) (d : Counts) : Eng → Bool :=
  x.enginesOf fun q => (x.awaited trapm d).contains q.uid

/-- The engines whose held faults the wait delivers: those that have an uncompleted macro of what is waited for (R37, R86, R112,
R214, R217; a handle's users, log 30). -/
def Ctx.waitDelivers (x : Ctx) : WaitOn → Eng → Bool
  | .header => match x.ctl.sec with | some t => x.waitEngines t.h.trapm t.deps | none => fun _ => false
  | .tokens mask => x.enginesOf fun q => match q.tok with | some t => mask.testBit t.toNat | none => false
  | .timeline k _ => x.enginesOf fun q => ctrOf (opOf q.w) q.kind == some k
  | .barPhase a _ => x.enginesOf (·.credits a)
  | .barRoom a => x.enginesOf (·.credits a)
  | .handle h => x.enginesOf (·.names h)
  | .group _ => fun _ => false
  | .room _ _ => fun _ => false

/-- The engines whose held faults the control core's present wait delivers. -/
def Ctx.holdDelivers (x : Ctx) : Eng → Bool :=
  match x.hold with
  | .wait on => x.waitDelivers on
  | _ => fun _ => false

/-- The trap that a word boundary of the control core takes: class Q first, then a class-A fault that ATRAP, a wait of a queue or the
wait at which the core is held delivers, then a class-E event (R86). -/
def Ctx.boundary (x : Ctx) : Option Cause :=
  if x.trapMode then none
  else match x.pendQ with
    | some q => some q.cause
    | none => match (x.faultOn fun k => x.atrap || x.deliver.contains k || x.holdDelivers k).bind (·.fault) with
      | some f => some f
      | none => x.pendE.head?

/-! ### Which context an engine serves (R298) -/

/-- The word of the X queue that issues next. -/
def Ctx.xHead (x : Ctx) : Option QWord :=
  match x.qx.cur.loop with
  | some l => (l.body[l.idx]?).orElse fun _ => x.qx.head x.trapMode
  | none => x.qx.head x.trapMode

/-- A posted operation on a bank, or its answer on the way back: it completes by the thread's next acquiring operation or DONE
(R110, R111, R225). -/
def Op.posted (p : Op) : Bool :=
  !p.held && p.tok == none && match p.kind with
    | .amo _ _ _ _ | .amof _ _ _ | .jdec _ => true
    | .deliver _ _ _ writes => writes
    | _ => false
def Ctx.posted (x : Ctx) : Bool := x.ops.any Op.posted

/-- One that was posted before a word of a queue was pushed, which the word completes where it acquires (R110, R255). -/
def Ctx.postedBefore (x : Ctx) (q : QWord) : Bool := x.ops.any fun p => p.posted && decide (p.born < q.born)

/-- The back-references of a section in a queue are satisfied, which acquires where it names a section (R33, R34, R255). -/
def Ctx.secOver (x : Ctx) (t : Sec) (q : QWord) : Bool := x.depsMet t.trapm t.deps && (t.deps == {} || !x.postedBefore q)

/-- The row of a byte address of the scratchpad is poisoned (R345). -/
def Core.badAt (k : Core) (a : Nat) : Bool := k.spadBad.contains (a / 256)

/-- The wait of a word of the X queue has ended, or it has none: a handle's slot, a barrier, a counter. A word that waits for
clocks of its own queue alone is ready (R298), and so is one that finds its barrier's row poisoned (R345, log 75). -/
def Ctx.headReady (k : Core) (x : Ctx) (w : QWord) : Bool :=
  match decodeRaw w.w with
  | some (.vldh o) => decide (o.slot < (x.handle o.handle).filled)
  | some (.vsth o) => decide (o.slot < (x.handle o.handle).slots - (x.handle o.handle).filled)
  | some (.arrive _) => (match x.spadAddr (w.cap.sa.toNat / 16 * 16) with | some p => k.badAt p || !barFull (k.barrier p) | none => true)
  | some (.bwait o) =>
    (match x.spadAddr (w.cap.sa.toNat / 16 * 16) with
     | some p => k.badAt p || (barPhase (k.barrier p) != bwaitPhase o w.cap.sb && !x.postedBefore w)
     | none => true)
  | some (.twait o) => decide (w.cap.sa.toNat ≤ (x.tl.get (C3.ctr o)).value) && !x.postedBefore w
  | _ => true

/-- The word's section may issue (R32). -/
def Ctx.openFor (x : Ctx) (w : QWord) : Bool :=
  match x.secs.find? (·.uid == w.uid) with
  | some t => t.open_ || x.secOver t w
  | none => true

/-- A class-Q trap stops the queue, until the trap is taken, and in trap mode only the words of its own mode (R85, R88). -/
def Ctx.queueStopped (x : Ctx) (k : Kind) : Bool := !x.trapMode && x.pendQ.any (·.kind == k)

/-- The control core stands at no boundary: its word completes before any, or waits until a result lands (R81, R227). -/
def Ctx.midWord (x : Ctx) : Bool := x.hold == .busy || x.hold == .full

/-- A context that is being parked issues nothing more, but that a word which completes before any boundary goes on with what it
waits for (R227, R299). -/
def Ctx.parkStop (x : Ctx) : Bool := x.parking && (!x.midWord || x.ending)

/-- The X queue has a word ready (R298). -/
def Ctx.vecReady (k : Core) (x : Ctx) : Bool :=
  !x.parkStop && (x.qx.cur.nop != 0 || (!x.queueStopped .x && match x.xHead with
    | none => false
    | some w => Ctx.headReady k x w && x.openFor w))

/-- The barrier at a scratchpad address counts on another word of the context: a macro that credits it, or an ARRIVE in a queue. -/
def Ctx.actsOn (x : Ctx) (w : QWord) (a : Nat) : Bool :=
  x.macros.any (·.credits a) ||
    (x.ql.items ++ x.qx.items ++ x.qs.items).any fun q => opOf q.w == 0x341 && q.cap.sa.toNat / 16 * 16 == a && decide (q ≠ w)

/-- The word waits at a barrier for what other contexts do alone, so that no held fault of its own context stands in its way (R103). -/
def Ctx.waitsOthers (x : Ctx) (w : QWord) : Bool :=
  (opOf w.w == 0x341 || opOf w.w == 0x342) && !x.actsOn w (w.cap.sa.toNat / 16 * 16)

/-- Queue k goes on by itself or by what others do: a NOP runs, or the word at its head is ready, or waits for other contexts alone. -/
def Ctx.queueGoing (k : Core) (x : Ctx) (q : Kind) : Bool :=
  (!x.queueStopped q && match (if q = .x then x.xHead else (x.queue q).head x.trapMode) with
    | some w => x.waitsOthers w && x.openFor w
    | none => false) ||
  if q = .x then x.vecReady k
  else (x.queue q).cur.nop != 0 || (!x.queueStopped q && match (x.queue q).head x.trapMode with
    | none => false
    | some w => Ctx.headReady k x w && x.openFor w)

/-- Something that the context pushed or issued still goes on (R103). -/
def Ctx.going (k : Core) (x : Ctx) : Bool :=
  !x.ops.isEmpty || (([.l, .x, .s] : List Kind).any fun q => x.queueGoing k q) || allEngines.any fun e => x.engGoing e

/-- The vector engine has something of the context to do. -/
def Ctx.vecWork (x : Ctx) : Bool :=
  !x.qx.items.isEmpty || x.qx.cur != {} || x.flights.any fun f => f.unit == .vec

end Sys2Proof.Machine

namespace Sys2Proof

def Eng.owner : Eng → Fin 6
  | .load => 1 | .store => 2 | .index => 3 | .matrix => 4 | .pred => 5

end Sys2Proof

namespace Sys2Proof.Machine

/-- The macro that the engine goes on with for the context: the first that it was handed, unless that has stopped or is done (R86,
R162, log 31). -/
def Ctx.engHead (x : Ctx) (e : Eng) : Option Run := (x.eng.get e).head?.filter fun r => r.fault.isNone && !r.held && !r.fin
def Ctx.engWork (x : Ctx) (e : Eng) : Bool := (x.engHead e).isSome

/-- The engine has a macro of the context ready: it waits for no slot, no segment, no DUPW and no answer (R298). -/
def State.engReady (s : State) (c : CoreId) (x : Ctx) (e : Eng) : Bool :=
  match x.engHead e with
  | some r => !r.blocked x && (!x.parkStop || r.started)
    && (match r.stall with
        | some (i, _, from_) =>
          let g := s.entry x.id.asid i
          g.res || (g.stallus != 0 && decide (g.stallus ≤ s.firm.us - from_))
        | none => true)
    && (match r.dupw with | some (i, _) => (s.entry x.id.asid i).dup == 0 | none => true)
    && !(s.txns.any fun t => t.core == c && t.bank == x.id.bank && t.eng == e && t.num == r.q.num && t.reply.isNone)
  | none => false

/-- The macro stands within a progress unit (R168): within a slot of a handle, a row that goes to several slots, or a row of which a part
has been read. -/
def Run.midUnit (r : Run) : Bool :=
  let op := opOf r.q.w
  let handle := fieldNat r.q.w 43 1 == 1 || fieldNat r.q.w 44 1 == 1
  if op = 0x200 ∨ op = 0x201 ∨ op = 0x207 ∨ op = 0x208 then handle && r.aux.getD 1 0 != 0
  else if op = 0x202 then
    r.aux != [] && (r.aux.getD 3 0 != 0 || r.aux.headD 0 != (if fieldNat r.q.w 43 1 = 1 then r.done * r.q.cap.hb.rps else r.done))
  else if op = 0x203 ∨ op = 0x286 then r.aux.headD 0 != 0
  else op == 0x204 && r.aux.getD 2 0 != 0

/-- The engine stands within a progress unit of the context's macro, where it changes to no other (R298). -/
def Ctx.engMid (x : Ctx) (e : Eng) : Bool := (x.engHead e).any Run.midUnit

/-- Bank a is chosen before bank b: priority, then the active context, then rotation from the engine's context (R298). -/
def Core.prefers (k : Core) (owner : Option BankId) (a b : BankId) (x y : Ctx) : Bool :=
  let turn := fun c : BankId => match owner with | some o => (c.val + 2 - o.val) % 3 | none => c.val
  decide (y.id.pri < x.id.pri) || (x.id.pri == y.id.pri &&
    (if k.active = some a then decide (a ≠ b) else decide (k.active ≠ some b) && decide (turn a < turn b)))

/-- A context with work ready goes before the engine's present one: the engine must change to it (R298). The vector engine keeps
a context's queue against one of equal priority. -/
def Core.engineMust (k : Core) (owner : BankId) (x : Ctx) (strict : Bool) (sure : Ctx → Bool) : Bool :=
  ([0, 1, 2] : List BankId).any fun b => match k.banks[b] with
    | none => false
    | some y => decide (b ≠ owner) && sure y
        && (if strict then decide (x.id.pri < y.id.pri) else k.prefers (some owner) b owner y x)
end Sys2Proof.Machine
end

