-- ==== Sys2Proof/Machine/Waits.lean ====
section
/-! DEFINITION. What a word of the control core that waits at a boundary waits for, the faults that its wait delivers, and which
contexts are runnable (R37, R86, R112, R149, R214, R217, R227, R237, R296). -/

namespace Sys2Proof.Machine

/-! ### Users of a handle, a token, a barrier -/

/-- A pushed word that has not completed names the handle: it is queued, in a loop body, at an engine, or its result is in
flight or latched (R77, R237). -/
def Ctx.usesHandle (x : Ctx) (h : HReg) : Bool :=
  let inQueue := fun q : Queue => q.items.any (·.names h)
    || (match q.cur.loop with | some l => l.body.any (·.names h) | none => false)
    || (match q.saved.loop with | some l => l.body.any (·.names h) | none => false)
  inQueue x.ql || inQueue x.qx || inQueue x.qs || (x.runs.any fun r => r.q.names h)
    || (x.flights.any (·.hnd == some h)) || x.latchUid.any (·.2 == some h)

/-- A macro that produces into a handle, or consumes from it (R149). -/
def QWord.produces (q : QWord) (h : HReg) : Bool := isEM q.w && fieldOf q.w 44 1 == 1 && fieldOf q.w 49 4 == h
def QWord.consumes (q : QWord) (h : HReg) : Bool := isEM q.w && fieldOf q.w 43 1 == 1 && fieldOf q.w 45 4 == h

/-- Operations of a token that wait for a fault to be resolved (R112). -/
def Ctx.faulted (x : Ctx) (t : BitVec 3) : Nat :=
  (x.runs.filter fun r => (r.fault.isSome || r.held) && r.q.tok == some t).length

/-- Every named token has no operation left; in trap mode one that holds a fault is not waited for (R112). -/
def Ctx.tokensDone (x : Ctx) (mask : Nat) : Bool :=
  (List.range 8).all fun k => !mask.testBit k ||
    x.tokCount (BitVec.ofNat 3 k) - (if x.trapMode then x.faulted (BitVec.ofNat 3 k) else 0) == 0

/-! ### Waits -/

/-- The back-references of a C header are satisfied, which acquires where it names a section (R33, R34, R255). -/
def Ctx.headerOver (x : Ctx) (trapm : Bool) (d : Counts) : Bool := x.depsMet trapm d && (d == {} || !x.posted)

/-- The wait of a group's member has ended: the home die, or the thread's die, has reached the clock that it needs, and the
phase is another (R222). -/
def State.groupOver (s : State) (c : CoreId) (x : Ctx) (pa : Nat) : Bool :=
  let h := homeDie pa
  match x.barg with
  | none => x.ops.isEmpty && s.clockReached h s.vc[dieOf c].toList
  | some (_, p) => x.ops.isEmpty && p % 2 ^ 32 != natOfBytes (s.readView h (pa + 96) 4)
      && (decide (2 ^ 32 ≤ p) || s.clockReached (dieOf c) s.vc[h].toList)

/-- The wait has ended. -/
def State.waitOver (s : State) (c : CoreId) (x : Ctx) : WaitOn → Bool
  | .header => match x.ctl.sec with | some t => x.headerOver t.h.trapm t.deps | none => true
  | .tokens mask => x.tokensDone mask && !x.posted
  | .timeline k n => decide (n ≤ (x.tl.get k).value) && !x.posted
  | .barPhase a phase => match x.spadAddr a with
      | some p => !x.mustWait (.spad p) 16 && !x.posted && ((s.core c).badAt p || barPhase ((s.core c).barrier p) != phase)
      | none => true
  | .barRoom a => match x.spadAddr a with
      | some p => x.ops.isEmpty && ((s.core c).badAt p || !barFull ((s.core c).barrier p))
      | none => true
  | .group pa => s.groupOver c x pa
  | .room k t => decide (x.filled k < queueWords) && !x.tokFull t
  | .handle h => !x.usesHandle h

/-- The control core waits at a word boundary, where a held fault that the wait depends on is delivered. -/
def State.ctlWait (s : State) (x : Ctx) (on : WaitOn) : State :=
  s.deliverOr x (x.waitDelivers on) (s.ctlHold x (.wait on))

/-! ### Runnable contexts (R296) -/

/-- A trap of class Q, or a held fault that the wait delivers, is ready to be taken at the boundary where a context waits, and a wait
that waits for it would not end (DEDUCED, log 33). An event waits until the context is active (R297). -/
def Ctx.wakes (x : Ctx) : Bool := x.boundary.any fun c => c.cls != .e

/-- The context is runnable: not parked, and what its control core is held at has ended. An MTS that waits for the users of its handle is none
of the waits of R296. -/
def State.ready (s : State) (c : CoreId) (x : Ctx) : Bool :=
  !x.parking && x.fatal.isNone && match x.hold with
  | .none => true
  | .busy => true
  | .full => true
  | .wait (.handle _) => true
  | .wait on => s.waitOver c x on || x.wakes
  | .stall i _ =>
    let e := s.entry x.id.asid i
    e.res || (e.stallus != 0 && decide (e.stallus ≤ s.firm.us - x.stalledFrom i s.firm.us)) || x.wakes
  | .dupw i _ => (s.entry x.id.asid i).dup == 0 || x.wakes
end Sys2Proof.Machine
end

