-- ==== Sys2Proof/Machine/CtlProbe.lean ====
section
/-! DEFINITION. PROBE and PROBE.F: the software-managed cache (R118, R241). The landing of a fill stands with the row
transfers. -/

namespace Sys2Proof.Machine

/-- The control word: LSLOTS, the block size in bytes, and whether its fields are legal (R118). -/
def probeSlots (v : Word) : Nat := 2 ^ fieldNat v 28 4
def probeBlock (v : Word) : Nat := 1024 * 2 ^ fieldNat v 26 2
def probeOk (v : Word) : Bool :=
  fieldNat v 32 32 == 0 && fieldNat v 26 2 != 3 && decide (2 ≤ fieldNat v 28 4) && decide (fieldNat v 28 4 ≤ 9)

/-- The tag and the data region lie in the scratchpad allotment. -/
def probeFits (x : Ctx) (v : Word) : Bool :=
  decide (fieldNat v 0 13 + (8 * probeSlots v + 255) / 256 ≤ x.id.snb * 256)
    && decide (fieldNat v 13 13 + probeSlots v * (probeBlock v / 256) ≤ x.id.snb * 256)

/-- The entry of a PROBE's tag row. -/
def tagValid (t : Nat) : Bool := t % 2 == 1
def tagBlock (t : Nat) : Nat := t / 2 ^ 10 % 2 ^ 42
def tagRR (t : Nat) : Nat := t / 2 ^ 4 % 4

/-- A number with the len bits at lo replaced. -/
def putBits (v lo len new : Nat) : Nat := v - (v / 2 ^ lo % 2 ^ len) * 2 ^ lo + (new % 2 ^ len) * 2 ^ lo

/-- The next number of a timeline counter (R78). -/
def Ctx.number (x : Ctx) (k : Ctr) : Nat := (x.tl.get k).pushed + 1
def Ctx.numbered (x : Ctx) (k : Ctr) : Ctx :=
  { x with tl := x.tl.set k { x.tl.get k with pushed := (x.tl.get k).pushed + 1 } }

/-- The L-queue entry of a fill: an LDT in the PROBE's place that carries the tag entry's physical byte address, the block, the
first row of the slot and its row count. -/
def fillWord (x : Ctx) (tok : Token) (tag blk row rows : Nat) : QWord :=
  let t : Nat := match tok with | some t => 2 ^ 79 + t.toNat * 2 ^ 76 | none => 0
  { w := BitVec.ofNat 96 (0x200 * 2 ^ 86 + t + rows), uid := 0,
    hdr := match x.ctl.sec with | some c => c.hdr | none => 0,
    idx := match x.ctl.sec with | some c => c.idx | none => 0,
    kind := .l, trapm := x.trapMode, cap := { desc := Vector.replicate 13 0, bfmt := x.sys.bfmt, gen := x.genNum, rime := x.rimeNum },
    num := x.number .tla, fill := some (tag, blk, row, rows) }

/-- The lookup: the first way of the set that holds the block, else the way that the miss takes (R118). -/
def probeHit (tags : List Nat) (blk : Nat) : Option Nat :=
  (List.range 4).find? fun w => tagValid (tags.getD w 0) && tagBlock (tags.getD w 0) == blk / 2 ^ 10 % 2 ^ 42
def probeVictim (tags : List Nat) : Nat :=
  ((List.range 4).find? fun w => !tagValid (tags.getD w 0)).getD (tagRR (tags.getD 0 0))

/-- PROBE and PROBE.F: sd lands when the 4 clk have passed. A PROBE.F that waits for room in the L queue or for its token has not
taken effect and stands at a word boundary, as R227 says of engine words (DESIGN CHOICE, log 17). -/
def probeWord (o : C3) (fill : Bool) (s : State) : Out :=
  ctlWord o.g [o.sa, o.sb] s fun x =>
    let v := x.rd o.sb
    let bsz := probeBlock v
    let blk := (x.rd o.sa).toNat / bsz * bsz
    let set := blk / bsz % (probeSlots v / 4)
    let target := x.ctl.pc + o.offset
    if !probeOk v then .next (s.trapP x .illegal)
    else if !probeFits x v then .next (s.trapP x .allot)
    else
      let base := (x.id.sbank * 256 + fieldNat v 0 13) * 256 + 32 * set
      let k := s.myCore
      if x.mustWait (.spad base) 32 then .next (s.ctlBusy x)
      else if k.spadBad.contains (base / 256) then .next (s.trapP x .poison 0x10 0 ((fieldNat v 0 13) * 256 + 32 * set))
      else
        let tags := (List.range 4).map fun w => natOfBytes (k.spadBytes (base + 8 * w) 8)
        match probeHit tags blk with
        | some w => .next (s.ctlAfter x 4 fun x => { x.wr o.sd (BitVec.ofNat 64 (4 * set + w)) with ctl := x.ctl.step })
        | none =>
          let w := probeVictim tags
          let slot := 4 * set + w
          if fieldNat target 0 3 ≠ 0 then .next (s.trapP x .illegal)
          else
            let miss := fun (s : State) (y : Ctx) =>
              (s.ctlAfter (y.goto target) 4 (·.wr o.sd (BitVec.ofNat 64 slot))).passNow s.freeClk
            if !fill then .next (miss s x)
            else if queueWords ≤ x.filled .l ∨ x.tokFull o.tok then .next (s.ctlWait x (.room .l o.tok))
            else
              let t0 := tags.getD 0 0
              let k := if tags.all tagValid then k.putSpadBytes base (bytesOf 8 (putBits t0 4 2 (w + 1))) else k
              let old := natOfBytes (k.spadBytes (base + 8 * w) 8)
              let k := k.putSpadBytes (base + 8 * w) (bytesOf 8 (putBits (putBits old 10 42 (blk / 2 ^ 10)) 0 2 3))
              let q := fillWord x o.tok (base + 8 * w) blk (fieldNat v 13 13 + slot * (bsz / 256)) (bsz / 256)
              let y := (x.tokAdd o.tok).numbered .tla
              .next (miss (s.putCore k) { y with ql := { y.ql with items := y.ql.items ++ [q] } })

def execProbe (o : C3) (s : State) : Out := probeWord o false s
def execProbeF (o : C3) (s : State) : Out := probeWord o true s
end Sys2Proof.Machine
end

