-- ==== Sys2Proof/Machine/VecOps.lean ====
section
/-! DEFINITION. How vector words issue: operands, active elements, results, class-Q traps and repetition (R79, R81, R82, R85,
R120, R121, R158). -/

namespace Sys2Proof.Machine

/-! ### Issuing -/

/-- A class-Q trap of the word that issues. -/
def State.trapQ (s : State) (x : Ctx) (code : CauseCode) (detail : Nat := 0) (event addr : Nat := 0) : Out :=
  let c : Cause := { code := code, cls := .q, detail := BitVec.ofNat 8 detail, event := BitVec.ofNat 64 event,
                     addr := BitVec.ofNat 64 addr }
  match s.cur.word with
  | none => .next s
  | some q => .next (s.raiseQ x q c)

/-- A vector or stream word that reads a poisoned row stops the context (R345). -/
def State.poisonFatal (s : State) (k : Kind := .x) : Out :=
  .next (s.ctxFatal s.cur.core s.cur.bank (Cause.tcause { code := .poison, cls := .q, detail := 0x10 } k 0))

/-- A vector register as the word reads it (R76, R120). -/
def State.vread (s : State) (x : Ctx) (r : VReg) : VWord := s.myCore.vregs.read (x.phys r.toNat)

/-- The pending bits of what a word of the X queue reads, then its effect (R82, R120). -/
def xReads (s : State) (g : Guard) (vs : List VReg) (ps : List PReg) (es : List EReg) (k : Ctx → QWord → Out) : Out :=
  match s.ctx?, s.cur.word with
  | some x, some q =>
    if x.pendr && (x.guardPending g || vs.any (fun r => x.vecPending (x.phys r.toNat)) || ps.any x.predPending
        || es.any x.exactPending) then s.trapQ x .pend
    else k x q
  | _, _ => .next s

/-- A vector word with a result: one that would make a thirteenth result waits until one lands, and reads its operands, and raises its
traps, in the clock in which it issues; the clks of that wait count for the results in flight (R81, R120, log 16). -/
def xWord (s : State) (g : Guard) (vs : List VReg) (ps : List PReg) (es : List EReg) (k : Ctx → QWord → Out) : Out :=
  match s.ctx? with
  | some x => if x.room .vec then xReads s g vs ps es k else .next (s.putCtx x.xTick)
  | none => .next s

/-- The vector engine's rounding generator as the word uses it (R64). -/
def Ctx.vecGen (x : Ctx) (q : QWord) : BitVec 32 := (x.gensAt q.cap.gen).vec
def Ctx.setVecGen (x : Ctx) (q : QWord) (g : BitVec 32) : Ctx := x.setGensAt q.cap.gen { x.gensAt q.cap.gen with vec := g }

/-- The word, or one repetition of it, has issued: repetitions 2m and 2m + 1 share a clk, and one of a `solo` word takes a clk
of its own (R79, R158). -/
def Ctx.xDone (x : Ctx) (solo : Bool := false) (bank : Nat := 0) : Ctx :=
  match x.qx.cur.rep with
  | none => (x.qNext .x).xTick
  | some r =>
    let put := fun t : RepSt => { x with qx := { x.qx with cur := { x.qx.cur with rep := some t } } }
    if r.px.count.toNat ≤ r.i + 1 then (x.qNext .x).xTick
    else if solo || r.half != 0 then (put { r with i := r.i + 1, half := 0 }).xTick
    else put { r with i := r.i + 1, half := 1, bank := bank }

/-- A word that tests bit 0 of its guard (R16): when the test fails the word, or the repetition, issues and does nothing (R157). Where
the manual names no bit, for HADVC, HADVP and RRBSET, bit 0 is the model's choice (DEDUCED, log 65). -/
def xWord0 (s : State) (g : Guard) (es : List EReg) (k : Ctx → QWord → Out) : Out :=
  match s.ctx? with
  | none => .next s
  | some x =>
    if x.pendr && x.guardPending g then s.trapQ x .pend
    else if x.guardOk g then xReads s none [] [] es k
    else .next (s.putCtx x.xDone)

/-- A word with a result that tests one bit of its guard, which passes as given: it waits for room where it may make a thirteenth result
(R81), and when the test fails it makes none. -/
def xWordRes (s : State) (g : Guard) (ok : Ctx → Bool) (vs : List VReg) (es : List EReg) (k : Ctx → QWord → Out) : Out :=
  match s.ctx? with
  | none => .next s
  | some x =>
    let pends := x.pendr && x.guardPending g
    if !x.room .vec && (pends || ok x) then .next (s.putCtx x.xTick)
    else if pends then s.trapQ x .pend
    else if ok x then xReads s none vs [] es k
    else .next (s.putCtx x.xDone)

/-- Issues a word whose result lands after lat clk (R79). -/
def State.xIssue (s : State) (x : Ctx) (q : QWord) (lat : Nat) (v : FlightVal) (solo : Bool := false) (bank : Nat := 0)
    (h : Option HReg := none) : Out :=
  let f : Flight := { unit := .vec, land := x.xclk + lat, val := v, uid := q.uid, hnd := h }
  .next (s.putCtx (({ x with flights := x.flights ++ [f] } : Ctx).xDone solo bank))

/-! ### Elements -/

/-- The lane whose guard bit governs element j (R120). -/
def laneOf (b j : Nat) : Nat := if b = 64 then 2 * j else j * b / 32

def Ctx.active (x : Ctx) (g : Guard) (b j : Nat) : Bool := x.guardBit g (laneOf b j)

/-- The number of elements of b bits. -/
abbrev elems (b : Nat) : Nat := 1024 / b

/-- The bytes of a register that hold the elements of b bits that are written. -/
def byteEnable (b : Nat) (writes : Nat → Bool) : BitVec 128 :=
  BitVec.ofNat 128 (ofElems 1 ((List.range 128).map fun y => if writes (8 * y / b) then 1 else 0))

/-- A result that writes the active elements first, first + 1, … of vd. -/
def Ctx.outElems (x : Ctx) (g : Guard) (b : Nat) (vd : VReg) (vals : List Nat) (first : Nat := 0) : FlightVal :=
  .vec (x.phys vd.toNat)
    (byteEnable b fun j => decide (first ≤ j) && decide (j < first + vals.length) && x.active g b j)
    (BitVec.ofNat 1024 (ofElems b vals <<< (b * first)))

/-- A result that writes the given bits at bit lo, of whole bytes, whatever the guard. -/
def Ctx.outAt (x : Ctx) (vd : VReg) (lo bits v : Nat) : FlightVal :=
  .vec (x.phys vd.toNat) (BitVec.ofNat 128 ((2 ^ (bits / 8) - 1) <<< (lo / 8)))
    (BitVec.ofNat 1024 ((v % 2 ^ bits) <<< lo))

/-- The result of a typed element-wise word: f of the elements of the sources with the same number. -/
def Ctx.outMap (x : Ctx) (s : State) (g : Guard) (b : Nat) (vd : VReg) (srcs : List VReg) (f : List Nat → Nat) :
    FlightVal :=
  let vs := srcs.map (s.vread x)
  x.outElems g b vd ((List.range (elems b)).map fun j => f (vs.map fun v => elemOf b v j))

/-- The predicate that a field of a register names (R19). -/
def predOf (r : VReg) : PReg := fieldOf r 0 4
def exactOf (r : VReg) : EReg := fieldOf r 0 2

/-- A comparison's result: bit i for lane i, of the element the lane holds at ELT; both bits of a pair for 64-bit types
(R124). -/
def Ctx.outCmp (x : Ctx) (s : State) (o : V4) (f : Nat → Nat → Bool) : FlightVal :=
  let b := o.ty.width
  let a := s.vread x o.va
  let c := s.vread x o.vb
  let elem := fun i : Nat => if b = 64 then i / 2 else if b = 32 then i else i * (32 / b) + o.elt
  let bit := fun i : Nat => if b = 64 then i / 2 * 2 else i
  .pred (predOf o.vd)
    (BitVec.ofNat 32 (ofElems 1 ((List.range 32).map fun i => if x.guardBit o.g (bit i) then 1 else 0)))
    (BitVec.ofNat 32 (ofElems 1 ((List.range 32).map fun i =>
      if f (elemOf b a (elem i)) (elemOf b c (elem i)) then 1 else 0)))
end Sys2Proof.Machine
end

