-- ==== Sys2Proof/Machine/Pipe.lean ====
section
/-! DEFINITION. Sections, pushes, retirement, landing, completion, and the events of the control core (R14, R27 to R44, R73,
R77 to R79, R85 to R88, R163). -/

namespace Sys2Proof.Machine

/-! ### Sections (R32 to R40) -/

/-- SECTION DISPATCH: the header is checked, counted, and, for L, X and S, placed behind the sections of its kind. -/
def execSectionDispatch (hdr : Word) (s : State) : Out :=
  match s.ctx? with
  | none => .next s
  | some x =>
    match decodeHeader hdr with
    | none => .next (s.trapP x .illegal)
    | some h =>
      if h.trapm != x.trapMode then .next (s.trapP x .illegal)
      else
        let n := x.dispOf h.trapm
        let deps := headerDeps h n
        let y := x.setDisp h.trapm (n.set h.kind (n.get h.kind + 1))
        let uid := x.nextUid
        let sec : CtlSec := { hdr := x.ctl.pc, h := h, uid := uid, deps := deps }
        let y : Ctx := { y.unheld with
          nextUid := uid + 1
          ctl := { pc := x.ctl.pc + 8, phase := if h.kind = .c then .waiting else .inside, sec := some sec } }
        .next (s.putCtx (if h.kind = .c then y else
          { y with secs := y.secs ++ [{ uid := uid, kind := h.kind, hdr := x.ctl.pc, len := h.len, trapm := h.trapm,
                                        deps := deps }] }))

/-- BACK-REFERENCE SATISFIED: the control core enters its section, or the section at the head of a queue may issue. -/
def execBackReferenceSatisfied (s : State) : Out :=
  match s.ctx? with
  | none => .next s
  | some x => match s.cur.unit with
    | .ctl => .next (s.putCtx { x.unheld with ctl := { x.ctl with phase := .inside } })
    | .queue _ => match s.cur.word with
      | none => .next s
      | some q => .next (s.putCtx { x with secs := x.secs.map fun t => if t.uid = q.uid then { t with open_ := true } else t })
    | _ => .next s

/-! ### Pushes (R14, R35, R60, R73, R77, R78) -/

/-- The scalar registers that a pushed word reads, by its format (R18); s0 where it reads none (log 37). -/
def pushReads (w : IWord) : List SReg :=
  let op := opOf w
  if op = 0x1F0 ∨ (0x200 ≤ op ∧ op < 0x300) then [fieldOf w 65 6, fieldOf w 59 6, fieldOf w 53 6]
  else if 0x340 ≤ op then [fieldOf w 64 6, fieldOf w 58 6, fieldOf w 52 6]
  else if op = 0x1B2 ∨ op = 0x1B5 ∨ op = 0x1F2 ∨ op = 0x1FD then [fieldOf w 48 6, 0, 0]
  else if op = 0x1E0 ∨ op = 0x1E1 then [fieldOf w 58 6, 0, 0]
  else [0, 0, 0]

/-- What a word captures at its push. -/
def Ctx.capture (x : Ctx) (w : IWord) : Capture :=
  let r := pushReads w
  { sa := x.rd (r.getD 0 0), sb := x.rd (r.getD 1 0), sc := x.rd (r.getD 2 0),
    ha := if isEM w && fieldOf w 44 1 == 1 then x.handle (fieldOf w 49 4) else {},
    hb := if isEM w && fieldOf w 43 1 == 1 then x.handle (fieldOf w 45 4) else {},
    desc := if isEM w && fieldOf w 42 1 == 1 then x.desc (fieldOf w 71 5) else Vector.replicate 13 0,
    bfmt := x.sys.bfmt, pred := x.sys.predcfg, chk := x.sys.chkcfg, lim := x.sys.misslim, seed := x.sys.seed,
    temp := x.sys.temper, gen := x.genNum, rime := x.rimeNum }

/-- The token of a pushed word (R17); vector words have none, and their modifier fields stand elsewhere. -/
def pushTok (w : IWord) : Token :=
  if decide (0x200 ≤ opOf w) && decide (opOf w < 0x340) && fieldOf w 79 1 == 1 then some (fieldOf w 76 3) else none

/-- The section after a push: how far the body of a VLOOP still reaches, and whether the word was a REP (R147, R153). -/
def CtlSec.pushed (c : CtlSec) (w : IWord) : CtlSec :=
  { c with body := if opOf w = 0x1F0 then fieldNat w 0 32 else c.body - 1, rep := opOf w == 0x1F3 }

/-- WORD PUSH: the word joins its queue with what it captures, its number and its token count, or waits for room, which trap-mode
words share with the others (R35; DESIGN CHOICE, log 22). -/
def execWordPush (w : IWord) (s : State) : Out :=
  match s.ctx? with
  | none => .next s
  | some x => match x.ctl.sec with
    | none => .next s
    | some c =>
      let x := x.landed s.myCore
      let k := c.h.kind
      let tok := pushTok w
      if queueWords ≤ x.filled k ∨ x.tokFull tok then .next (s.ctlWait x (.room k tok))
      else if x.pendr && !isEM w && (pushReads w).any x.scalarPending then .next (s.trapP x .pend)
      else
        let cap := x.capture w
        if opOf w = 0x341 ∧ 2 ^ 46 ≤ cap.sb.toNat then .next (s.trapP x .illegal)
        else
          let n := match ctrOf (opOf w) k with | some t => x.number t | none => 0
          let q : QWord := { w := w, uid := c.uid, hdr := c.hdr, idx := c.idx, kind := k, trapm := x.trapMode, cap := cap,
                             num := n, born := s.tick }
          let x := match ctrOf (opOf w) k with | some t => x.numbered t | none => x
          let x := (x.tokAdd tok).setQueue k { x.queue k with items := (x.queue k).items ++ [q] }
          .next (s.ctlDone { x with
            secs := x.secs.map fun t => if t.uid = c.uid then { t with pushed := t.pushed + 1 } else t
            ctl := { x.ctl with sec := some (c.pushed w) } })

/-! ### Retirement and landing (R32, R79) -/

/-- A word of the section has not completed. -/
def Ctx.secBusy (x : Ctx) (t : Sec) : Bool :=
  let inQueue := fun q : Queue =>
    (q.items.any (·.uid == t.uid)) || (match q.cur.loop with | some l => l.uid == t.uid | none => false)
      || (match q.saved.loop with | some l => l.uid == t.uid | none => false)
  inQueue (x.queue t.kind) || x.flights.any (·.uid == t.uid) || x.latchUid.any (·.1 == t.uid)
    || x.runs.any (·.q.uid == t.uid)

/-- SECTION RETIREMENT: the oldest section of its kind and mode retires once all its words are pushed and complete. -/
def execSectionRetirement (c : CoreId) (b : BankId) (k : Kind) (trapm : Bool) (s : State) : Out :=
  match s.ctxAt c b with
  | none => .next s
  | some x => match x.secs.find? fun t => t.kind == k && t.trapm == trapm with
    | none => .next s
    | some t =>
      if (t.pushed == t.len || t.closed) && !x.secBusy t then
        let y : Ctx := { x with secs := x.secs.filter (·.uid != t.uid) }
        let n := y.retOf trapm
        .next (s.setCtxAt c b (some (if t.counted then y.setRet trapm (n.set k (n.get k + 1)) else y)))
      else .next s

/-- RESULT LANDING: the results that land before the unit's next clock are at their destinations. -/
def execResultLanding (c : CoreId) (b : BankId) (u : FixUnit) (s : State) : Out :=
  match s.ctxAt c b with
  | none => .next s
  | some x =>
    let (k, x) := landBefore u (x.clk u) (s.core c) x
    .next ((s.setCore c k).setCtxAt c b (some x))

/-! ### Macros at their engines (R77, R78, R162, R163, R167) -/

/-- The macro at the head of its queue goes to its engine's list, in one clk of its queue (R162, R205, log 22); a stream word takes
along the vector registers it reads. -/
def State.handOver (s : State) (x : Ctx) (q : QWord) (aux : List Nat := []) : Out :=
  let e := engOf (opOf q.w) q.kind
  let r : Run := { q := q, ctr := (ctrOf (opOf q.w) q.kind).getD .tla, aux := aux }
  let y : Ctx := { x with eng := x.eng.set e (x.eng.get e ++ [r]) }
  .next (s.putCtx ((y.qNext q.kind).qTick q.kind))

/-- The macro that the executing engine runs: that of the engine's list with the word and number it took up. -/
def State.curRun (s : State) (x : Ctx) (e : Eng) : Option Run :=
  match s.cur.word with
  | none => none
  | some q => (x.eng.get e).find? fun r => r.q.num == q.num && r.q.trapm == q.trapm && r.q.w == q.w

/-- A macro: at its queue's head it is handed over; at its engine it performs one progress unit (log 21). -/
def macroWord (s : State) (k : Ctx → Run → Out) : Out :=
  match s.ctx? with
  | none => .next s
  | some x => match s.cur.unit with
    | .queue _ => (match s.cur.word with
      | some q => s.handOver x q
      | none => .next s)
    | .eng e => (match s.curRun x e with
      | some r => k x { r with started := true }
      | none => .next s)
    | _ => .next s

/-- The macro stands as given. -/
def State.putRun (s : State) (x : Ctx) (r : Run) : Out := .next (s.putCtx (x.setRun r))

/-- The macro stops with a class-A fault (R167). -/
def State.runFault (s : State) (x : Ctx) (r : Run) (code : CauseCode) (detail : Nat := 0) (event addr : Nat := 0) : Out :=
  let c : Cause := { code := code, cls := .a, detail := BitVec.ofNat 8 detail, event := BitVec.ofNat 64 event,
                     addr := BitVec.ofNat 64 addr, eng := some r.ctr, num := r.q.num }
  s.putRun x { r with stall := none, dupw := none, wait := none, fault := some c }

/-- A unit of the macro has landed: its count rises, and the macro is finished after the last. -/
def Run.did (r : Run) (last : Bool) (n : Nat := 1) : Run :=
  { r with done := r.done + n, tstep := 0, stall := none, dupw := none, wait := none, fin := last }

/-- The counter, number and token of a completed macro (R77, R78). -/
def Ctx.completed (x : Ctx) (r : Run) : Ctx :=
  { (x.tokDone (if fieldOf r.q.w 79 1 = 1 then some (fieldOf r.q.w 76 3) else none)) with
    tl := x.tl.set r.ctr ((x.tl.get r.ctr).complete r.q.num) }

/-- The rows that a completion writes: pairs of a physical row and its value. -/
def Core.putPairs (k : Core) : List Nat → Core
  | r :: v :: rest => Core.putPairs (k.putRow r (BitVec.ofNat 2048 v)) rest
  | _ => k

/-- What a macro publishes at its completion: ACCEPT its out row, its descriptor and FRAG (R199), FRAGSET FRAG (R200), PCHK
COUNT and FLAG (R265). `aux` holds them. -/
def Run.publish (r : Run) (k : Core) (x : Ctx) : Core × Ctx :=
  let op := opOf r.q.w
  if op = 0x2B0 ∨ op = 0x2B1 then
    (k.putPairs (r.aux.drop 1), { x with sys := { x.sys with frag := BitVec.ofNat 64 (r.aux.headD 0) } })
  else if op = 0x2A1 then
    match r.aux with
    | [count, flag] =>
      let old := fieldNat x.sys.misscnt 16 1
      (k, { x with sys := { x.sys with misscnt := BitVec.ofNat 64 (count % 65536 + max old flag * 65536) } })
    | _ => (k, x)
  else (k, x)

/-- MACRO COMPLETION: the first finished macro of the engine completes. -/
def execMacroCompletion (c : CoreId) (b : BankId) (e : Eng) (s : State) : Out :=
  match s.ctxAt c b with
  | none => .next s
  | some x => match (x.eng.get e).find? (·.fin) with
    | none => .next s
    | some r =>
      let (k, y) := r.publish (s.core c) (x.completed r)
      .next ((s.setCore c k).setCtxAt c b (some { y with eng := y.eng.set e ((y.eng.get e).eraseP (·.fin)) }))

/-! ### Events of the control core -/

/-- The clocks that may pass while the control core is held: any number, but that a word which waits for a result to land issues once the
first of its own unit's lands (R81). -/
def Ctx.mayPass (x : Ctx) (n : Nat) : Bool :=
  x.hold != .full || match ((x.flights.filter fun f => f.unit == .ctl && decide (x.cclk < f.land)).map (·.land)).min? with
    | some l => decide (x.cclk + n ≤ l)
    | none => true

/-- TIMER EXPIRY: the clocks that the active, held control core lets pass bring TMR to 0 (R87). -/
def execTimerExpiry (c : CoreId) (b : BankId) (s : State) : Out :=
  match s.ctxAt c b with
  | none => .next s
  | some x =>
    let n := x.sys.tmr.toNat
    if (s.core c).active = some b ∧ x.trapMode = false ∧ x.sys.tmr ≠ 0 ∧ x.hold ≠ .none ∧ x.mayPass n then
      let x := if x.ctlFresh && !x.midWord then x.postpone .ctl n else x
      .next (s.setCtxAt c b (some ({ x with cclk := x.cclk + n, heldClk := x.heldClk + n }.countTmr true n)))
    else .next s

/-- TRAP ENTRY at the boundary where the control core stands (R88). -/
def execTrapEntry (cause : Cause) (s : State) : Out :=
  match s.ctx? with
  | none => .next s
  | some x => .next (s.takeTrap x cause)
end Sys2Proof.Machine
end

