-- ==== Sys2Proof/Machine/Banks.lean ====
section
/-! DEFINITION. What macros read and write: scratchpad and accumulator rows, and elements through bank formats (R46, R52 to R62,
R163, R164, R166, R235, R239, R345). -/

namespace Sys2Proof.Machine

/-- What stops a macro (R167). -/
structure MFault where
  code   : CauseCode
  detail : Nat := 0
  event  : Nat := 0
  addr   : Nat := 0
  deriving DecidableEq, Repr

/-- A part of a progress unit that may fault. -/
abbrev Mac (α : Type) := Except MFault α

/-- The macro stops where the part faults, and goes on with its value elsewhere. -/
def orFault {α : Type} (s : State) (x : Ctx) (r : Run) (e : Mac α) (k : α → Out) : Out :=
  match e with
  | .ok a => k a
  | .error f => s.runFault x r f.code f.detail f.event f.addr

def mfault {α : Type} (code : CauseCode) (detail : Nat := 0) (event addr : Nat := 0) : Mac α :=
  .error ⟨code, detail, event, addr⟩

/-- A condition that the unit needs. -/
def need (ok : Bool) (code : CauseCode) (detail : Nat) : Mac Unit := if ok then .ok () else mfault code detail

/-! ### Rows (R164, R235, R345) -/

/-- The row of a scratchpad byte address (R164). -/
def rowOf (a : Word) : Nat := a.toNat / 256

/-- The physical row of a context row (log 40). -/
def Ctx.rowAt (x : Ctx) (r : Nat) : Mac Nat :=
  match x.spadRow r with
  | some p => .ok p
  | none => mfault .allot 0 0 (r * 256)

/-- A macro's read of a row, whole: pending rows with PENDS set, and poisoned rows, stop it (R82, R345). -/
def readRow (k : Core) (x : Ctx) (r : Nat) : Mac Row :=
  match x.rowAt r with
  | .error f => .error f
  | .ok p =>
    if k.spadBad.contains p then mfault .poison 0x10 0 (r * 256)
    else if x.pends && x.rowPending r then mfault .pend 0 0 (r * 256)
    else .ok (k.spad.read p)

def readRows (k : Core) (x : Ctx) (r n : Nat) : Mac (List Row) := (List.range n).mapM fun i => readRow k x (r + i)

/-- n bytes at a scratchpad byte address, as a number; the rows that hold them are read whole. -/
def readBytes (k : Core) (x : Ctx) (a n : Nat) : Mac Nat :=
  (readRows k x (a / 256) ((a % 256 + n + 255) / 256)).map fun rows =>
    (ofElems 2048 (rows.map BitVec.toNat) >>> (8 * (a % 256))) % 2 ^ (8 * n)

/-- A macro's write of n bytes at a scratchpad byte address: each row in one byte-enabled access (R235). -/
def writeBytes (k : Core) (x : Ctx) (a n v : Nat) : Mac Core :=
  (List.range ((a % 256 + n + 255) / 256)).foldlM (fun k i =>
    (x.rowAt (a / 256 + i)).map fun p =>
      k.putRowBytes p (BitVec.ofNat 256 (((2 ^ n - 1) <<< (a % 256)) >>> (256 * i)))
        (BitVec.ofNat 2048 ((v <<< (8 * (a % 256))) >>> (2048 * i)))) k

/-- The physical row of a context's accumulator row (R164, R231). -/
def Ctx.accAt (x : Ctx) (a : Nat) : Mac Nat :=
  match x.accRow a with
  | some p => .ok p
  | none => mfault .allot 7

/-- An accumulator row's 256 entries (R239, R345). -/
def readAcc (k : Core) (x : Ctx) (a : Nat) : Mac (List FVal) :=
  match x.accAt a with
  | .error f => .error f
  | .ok p =>
    if k.accBad.contains p then mfault .poison 0x10
    else .ok ((elemsOf 32 (k.acc.read p)).map (decodeF f32F))

def bits32 (v : FVal) : Nat := encodeF f32F .rne false 0 v

def writeAcc (k : Core) (x : Ctx) (a : Nat) (vs : List FVal) : Mac Core :=
  (x.accAt a).map fun p => k.putAcc p (BitVec.ofNat 8192 (ofElems 32 (vs.map bits32)))

/-- One addition into an accumulator entry (R65, R171). -/
def accAdd (a b : FVal) : FVal := rne32 (FVal.add .rne a b)

/-- Byte credit of a row on the barrier at a scratchpad byte address, whose row it reads (R166, R235, R345). -/
def Core.creditAt (k : Core) (x : Ctx) (bar : Option Nat) (n : Nat) : Mac Core :=
  match bar with
  | none => .ok k
  | some a => match x.spadAddr (a / 16 * 16) with
    | some p => if k.spadBad.contains (p / 256) then mfault .poison 0x10 0 (a / 256 * 256) else .ok (k.credit p n)
    | none => mfault .allot 0 0 (a / 16 * 16)

/-! ### Bank formats (R58 to R61) -/

/-- A bank format as captured at the push (R60). -/
structure Fmt where
  code : Nat
  rnd  : Rnd
  sat  : Bool
  f4x  : Nat
  aux  : Nat
  zp   : Nat
  gsz  : Nat
  deriving DecidableEq, Repr

def Fmt.ofWord (w : Word) : Fmt :=
  { code := fieldNat w 0 5, rnd := (Rnd.ofCode (fieldNat w 5 3)).getD .rne, sat := w.getLsbD 8, f4x := fieldNat w 16 16,
    aux := fieldNat w 34 13, zp := fieldNat w 47 13, gsz := fieldNat w 60 2 }

/-- The format that governs a context row. -/
def QWord.fmt (q : QWord) (row : Nat) : Fmt := Fmt.ofWord ((q.cap.bfmt.toList[row / 256]?).getD 0)

/-- The type of a code; RAW counts as F32 where its elements are numbers (R61, R171, R190), and RAW and STREAM as 8-bit
elements in CPY (R170). -/
def Fmt.type (f : Fmt) : Option ElemType :=
  match f.code with
  | 0x01 => some .f64 | 0x02 => some .f32 | 0x03 => some .bf16 | 0x04 => some .f16 | 0x05 => some .e4m3
  | 0x06 => some .e5m2 | 0x07 => some .f4 | 0x08 => some .db8 | 0x09 => some .db4 | 0x0A => some .i32
  | 0x0B => some .i16 | 0x0C => some .i8 | 0x0D => some .i4 | 0x0E => some .n8 | 0x0F => some .n4
  | _ => none

def Fmt.typeRaw32 (f : Fmt) : Option ElemType := if f.code = 0 then some .f32 else f.type

/-- RAW and STREAM. -/
def Fmt.plain (f : Fmt) : Bool := f.code == 0 || f.code == 0x10

/-- I4 and N4 in groups (R56). -/
def Fmt.grouped (f : Fmt) : Bool := (f.code == 0x0D || f.code == 0x0F) && f.gsz != 0

/-- What the banks of one operand must agree on (R164). -/
def Fmt.agrees (f g : Fmt) : Bool :=
  f.code == g.code && f.rnd == g.rnd && f.sat == g.sat && f.f4x == g.f4x && f.gsz == g.gsz

/-- The format of a context row, which must lie in the allotment: banks at or above SNB govern nothing (R231). -/
def govFmt (x : Ctx) (q : QWord) (row : Nat) : Mac Fmt := (x.rowAt row).map fun _ => q.fmt row

/-- The banks of the rows agree with the format that governs the operand (R164). -/
def agreeRows (x : Ctx) (q : QWord) (f : Fmt) (rows : List Nat) : Mac Unit :=
  need (rows.all fun r => decide (x.id.snb * 256 ≤ r) || f.agrees (q.fmt r)) .illegal 2

/-- The format of an operand of n rows. -/
def operandFmt (x : Ctx) (q : QWord) (row n : Nat) : Mac Fmt :=
  if n = 0 then .ok (q.fmt row)
  else do
    let f ← govFmt x q row
    agreeRows x q f ((List.range ((row + n - 1) / 256 - row / 256)).map fun i => row + 256 * (i + 1))
    pure f

/-! ### Elements (R46, R52 to R56) -/

/-- What the elements lo to hi − 1 of a context row are decoded with, read whole (R53, R56, R261, R262): the number of the first
block or group, the sidecars or scales from it on, and the zero points (log 48). -/
def sideOf (k : Core) (x : Ctx) (q : QWord) (t : ElemType) (row lo hi : Nat) : Mac (List Nat) := do
  let f := q.fmt row
  let first := row % 256 * (2048 / t.width)
  let g := if t.isDB then 32 else 32 * 2 ^ f.gsz
  let b := (first + lo) / g
  let n := (first + hi + g - 1) / g - b
  if hi ≤ lo || !(t.isDB || f.grouped) then pure [0, 0, 0]
  else
    let e ← readBytes k x (f.aux * 256 + 2 * b) (2 * n)
    let zp ← if !t.isDB && t = .n4 then readBytes k x (f.zp * 256 + b / 2) ((b + n + 1) / 2 - b / 2) else pure 0
    pure [b, e, zp >>> (4 * (b % 2))]

/-- The 2048/b elements of a row as values. -/
def decodeWith (q : QWord) (t : ElemType) (row : Nat) (v : Row) (side : List Nat) : List FVal :=
  let f := q.fmt row
  let es := elemsOf t.width v
  let first := row % 256 * (2048 / t.width)
  let b := side.getD 0 0
  let at_ := fun (g j : Nat) => (first + j) / g - b
  if t.isDB then es.zipIdx.map fun (e, j) => decodeDB t (side.getD 1 0 >>> (16 * at_ 32 j) % 2 ^ 16) e
  else if f.grouped then
    let g := 32 * 2 ^ f.gsz
    es.zipIdx.map fun (e, j) =>
      groupWeight (t != .n4) e (side.getD 2 0 >>> (4 * at_ g j) % 16) (side.getD 1 0 >>> (16 * at_ g j) % 2 ^ 16)
  else es.map (decodeElem t f.f4x)

/-- A context row decoded, of which elements lo to hi − 1 are wanted. -/
def decodePart (k : Core) (x : Ctx) (q : QWord) (t : ElemType) (row lo hi : Nat) : Mac (List FVal) := do
  let v ← readRow k x row
  let side ← sideOf k x q t row lo hi
  pure (decodeWith q t row v side)

def decodeRow (k : Core) (x : Ctx) (q : QWord) (t : ElemType) (row : Nat) : Mac (List FVal) :=
  decodePart k x q t row 0 (2048 / t.width)

/-- Of row i of an operand, the elements that the span of n elements from `first` takes: from, and up to. -/
def spanPart (per first n i : Nat) : Nat × Nat := (first - per * i, min per (first + n - per * i))

/-- n elements of an operand from its element `first`, the operand starting at a context row. -/
def decodeSpan (k : Core) (x : Ctx) (q : QWord) (t : ElemType) (row first n : Nat) : Mac (List FVal) := do
  let per := 2048 / t.width
  let lo := first / per
  let hi := (first + n + per - 1) / per
  let rows ← (List.range (hi - lo)).mapM fun i =>
    decodePart k x q t (row + lo + i) (spanPart per first n (lo + i)).1 (spanPart per first n (lo + i)).2
  pure ((rows.flatten.drop (first - lo * per)).take n)

/-- What the first n elements of an operand row are decoded with: three numbers for each of its scratchpad rows. -/
def spanSides (k : Core) (x : Ctx) (q : QWord) (t : ElemType) (row n : Nat) : Mac (List Nat) :=
  let per := 2048 / t.width
  ((List.range ((n + per - 1) / per)).mapM fun i =>
    sideOf k x q t (row + i) (spanPart per 0 n i).1 (spanPart per 0 n i).2).map List.flatten

/-- The span decoded with what was read before. -/
def decodeSpanWith (k : Core) (x : Ctx) (q : QWord) (t : ElemType) (row first n : Nat) (sides : List Nat) : Mac (List FVal) := do
  let per := 2048 / t.width
  let lo := first / per
  let hi := (first + n + per - 1) / per
  let rows ← (List.range (hi - lo)).mapM fun i => (readRow k x (row + lo + i)).map fun v =>
    decodeWith q t (row + lo + i) v ((sides.drop (3 * (lo + i))).take 3)
  pure ((rows.flatten.drop (first - lo * per)).take n)

/-- The codes and sidecars of values in order, and the generator after them (R54, R62, R64). -/
def encodeSpan (t : ElemType) (f : Fmt) (int : Bool) (g : BitVec 32) (vs : List FVal) : List Nat × List Nat × BitVec 32 :=
  if t.isDB then
    (List.range (vs.length / 32)).foldl (fun acc i =>
      let (codes, side, g) := encodeDB t f.rnd f.sat acc.2.2 ((vs.drop (32 * i)).take 32)
      (acc.1 ++ codes, acc.2.1 ++ [side], g)) ([], [], g)
  else
    let (codes, g) := mapDraw f.rnd (fun r v => encodeElem t f.rnd f.sat r int v) g vs
    (codes, [], g)

/-- Writes codes from a scratchpad byte address, with the sidecars of their blocks, block by block of each bank (R53). -/
def writeSpan (k : Core) (x : Ctx) (q : QWord) (t : ElemType) (a : Nat) (codes sides : List Nat) : Mac Core := do
  let k ← writeBytes k x a (codes.length * t.width / 8) (ofElems t.width codes)
  sides.zipIdx.foldlM (fun k (side, j) =>
    let p := a + j * 4 * t.width
    let blk := p % 65536 / (4 * t.width)
    writeBytes k x ((q.fmt (p / 256)).aux * 256 + 2 * blk) 2 side) k
end Sys2Proof.Machine
end

