-- ==== Sys2Proof/Machine/Accept.lean ====
section
/-! DEFINITION. The acceptance unit: ACCEPT and FRAGSET (R163, R198 to R200, R274, R275). -/

namespace Sys2Proof.Machine

/-- The fields of a tree block (R198). -/
def treeParent (t i : Nat) : Nat := (t >>> (8 * i)) % 256
def treeDraft (t i : Nat) : Nat := (t >>> (8 * (64 + 4 * i))) % 2 ^ 32
def treeTarget (t i : Nat) : Nat := (t >>> (8 * (320 + 4 * i))) % 2 ^ 32
def treePolicy (t i : Nat) : Nat := (t >>> (8 * (576 + i))) % 256

/-- The checks of a tree block (R198). -/
def treeOk (t nodes : Nat) : Bool :=
  treeParent t 0 == 0xFF && ((List.range nodes).drop 1).all (fun i => decide (treeParent t i < i))
    && (List.range 64).all (fun i => decide (treePolicy t i < 64)) && (t >>> (8 * 640)) % 2 ^ (8 * 128) == 0

/-- The path from node a: children whose draft is the token sampled at their parent (R198). -/
def acceptPath (t nodes : Nat) : Nat → Nat → List Nat
  | 0, _ => []
  | n + 1, a =>
    match ((List.range nodes).drop 1).find? fun i => treeParent t i == a && treeDraft t i == treeTarget t a with
    | none => []
    | some i => i :: acceptPath t nodes n i

/-- A ring descriptor as read: HEAD, W and its 16-bit entries (R199). -/
structure Ring where
  head : Nat
  w    : Nat
  ents : List Nat
  deriving DecidableEq, Repr

/-- One commit: the slots of window position HEAD and of the node change places (R199). -/
def Ring.commit (g : Ring) (node : Nat) : Ring :=
  let p := g.head % g.w
  let n := g.w + node
  { g with head := (g.head + 1) % 2 ^ 64,
           ents := (g.ents.set p (g.ents.getD n 0)).set n (g.ents.getD p 0) }

/-- The descriptor's rows after the commits: pairs of a physical row and its value (log 54). -/
def commitRows (k : Core) (x : Ctx) (row : Nat) (nodes : List Nat) : Mac (List Nat) := do
  let first ← readRow k x row
  let w := fieldNat first 64 32
  need (1 ≤ w && w ≤ 4096 && fieldNat first 96 32 == 0) .illegal 6
  let bytes := 16 + 2 * w + 128
  let n := (bytes + 255) / 256
  let rows ← readRows k x row n
  let v := ofElems 2048 (rows.map BitVec.toNat)
  let g : Ring := { head := v % 2 ^ 64, w := w, ents := (List.range (w + 64)).map fun i => (v >>> (128 + 16 * i)) % 2 ^ 16 }
  let g := nodes.foldl Ring.commit g
  let rest := v >>> (8 * bytes)
  let v' := g.head + w * 2 ^ 64 + ofElems 16 g.ents * 2 ^ 128 + rest <<< (8 * bytes)
  let ps ← (List.range n).mapM fun i => x.rowAt (row + i)
  pure (ps.zipIdx.flatMap fun (p, i) => [p, (v' >>> (2048 * i)) % 2 ^ 2048])

/-- The out row: L, the bonus token and the path. -/
def outRow (path : List Nat) (bonus : Nat) : Nat := path.length + bonus * 2 ^ 32 + ofElems 8 path * 2 ^ 64

/-- ACCEPT: its reads and checks; what it writes becomes visible at its completion. -/
def execAccept (o : EM) (s : State) : Out :=
  macroWord s fun x r =>
    let k := s.myCore
    let part := do
      let rows ← readRows k x (rowOf r.q.cap.sb) 3
      let t := ofElems 2048 (rows.map BitVec.toNat)
      need (treeOk t o.nodes) .illegal 6
      let path := acceptPath t o.nodes 64 0
      let out ← x.rowAt (rowOf r.q.cap.sa)
      let ring ← if o.nocommit then pure [] else commitRows k x (rowOf r.q.cap.sc) (0 :: path)
      pure (treePolicy t path.length :: out :: outRow path (treeTarget t ((0 :: path).getLastD 0)) :: ring)
    if 0 < r.done then s.putRun x (r.did true 0)
    else orFault s x r part fun aux => s.putRun x { r.did true with aux := aux }

/-- FRAGSET: FRAG is written at its completion. -/
def execFragset (o : EM) (s : State) : Out :=
  macroWord s fun x r => s.putRun x { r.did true with aux := [o.index.toNat] }
end Sys2Proof.Machine
end

