-- ==== Sys2Proof/Machine/CtlFlow.lean ====
section
/-! DEFINITION. Branches, tables, DONE and YIELD (R98 to R104). -/

namespace Sys2Proof.Machine

def execBr (o : CB) (s : State) : Out := ctlWord o.g [] s fun x => branchTo s x (x.ctl.pc + o.off)

def execBc (o : CB) (s : State) : Out :=
  ctlWord o.g [o.r] s fun x => if x.rd o.r ≠ 0 then branchTo s x (x.ctl.pc + o.off) else .next (s.ctlDone x)

/-- CALL writes the address of the next header to the link register and branches; the link lands after 1 clk (log 10). -/
def execCall (o : CB) (s : State) : Out :=
  ctlWordRes o.g [] (fun x => o.r != 0 && fieldNat (x.ctl.pc + o.off) 0 3 == 0) s fun x =>
    let t := x.ctl.pc + o.off
    let ret := match x.ctl.sec with | some c => c.next | none => x.ctl.pc + 12
    if fieldNat t 0 3 ≠ 0 then .next (s.trapP x .illegal)
    else if o.r = 0 then .next (s.ctlBranch x t)
    else if x.room .ctl then
      .next (s.ctlBranch { x with flights := x.flights ++ [{ unit := .ctl, land := x.cclk + 1, val := .scalar o.r ret }] } t)
    else .next (s.ctlHold x .full)

def execRet (o : C3) (s : State) : Out := ctlWord o.g [o.sa] s fun x => branchTo s x (x.rd o.sa)

/-- Reads an 8-byte table word as data at thread scope (R100). -/
def tableWord (s : State) (x : Ctx) (va : Nat) (e : Xlat) (k : Word → State → Out) : Out :=
  withXlat s x e va fun l s =>
    if x.mustWait l 8 then .next (s.ctlBusy x)
    else k (BitVec.ofNat 64 (natOfBytes (s.readLoc s.myDie s.myCore l 8))) s

/-- JTAB (R100). -/
def execJtab (o : CB) (s : State) : Out :=
  ctlWord o.g [o.r] s fun x =>
    tableWord s x o.off.toNat (s.xlatTable x o.off.toNat) fun b s =>
      let i := x.rd o.r
      if i.toNat < b.toNat then
        let va := (o.off + 8 + i * 8).toNat
        tableWord s x va (s.xlatTable x va) fun t s => branchTo s x t (3 + s.freeClk)
      else .next (s.ctlDone x (1 + s.freeClk))

/-- JFRAG: the entry of the fragment table that FRAG selects, in a segment with X permission (R101, R102). -/
def execJfrag (o : C3) (s : State) : Out :=
  ctlWord o.g [] s fun x =>
    let va := fieldNat x.sys.ftabb 3 49 * 8 + 8 * fieldNat x.sys.frag 0 6
    tableWord s x va (s.xlat x va .fetch) fun t s => branchTo s x t (3 + s.freeClk)

/-- In trap mode, DONE drops the words that have not issued (R103). -/
def Ctx.dropQueued (x : Ctx) : Ctx := { x with ql := {}, qx := {}, qs := {} }

/-- Everything of the thread has completed (R103, R302): its sections, scalar operations, results and macros. In trap mode a macro
that holds a fault, and those behind it, do not hold DONE up. -/
def Ctx.quiet (x : Ctx) : Bool :=
  x.ops.isEmpty && x.flights.isEmpty && x.ql.items.isEmpty && x.qx.items.isEmpty && x.qs.items.isEmpty
    && x.qx.cur == {} && x.ql.cur == {} && x.qs.cur == {}
    && allEngines.all fun e => match (x.eng.get e).head? with
      | none => true
      | some r => x.trapMode && (r.fault.isSome || r.held)

/-- The first step of DONE has ended as far as it can beside a held fault (R103, log 73): nothing pushed or issued goes on, and no
result is in flight but those that a waiting X queue holds back (log 16). -/
def Ctx.doneWaits (k : Core) (x : Ctx) : Bool :=
  !x.going k && !(x.flights.any fun f => f.unit == .ctl)
    && (!(x.flights.any fun f => f.unit == .vec) || (x.xFresh && !x.qx.items.isEmpty))

/-- DONE (R103, R302): waits until what the thread pushed and issued has completed, delivers a held fault once nothing else goes on,
releases at module scope, and frees the slot. -/
def execDone (o : C3) (s : State) : Out :=
  ctlWord o.g [] s fun x =>
    let x := if x.trapMode then x.dropQueued else x
    match (if x.trapMode || !x.doneWaits s.myCore then none else (x.faultOn fun _ => true).bind (·.fault)) with
    | some f => .next (s.takeTrap x f)
    | none =>
      if x.quiet && s.drained (s.cur.core, x.id.serial) then .next (s.freeBank s.cur.core s.cur.bank)
      else .next (s.ctlBusy { x with ending := true })

/-- A switch of the active context: the outgoing one's control clock stops, and with it its results in flight, which then land
relative to its first issue (R297). -/
def State.switchTo (s : State) (c : CoreId) (b : BankId) : State :=
  let k := s.core c
  let s := match k.active with
    | some a => match s.ctxAt c a with
      | some x => s.setCtxAt c a (some { x with outSince := s.tick, heldClk := 0, ctlFresh := true })
      | none => s
    | none => s
  s.setCore c { s.core c with active := some b }

/-- The resident context of highest priority among those wanted; ties go to the one switched out longest (R296). -/
def Core.best (k : Core) (want : BankId → Ctx → Bool) : Option BankId :=
  ([0, 1, 2] : List BankId).foldl (fun acc b => match k.banks[b] with
    | none => acc
    | some x => if !want b x then acc else match acc.bind fun a => k.banks[a] with
      | none => some b
      | some y => if y.id.pri < x.id.pri ∨ (y.id.pri = x.id.pri ∧ x.outSince < y.outSince) then some b else acc) none

/-- YIELD (R104). -/
def execYield (o : C3) (s : State) : Out :=
  ctlWord o.g [] s fun x =>
    let s' := s.ctlDone x
    if x.trapMode then .next s'
    else match s.myCore.best fun b y => decide (b ≠ s.cur.bank) && s.ready s.cur.core y && decide (x.id.pri ≤ y.id.pri) with
      | some b => .next (s'.switchTo s.cur.core b)
      | none => .next s'
end Sys2Proof.Machine
end

