-- ==== Sys2Proof/Machine/CtlMem.lean ====
section
/-! DEFINITION. Scalar memory: SLD, SST, AWAIT, AMO and AMOF (R105 to R112), and the completion of the operations that do not
hold the control core (R77). -/

namespace Sys2Proof.Machine

/-- The sector that WATCHA names (R82). -/
def Ctx.watched (x : Ctx) (o : C3) : Bool :=
  x.wen && !o.sp && scalarAddr x o / 32 == fieldNat x.sys.watcha 5 47

/-- Where a scalar access goes (R106), after WATCH and the limit of R77. A read of a scratchpad row with a vector store in flight
raises no PEND under PENDS, which R82 gives to vector loads and macros (DESIGN CHOICE, log 53). -/
def scalarPlace (s : State) (x : Ctx) (o : C3) (acc : AccKind) (k : Loc → State → Out) : Out :=
  let a := scalarAddr x o
  if x.watched o then .next (s.trapP x .watch 0 0 a)
  else if x.tokFull o.tok then .next (s.ctlBusy x)
  else if o.sp then
    match x.spadAddr a with
    | none => .next (s.trapP x .allot 0 0 a)
    | some p => if acc == .read && s.myCore.spadBad.contains (p / 256) then .next (s.trapP x .poison 0x10 0 a) else k (.spad p) s
  else withXlat s x (s.xlat x a acc) a (fun l s => k l s)

/-- An operation joins those on their way (R77). -/
def State.ctlIssue (s : State) (x : Ctx) (op : Op) : State :=
  s.ctlDone { (x.tokAdd op.tok) with ops := x.ops ++ [{ op with born := s.tick }] }

/-- The value that SLD writes (R107). -/
def loadValue (size : Nat) (sx : Bool) (bs : List Byte) : Word :=
  if sx then BitVec.ofInt 64 (signedOf (8 * size) (natOfBytes bs)) else BitVec.ofNat 64 (natOfBytes bs)

/-- SLD (R107): held until sd is written when untagged, else counted on its token. One that acquires waits for what the thread has
posted (R110). -/
def execSld (o : C3) (s : State) : Out :=
  ctlWord o.g [o.sa] s fun x =>
    scalarPlace s x o .read fun l s =>
      match o.tok with
      | some t => .next (s.ctlIssue x { kind := .load o.sd o.msx, loc := l, size := C3size o, tok := some t })
      | none =>
        if x.mustWait l (C3size o) || (o.acq && x.posted) then .next (s.ctlBusy x)
        else
          let v := loadValue (C3size o) o.msx (s.readLoc s.myDie s.myCore l (C3size o))
          .next (s.ctlHeld x fun x => x.wr o.sd v)

/-- SST (R108): performed later in program order, unless the token is full never holding the control core. -/
def execSst (o : C3) (s : State) : Out :=
  ctlWord o.g [o.sa, o.sb] s fun x =>
    scalarPlace s x o .write fun l s =>
      .next (s.ctlIssue x { kind := .store ((x.rd o.sb).toNat % 2 ^ (8 * C3size o)), loc := l, size := C3size o,
                            rel := o.rel, scope := o.scopeCode, tok := o.tok })

/-- AWAIT (R112): waits until every named count is zero, delivering faults of the engines that the operations use. In trap
mode an operation that holds a fault is not waited for. -/
def execAwait (o : C3) (s : State) : Out :=
  ctlWord o.g [] s fun x =>
    let mask := fieldNat o.imm 0 8
    .next (if x.tokensDone mask && !x.posted then s.ctlDone x else s.ctlWait x (.tokens mask))

/-! ### Bank-ALU operations -/

/-- The new memory value of AMO (R110), n bits wide. -/
def amoValue (aop n old b c : Nat) : Nat :=
  match aop with
  | 0 => (old + b) % 2 ^ n
  | 1 => old &&& b
  | 2 => old ||| b
  | 3 => old ^^^ b
  | 4 => if signedOf n old ≤ signedOf n b then old else b
  | 5 => if signedOf n b ≤ signedOf n old then old else b
  | 6 => if old ≤ b then old else b
  | 7 => if b ≤ old then old else b
  | 8 => b
  | _ => if old = c then b else old

/-- AMO writes, unless it is a CAS that fails (R110). -/
def amoWrites (aop old c : Nat) : Bool := decide (aop < 9) || old == c

/-- The new value of a floating-point add at a bank ALU (R111). -/
def amofValue (f64 : Bool) (old b : Nat) : Nat :=
  let f := if f64 then f64F else f32F
  encodeF f .rne false 0 (FVal.add .rne (decodeF f old) (decodeF f b))

/-- An indivisible read, computation and write at the home bank of a byte of die shared memory, by an agent of die d: the old
value and the home die's clock, which a reply carries (R110, R243, R248). `wr` says for which old values it writes: a CAS that
fails does not (log 55). `none` while the writes that precede it have not reached the home die. -/
def State.bankOp (s : State) (d : DieId) (pa n : Nat) (own : Option (CoreId × BitVec 32)) (f : Nat → Nat)
    (wr : Nat → Bool := fun _ => true) : Option (Nat × State) :=
  let h := homeDie pa
  if s.clockReached h s.vc[d].toList then
    let old := natOfBytes (s.readView h pa n)
    if !wr old then some (old, s)
    else match s.writeMem h pa (bytesOf n (f old)) own with
      | some s => some (old, s)
      | none => none
  else none

/-- True for an operation whose value becomes visible in program order (R251 note 2). -/
def OpKind.isStore : OpKind → Bool
  | .load _ _ | .sflush _ _ _ _ => false
  | .deliver _ _ _ writes => writes
  | _ => true

/-- The operation of an AMO or AMOF word. -/
def amoOp (o : C3) (kind : OpKind) (l : Loc) (n : Nat) (held : Bool) : Op :=
  { kind := kind, loc := l, size := n, acq := o.acq, rel := o.rel, scope := o.scopeCode, tok := o.tok,
    held := held }

/-- AMO and AMOF (R110, R111): the tier check, then posted, counted on a token, or held until sd is written. -/
def amoWord (s : State) (x : Ctx) (o : C3) (n : Nat) (kind : OpKind) (f : Nat → Nat)
    (wr : Nat → Bool := fun _ => true) : Out :=
  if x.ops.any (·.held) then .next (s.ctlBusy x)
  else
    let a := (x.rd o.sa + o.offset).toNat
    let a := a - a % n
    if x.wen && a / 32 == fieldNat x.sys.watcha 5 47 then .next (s.trapP x .watch 0 0 a)
    else if x.tokFull o.tok then .next (s.ctlBusy x)
    else withXlat s x (s.xlat x a .write) a fun l s =>
      match l with
      | .mem pa =>
        if pa < dsmBase then .next (s.trapP x .perm 1 0 a)
        else if o.tok != none || (o.sd == 0 && !o.acq) then .next (s.ctlIssue x (amoOp o kind l n false))
        else if homeDie pa = s.myDie ∧ x.ops = [] then
          match s.bankOp s.myDie pa n (some (s.cur.core, x.id.serial)) f wr with
          | some (old, s) => .next (s.ctlHeld x fun x => x.wr o.sd (BitVec.ofNat 64 old))
          | none => .next (s.ctlBusy x)
        else .next (s.ctlBusy { x with ops := x.ops ++ [{ amoOp o kind l n true with born := s.tick }] })
      | _ => .next (s.trapP x .perm 1 0 a)

def execAmo (o : C3) (s : State) : Out :=
  ctlWord o.g [o.sa, o.sb, o.sc] s fun x =>
    let n := 8 * C3size o
    let b := (x.rd o.sb).toNat % 2 ^ n
    let c := (x.rd o.sc).toNat % 2 ^ n
    amoWord s x o (C3size o) (.amo o.sd o.aop b c) (fun old => amoValue o.aop n old b c)
      (fun old => amoWrites o.aop old c)

def execAmof (o : C3) (s : State) : Out :=
  ctlWord o.g [o.sa, o.sb] s fun x =>
    let f64 := o.aop == 1
    let n := if f64 then 8 else 4
    let b := (x.rd o.sb).toNat % 2 ^ (8 * n)
    amoWord s x o n (.amof o.sd f64 b) (fun old => amofValue f64 old b)
end Sys2Proof.Machine
end

