-- ==== Sys2Proof/Machine/Sched.lean ====
section
/-! DEFINITION. Continuations, queues and contexts on a core: records and their checks, placement, pushes, SPAWN and JDEC,
dispatch, ageing, switching, parking and clearing (R224, R225, R232, R282 to R301). -/

namespace Sys2Proof.Machine

/-! ### Records (R282, R283) -/

end Sys2Proof.Machine

namespace Sys2Proof

def Rec.code (r : Rec) : Word := fieldOf r 0 64
def Rec.frame (r : Rec) : Word := fieldOf r 64 64
def Rec.joincnt (r : Rec) : Nat := fieldNat r 128 32
def Rec.prio (r : Rec) : Nat := fieldNat r 160 3
def Rec.replay (r : Rec) : Bool := r.getLsbD 163
def Rec.share (r : Rec) : Bool := r.getLsbD 164
def Rec.priv (r : Rec) : Bool := r.getLsbD 165
def Rec.akind (r : Rec) : Nat := fieldNat r 168 2
def Rec.atarget (r : Rec) : Nat := fieldNat r 176 16
/-- Groups of eight vector names, scratchpad banks, and groups of eight accumulator rows. -/
def Rec.vgroups (r : Rec) : Nat := fieldNat r 192 8 + 1
def Rec.banks (r : Rec) : Nat := fieldNat r 200 5 + 1
def Rec.agroups (r : Rec) : Nat := fieldNat r 205 7

/-- The field checks of R283. -/
def Rec.fieldsOk (r : Rec) : Bool :=
  fieldNat r 166 2 == 0 && fieldNat r 170 6 == 0 && fieldNat r 212 44 == 0 && fieldNat r 0 3 == 0
    && r.akind != 3 && decide (r.agroups ≤ 64)
    && (match r.akind with | 0 => r.atarget == 0 | 1 => decide (r.atarget < 4) | _ => decide (r.atarget < 128))
    && (!r.share || r.akind == 0)

end Sys2Proof

namespace Sys2Proof.Machine

/-! ### Placement (R293) -/

/-- The lowest of n places of which `need` in a row, at or above `lo`, are free. -/
def lowestFit (used : List Nat) (lo n need : Nat) : Option Nat :=
  (List.range n).find? fun p => decide (lo ≤ p) && decide (p + need ≤ n) &&
    (List.range need).all fun i => !used.contains (p + i)

/-- Groups of eight names and of eight accumulator rows that a record takes; a PUTH handler takes 64 names and no rows (R245). -/
def QRec.vecGroups (q : QRec) : Nat := if q.puth then 8 else q.rec_.vgroups
def QRec.accGroups (q : QRec) : Nat := if q.puth then 0 else q.rec_.agroups

/-- What is taken on a core: by its contexts, by the records that its slots have obtained, and by gangs. -/
def Core.usedVec (k : Core) : List Nat :=
  (k.residents.flatMap fun x => (List.range (x.id.vlen / 8)).map (x.id.vbase / 8 + ·))
    ++ (k.due.flatMap fun d => (List.range d.rec_.vecGroups).map (d.place.vgroup + ·))
    ++ k.reserved.flatMap fun t => (List.range t.vgroups).map (t.vgroup + ·)
def Core.usedBanks (k : Core) : List Nat :=
  k.residents.flatMap (·.id.banks) ++ (k.shares.flatMap fun t => (List.range t.snb).map (t.sbank + ·))
    ++ (k.due.flatMap fun d => (List.range d.place.snb).map (d.place.sbank + ·))
    ++ k.reserved.flatMap fun t => (List.range t.snb).map (t.sbank + ·)
def Core.usedAcc (k : Core) : List Nat :=
  k.residents.flatMap (·.id.groups) ++ (k.due.flatMap fun d => (List.range d.rec_.accGroups).map (d.place.agroup + ·))
    ++ k.reserved.flatMap fun t => (List.range t.agroups).map (t.agroup + ·)

/-- The lowest bank that dispatch may place a new allotment in, while changes of MSGN are pending too (R244). -/
def Core.bankFloor (k : Core) : Nat := (k.msgnNew.map (·.1)).foldl max k.msgn

/-- Where a record fits on a core; a PUTH handler takes the message region, 64 names and no accumulator rows (R245), and none while a
change of MSGN is pending (R244), so that one still queued when MSGN changes takes the new region, of no banks where MSGN is 0 (DESIGN
CHOICE, log 35); a SHARE record the banks that its copy carries. -/
def Core.fit (k : Core) (q : QRec) : Option Place := do
  let v ← lowestFit k.usedVec 0 (physRegs / 8) q.vecGroups
  let (b, n) ← if q.puth then (if k.msgnNew.isEmpty then some (0, k.msgn) else none) else match q.share with
    | some sh => some sh
    | none => (lowestFit k.usedBanks k.bankFloor spadBanks q.rec_.banks).map (·, q.rec_.banks)
  let a ← if q.puth || q.rec_.agroups == 0 then some 0 else lowestFit k.usedAcc 0 (accRows / 8) q.rec_.agroups
  pure { vgroup := v, sbank := b, snb := n, agroup := a }

/-- A core with no context on it. -/
def Core.emptied (k : Core) : Core := 
  { k with banks := Vector.replicate 3 none, staging := none, parked := [], due := [], shares := [], reserved := [] }

def coresOf (d : DieId) : List CoreId := (List.range 32).map fun i => Fin.ofNat 128 (32 * d.val + i)

/-- The cores on which a record may run, as a push from core c places it (R285). -/
def recCores (c : CoreId) (q : QRec) : List CoreId :=
  if q.puth || q.share.isSome then [c]
  else match q.rec_.akind with
    | 0 => coresOf (dieOf c)
    | 1 => coresOf (Fin.ofNat 4 q.rec_.atarget)
    | _ => [Fin.ofNat 128 q.rec_.atarget]

/-- Some core on which the record may run fits it when empty (R283). -/
def State.recFits (s : State) (c : CoreId) (q : QRec) : Bool :=
  (recCores c q).any fun d => (s.core d).phys.isSome && ((s.core d).emptied.fit q).isSome

/-! ### Pushes (R284 to R288) -/

/-- The queued copy of a record that the executing context pushes. -/
def State.copyOf (s : State) (x : Ctx) (r : Rec) : QRec :=
  { rec_ := r, asid := x.id.asid, stamp := s.firm.us, priv := r.priv && x.id.priv,
    share := if r.share then some (x.id.sbank, x.id.snb) else none, level := r.prio, entered := s.firm.us }

/-- A push to a deque: at the head; from 256 entries the 128 nearest the tail move to the spill region (R287). -/
def Core.pushDeque (k : Core) (q : QRec) : Core :=
  if 256 ≤ k.deque.length then { k with deque := q :: k.deque.take 128, spill := k.deque.drop 128 ++ k.spill }
  else { k with deque := q :: k.deque }

/-- The 128 spilled entries nearest the head return when the SRAM part is empty (R287). -/
def Core.refill (k : Core) : Core :=
  if k.deque.isEmpty then { k with deque := k.spill.take 128, spill := k.spill.drop 128 } else k

def State.pushReady (s : State) (d : DieId) (q : QRec) : State :=
  s.setDie d { s.dies[d] with ready := s.dies[d].ready ++ [q] }

/-- The die whose ready queues take a record that core c pushes, if they do (R285). -/
def readyDie (c : CoreId) (q : QRec) : Option DieId :=
  if q.share.isSome then some (dieOf c)
  else match q.rec_.akind with
    | 0 => none
    | 1 => some (Fin.ofNat 4 q.rec_.atarget)
    | _ => some (dieOf (Fin.ofNat 128 q.rec_.atarget))

/-- The memory region of a die's ready queues has room, and no push of firmware waits for it (R286). -/
def State.readyRoom (s : State) (d : DieId) : Bool :=
  (s.dies[d]).held.isEmpty && decide ((s.dies[d]).ready.length < (s.dies[d]).region)

/-- Firmware's pushes that wait go to the ready queues, in order, as far as those have room (R286, R350). -/
def State.admitHeld (s : State) (d : DieId) : State :=
  let t := s.dies[d]
  let n := t.region - t.ready.length
  s.setDie d { t with ready := t.ready ++ t.held.take n, held := t.held.drop n }

/-- A push by firmware to a die's ready queues, which waits where they have no room (R286, R350). -/
def State.pushFirm (s : State) (d : DieId) (q : QRec) : State :=
  State.admitHeld (s.setDie d { s.dies[d] with held := s.dies[d].held ++ [q] }) d

/-- The queue that takes the record has room. -/
def State.pushRoom (s : State) (c : CoreId) (q : QRec) : Bool := match readyDie c q with | some d => s.readyRoom d | none => true

/-- A push of a SHARE record raises the count of its allotment (R295). -/
def Core.countShare (k : Core) (sh : Nat × Nat) : Core :=
  if k.shares.any fun t => t.sbank == sh.1 && t.snb == sh.2 then
    { k with shares := k.shares.map fun t => if t.sbank = sh.1 ∧ t.snb = sh.2 then { t with count := t.count + 1 } else t }
  else { k with shares := k.shares ++ [{ sbank := sh.1, snb := sh.2, count := 1, ended := false }] }

/-- A push from core c to the queue that R285 gives, stamped with the die clock that its start acquires (R255). -/
def State.pushRec (s : State) (c : CoreId) (q : QRec) (clock : List Nat) : State :=
  let q := { q with order := s.firm.order, stamp := s.firm.us, entered := s.firm.us, clock := clock }
  let s := { s with firm := { s.firm with order := s.firm.order + 1 } }
  match q.share, q.rec_.akind with
  | some sh, _ => (s.setCore c ((s.core c).countShare sh)).pushReady (dieOf c) { q with bound := some c }
  | none, 0 => s.setCore c ((s.core c).pushDeque q)
  | none, 1 => s.pushReady (Fin.ofNat 4 q.rec_.atarget) q
  | none, _ =>
    let t : CoreId := Fin.ofNat 128 q.rec_.atarget
    s.pushReady (dieOf t) { q with bound := some t }

/-- A push that is checked as it is made: a record that fails is discarded, with a RECORD event (R283, R336). -/
def State.pushChecked (s : State) (c : CoreId) (q : QRec) (clock : List Nat) : State :=
  if !q.rec_.fieldsOk then s.send 0x10 [q.rec_.toNat, 0x06]
  else if !s.recFits c q then s.send 0x10 [q.rec_.toNat, 0x0B]
  else s.pushRec c q clock

/-- A push that passes its check and finds no room holds the operation that makes it (R286). -/
def State.pushHeld (s : State) (c : CoreId) (q : QRec) : Bool := q.rec_.fieldsOk && s.recFits c q && !s.pushRoom c q

/-! ### SPAWN and JDEC (R224, R225) -/

/-- SPAWN: the record is read and checked at the word; its copy is pushed later, with release. -/
def execSpawn (o : C3) (s : State) : Out :=
  ctlWord o.g [o.sa] s fun x =>
    let a := (x.rd o.sa).toNat / 32 * 32
    if x.tokFull o.tok then .next (s.ctlBusy x)
    else withXlat s x (s.xlat x a .read) a fun l s =>
      if x.mustWait l 32 then .next (s.ctlBusy x)
      else
        let r : Rec := BitVec.ofNat 256 (natOfBytes (s.readLoc s.myDie s.myCore l 32))
        let q := s.copyOf x r
        if !r.fieldsOk then .next (s.trapP x .illegal 0x06)
        else if !s.recFits s.cur.core q then .next (s.trapP x .allot 0x0B)
        else if r.joincnt ≠ 0 then .next (s.ctlDone x)
        else .next (s.ctlIssue x { kind := .spawn q none, rel := true, scope := 2, tok := o.tok })

/-- JDEC: an operation at the bank that holds JOINCNT. Like SPAWN's, its address is aligned down to the record (DESIGN CHOICE, log 75). -/
def execJdec (o : C3) (s : State) : Out :=
  ctlWord o.g [o.sa] s fun x =>
    let a := (x.rd o.sa).toNat / 32 * 32
    if x.ops.any (·.held) then .next (s.ctlBusy x)
    else if x.wen && a / 32 == fieldNat x.sys.watcha 5 47 then .next (s.trapP x .watch 0 0 (a + 16))
    else if x.tokFull o.tok then .next (s.ctlBusy x)
    else withXlat s x (s.xlat x a .write) a fun l s =>
      match l with
      | .mem pa =>
        let op : Op := { kind := .jdec o.sd, loc := .mem (pa + 16), size := 4, rel := true, scope := 2, tok := o.tok,
                         born := s.tick }
        if pa < dsmBase then .next (s.trapP x .perm 1 0 a)
        else if o.tok = none ∧ o.sd ≠ 0 then .next (s.ctlBusy { x with ops := x.ops ++ [{ op with held := true }] })
        else .next (s.ctlIssue x op)
      | _ => .next (s.trapP x .perm 1 0 a)

/-! ### Dispatch (R232, R293) -/

/-- A bank that a gang holds for its record (R338). -/
def State.gangHeld (s : State) (c : CoreId) (b : BankId) : Bool := s.gangs.any fun g => g.core == c && g.bank == b

/-- The idle banks of a core in service, the lowest first; one that a context is returning to is not idle. -/
def State.idleBanks (s : State) (c : CoreId) : List BankId :=
  let k := s.core c
  if k.phys.isNone then []
  else ([0, 1, 2] : List BankId).filter fun b => (k.banks[b]).isNone && !s.gangHeld c b
    && (match k.staging with | some (x, true) => decide (x.id.bank ≠ b) | _ => true)

/-- The idle banks that look for work: as many records as the core has obtained already will start in the lower ones (R293). -/
def State.lookers (s : State) (c : CoreId) : List BankId := (s.idleBanks c).drop (s.core c).due.length

/-- Rows that the allotment needs are still being cleared (R232). -/
def Core.beingCleared (k : Core) (q : QRec) (p : Place) : Bool :=
  k.clearing.any fun t =>
    if t.1 then decide (p.agroup ≤ t.2) && decide (t.2 < p.agroup + q.accGroups)
    else q.share.isNone && !q.puth && decide (p.sbank ≤ t.2) && decide (t.2 < p.sbank + p.snb)

/-- A thread starts: its allotment registers, CTXID and the starting state of R12. -/
def Core.dispatch (k : Core) (b : BankId) (q : QRec) (p : Place) (level tick : Nat) : Core :=
  let id : Ident :=
    { asid := q.asid, serial := k.serial + 1, bank := b, share := q.share.isSome, replay := q.rec_.replay, priv := q.priv,
      pri := level, vbase := 8 * p.vgroup, vlen := 8 * q.vecGroups, sbank := p.sbank, snb := p.snb, abase := 8 * p.agroup,
      alen := 8 * q.accGroups, copy := { q with level := level } }
  { k with
    serial := k.serial + 1
    banks := k.banks.set b (some { Ctx.start id with outSince := tick, begun := tick })
    vregs := k.vregs.filter fun r => decide (r.1 < id.vbase) || decide (id.vbase + id.vlen ≤ r.1) }

def State.dispatch (s : State) (c : CoreId) (b : BankId) (q : QRec) (p : Place) (level : Nat) : State :=
  s.setCore c ((s.core c).dispatch b q p level s.tick)

/-- The entry is eligible on the core and fits it. -/
def State.eligible (s : State) (c : CoreId) (q : QRec) : Bool :=
  (q.bound == none || q.bound == some c) && ((s.core c).fit q).isSome

/-- One entry ranks before another in a die's ready queues: level, then ready stamp, then push order (R289). -/
def QRec.before (p q : QRec) : Bool :=
  decide (q.level < p.level) || (p.level == q.level &&
    (decide (p.stamp < q.stamp) || (p.stamp == q.stamp && decide (p.order < q.order))))

def bestRec (l : List QRec) : Option QRec :=
  l.foldl (fun acc q => match acc with | none => some q | some p => if q.before p then some q else some p) none

/-- The ready entry that the core would receive. -/
def State.readyFor (s : State) (c : CoreId) : Option QRec := bestRec ((s.dies[dieOf c]).ready.filter (s.eligible c))

/-- The highest priority of the parked contexts that wait for the bank (R294, R299). -/
def Core.parkedFor (k : Core) (b : BankId) : Option Nat := ((k.parked.filter (·.id.bank == b)).map (·.id.pri)).max?

/-- The last entry of a deque. -/
def Core.tail (k : Core) : Option QRec := (k.deque ++ k.spill).getLast?
def Core.dropTail (k : Core) : Core :=
  if k.spill.isEmpty then { k with deque := k.deque.dropLast } else { k with spill := k.spill.dropLast }

/-! ### Idle slots (R286 to R289, R293)

One clk of a die: the owners' takes, the queue unit's service of one request, then the thieves' takes (log 66). -/

/-- The owner's take, for the core's lowest looking bank at the start of its round: the head of its own deque, if it fits. -/
def State.owns (s : State) (c : CoreId) : Option QRec :=
  match (s.lookers c).head? with
  | some b => if (s.core c).steal[b] = 0 then (s.core c).deque.head?.filter fun q => ((s.core c).fit q).isSome else none
  | none => none

/-- The entry that satisfies the request of the core's lowest looking bank. A parked context that waits for the bank ranks as a ready
entry that is older than any (R299). -/
def State.wants (s : State) (c : CoreId) : Option QRec :=
  match (s.lookers c).head? with
  | some b =>
    if (s.core c).steal[b] = 0 ∧ (s.owns c).isNone then
      (s.readyFor c).filter fun q => match (s.core c).parkedFor b with | some p => decide (p < q.level) | none => true
    else none
  | none => none

/-- The cores of a die in rotation, from the one after the given COREID. -/
def coresFrom (d : DieId) (last : Nat) : List CoreId :=
  (List.range 32).map fun i => Fin.ofNat 128 (32 * d.val + (last + 1 + i) % 32)

/-- The request that the queue unit serves: the first that some entry satisfies, in rotation (R289). -/
def State.served (s : State) (d : DieId) : Option (CoreId × QRec) :=
  (coresFrom d (s.dies[d]).lastCore).findSome? fun c => (s.wants c).map fun q => (c, q)

/-- The banks of a core that steal in this clk: the lowest in the midst of its round, or where its own deque and the queue unit have
given it nothing, and every other one at once (R288, R289, R293). -/
def State.steals (s : State) (c : CoreId) : List BankId :=
  (s.lookers c).filter fun b => ((s.core c).parkedFor b).isNone &&
    ((s.lookers c).head? != some b || (s.core c).steal[b] != 0 || ((s.owns c).isNone && (s.wants c).isNone))

/-- The victim of a bank's slot in this clk (R293). -/
def State.victim (s : State) (c : CoreId) (b : BankId) : CoreId :=
  Fin.ofNat 128 (32 * (dieOf c).val + (c.val + 1 + (s.core c).steal[b]) % 32)

/-- The takes of a clk from a core's deque by thieves, in rotation (R288). -/
def State.thieves (s : State) (v : CoreId) : List (CoreId × BankId) :=
  (coresFrom (dieOf v) (s.core v).lastThief).flatMap fun c =>
    ((s.steals c).filter fun b => decide (s.victim c b = v)).map fun b => (c, b)

/-- A core obtains a record, and the record its place there; the slot of the bank then starts a new round (R293). -/
def Core.obtain (k : Core) (b : BankId) (q : QRec) (level : Nat) : Core :=
  match k.fit q with
  | some p => { k with due := k.due ++ [⟨q, level, p⟩], steal := k.steal.set b 0 }
  | none => k

/-- The owner's take, or what the queue unit gives the core. -/
def State.ownClk (s : State) (c : CoreId) : Core :=
  let k := s.core c
  match (s.lookers c).head?, s.owns c with
  | some b, some q => { k with deque := k.deque.drop 1 }.refill.obtain b q q.rec_.prio
  | some b, none => match (s.served (dieOf c)).filter (·.1 == c) with
    | some (_, q) => k.obtain b q q.level
    | none => k
  | none, _ => k

/-- A thief's take of the tail entry, or EMPTY where there is none or it does not fit (R288). -/
def State.steal (s : State) (v c : CoreId) (b : BankId) : State :=
  let k := s.core v
  match k.tail.filter fun q => ((s.core c).fit q).isSome with
  | some q =>
    let s := s.setCore v { k.dropTail.refill with lastThief := c.val }
    s.setCore c ((s.core c).obtain b q q.rec_.prio)
  | none => s.setCore c { s.core c with steal := (s.core c).steal.set b (((s.core c).steal[b] + 1) % 31) }

/-- The records that a core's slots have obtained start, each in its lowest idle bank, once the die has reached the clock that the
start acquires and the rows they need are clear (R232, R255, R293). -/
def State.startDues (s : State) (c : CoreId) : State :=
  (s.core c).due.foldl (fun s d => match (s.idleBanks c).head? with
    | some b =>
      let k := s.core c
      if s.clockReached (dieOf c) d.rec_.clock && !k.beingCleared d.rec_ d.place then
        State.dispatch (s.setCore c { k with due := k.due.erase d }) c b d.rec_ d.place d.level
      else s
    | none => s) s

/-- IDLE SLOT DISPATCH: the idle slots of the core's die look for work for one clk, and the records that they have obtained start. -/
def execIdleSlotDispatch (c : CoreId) (s : State) : Out :=
  let d := dieOf c
  let t := match s.served d with
    | some (e, q) => s.setDie d { s.dies[d] with ready := s.dies[d].ready.erase q, lastCore := e.val }
    | none => s
  let t := { t with cores := Vector.ofFn fun e => if dieOf e = d then s.ownClk e else s.cores[e] }
  let t := ((coresOf d).flatMap fun v => (s.thieves v).map fun p => (v, p)).foldl (fun t p => t.steal p.1 p.2.1 p.2.2) t
  .next ((coresOf d).foldl State.startDues (t.admitHeld d))

/-- ROW CLEARING DONE: the bank, or the group of accumulator rows, that was freed first reads zero (R232). -/
def execRowClearingDone (c : CoreId) (s : State) : Out :=
  let k := s.core c
  match k.clearing with
  | [] => .next s
  | (true, g) :: rest =>
    .next (s.setCore c { k with
      clearing := rest
      acc := k.acc.filter fun r => r.1 / 8 != g
      accBad := k.accBad.filter fun r => r / 8 != g })
  | (false, b) :: rest =>
    .next (s.setCore c { k with
      clearing := rest
      spad := k.spad.filter fun r => r.1 / 256 != b
      spadBad := k.spadBad.filter fun r => r / 256 != b
      barriers := k.barriers.filter fun a => a / 65536 != b })

/-! ### Ageing (R290) -/

/-- AGEUSp. -/
def Firm.ageOf (f : Firm) (p : Nat) : Nat := (f.ageus.toList[p]?).getD 0

/-- One tick of a ready queue's entry. -/
def QRec.age (f : Firm) (q : QRec) : QRec :=
  if q.level < 7 ∧ f.ageOf q.level ≠ 0 ∧ f.ageOf q.level ≤ f.us - q.entered then
    { q with level := q.level + 1, entered := f.us }
  else q

/-- A deque's entry moves to the ready queue at this tick. -/
def QRec.agedOut (f : Firm) (q : QRec) : Bool :=
  f.ageOf q.rec_.prio != 0 && decide (f.ageOf q.rec_.prio ≤ f.us - q.stamp)

/-- The entries of a die's deques that move to its ready queues, as far as those have room (R286, R290). -/
def State.agers (s : State) (f : Firm) (d : DieId) : List QRec :=
  ((coresOf d).flatMap fun c => ((s.core c).deque ++ (s.core c).spill).filter (QRec.agedOut f)).take
    ((s.dies[d]).region - (s.dies[d]).ready.length)

/-- The core without them. -/
def Core.without (k : Core) (gone : List QRec) : Core :=
  ({ k with deque := k.deque.filter fun q => !gone.contains q, spill := k.spill.filter fun q => !gone.contains q }).refill

/-- AGEING TICK: one microsecond passes. -/
def execAgeingTick (s : State) : Out :=
  let f := { s.firm with us := s.firm.us + 1 }
  .next { s with
    firm := f
    dies := Vector.ofFn fun d => { s.dies[d] with
      ready := s.dies[d].ready.map (QRec.age f) ++ (s.agers f d).map fun q => { q with level := q.rec_.prio, entered := f.us } }
    cores := Vector.ofFn fun c => (s.core c).without (s.agers f (dieOf c)) }

/-! ### Switching (R227, R296 to R298) -/

/-- A trigger of R296 applies to the active context x, with y the context that would follow. -/
def Firm.mustLeave (f : Firm) (x y : Ctx) : Bool :=
  decide (x.id.pri < y.id.pri) || decide (f.blkthr ≤ x.heldClk)
    || (match x.hold with | .stall _ _ => true | .dupw _ _ => true | _ => false)

/-- The context that the core switches to, where a trigger applies at a word boundary: from then until the switch the control core
issues no word (R296). -/
def State.switchTarget (s : State) (c : CoreId) : Option BankId :=
  let k := s.core c
  match k.active.bind fun a => (k.banks[a]).map fun x => (a, x) with
  | none => k.best fun _ x => s.ready c x
  | some (a, x) =>
    if x.midWord || x.midClk then none
    else k.best fun b y => decide (b ≠ a) && s.ready c y && s.firm.mustLeave x y

/-- CONTEXT SWITCH: the core goes to its highest-priority context that can run, at a word boundary, when a trigger applies. -/
def execContextSwitch (c : CoreId) (s : State) : Out :=
  .next (match s.switchTarget c with | some b => s.switchTo c b | none => s)

/-- A context that the engine may go to: it has work, and none that is sure to have work goes before it. -/
def Core.engineNext (k : Core) (owner : Option BankId) (work sure : Ctx → Bool) : Option BankId :=
  ([0, 1, 2] : List BankId).find? fun b => match k.banks[b] with
    | none => false
    | some y => decide (owner ≠ some b) && work y && ([0, 1, 2] : List BankId).all fun a => match k.banks[a] with
      | none => true
      | some x => a == b || !sure x || !k.prefers owner a b x y

/-- The vector engine leaves its context only when that has no word ready, or for one of higher priority that has (R298). -/
def Core.vecMayLeave (k : Core) (b : BankId) : Bool :=
  match (k.owners[0]).bind fun o => k.banks[o], k.banks[b] with
  | some x, some y => !x.midClk && (!x.vecReady k || (decide (x.id.pri < y.id.pri) && y.vecReady k))
  | _, _ => true

/-- ENGINE CONTEXT CHANGE: the vector engine or another engine goes to another context. Its local clock, and with it the
vector results in flight of the context it leaves, stand still until that context's next vector issue (R297). Another engine changes only
between the progress units of a macro (R298). -/
def execEngineContextChange (c : CoreId) (e : Option Eng) (s : State) : Out :=
  let k := s.core c
  match e with
  | none =>
    let banks := match k.owners[0] with
      | some a => k.banks.set a ((k.banks[a]).map fun x => { x with xFresh := true })
      | none => k.banks
    match (k.engineNext k.owners[0] (·.vecWork) (Ctx.vecReady k)).filter k.vecMayLeave with
    | some b => .next (s.setCore c { k with banks := banks, owners := k.owners.set 0 (some b) })
    | none => .next s
  | some e =>
    let mid := ((k.owners[e.owner]).bind fun a => k.banks[a]).any (·.engMid e)
    match (if mid then none else k.engineNext k.owners[e.owner] (·.engWork e) (fun y => s.engReady c y e)) with
    | some b => .next (s.setCore c { k with owners := k.owners.set e.owner (some b) })
    | none => .next s

/-! ### Parking (R294, R299) -/

/-- The lowest priority resident on a core whose banks are all full; a context that has stopped is leaving by itself. -/
def Core.lowest (k : Core) : Option Nat :=
  if k.banks.toList.all Option.isSome then (((k.banks.toList.filterMap id).filter (·.fatal.isNone)).map (·.id.pri)).min? else none

/-- The conditions of R299 hold on the core. -/
def State.parkWanted (s : State) (c : CoreId) : Bool :=
  match (s.core c).lowest with
  | none => false
  | some p => decide ((s.core c).parked.length < 4) && (s.dies[dieOf c]).ready.any fun q => s.eligible c q && decide (p < q.level)

/-- The core whose lowest resident priority is lowest, and on it the context of lowest priority that was dispatched first. -/
def State.parkCore (s : State) (d : DieId) : Option CoreId :=
  ((coresOf d).filter s.parkWanted).foldl (fun acc c => match acc with
    | none => some c
    | some a => if (s.core c).lowest.getD 8 < (s.core a).lowest.getD 8 then some c else some a) none

def Core.parkBank (k : Core) : Option BankId :=
  ([0, 1, 2] : List BankId).foldl (fun acc b => match (k.banks[b]).filter (·.fatal.isNone) with
    | none => acc
    | some x => match acc.bind fun a => k.banks[a] with
      | none => some b
      | some y => if x.id.pri < y.id.pri ∨ (x.id.pri = y.id.pri ∧ k.serial - y.id.serial < k.serial - x.id.serial)
          then some b else acc) none

/-- The decrement would make a record ready whose queue has no room (R286). -/
def State.jdecHeld (s : State) (c : CoreId) (x : Ctx) (pa : Nat) : Bool :=
  let v := natOfBytes (s.readView (homeDie pa) (pa - 16) 32)
  decide (v / 2 ^ 128 % 2 ^ 32 = 1) && s.pushHeld c (s.copyOf x (BitVec.ofNat 256 (putBits v 128 32 0)))

/-- Nothing is pending, or the first operation waits for room in a ready queue, which the operation goes on doing while the context is
parked, and completes (R286, R299, log 33). -/
def State.waitsRoom (s : State) (c : CoreId) (x : Ctx) : Bool :=
  match x.ops.head? with
  | none => true
  | some p => match p.kind, p.loc with
    | .spawn q _, _ => !s.pushRoom c q
    | .jdec _, .mem pa => s.jdecHeld c x pa
    | _, _ => false

/-- What was issued before parking began has completed, but for what waits for room in a ready queue, and for macros that hold a fault or wait
for slots that only words still queued can give, and the control core stands at a word boundary (R299, log 33). -/
def State.parkable (s : State) (c : CoreId) (b : BankId) (x : Ctx) : Bool :=
  (!x.midWord || x.ending) && x.fatal.isNone && !x.midClk && s.waitsRoom c x
    && (x.ops.all fun p => match p.kind with | .sflush _ _ _ _ => false | _ => true)
    && (x.runs.all fun r => !r.started || r.fin || r.fault.isSome || r.held || r.blocked x)
    && s.txns.all fun t => !(t.core == c && t.bank == b)

/-- A context that is being parked, and the core and bank where it stands (R299). -/
def State.parkingOn (s : State) (d : DieId) : Option (CoreId × BankId × Ctx) :=
  (coresOf d).findSome? fun c => ([0, 1, 2] : List BankId).findSome? fun b =>
    ((s.ctxAt c b).filter (·.parking)).map fun x => (c, b, x)

/-- The core of the die whose staging bank holds a context on its way to the park area. -/
def State.stagedOn (s : State) (d : DieId) : Option CoreId :=
  (coresOf d).find? fun c => match (s.core c).staging with | some (_, false) => true | _ => false

/-- The context leaves its resident bank, which becomes an idle slot, for the staging bank. Its clocks stand still (R297, R299). -/
def Core.stage (k : Core) (b : BankId) (x : Ctx) (tick : Nat) : Core :=
  { k with
    banks := k.banks.set b none
    staging := some ({ x with outSince := tick, heldClk := 0, ctlFresh := true, xFresh := true }, false)
    active := if k.active = some b then none else k.active
    owners := k.owners.map fun o => if o = some b then none else o }

/-- PARK: the queue unit parks a low-priority context to admit a higher entry, one at a time for each die. The context stops
issuing; once what it issued has completed, the staging bank takes it; then the park area holds it. -/
def execPark (d : DieId) (s : State) : Out :=
  match s.stagedOn d, s.parkingOn d with
  | some c, _ =>
    let k := s.core c
    .next (s.setCore c { k with staging := none, parked := k.parked ++ (k.staging.map (·.1)).toList })
  | none, some (c, b, x) =>
    if s.parkable c b x && (s.core c).staging.isNone then .next (s.setCore c ((s.core c).stage b x s.tick)) else .next s
  | none, none => match s.parkCore d with
    | none => .next s
    | some c => match (s.core c).parkBank.bind fun b => (s.ctxAt c b).map fun x => (b, x) with
      | some (b, x) => .next (s.setCtxAt c b (some { x with parking := true }))
      | none => .next s

/-- A parked context whose bank is empty, unless a ready entry that fits ranks above it. -/
def State.resumable (s : State) (c : CoreId) (x : Ctx) : Bool :=
  ((s.core c).banks[x.id.bank]).isNone && !s.gangHeld c x.id.bank && !(s.lookers c).isEmpty
    && (match s.readyFor c with | some q => decide (q.level ≤ x.id.pri) | none => true)

/-- PARKED RESUME: a parked context returns through the staging bank to the bank it left (log 33). -/
def execParkedResume (c : CoreId) (s : State) : Out :=
  let k := s.core c
  match k.staging with
  | some (x, true) => .next (s.setCore c { k with banks := k.banks.set x.id.bank (some { x with parking := false }), staging := none })
  | some (_, false) => .next s
  | none =>
    let best := (k.parked.filter (s.resumable c)).foldl (fun acc x => match acc with
      | none => some x
      | some y => if y.id.pri < x.id.pri then some x else some y) (none : Option Ctx)
    match best with
    | none => .next s
    | some x => .next (s.setCore c { k with staging := some (x, true), parked := k.parked.filter fun y => y.id.serial != x.id.serial })
end Sys2Proof.Machine
end

