-- ==== Sys2Proof/Machine/Scalar.lean ====
section
/-! DEFINITION. The completion of scalar operations that do not hold the control core, and the propagation of writes between
dies (R77, R107 to R111, R212, R213, R224, R225, R248 to R251). -/

namespace Sys2Proof.Machine

/-- The operation has completed: it leaves the list, its token's count falls, and a control core that it held goes on
(R77, R110). -/
def Ctx.opDone (x : Ctx) (p : Op) : Ctx :=
  let y : Ctx := { x with ops := x.ops.erase p }
  let y := y.tokDone p.tok
  if p.held && y.fatal.isNone then { y.issued with ctl := y.ctl.step } else y

/-- The operation is replaced by the reply that brings its result back from another die. It stands in the way of the thread's
later operations, as the operation did, until the thread's die has applied its write (R249, R251). -/
def Ctx.opReply (x : Ctx) (p : Op) (sd : SReg) (v : Word) (vc : List Nat) (writes : Bool) : Ctx :=
  { x with ops := x.ops.map fun q => if q = p then { q with kind := .deliver sd v vc writes } else q }

/-- No earlier operation stands in the way: a store waits for the stores before it, a release for all, one that acquires for what the
thread has posted, and any operation for those that touch its bytes (R108, R109, R110, R251). -/
def opFree (earlier : List Op) (p : Op) : Bool :=
  !(earlier.any (·.touches p.loc p.size)) && (!p.kind.isStore || !(earlier.any fun q => q.kind.isStore))
    && (!p.rel || earlier.isEmpty) && (!p.acq || !earlier.any Op.posted)

/-- A store to the scratchpad; a barrier that BINIT has set up applies its completion rule (R212, log 11). -/
def Core.storeSpad (k : Core) (a : Nat) (bs : List Byte) : Core :=
  let k := k.putSpadBytes a bs
  let b := a / 16 * 16
  if k.barriers.contains b then k.putBarrier b (barComplete (k.barrier b)) else k

/-- BINIT's write (R213). -/
def Core.initBarrier (k : Core) (a : Nat) (v : BitVec 128) : Core :=
  { k.putSpadBytes a (bytesOf 16 v.toNat) with barriers := a :: k.barriers.filter (· != a) }

/-- An operation at a bank ALU: its effect at the home die, then its result here, or on its way (R110, R243). `put` puts the context back. -/
def bankDone (s : State) (c : CoreId) (put : State → Ctx → State) (x : Ctx) (p : Op) (pa : Nat) (sd : SReg) (f : Nat → Nat)
    (wr : Nat → Bool) (after : Nat → State → State) : State :=
  match s.bankOp (dieOf c) pa p.size (some (c, x.id.serial)) f wr with
  | none => s
  | some (old, s) =>
    let s := after old s
    let v : Word := BitVec.ofNat 64 old
    let h := homeDie pa
    if h = dieOf c then put s ((x.opDone p).wr sd v)
    else put s (x.opReply p sd v s.vc[h].toList (wr old))

/-- The record that a JDEC makes ready, as it stands at the bank after the decrement (R225). -/
def State.jdecPush (s : State) (c : CoreId) (x : Ctx) (pa : Nat) : State :=
  let h := homeDie pa
  let r : Rec := BitVec.ofNat 256 (natOfBytes (s.readView h (pa - 16) 32))
  s.pushChecked c (s.copyOf x r) s.vc[h].toList

/-- The k-th pending operation of a context of the core is performed, if nothing stands in its way; `put` puts the context back. -/
def State.opRun (s : State) (c : CoreId) (x0 : Ctx) (k : Nat) (put : State → Ctx → State) : Out :=
  match x0.ops[k]? with
  | none => .next s
  | some p =>
    if !opFree (x0.ops.take k) p then .next s
    else
      let x := (landBefore .ctl x0.cclk (s.core c) x0).2
      let own := some (c, x.id.serial)
      match p.kind, p.loc with
      | .load sd sx, l =>
        -- a row poisoned since the word was issued: the trap is taken at the next boundary (R345, log 72)
        match (match l with | .spad a => if (s.core c).spadBad.contains (a / 256) then some a else none | _ => none) with
        | some a =>
          let f : Cause := { code := .poison, cls := .p, detail := 0x10, addr := BitVec.ofNat 64 (a - x.id.sbank * 65536) }
          .next (put s { (x.opDone p) with pendE := x.pendE ++ [f] })
        | none =>
        let v := loadValue p.size sx (s.readLoc (dieOf c) (s.core c) l p.size)
        .next (put s ((x.opDone p).wr sd v))
      | .store v, .mem pa => (match s.writeMem (dieOf c) pa (bytesOf p.size v) own with
        | some s => .next (put s (x.opDone p))
        | none => .next s)
      | .store v, .spad a =>
        .next (put (s.setCore c ((s.core c).storeSpad a (bytesOf p.size v))) (x.opDone p))
      | .store _, .heat _ _ => .next (put s (x.opDone p))
      | .amo sd aop v w, .mem pa =>
        .next (bankDone s c put x p pa sd (fun old => amoValue aop (8 * p.size) old v w)
          (fun old => amoWrites aop old w) fun _ s => s)
      | .amof sd f64 v, .mem pa => .next (bankDone s c put x p pa sd (fun old => amofValue f64 old v) (fun _ => true)
          fun _ s => s)
      | .jdec sd, .mem pa =>
        -- a push to a full region holds the operation (R286)
        if s.jdecHeld c x pa then .next s
        else .next (bankDone s c put x p pa sd (fun old => old - 1) (fun old => old != 0) fun old s =>
          if old = 1 then s.jdecPush c x pa else s)
      | .spawn q _, _ =>
        if !s.pushRoom c q then .next s
        else .next ((put s (x.opDone p)).pushRec c q s.vc[dieOf c].toList)
      | .binit v, .spad a =>
        .next (put (s.setCore c ((s.core c).initBarrier a v)) (x.opDone p))
      | .deliver sd v vc _, _ =>
        if s.clockReached (dieOf c) vc then .next (put s ((x.opDone p).wr sd v)) else .next s
      | _, _ => .next s

/-- The contexts of bank b that are on their way to or from the park area, or stand in it, and putting one back. -/
def Core.awayFrom (k : Core) (b : BankId) : List Ctx := ((k.staging.map (·.1)).toList ++ k.parked).filter (·.id.bank == b)
def State.setAway (s : State) (c : CoreId) (x : Ctx) : State :=
  let put := fun y : Ctx => if y.id.serial = x.id.serial then x else y
  s.setCore c { s.core c with staging := (s.core c).staging.map fun t => (put t.1, t.2), parked := (s.core c).parked.map put }

/-- SCALAR ACCESS COMPLETION: an operation of the context in bank b, or, counted on from its, one of a context that has left the bank for
the park area, whose operations go on (R299). An SFLUSH ends by its own event. -/
def execScalarAccessCompletion (c : CoreId) (b : BankId) (k : Nat) (s : State) : Out :=
  let n := match s.ctxAt c b with | some x => x.ops.length | none => 0
  match (s.ctxAt c b).filter fun _ => decide (k < n) with
  | some x => s.opRun c x k fun s y => s.setCtxAt c b (some y)
  | none =>
    match (((s.core c).awayFrom b).flatMap fun x => (List.range x.ops.length).map fun i => (x, i))[k - n]? with
    | some (x, i) => s.opRun c x i fun s y => s.setAway c y
    | none => .next s

/-- The vector-clock rule: a write may be applied to a die's view once every write its stamp covers has been (R248), and once
the writes that precede it in its home order have (R249). -/
def State.applicable (s : State) (t : Transit) : Bool :=
  (([0, 1, 2, 3] : List DieId).all fun e =>
    let have_ := s.vc[t.dst][e]
    let need := t.stamp.getD e.val 0
    if e = t.src then need == have_ + 1 else decide (need ≤ have_))
  && s.appliedOf t.dst t.key + 1 == t.seq

/-- The write reaches the view of its die. -/
def State.applyTransit (s : State) (t : Transit) : State :=
  let s := (s.applyCells t.dst t.cells).setApplied t.dst t.key t.seq
  { s with vc := s.vc.set t.dst (s.vc[t.dst].set t.src (t.stamp.getD t.src.val 0)) }

/-- WRITE PROPAGATION: the k-th write on its way is applied to the view of its die, if the vector-clock rule lets it. -/
def execWritePropagation (k : Nat) (s : State) : Out :=
  match s.transit[k]? with
  | none => .next s
  | some t =>
    if s.applicable t then .next { s.applyTransit t with transit := s.transit.eraseIdx k } else .next s
end Sys2Proof.Machine
end

