-- ==== Sys2Proof/Machine/Fabric.lean ====
section
/-! DEFINITION. The fabric: what the module does with the transactions that arrive, and with the answers to its own (R176, R244,
R245, R259, R326 to R330, R338, R339). -/

namespace Sys2Proof.Machine

/-- Identifiers that name nodes (R326). -/
def nodeOk (n : Nat) : Bool := decide (n < 400000)

/-! ### Writes that arrive (R259) -/

/-- Bytes that land in every view in one step: their units of the home order have no write on its way (log 34). -/
def State.landEverywhere (s : State) (cs : List Host.Cell) : Option State :=
  ((cs.map fun c => orderKey c.1).eraseDups).foldlM (fun s key =>
    let mine := cs.filter fun c => orderKey c.1 == key
    match mine with
    | [] => some s
    | c :: _ => (s.writeCells (homeDie c.1) key mine none).bind fun t =>
      (t.transit.drop s.transit.length).foldlM
        (fun (t : State) w => if t.applicable w then some (t.applyTransit w) else none) { t with transit := s.transit }) s

/-- The home die of a segment: of its place, or the die that governs its object (R304). -/
def State.segHome (s : State) (e : SegEntry) : DieId :=
  if e.tier < 3 then homeDie e.base else match s.obj e.obj with | some o => o.defn.gdie | none => 0

/-- DUP and DHOLD of an entry. -/
def State.setDup (s : State) (asid : BitVec 12) (i : Nat) (dup dhold : Nat) : State :=
  let e := s.entry asid i
  s.setEntry asid i { e with w3 := BitVec.ofNat 64 (putBits (putBits e.w3.toNat 4 2 dup) 12 4 dhold) }

/-- Every copy but that of the home die is given up, and the segment is single again (R308). -/
def State.collapseDup (s : State) (asid : BitVec 12) (i : Nat) : State :=
  s.setDup asid i 0 (2 ^ (s.segHome (s.entry asid i)).val)

/-- Translation for a transaction that arrives: the table as it stands. A write collapses duplication first. -/
def State.recvXlat (s : State) (asid : BitVec 12) (va : Nat) (acc : AccKind) : Except Xlat (Loc × State) :=
  let port : Core := { Core.reset 0 with discards := [(asid, s.tick)] }
  match s.translate port asid va acc with
  | .ok l i => .ok (l, s.noteUse asid i l)
  | .dup i =>
    let s := s.collapseDup asid i
    (match s.translate port asid va acc with
     | .ok l i => .ok (l, s.noteUse asid i l)
     | e => .error e)
  | e => .error e

/-- What translations that end in a refusal leave: the segments up to the first that fails have been used (R311), and nothing else has
been performed. -/
def State.noteVas (s : State) (asid : BitVec 12) (acc : AccKind) : List Nat → State
  | [] => s
  | va :: rest =>
    let t := s.noteXlat { Core.reset 0 with discards := [(asid, s.tick)] } asid va
    match s.recvXlat asid va acc with
    | .ok _ => t.noteVas asid acc rest
    | .error _ => t

/-- A module that is armed for the address space and not started refuses with 0x06; without a table, 0x03 (R327, R338). -/
def State.refusal (s : State) (asid : BitVec 12) : Option Nat :=
  if (s.space asid).isNone then some 3 else if s.gangs.any (·.rec_.asid == asid) then some 6 else none

/-- What a receiver does: a refusal; nothing yet; or its new state, with the rows of the answer. -/
abbrev Recv := Except Nat (Option (State × List Row))

/-- The sectors that a mask selects (R169). -/
def sectorsOf (m : BitVec 8) : List Nat := (List.range 8).filter fun k => m == 0 || m.getLsbD k

/-- The virtual address of a sector of row i at an address (R164, R169). -/
def sectorVa (base : Word) (i k : Nat) : Nat := ((base + BitVec.ofNat 64 (256 * i)).toNat / 32 * 32 + 32 * k) % 2 ^ 64

/-- The places of the sectors of n rows, in order: the row, the sector and where it stands. A translation that fails is refused
with DETAIL 0x02 (log 51). -/
def State.recvPlaces (s : State) (t : Flit) (n : Nat) (acc : AccKind) : Except Nat (List (Nat × Nat × Loc) × State) :=
  ((List.range n).flatMap fun i => (sectorsOf t.mask).map fun k => (i, k)).foldlM (fun a (i, k) =>
    match a.2.recvXlat t.asid (sectorVa t.addr i k) acc with
    | .ok (l, s) => .ok (a.1 ++ [(i, k, l)], s)
    | .error _ => .error 2) ([], s)

/-- Bytes of a sector of a row. -/
def sectorBytes (v : Row) (k : Nat) : List Byte := bytesOf 32 (v.toNat >>> (256 * k))

def cellsAt (pa : Nat) (bs : List Byte) : List Host.Cell := bs.zipIdx.map fun (b, i) => (pa + i, b)

/-- A PUT's rows land (R259). -/
def State.recvPut (s : State) (t : Flit) : Recv :=
  match s.refusal t.asid with
  | some c => .error c
  | none => (s.recvPlaces t t.rows.length .write).map fun (ps, s) =>
    let cs := ps.flatMap fun (i, k, l) => match l with
      | .mem pa => cellsAt pa (sectorBytes (t.rows.getD i 0) k)
      | _ => []
    (s.landEverywhere cs).map fun s => (s, [])

/-- The bytes that a GET reads at a place, in the view of their home die. -/
def State.recvRead (s : State) (l : Loc) : Nat :=
  match l with
  | .mem pa => natOfBytes (s.readView (homeDie pa) pa 32)
  | l => natOfBytes (s.readLoc 0 (s.core 0) l 32)

def State.recvGet (s : State) (t : Flit) : Recv :=
  match s.refusal t.asid with
  | some c => .error c
  | none => (s.recvPlaces t t.nrows .read).map fun (ps, s) =>
    some (s, (List.range t.nrows).map fun i =>
      BitVec.ofNat 2048 (((ps.filter (·.1 == i)).map fun (_, k, l) => s.recvRead l <<< (256 * k)).foldr (· + ·) 0))

/-- The record that a PUTH creates (R176, R245, log 35). -/
def puthRec (handler : Word) (frame core : Nat) (prio : BitVec 3) : Rec :=
  BitVec.ofNat 256 (handler.toNat + frame * 2 ^ 64 + prio.toNat * 2 ^ 160 + 2 * 2 ^ 168 + core * 2 ^ 176)

/-- A PUTH's payload lands in the core's message region, and its continuation is created, once its queue has room (R176, R244, R245,
R286). -/
def State.recvPuth (s : State) (t : Flit) : Recv :=
  let c : CoreId := ⟨fieldNat t.addr 38 7, BitVec.isLt _⟩
  let k := s.core c
  let row := fieldNat t.addr 8 13
  match s.refusal t.asid with
  | some e => .error e
  | none =>
    if k.msgnNew ≠ [] ∨ k.msgn = 0 ∨ k.msgn * 256 < row + t.rows.length then .error 2
    else
      let q : QRec := { rec_ := puthRec t.handler (row * 256) c.val t.prio, asid := t.asid, stamp := s.firm.us, priv := false,
                        level := t.prio.toNat, puth := true }
      if s.pushHeld c q then .ok none
      else
      let s := s.setCore c (t.rows.zipIdx.foldl (fun k (v, i) => k.putRow (row + i) v) k)
      .ok (some (s.pushChecked c q s.vc[dieOf c].toList, []))

/-- One element of a collective contribution, or of IXSA: F32, F64, N32, N64 (R178, R330). -/
def elemAdd (atype : Nat) (old v : Nat) : Nat :=
  match atype with
  | 0 => amofValue false old v
  | 1 => amofValue true old v
  | 2 => (old + v) % 2 ^ 32
  | _ => (old + v) % 2 ^ 64

/-- Bits of an ATYPE. -/
def atypeBits (atype : Nat) : Nat := if atype % 2 = 0 then 32 else 64

/-- n bytes of elements added to those that stand there. -/
def addBytes (atype : Nat) (n old v : Nat) : Nat :=
  let b := atypeBits atype
  ofElems b ((List.range (8 * n / b)).map fun j => elemAdd atype (old >>> (b * j) % 2 ^ b) (v >>> (b * j) % 2 ^ b))

/-- One sector of a collective contribution, added at its home bank. -/
def State.addSector (s : State) (t : Flit) (p : Nat × Nat × Loc) : Option State :=
  match p.2.2 with
  | .mem pa => s.landEverywhere (cellsAt pa (bytesOf 32 (addBytes t.atype.toNat 32
      (natOfBytes (s.readView (homeDie pa) pa 32)) (natOfBytes (sectorBytes (t.rows.getD p.1 0) p.2.1)))))
  | _ => some s

/-- A place in die shared memory. -/
def inShared : Loc → Bool
  | .mem pa => decide (dsmBase ≤ pa)
  | _ => false

/-- Collective rows are added at the bank ALUs (R330). -/
def State.recvCollective (s : State) (t : Flit) : Recv :=
  match s.refusal t.asid with
  | some c => .error c
  | none => match s.recvPlaces t t.rows.length .write with
    | .error e => .error e
    | .ok (ps, s) =>
      if ps.all fun (_, _, l) => inShared l then
        .ok ((ps.foldlM (fun (s : State) p => s.addSector t p) s).map fun s => (s, []))
      else .error 5

/-- A host's ATOMIC (R328): the old value. -/
def State.recvAtomic (s : State) (t : Flit) : Except Nat (Option (State × Nat)) :=
  let n := 2 ^ t.size.toNat
  if (s.space t.asid).isNone then .error 3
  else if t.resv ∨ 10 ≤ t.aop.toNat ∨ t.size.toNat < 2 ∨ 3 < t.size.toNat ∨ (t.aop ≠ 9 ∧ t.cmp ≠ 0) then .error 8
  else match s.recvXlat t.asid (t.addr.toNat / n * n) .write with
    | .ok (.mem pa, s) =>
      if pa < dsmBase then .error 5
      else
        let cmp := t.cmp.toNat % 2 ^ (8 * n)
        .ok ((s.bankOp (homeDie pa) pa n none (fun old => amoValue t.aop.toNat (8 * n) old (t.operand.toNat % 2 ^ (8 * n)) cmp)
          (fun old => amoWrites t.aop.toNat old cmp)).map fun (old, s) => (s, old))
    | .ok (_, _) => .error 5
    | .error _ => .error 7

/-! ### Transactions that arrive (R327 to R330) -/

/-- The header flit of what leaves the module: 256 bytes, numbers least significant byte first (R2, R327, R328, R331). -/
def Sent.header (t : Sent) : List Byte :=
  let f := t.flit
  let body : List Byte := match t.typ with
    | 3 => bytesOf 8 f.handler.toNat
    | 4 => [f.aop, f.size] ++ List.replicate 6 0 ++ bytesOf 8 f.operand.toNat
    | 5 => bytesOf 1 f.atype.toNat
    | 6 => t.body
    | _ => []
  bytesOf 1 t.typ ++ bytesOf 1 ((if t.resp then 1 else 0) + (if t.refuse.isSome then 2 else 0)) ++ bytesOf 1 (t.refuse.getD 0)
    ++ bytesOf 1 f.prio.toNat ++ bytesOf 4 f.src.toNat ++ bytesOf 4 f.dst.toNat ++ bytesOf 2 f.asid.toNat
    ++ bytesOf 2 f.rows.length ++ bytesOf 8 f.addr.toNat ++ bytesOf 8 f.tag.toNat ++ (body ++ List.replicate 224 0).take 224

/-- The answer leaves for the sender. -/
def State.answer (s : State) (typ : Nat) (t : Flit) (refuse : Option Nat) (rows : List Row) (old : Nat := 0) : State :=
  { s with outbox := s.outbox ++ [{
      typ := typ, resp := true, refuse := refuse
      flit := { src := s.firm.node, dst := t.src, asid := t.asid, addr := t.addr, tag := t.tag, aop := t.aop, size := t.size,
                operand := BitVec.ofNat 64 old, rows := rows } }] }

/-- A transaction for this module, which is in service. -/
def State.arrives (s : State) (t : Flit) : Bool := s.firm.st == .ready && t.dst == s.firm.node

/-- The state in which a refused transaction leaves the module: where its translations failed, or led to another tier, their segments
have been used (R311). -/
def State.refused (s : State) (typ : Nat) (t : Flit) (c : Nat) : State :=
  let n := if typ = 2 then t.nrows else t.rows.length
  let vas := (List.range n).flatMap fun i => (sectorsOf t.mask).map (sectorVa t.addr i)
  if typ = 4 ∧ (c = 5 ∨ c = 7) then s.noteVas t.asid .write [t.addr.toNat / 2 ^ t.size.toNat * 2 ^ t.size.toNat]
  else if typ ≠ 3 ∧ typ ≠ 4 ∧ (c = 2 ∨ c = 5) then s.noteVas t.asid (if typ = 2 then .read else .write) vas
  else s

/-- A GET is answered by a PUT, and any other transaction by its own type (R327). -/
def answerType (typ : Nat) : Nat := if typ = 2 then 1 else typ

/-- The receiver performs a transaction of the type given and answers it (R327). -/
def receive (s : State) (typ : Nat) (t : Flit) (r : Recv) : Out :=
  if !s.arrives t then .next s
  else match r with
    | .error c => .next ((s.refused typ t c).answer (answerType typ) t (some c) [])
    | .ok none => .next s
    | .ok (some (s, rows)) => .next (s.answer (answerType typ) t none rows)

def execReceivePut (t : Flit) (s : State) : Out := receive s 1 t (s.recvPut t)
def execReceiveGet (t : Flit) (s : State) : Out := receive s 2 t (s.recvGet t)
def execReceivePuth (t : Flit) (s : State) : Out := receive s 3 t (s.recvPuth t)
def execReceiveCollective (t : Flit) (s : State) : Out := receive s 5 t (s.recvCollective t)

def execReceiveAtomic (t : Flit) (s : State) : Out :=
  if !s.arrives t then .next s
  else match s.recvAtomic t with
    | .error c => .next ((s.refused 4 t c).answer 4 t (some c) [])
    | .ok none => .next s
    | .ok (some (s, old)) => .next (s.answer 4 t none [] old)

/-- RXBAD: a flit of reserved TYPE is discarded and reported (R327). -/
def execRxbad (src : BitVec 19) (code : Byte) (s : State) : Out :=
  if s.firm.st = .ready ∧ (code = 0 ∨ 7 ≤ code.toNat) then .next (s.send 0x17 [src.toNat, code.toNat]) else .next s

/-! ### Answers (R327, R329, R339) -/

def State.txn (s : State) (tag : Word) : Option Txn := s.txns.find? fun t => t.flit.tag == tag && t.reply.isNone

def State.dropTxn (s : State) (tag : Word) : State := { s with txns := s.txns.filter (·.flit.tag != tag) }

def State.setTxn (s : State) (t : Txn) : State :=
  { s with txns := s.txns.map fun u => if u.flit.tag = t.flit.tag then t else u }

/-- A macro that stops restarts at the first row, or slot, not recorded: what a row transfer held within a slot is forgotten (R168). -/
def Run.restart (r : Run) : Run :=
  let op := opOf r.q.w
  if op = 0x200 ∨ op = 0x201 ∨ op = 0x207 ∨ op = 0x208 then { r with aux := [] } else r

/-- The macro of a transaction stops with REMOTE. -/
def State.txnFault (s : State) (t : Txn) (detail : Nat) (f : Ctx → Ctx := id) : State :=
  match s.ctxAt t.core t.bank with
  | none => s.dropTxn t.flit.tag
  | some x =>
    let x := match x.runs.find? fun r => r.ctr == .tlc && r.q.num == t.num with
      | some r => x.setRun { r.restart with
          fault := some { code := .remote, cls := .a, detail := BitVec.ofNat 8 detail, eng := some r.ctr, num := r.q.num } }
      | none => x
    (s.setCtxAt t.core t.bank (some (f x))).dropTxn t.flit.tag

/-- A transaction leaves for its node, or leaves again. -/
def State.resend (s : State) (t : Txn) : State :=
  { s.setTxn { t with sent := s.firm.us } with outbox := s.outbox ++ [{ typ := t.typ, flit := t.flit }] }

/-- The answer to a transaction: its rows wait for the macro, a refusal faults it, and DETAIL 0x06 is tried again. -/
def execReceiveAnswer (tag : Word) (refused : Option Byte) (rows : List Row) (s : State) : Out :=
  match s.txn tag with
  | none => .next s
  | some t =>
    if t.flit.dst = s.firm.node then .next s
    else match refused with
      | none => .next (s.setTxn { t with reply := some rows })
      | some c =>
        if c = 6 then .next (s.resend { t with since := some (t.since.getD s.firm.us) })
        else .next (s.txnFault t c.toNat)

/-- FABRIC TIMEOUT: no answer within FTOUT. -/
def execFabricTimeout (tag : Word) (s : State) : Out :=
  match s.txn tag with
  | none => .next s
  | some t =>
    if t.flit.dst ≠ s.firm.node ∧ s.firm.ftout ≤ s.firm.us - t.sent then .next (s.txnFault t 1) else .next s

/-- GANG RETRY TIMEOUT: FTOUT has passed since the first refusal with DETAIL 0x06. -/
def execGangRetryTimeout (tag : Word) (s : State) : Out :=
  match s.txn tag with
  | none => .next s
  | some t =>
    match t.since with
    | none => .next s
    | some u =>
      if s.firm.ftout ≤ s.firm.us - u then
        .next (s.txnFault t 6 fun x => { x with pendE := x.pendE ++
          [{ code := .timeout, cls := .e, event := BitVec.ofNat 64 t.flit.dst.toNat }] })
      else .next s
end Sys2Proof.Machine
end

