-- ==== Sys2Proof/Machine/Reduce.lean ====
section
/-! DEFINITION. Reductions, sorting, sets and exact accumulation (R66, R67, R70, R140 to R146). -/

namespace Sys2Proof.Machine

/-- An addition of elements rounded to nearest even, or modulo 2^b. -/
def addElems (t : ElemType) (a b : Nat) : Nat :=
  match t.ffmt? with
  | some f => encodeF f .rne false 0 ((decodeF f a).add .rne (decodeF f b))
  | none => (a + b) % 2 ^ t.width

/-- The elements of va that participate; the others stand for the identity (R140). -/
def Ctx.participants (x : Ctx) (s : State) (o : V4) (identity : Nat) : List Nat :=
  let b := o.ty.width
  let a := s.vread x o.va
  (List.range (elems b)).map fun j => if x.active o.g b j then elemOf b a j else identity

/-- The identity of a sum: −0.0 or 0. -/
def sumIdentity (t : ElemType) : Nat := if t.ffmt?.isSome then 2 ^ (t.width - 1) else 0

/-- The pairwise tree of R66 over 2^k elements. -/
def treeSum (t : ElemType) : Nat → List Nat → Nat
  | 0, xs => xs.headD 0
  | k + 1, xs => treeSum t k (((xs.take (2 ^ k)).zip (xs.drop (2 ^ k))).map fun p => addElems t p.1 p.2)

def execVrsum (o : V4) (s : State) : Out :=
  xWord s o.g [o.va] [] [] fun x q =>
    let b := o.ty.width
    let xs := x.participants s o (sumIdentity o.ty)
    s.xIssue x q 6 (x.outAt o.vd 0 b (treeSum o.ty (elems b).log2 xs))

/-- The prefix sum of R140: one simultaneous step for w = 1, 2, 4, …. -/
def scanSteps (t : ElemType) (w : Nat) : Nat → List Nat → List Nat
  | 0, xs => xs
  | k + 1, xs => scanSteps t (2 * w) k (xs.take w ++ ((xs.drop w).zip xs).map fun p => addElems t p.1 p.2)

def execVscan (o : V4) (s : State) : Out :=
  xWord s o.g [o.va] [] [] fun x q =>
    let b := o.ty.width
    let xs := x.participants s o (sumIdentity o.ty)
    s.xIssue x q 6 (x.outAt o.vd 0 1024 (ofElems b (scanSteps o.ty 1 (elems b).log2 xs)))

/-- VRMAX and VRMIN (R140). -/
def vecBest (o : V4) (neg : Bool) (f : FVal → FVal → FVal) (s : State) : Out :=
  match o.ty.ffmt? with
  | none => .next s
  | some fmt =>
    xWord s o.g [o.va] [] [] fun x q =>
      let vs := (x.participants s o (infBits fmt neg)).map (decodeF fmt)
      s.xIssue x q 6 (x.outAt o.vd 0 o.ty.width (encodeF fmt .rne false 0 (vs.foldl f (.inf neg))))

def execVrmax (o : V4) (s : State) : Out := vecBest o true FVal.max s
def execVrmin (o : V4) (s : State) : Out := vecBest o false FVal.min s

/-- The participating element that ranks first: its bits and index (R70). -/
def argmax (fmt : FFmt) (xs : List (Nat × Nat)) : Option (Nat × Nat) :=
  xs.foldl (fun best p => match best with
    | none => some p
    | some q => if rankBefore (decodeF fmt p.1) (decodeF fmt q.1) then some p else best) none

def execVrargmax (o : V4) (s : State) : Out :=
  match o.ty.ffmt? with
  | none => .next s
  | some fmt =>
    xWord s o.g [o.va] [] [] fun x q =>
      let b := o.ty.width
      let a := s.vread x o.va
      let xs := ((List.range (elems b)).filter (x.active o.g b)).map fun j => (elemOf b a j, j)
      let (v, i) := (argmax fmt xs).getD (infBits fmt true, 2 ^ 32 - 1)
      let w := max b 32
      s.xIssue x q 6 (x.outAt o.vd 0 (w + 32) (v + i * 2 ^ w))

/-! ### Sorting and sets (R141 to R144) -/

/-- A key–value pair. -/
abbrev KV := Nat × Nat

def pairsOf (v : VWord) : List KV := (List.range 16).map fun i => (elemOf 32 v (2 * i), elemOf 32 v (2 * i + 1))
def ofPairs (ps : List KV) : Nat := ofElems 32 (ps.flatMap fun p => [p.1, p.2])

/-- The unsigned order of keys (R141). -/
def keyOf (t : ElemType) (k : Nat) : Nat :=
  match t with
  | .i32 => k ^^^ 2 ^ 31
  | .f32 => if k.testBit 31 then k ^^^ (2 ^ 32 - 1) else k ^^^ 2 ^ 31
  | _ => k

/-- One compare-exchange step (R142). -/
def sortStep (t : ElemType) (j k : Nat) (desc : Bool) (p : List KV) : List KV :=
  (List.range p.length).map fun i =>
    let l := i ^^^ j
    let a := (p[i]?).getD (0, 0)
    let b := (p[l]?).getD (0, 0)
    -- the lower place of the two decides
    let (lo, hi) := if i < l then (a, b) else (b, a)
    let up := ((min i l) &&& k == 0) != desc
    let swap := if up then decide (keyOf t hi.1 < keyOf t lo.1) else decide (keyOf t lo.1 < keyOf t hi.1)
    if swap then b else a

/-- The network of VBSORT (R143). -/
def bitonicSort (t : ElemType) (desc : Bool) (p : List KV) : List KV :=
  ([(1, 2), (2, 4), (1, 4), (4, 8), (2, 8), (1, 8), (8, 16), (4, 16), (2, 16), (1, 16)] : List (Nat × Nat)).foldl
    (fun p jk => sortStep t jk.1 jk.2 desc p) p

/-- The network of VBMERGE (R143). -/
def bitonicMerge (t : ElemType) (desc : Bool) (a b : List KV) : List KV :=
  ([16, 8, 4, 2, 1] : List Nat).foldl (fun p j => sortStep t j 32 desc p) (a ++ b.reverse)

/-- Results that write one register whole, or two. -/
def Ctx.outPairs (x : Ctx) (vd : VReg) (ps : List KV) : FlightVal := x.outAt vd 0 1024 (ofPairs (ps.take 16))
def Ctx.outPairs2 (x : Ctx) (vd : VReg) (ps : List KV) : FlightVal :=
  .pair (x.phys vd.toNat) (x.phys (vd.toNat + 1)) (BitVec.allOnes 64) (BitVec.ofNat 2048 (ofPairs ps))

def execVbsort (o : V4) (s : State) : Out :=
  xWord s none [o.va] [] [] fun x q =>
    s.xIssue x q 20 (x.outPairs o.vd (bitonicSort o.ty o.desc (pairsOf (s.vread x o.va))))

def execVbmerge (o : V4) (s : State) : Out :=
  xWord s none [o.va, o.vb] [] [] fun x q =>
    s.xIssue x q 10
      (x.outPairs2 o.vd (bitonicMerge o.ty o.desc (pairsOf (s.vread x o.va)) (pairsOf (s.vread x o.vb))))

def execVbstep (o : V4) (s : State) : Out :=
  xWord s none [o.va] [] [] fun x q =>
    s.xIssue x q 2 (x.outPairs o.vd (sortStep o.ty o.stepJ o.stepK o.desc (pairsOf (s.vread x o.va))))

def execVmergek (o : V4) (s : State) : Out :=
  xWord s none [o.va, o.vb] [] [] fun x q =>
    s.xIssue x q 10
      (x.outPairs o.vd (bitonicMerge o.ty o.desc (pairsOf (s.vread x o.va)) (pairsOf (s.vread x o.vb))))

/-- COMB (R144). -/
def combine (comb a b : Nat) : Nat :=
  match comb with
  | 0 => a
  | 1 => b
  | 2 => (a + b) % 2 ^ 32
  | _ => addElems .f32 a b

/-- The merge of R144, of at most n pairs. -/
def mergeSets (union : Bool) (comb : Nat) : Nat → List KV → List KV → List KV
  | 0, _, _ => []
  | _, [], [] => []
  | n + 1, a :: as, [] => if union then a :: mergeSets union comb n as [] else mergeSets union comb n as []
  | n + 1, [], b :: bs => if union then b :: mergeSets union comb n [] bs else mergeSets union comb n [] bs
  | n + 1, a :: as, b :: bs =>
    if a.1 < b.1 then (if union then a :: mergeSets union comb n as (b :: bs) else mergeSets union comb n as (b :: bs))
    else if b.1 < a.1 then (if union then b :: mergeSets union comb n (a :: as) bs else mergeSets union comb n (a :: as) bs)
    else (a.1, combine comb a.2 b.2) :: mergeSets union comb n as bs

/-- The pairs before the first key 0xFFFF_FFFF. -/
def setOf (v : VWord) : List KV := (pairsOf v).takeWhile fun p => p.1 != 2 ^ 32 - 1

def padPairs (n : Nat) (ps : List KV) : List KV := (ps ++ List.replicate n (2 ^ 32 - 1, 0)).take n

def execVisect (o : V4) (s : State) : Out :=
  xWord s none [o.va, o.vb] [] [] fun x q =>
    s.xIssue x q 10
      (x.outPairs o.vd (padPairs 16 (mergeSets false o.comb 32 (setOf (s.vread x o.va)) (setOf (s.vread x o.vb)))))

def execVunion (o : V4) (s : State) : Out :=
  xWord s none [o.va, o.vb] [] [] fun x q =>
    s.xIssue x q 10
      (x.outPairs2 o.vd (padPairs 32 (mergeSets true o.comb 32 (setOf (s.vread x o.va)) (setOf (s.vread x o.vb)))))

/-! ### Exact accumulation (R67, R145, R146) -/

/-- The term that a value adds. -/
def termOf : FVal → ETerm
  | .nan => { cls := 3 }
  | .inf n => { cls := if n then 2 else 1, neg := n }
  | .fin n m e => { neg := n, mag := m, ex := if m = 0 then 0 else e }

/-- A result in flight that updates an accumulator by the end of the present clk. -/
def Flight.onExact (f : Flight) (e : EReg) (bound : Nat) : Bool :=
  f.unit == .vec && decide (f.land ≤ bound) &&
    (match f.val with | .terms d _ => d == e | .exact d _ => d == e | _ => false)

/-- XCLR lands within its issue clock, after the updates of the accumulator that land in it and were issued before, and is
never latched (R89, R146). It is no result in flight of R81, and issues with twelve of them (DESIGN CHOICE, log 31). -/
def execXclr (o : V4) (s : State) : Out :=
  xWord0 s o.g [] fun x _ =>
    let e := exactOf o.vd
    .next (s.putCtx (({ x with flights := x.flights.filter fun f => !f.onExact e (x.xclk + 1) } : Ctx).setExact e 0).xDone)

def execXmov (o : V4) (s : State) : Out :=
  xWordRes s o.g (·.guardOk o.g) [] [exactOf o.va] fun x q => s.xIssue x q 2 (.exact (exactOf o.vd) (x.exact (exactOf o.va)))

/-- The terms of the participating lane pairs. -/
def Ctx.pairTerms (x : Ctx) (g : Guard) (f : Nat → FVal) : List ETerm :=
  (List.range 16).map fun j => if x.active g 64 j then termOf (f j) else {}

def execXadd (o : V4) (s : State) : Out :=
  xWord s o.g [o.va] [] [] fun x q =>
    let a := s.vread x o.va
    s.xIssue x q 2 (.terms (exactOf o.vd) (x.pairTerms o.g fun j => decodeF f64F (elemOf 64 a j))) true

def execXacc (o : V4) (s : State) : Out :=
  xWord s o.g [o.va, o.vb] [] [] fun x q =>
    let a := s.vread x o.va
    let b := s.vread x o.vb
    s.xIssue x q 2 (.terms (exactOf o.vd)
      (x.pairTerms o.g fun j => (decodeF f64F (elemOf 64 a j)).mul (decodeF f64F (elemOf 64 b j)))) true

/-- An accumulator rounded once to FP64 (R67). R67 gives ±∞ on overflow with RNE; where RND never rounds away from zero the model
gives the largest finite number (DESIGN CHOICE, log 71). -/
def roundExact (rnd : Rnd) (r : Nat) (e : BitVec 4352) : Nat :=
  let nan := e.getLsbD 4351
  let p := e.getLsbD 4350
  let n := e.getLsbD 4349
  if nan || e.getLsbD 4348 || (p && n) then nanBits f64F
  else if p || n then infBits f64F n
  else
    let v := xval e
    encodeF f64F rnd false r (.fin (decide (v < 0)) v.natAbs (-2148))

/-- XRND (R145). -/
def execXrnd (o : V4) (s : State) : Out :=
  xWord s o.g [] [] [exactOf o.va] fun x q =>
    let g := if o.rnd = .sr then srNext (x.vecGen q) else x.vecGen q
    s.xIssue (x.setVecGen q g) q 8 (x.outElems o.g 64 o.vd [roundExact o.rnd g.toNat (x.exact (exactOf o.va))])
end Sys2Proof.Machine
end

