-- ==== Sys2Proof/Machine/VecMem.lean ====
section
/-! DEFINITION. Vector memory, handles, loops, repetition, predicates and NOP (R13, R147 to R159). -/

namespace Sys2Proof.Machine

/-! ### Rows (R148, R149) -/

/-- The displacement that NEST adds (R152). -/
def Ctx.nestDisp (x : Ctx) : Word :=
  match x.qx.cur.loop with
  | none => 0
  | some l => ((List.range 6).zip l.pos).foldl (fun acc (j, i) => acc + BitVec.ofNat 64 i * (l.desc.toList[2 * j + 2]?).getD 0)
      ((l.desc.toList[0]?).getD 0)

/-- i·ROWSTEP. -/
def rowStep (s : State) (o : VM) : Word := BitVec.ofNat 64 s.cur.rep * o.rowstep.signExtend 64

/-- The row of VLD and VST (R148). -/
def vmRow (s : State) (x : Ctx) (q : QWord) (o : VM) : Word :=
  q.cap.sa >>> 8 + o.off.signExtend 64 + rowStep s o + (if o.nest then x.nestDisp else 0)

/-- The lanes of a row that the word moves: PART, and the guard on the lanes of each register (R147, R148). -/
def vmLanes (x : Ctx) (o : VM) : BitVec 64 :=
  BitVec.ofNat 64 (ofElems 1 ((List.range 64).map fun i =>
    if (o.part == 0 || (o.part == 2 && i < 32) || (o.part == 3 && 32 ≤ i)) && x.guardBit o.g (i % 32) then 1 else 0))

/-- The physical row of a context row that the word may name, or ALLOT with ADDR row·256 (R148). -/
def withRow (s : State) (x : Ctx) (row : Word) (k : Nat → Nat → Out) : Out :=
  match (if row.toNat < spadRows then x.spadRow row.toNat else none) with
  | none => s.trapQ x .allot 0 0 (row * 256).toNat
  | some p => k row.toNat p

/-- The second repetition of a pair issues alone when it addresses the bank of the first (R158). -/
def Ctx.splitPair (x : Ctx) (bank : Nat) : Bool :=
  match x.qx.cur.rep with
  | some r => r.half == 1 && r.bank == bank
  | none => false

/-- A row, or half of one, from the scratchpad to registers, after 6 clk (R148). -/
def loadRow (s : State) (x : Ctx) (q : QWord) (o : VM) (row : Word) (h : Option HReg := none) : Out :=
  withRow s x row fun r p =>
    if x.splitPair (p / 256) then .next (s.putCtx x.xTick)
    else if s.myCore.spadBad.contains p then s.poisonFatal
    else if x.pends && x.rowPending r then s.trapQ x .pend 0 0 (r * 256)
    else
      let v := s.myCore.spad.read p
      let m := vmLanes x o
      if o.part = 0 then
        s.xIssue x q 6 (.pair (x.phys o.v.toNat) (x.phys (o.v.toNat + 1)) m v) false (p / 256) h
      else
        let sh := if o.part = 3 then 1 else 0
        s.xIssue x q 6 (.vec (x.phys o.v.toNat) (spread 4 128 (fieldOf m (32 * sh) 32)) (fieldOf v (1024 * sh) 1024))
          false (p / 256) h

/-- The registers that a store reads. -/
def vmRegs (o : VM) : List VReg := if o.part = 0 then [o.v, o.v + 1] else [o.v]

/-- Registers to a scratchpad row, as one atomic write after 3 clk (R148). -/
def storeRow (s : State) (x : Ctx) (q : QWord) (o : VM) (row : Word) (h : Option HReg := none) : Out :=
  withRow s x row fun r p =>
    if x.splitPair (p / 256) then .next (s.putCtx x.xTick)
    else
      let a := (s.vread x o.v).toNat
      let v := if o.part = 0 then a + (s.vread x (o.v + 1)).toNat * 2 ^ 1024 else if o.part = 3 then a * 2 ^ 1024 else a
      s.xIssue x q 3 (.row r (vmLanes x o) (BitVec.ofNat 2048 v)) false (p / 256) h

def execVld (o : VM) (s : State) : Out := xWord s o.g [] [] [] fun x q => loadRow s x q o (vmRow s x q o)

def execVst (o : VM) (s : State) : Out := xWord s o.g (vmRegs o) [] [] fun x q => storeRow s x q o (vmRow s x q o)

/-! ### Handles (R149, R150, R165) -/

/-- The first row of a handle's ring. -/
def Handle.firstRow (h : Handle) : Nat := h.bank * 256 + h.row

/-- The row of a slot that lies n slots past a position. -/
def Handle.slotRow (h : Handle) (at_ n : Nat) : Nat := h.firstRow + ((at_ + n) % h.slots) * h.rps

/-- The row within a slot, which R149 checks before the transfer. -/
def withSlotRow (s : State) (x : Ctx) (o : VM) (h : Handle) (k : Nat → Out) : Out :=
  let off := (o.off.signExtend 64 + rowStep s o).toInt
  if 0 ≤ off ∧ off < h.rps then k off.toNat else s.trapQ x .hovf 1

/-- VLDH (R149). NEST, which R147 admits in a loop body and R149's row leaves out, adds nothing, here and in VSTH (DEDUCED,
log 65). -/
def execVldh (o : VM) (s : State) : Out :=
  xWord s o.g [] [] [] fun x q =>
    let h := x.handle o.handle
    withSlotRow s x o h fun off =>
      if o.slot < h.filled then loadRow s x q o (BitVec.ofNat 64 (h.slotRow h.head o.slot + off)) (some o.handle)
      else .next (s.putCtx (x.deliverFor (x.enginesOf (·.produces o.handle))).xWait)

def execVsth (o : VM) (s : State) : Out :=
  xWord s o.g (vmRegs o) [] [] fun x q =>
    let h := x.handle o.handle
    withSlotRow s x o h fun off =>
      if o.slot < h.slots - h.filled then storeRow s x q o (BitVec.ofNat 64 (h.slotRow h.tail o.slot + off)) (some o.handle)
      else .next (s.putCtx (x.deliverFor (x.enginesOf (·.consumes o.handle))).xWait)

/-- The consumer's and the producer's advance by n ≤ 512 slots. Where a second consumer finds fewer slots filled than it releases, or a second
producer fills more than there are, FILLED counts on modulo its 9 bits (DESIGN CHOICE, log 52). -/
def Handle.consume (h : Handle) (n : Nat) : Handle := { h with head := (h.head + n) % h.slots, filled := (h.filled + (512 - n)) % 512 }
def Handle.produce (h : Handle) (n : Nat) : Handle := { h with tail := (h.tail + n) % h.slots, filled := (h.filled + n) % 512 }

/-- HADVC (R150); that a guard tests bit 0 of pG, and that a failed test skips the advance with its check, is the model's choice
(DEDUCED, log 65). -/
def execHadvc (o : VM) (s : State) : Out :=
  xWord0 s o.g [] fun x _ =>
    let h := x.handle o.handle
    let n := o.off.toNat
    if n ≤ h.filled then .next (s.putCtx ((x.setHandle o.handle (h.consume n)).xDone)) else s.trapQ x .hund

/-- HADVP waits for the queue's stores to land, which go on while it does (R150, log 16); its guard is HADVC's (log 65). -/
def execHadvp (o : VM) (s : State) : Out :=
  xWord0 s o.g [] fun x _ =>
    let h := x.handle o.handle
    let n := o.off.toNat
    if x.flights.any fun f => match f.val with | .row _ _ _ => true | _ => false then .next (s.putCtx x.xTick)
    else if n ≤ h.slots - h.filled then .next (s.putCtx ((x.setHandle o.handle (h.produce n)).xDone))
    else s.trapQ x .hovf

/-! ### Loops and repetition (R153 to R157) -/

/-- VLOOP takes one clk; a bound of 0 skips the body (R154). -/
def execVloop (o : EM) (s : State) : Out :=
  match s.ctx?, s.cur.word with
  | some x, some q =>
    let y := x.qNext .x
    let empty := (List.range 6).any fun j => fieldNat ((q.cap.desc.toList[2 * j + 1]?).getD 0) 0 32 == 0
    let cur : Micro := if empty then { y.qx.cur with skip := o.imm.toNat, uid := q.uid }
      else { y.qx.cur with loop := some { desc := q.cap.desc, len := o.imm.toNat, rrb := x.sys.rrb, uid := q.uid } }
    .next (s.putCtx (({ y with qx := { y.qx with cur := cur } } : Ctx).xTick))
  | _, _ => .next s

/-- VEXIT (R155): RRB returns to its value in the last completed iteration, and the body's words not yet in the loop buffer
are skipped. -/
def execVexit (o : V4) (s : State) : Out :=
  xWord0 s o.g [] fun x _ =>
    match x.qx.cur.loop with
    | none => .next (s.putCtx x.xDone)
    | some l =>
      .next (s.putCtx (({ x with
        sys := { x.sys with rrb := l.rrb }
        qx := { x.qx with cur := { skip := l.len - l.body.length, uid := if l.len ≤ l.body.length then 0 else l.uid } } } : Ctx).xTick))

/-- RRBSET (R156); that a guard tests bit 0 of pG is the model's choice (DEDUCED, log 65). -/
def execRrbset (o : VS) (s : State) : Out :=
  xWord0 s o.g [] fun x _ => .next (s.putCtx ({ x with sys := { x.sys with rrb := o.n12 } } : Ctx).xDone)

/-- REP prefixes the next word, in no clk of its own: as the last word of a VLOOP's body the first word of the next iteration, and after the
last iteration the word behind the body (DESIGN CHOICE, log 75); a count of 0 takes 1 clk and the word issues nothing (R157, log 31). -/
def execRep (o : PX) (s : State) : Out :=
  match s.ctx?, s.cur.word with
  | some x, some q =>
    let y := x.qNext .x
    let z : Ctx := { y with qx := { y.qx with cur := { y.qx.cur with rep := some { px := o }, uid := q.uid } } }
    .next (s.putCtx (if o.count = 0 then z.xTick else z))
  | _, _ => .next s

/-- NOP occupies its unit for n clk (R13). In a queue it tests bit 0 of its guard when it issues there (DEDUCED, log 65). -/
def execNop (o : C3) (s : State) : Out :=
  let n := fieldNat o.imm 0 6 + 1
  match s.cur.unit with
  | .queue k =>
    (match s.ctx? with
     | none => .next s
     | some x =>
       if x.pendr && x.guardPending o.g then s.trapQ x .pend
       else if n = 1 || !x.guardOk o.g then .next (s.putCtx ((x.qNext k).qTick k))
       else
         let q := x.queue k
         .next (s.putCtx ((x.setQueue k { q with cur := { q.cur with nop := n - 1 } }).qTick k)))
  | _ => ctlWord o.g [] s fun x => .next (s.ctlDone x n)

/-! ### Predicates (R159) -/

/-- A predicate word: bit by bit, where the guard passes. -/
def predWord (s : State) (g : Guard) (pd : PReg) (reads : List PReg) (f : Ctx → QWord → BitVec 32) : Out :=
  xWord s g [] reads [] fun x q =>
    let m : BitVec 32 := match g with | none => BitVec.allOnes 32 | some g => if g.inv then ~~~(x.pred g.p) else x.pred g.p
    s.xIssue x q 1 (.pred pd m (f x q))

def predBin (o : V4) (s : State) (f : BitVec 32 → BitVec 32 → BitVec 32) : Out :=
  predWord s o.g (predOf o.vd) [predOf o.va, predOf o.vb] fun x _ => f (x.pred (predOf o.va)) (x.pred (predOf o.vb))
def predUn (o : V4) (s : State) (f : BitVec 32 → BitVec 32) : Out :=
  predWord s o.g (predOf o.vd) [predOf o.va] fun x _ => f (x.pred (predOf o.va))

def execPand (o : V4) (s : State) : Out := predBin o s (fun a b => a &&& b)
def execPor (o : V4) (s : State) : Out := predBin o s (fun a b => a ||| b)
def execPxor (o : V4) (s : State) : Out := predBin o s (fun a b => a ^^^ b)
def execPnot (o : V4) (s : State) : Out := predUn o s (fun a => ~~~a)
def execPmov (o : V4) (s : State) : Out := predUn o s (fun a => a)
def execPset (o : VS) (s : State) : Out :=
  predWord s o.g (predOf o.vd) [] fun _ q => if o.srcBit then fieldOf q.cap.sa 0 32 else o.imm32

/-- PPOPC: the count of the bits whose guard bit passes, a scalar after 2 clk (R159). -/
def execPpopc (o : VS) (s : State) : Out :=
  xWord s o.g [] [predOf o.va] [] fun x q =>
    let n := ((List.range 32).filter fun i => (x.pred (predOf o.va)).getLsbD i && x.guardBit o.g i).length
    s.xIssue x q 2 (.scalar o.sa (BitVec.ofNat 64 n))
end Sys2Proof.Machine
end

