-- ==== Sys2Proof/Machine/Sync.lean ====
section
/-! DEFINITION. Transaction barriers, timeline waits and groups (R212 to R223). -/

namespace Sys2Proof.Machine

/-! ### Transaction barriers (R212 to R216) -/

/-- BINIT joins the thread's scratchpad stores (R213). -/
def execBinit (o : C3) (s : State) : Out :=
  ctlWord o.g [o.sa] s fun x =>
    let a := (x.rd o.sa).toNat / 16 * 16
    match x.spadAddr a with
    | none => .next (s.trapP x .allot 0 0 a)
    | some p =>
      let r : BitVec 28 := fieldOf o.imm 0 28
      .next (s.ctlIssue x { kind := .binit (mkBarrier r 0 r 0), loc := .spad p, size := 16 })

/-- A word that stands in a C section or in a queue (R42). In a queue it tests bit 0 of its guard when it issues there, not at its push
(R16; DEDUCED, log 65). -/
def syncWord (o : C3) (reads : List SReg) (s : State) (ctl : Ctx → Out) (queue : Ctx → QWord → Kind → Out) : Out :=
  match s.cur.unit with
  | .queue k =>
    (match s.ctx?, s.cur.word with
     | some x, some q =>
       if x.pendr && x.guardPending o.g then s.trapQ x .pend
       else if x.guardOk o.g then queue x q k
       else .next (s.putCtx ((x.qNext k).qTick k))
     | _, _ => .next s)
  | _ => ctlWord o.g reads s ctl

/-- A queue waits, and the wait delivers the faults of some engines (R86). -/
def State.queueWait (s : State) (x : Ctx) (k : Kind) (want : Eng → Bool) : Out := .next (s.putCtx ((x.deliverFor want).qIdle k))

/-- ARRIVE (R214). On a barrier outside the allotment it raises ALLOT, and on a poisoned row POISON, of class P in a C section; in a queue
the first is of class Q, and the second stops the context (DESIGN CHOICE, log 75). One that waits in the X queue for rows to land lets
its clks count (log 16). -/
def execArrive (o : C3) (s : State) : Out :=
  syncWord o [o.sa, o.sb] s
    (fun x =>
      let a := (x.rd o.sa).toNat / 16 * 16
      let n := x.rd o.sb
      if 2 ^ 46 ≤ n.toNat then .next (s.trapP x .illegal)
      else match x.spadAddr a with
        | none => .next (s.trapP x .allot 0 0 a)
        | some p =>
          if x.ops != [] then .next (s.ctlWait x (.barRoom a))
          else if s.myCore.badAt p then .next (s.trapP x .poison 0x10 0 a)
          else if barFull (s.myCore.barrier p) then .next (s.ctlWait x (.barRoom a))
          else .next ((s.putCore (s.myCore.updBarrier p 1 (fieldOf n 0 48))).ctlDone x))
    fun x q k =>
      let a := q.cap.sa.toNat / 16 * 16
      match x.spadAddr a with
      | none => s.trapQ x .allot 0 0 a
      | some p =>
        if k == .x && x.flights.any fun f => match f.val with | .row _ _ _ => true | _ => false then
          .next (s.putCtx (x.qTick k))
        else if s.myCore.badAt p then s.poisonFatal k
        else if barFull (s.myCore.barrier p) then s.queueWait x k (x.enginesOf (·.credits a))
        else .next ((s.putCore (s.myCore.updBarrier p 1 (fieldOf q.cap.sb 0 48))).putCtx ((x.qNext k).qTick k))

/-- BWAIT (R216). It acquires, and waits for what the thread has posted (R110, R255). A barrier outside the allotment, and a poisoned row, as for
ARRIVE. -/
def execBwait (o : C3) (s : State) : Out :=
  syncWord o [o.sa, o.sb] s
    (fun x =>
      let a := (x.rd o.sa).toNat / 16 * 16
      match x.spadAddr a with
      | none => .next (s.trapP x .allot 0 0 a)
      | some p =>
        if x.mustWait (.spad p) 16 || x.posted then .next (s.ctlWait x (.barPhase a (bwaitPhase o (x.rd o.sb))))
        else if s.myCore.badAt p then .next (s.trapP x .poison 0x10 0 a)
        else if barPhase (s.myCore.barrier p) != bwaitPhase o (x.rd o.sb) then .next (s.ctlDone x)
        else .next (s.ctlWait x (.barPhase a (bwaitPhase o (x.rd o.sb)))))
    fun x q k =>
      let a := q.cap.sa.toNat / 16 * 16
      match x.spadAddr a with
      | none => s.trapQ x .allot 0 0 a
      | some p =>
        if s.myCore.badAt p then s.poisonFatal k
        else if barPhase (s.myCore.barrier p) != bwaitPhase o q.cap.sb && !x.postedBefore q then .next (s.putCtx ((x.qNext k).qTick k))
        else s.queueWait x k (x.enginesOf (·.credits a))

/-! ### Timeline waits (R217, R218) -/

/-- TWAIT delivers a fault held by the counter's engines, ended or not (R217). It acquires, and waits for what the thread has posted (R110,
R255). -/
def execTwait (o : C3) (s : State) : Out :=
  let c := C3.ctr o
  syncWord o [o.sa] s
    (fun x =>
      let n := (x.rd o.sa).toNat
      if (x.tl.get c).pushed < n then .next (s.trapP x .illegal 0x01)
      else if n ≤ (x.tl.get c).value && !x.posted then .next (s.deliverOr x (x.waitDelivers (.timeline c n)) (s.ctlDone x))
      else .next (s.ctlWait x (.timeline c n)))
    fun x q k =>
      let x := x.deliverFor (x.waitDelivers (.timeline c q.cap.sa.toNat))
      if q.cap.sa.toNat ≤ (x.tl.get c).value && !x.postedBefore q then .next (s.putCtx ((x.qNext k).qTick k)) else .next (s.putCtx (x.qIdle k))

def execTread (o : C3) (s : State) : Out :=
  ctlWordRes o.g [] (fun _ => o.sd != 0) s fun x => .next (s.ctlResult x o.sd (BitVec.ofNat 64 (x.tl.get (C3.ctr o)).pushed))

/-! ### Groups (R219 to R223) -/

/-- The first 104 bytes of a group record. -/
structure Group where
  members : BitVec 256
  next    : BitVec 256
  arrived : BitVec 256
  phase   : BitVec 32
  wdogus  : BitVec 32
  deriving DecidableEq, Repr

def Group.ofNat (n : Nat) : Group :=
  { members := BitVec.ofNat 256 n, next := BitVec.ofNat 256 (n / 2 ^ 256), arrived := BitVec.ofNat 256 (n / 2 ^ 512),
    phase := BitVec.ofNat 32 (n / 2 ^ 768), wdogus := BitVec.ofNat 32 (n / 2 ^ 800) }

/-- Bytes 0 to 99, which operations on the record write. -/
def Group.bytes (g : Group) : List Byte :=
  bytesOf 100 (g.members.toNat + g.next.toNat * 2 ^ 256 + g.arrived.toNat * 2 ^ 512 + g.phase.toNat * 2 ^ 768)

def bit256 (m : Nat) : BitVec 256 := BitVec.ofNat 256 (2 ^ m)

/-- phase_check (R219). -/
def Group.check (g : Group) : Group :=
  if g.members ≠ 0 ∧ g.arrived &&& g.members = g.members then
    { g with phase := g.phase + 1, members := g.next, arrived := 0 }
  else g

/-- A member arrives. -/
def Group.arrive (g : Group) (m : Nat) : Group := ({ g with arrived := g.arrived ||| bit256 m } : Group).check

/-- The record as a die's view holds it, and as its home die holds it. -/
def State.groupIn (s : State) (d : DieId) (pa : Nat) : Group := Group.ofNat (natOfBytes (s.readView d pa 104))
def State.group (s : State) (pa : Nat) : Group := s.groupIn (homeDie pa) pa

/-- The watchdog after an operation: it starts with the first arrival of a phase, and ends with the phase (R223). -/
def State.watch (s : State) (pa : Nat) (old new : Group) : State :=
  if new.phase ≠ old.phase then { s with watches := s.watches.filter (·.pa != pa) }
  else if old.arrived = 0 ∧ new.arrived ≠ 0 ∧ new.wdogus ≠ 0 then
    { s with watches := { pa := pa, us := new.wdogus.toNat, since := s.firm.us } :: s.watches.filter (·.pa != pa) }
  else s

/-- The bank writes the record; `none` while a write that precedes has not reached the home die (R249). -/
def State.putGroup (s : State) (pa : Nat) (old new : Group) (own : Option (CoreId × BitVec 32)) : Option State :=
  (s.writeMem (homeDie pa) pa new.bytes own).map fun s => s.watch pa old new

/-- A word that acts on the record: translated as a write, which needs W permission (DESIGN CHOICE, log 75), in die shared memory, after everything the thread did (R219, R221, R222, log 32). -/
def groupWord (o : C3) (reads : List SReg) (s : State) (wait : State → Ctx → Nat → State) (k : Ctx → Nat → State → Out) : Out :=
  ctlWord o.g reads s fun x =>
    let a := (x.rd o.sa).toNat / 1024 * 1024
    if x.ops.any (·.held) then .next (s.ctlBusy x)
    else withXlat s x (s.xlat x a .write) a fun l s =>
      match l with
      | .mem pa =>
        if pa < dsmBase then .next (s.trapP x .perm 1 0 a)
        else if x.ops.isEmpty && s.clockReached (homeDie pa) s.vc[s.myDie].toList then k x pa s
        else .next (wait s x pa)
      | _ => .next (s.trapP x .perm 1 0 a)

/-- The way back of an operation on the record of another die's group: until the thread's die has applied its write (R249, R255). -/
def State.groupReply (s : State) (x : Ctx) (sd : SReg) (v : Word) (pa : Nat) (held : Bool) : Ctx :=
  { x with ops := x.ops ++ [{ kind := .deliver sd v s.vc[homeDie pa].toList true, loc := .mem pa, size := 1024, held := held,
                              born := s.tick }] }

/-- A word that held the control core for an operation on a group's record ends, with its result (R220, R221). -/
def State.groupHeld (s : State) (x : Ctx) (sd : SReg) (v : Word) (pa : Nat) : State :=
  if homeDie pa = s.myDie then s.ctlHeld x fun x => x.wr sd v else s.ctlBusy (s.groupReply x sd v pa true)

/-- JOIN (R220): the number comes back from the home die. -/
def execJoin (o : C3) (s : State) : Out :=
  groupWord o [o.sa] s (fun s x _ => s.ctlBusy x) fun x pa s =>
    let g := s.group pa
    match (List.range 256).find? fun m => !g.members.getLsbD m && !g.next.getLsbD m with
    | none => .next (s.trapP x .group 0x01)
    | some m =>
      let g' : Group := { g with next := g.next ||| bit256 m, members := if g.members = 0 then bit256 m else g.members }
      let g' := g'.check
      let own := some (s.cur.core, x.id.serial)
      match (s.putGroup pa g g' own).bind fun s => s.writeMem (homeDie pa) (pa + 256 + 2 * m) (bytesOf 2 s.cur.core.val) own with
      | none => .next (s.ctlBusy x)
      | some s => .next (s.groupHeld x o.sd (BitVec.ofNat 64 m) pa)

/-- LEAVE (R221). -/
def execLeave (o : C3) (s : State) : Out :=
  groupWord o [o.sa, o.sb] s (fun s x _ => s.ctlBusy x) fun x pa s =>
    let g := s.group pa
    let m := (x.rd o.sb).toNat
    if 255 < m ∨ g.next.getLsbD m = false then .next (s.trapP x .group 0x02)
    else
      let g' : Group := { g with next := g.next &&& ~~~bit256 m }
      let g' := if g.members.getLsbD m then g'.arrive m else g'.check
      match s.putGroup pa g g' (some (s.cur.core, x.id.serial)) with
      | none => .next (s.ctlBusy x)
      | some s => .next (s.groupHeld x 0 0 pa)

/-- BARG's arrival in the phase that stands, and the wait that follows it (R222, log 32). -/
def bargArrive (s : State) (x : Ctx) (pa m : Nat) : Out :=
  let g := s.group pa
  if g.arrived.getLsbD m then .next (s.ctlWait { x with barg := some (pa, g.phase.toNat) } (.group pa))
  else match s.putGroup pa g (g.arrive m) (some (s.cur.core, x.id.serial)) with
    | none => .next (s.ctlWait x (.group pa))
    | some s =>
      let y := if homeDie pa = s.myDie then x else s.groupReply x 0 0 pa false
      .next (s.ctlWait { y with barg := some (pa, g.phase.toNat) } (.group pa))

/-- BARG (R222). `barg` holds the record and the phase waited on, above 2^32 while the member waits to belong to a phase. -/
def execBarg (o : C3) (s : State) : Out :=
  groupWord o [o.sa, o.sb] s (fun s x pa => s.ctlWait x (.group pa)) fun x pa s =>
    let g := s.group pa
    let m := (x.rd o.sb).toNat
    match x.barg with
    | none =>
      if 255 < m ∨ (g.members.getLsbD m = false ∧ g.next.getLsbD m = false) then .next (s.trapP x .group 0x02)
      else if g.members.getLsbD m = false then .next (s.ctlWait { x with barg := some (pa, 2 ^ 32 + g.phase.toNat) } (.group pa))
      else bargArrive s x pa m
    | some (_, p) =>
      if p = g.phase.toNat ∨ p = 2 ^ 32 + g.phase.toNat then .next (s.ctlWait x (.group pa))
      else if 2 ^ 32 ≤ p then bargArrive s x pa m
      else if s.clockReached s.myDie s.vc[homeDie pa].toList then .next (s.ctlDone { x with barg := none })
      else .next (s.ctlWait x (.group pa))

/-- WATCHDOG EXPIRY: every thread that waits in BARG on the group receives TIMEOUT, and the watchdog starts again (R223). -/
def execWatchdogExpiry (pa : Nat) (s : State) : Out :=
  match s.watches.find? (·.pa == pa) with
  | none => .next s
  | some w =>
    if s.firm.us < w.since + w.us then .next s
    else
      let g := s.group pa
      let m := ((List.range 256).find? fun m => g.members.getLsbD m && !g.arrived.getLsbD m).getD 0
      -- one whose phase has completed waits no more, though it has not run since
      let hit := fun x : Ctx => if x.barg.any fun b => b.1 == pa && b.2 % 2 ^ 32 == g.phase.toNat then
          { x with pendE := x.pendE ++ [{ code := .timeout, cls := .e, event := BitVec.ofNat 64 m }] } else x
      .next { s with
        cores := s.cores.map fun k => { k with
          banks := k.banks.map (·.map hit)
          parked := k.parked.map hit
          staging := k.staging.map fun t => (hit t.1, t.2) }
        watches := { w with since := s.firm.us } :: s.watches.filter (·.pa != pa) }
end Sys2Proof.Machine
end

