-- ==== Sys2Proof/Machine/CtlSys.lean ====
section
/-! DEFINITION. System registers, traps and returns, fences, flushes and PROBE (R72 to R75, R87, R101, R113 to R118, R237, R307).
MTS to HEATCFG stands with the row tier. -/

namespace Sys2Proof.Machine

/-! ### The register map (R72) -/

/-- Access to a system register: read and write in the unprivileged view, write in the privileged view. -/
structure SysAccess where
  ur : Bool
  uw : Bool
  pw : Bool

/-- The register map; an unassigned number has no entry (log 23). -/
def sysAccess (n : Nat) : Option SysAccess :=
  let ro : Option SysAccess := some ⟨true, false, false⟩
  let rw : Option SysAccess := some ⟨true, true, true⟩
  if n ≤ 0x004 ∨ n = 0x008 ∨ n = 0x009 then ro
  else if (0x010 ≤ n ∧ n ≤ 0x013) ∨ n = 0x018 ∨ n = 0x019 then rw
  else if (0x020 ≤ n ∧ n ≤ 0x023) ∨ (0x028 ≤ n ∧ n ≤ 0x02A) ∨ (0x030 ≤ n ∧ n ≤ 0x033) then rw
  else if n = 0x038 then some ⟨true, false, true⟩
  else if 0x039 ≤ n ∧ n ≤ 0x03C then ro
  else if 0x040 ≤ n ∧ n ≤ 0x05F then rw
  else if 0x060 ≤ n ∧ n ≤ 0x065 then ro
  else if (0x070 ≤ n ∧ n ≤ 0x077) ∨ (0x080 ≤ n ∧ n ≤ 0x085) then some ⟨false, false, true⟩
  else if 0x086 ≤ n ∧ n ≤ 0x08F then some ⟨false, false, false⟩
  else if 0x100 ≤ n ∧ n < 0x120 then rw
  else if 0x200 ≤ n ∧ n < 0x400 ∧ n % 16 < 13 then rw
  else none

/-- The read-only identity and allotment registers (R74, R230, R294, log 36). -/
def ctxidWord (i : Ident) : Word :=
  BitVec.ofNat 64 (i.pri + (if i.priv then 2 ^ 7 else 0) + (if i.replay then 2 ^ 8 else 0) + (if i.share then 2 ^ 9 else 0)
    + i.bank.val * 2 ^ 10 + i.serial.toNat * 2 ^ 32)
def vallotWord (i : Ident) : Word := BitVec.ofNat 64 (i.vlen % 2048 + i.vbase * 2 ^ 16)
def sallotWord (i : Ident) (msgn : Nat) : Word :=
  BitVec.ofNat 64 (i.sbank + i.snb * 2 ^ 8 + msgn * 2 ^ 16 + i.abase * 2 ^ 23 + i.alen * 2 ^ 32)

/-- HEATST0 to HEATST3 of a die (R316). -/
def Die.heatst (d : Die) : Nat → Word
  | 0 => BitVec.ofNat 64 d.fetch
  | 1 => BitVec.ofNat 64 d.cfetch
  | 2 => BitVec.ofNat 64 (d.accSt % 2 ^ 32 + d.accRs % 2 ^ 32 * 2 ^ 32)
  | _ => BitVec.ofNat 64 (d.calvSt % 2 ^ 32 + d.calvRs % 2 ^ 32 * 2 ^ 32)

def Timelines.ofNum (t : Timelines) (k : Nat) : Timeline := t.get ((Ctr.ofCode k).getD .tla)

/-- A system register's value (R72). A word of a table that is not loaded has none the manual gives (log 7). -/
def State.sysRead (s : State) (x : Ctx) (n : Nat) : Word :=
  let y := x.sys
  if n = 0x000 then x.id.asid.setWidth 64
  else if n = 0x001 then ctxidWord x.id
  else if n = 0x002 then BitVec.ofNat 64 s.cur.core.val
  else if n = 0x003 then BitVec.ofNat 64 s.myDie.val
  else if n = 0x004 then s.firm.node.setWidth 64
  else if n = 0x008 then vallotWord x.id
  else if n = 0x009 then sallotWord x.id s.myCore.msgn
  else if n = 0x010 then y.tvec
  else if n = 0x011 then y.tframe
  else if n = 0x012 then y.tcause
  else if n = 0x013 then y.tmr
  else if n = 0x018 then y.dbgctl
  else if n = 0x019 then y.watcha
  else if n = 0x020 then BitVec.ofNat 64 y.rrb
  else if n = 0x021 then BitVec.ofNat 64 y.rotsz
  else if n = 0x022 then y.frag
  else if n = 0x023 then y.ftabb
  else if n = 0x028 then y.srseed
  else if n = 0x029 then y.seed
  else if n = 0x02A then y.temper
  else if n = 0x030 then y.predcfg
  else if n = 0x031 then y.chkcfg
  else if n = 0x032 then y.misslim
  else if n = 0x033 then y.misscnt
  else if n = 0x038 then s.firm.heatcfg
  else if 0x039 ≤ n ∧ n ≤ 0x03C then (s.dies[s.myDie]).heatst (n - 0x039)
  else if 0x040 ≤ n ∧ n ≤ 0x05F then (y.bfmt.toList[n - 0x040]?).getD 0
  else if 0x060 ≤ n ∧ n ≤ 0x065 then BitVec.ofNat 64 (x.tl.ofNum (n - 0x060)).value
  else if 0x070 ≤ n ∧ n ≤ 0x077 then BitVec.ofNat 64 ((s.firm.ageus.toList[n - 0x070]?).getD 0)
  else if n = 0x080 then y.stasid
  else if n = 0x081 then y.stidx
  else if 0x082 ≤ n ∧ n ≤ 0x085 then
    (match s.space (fieldOf y.stasid 0 12) with
     | some t => (t.entry (fieldNat y.stidx 0 10)).word (n - 0x082)
     | none => BitVec.ofNat 64 (Config.freeBits s.tick))
  else if n = 0x086 then (if (s.space (fieldOf y.stasid 0 12)).isSome then 1 else 0)
  else if 0x087 ≤ n ∧ n ≤ 0x08F then 0
  else if 0x100 ≤ n ∧ n < 0x120 then
    let h := x.handle (BitVec.ofNat 4 ((n - 0x100) / 2))
    if n % 2 = 0 then h.low else h.high
  else ((x.desc (BitVec.ofNat 5 ((n - 0x200) / 16))).toList[n % 16]?).getD 0

/-- MFS (R72, R113). -/
def execMfs (o : C3) (s : State) : Out :=
  ctlWordRes o.g [] (fun x => o.sd != 0 && (sysAccess o.sysNum).any fun a => x.id.priv || a.ur) s fun x =>
    match sysAccess o.sysNum with
    | none => .next (s.trapP x .illegal)
    | some a =>
      if !x.id.priv && !a.ur then .next (s.trapP x .perm)
      else .next (s.ctlResult x o.sd (s.sysRead x o.sysNum))

/-! ### MTS -/

/-- MTS (R72, R113): the access, then the value, then the write. -/
def mtsWord (o : C3) (s : State) (ok : Ctx → Word → Bool) (k : Ctx → Word → Out) : Out :=
  ctlWord o.g [o.sa] s fun x =>
    match sysAccess o.sysNum with
    | none => .next (s.trapP x .illegal)
    | some a =>
      if !a.pw && a.ur then .next (s.trapP x .illegal)
      else if !x.id.priv && !a.uw then .next (s.trapP x .perm)
      else if !a.pw || !ok x (x.rd o.sa) then .next (s.trapP x .illegal)
      else k x (x.rd o.sa)

/-- A bank format that BFMT accepts (R58, R59). -/
def bfmtOk (v : Word) : Bool :=
  fieldOf v 62 2 == 0 && fieldOf v 32 2 == 0 && fieldOf v 9 7 == 0 && decide (fieldNat v 0 5 ≤ 0x10)
    && decide (fieldNat v 5 3 < 6)

/-- The values that a register without a write behaviour of its own accepts: its reserved fields are zero (R113, log 24). -/
def mtsPlainOk (n : Nat) (v : Word) : Bool :=
  let clear := fun (lo len : Nat) => fieldNat v lo len == 0
  if n = 0x011 then clear 13 51
  else if n = 0x012 then clear 40 24 && clear 27 5 && clear 22 2 && clear 18 2
  else if n = 0x018 then clear 4 60
  else if n = 0x019 then clear 52 12 && clear 0 5
  else if n = 0x023 then clear 52 12 && clear 0 3
  else if n = 0x02A ∨ n = 0x031 then clear 32 32
  else if n = 0x030 then clear 19 5
  else if n = 0x032 ∨ n = 0x033 then clear 17 47
  else if 0x040 ≤ n ∧ n ≤ 0x05F then bfmtOk v
  else if 0x070 ≤ n ∧ n ≤ 0x077 then clear 32 32
  else if n = 0x080 then clear 12 52
  else if n = 0x081 then clear 10 54
  else if 0x200 ≤ n ∧ n % 2 = 1 then clear 32 32
  else true

/-- Element i of a vector replaced, where it exists. -/
def vset {α : Type} {n : Nat} (v : Vector α n) (i : Nat) (a : α) : Vector α n := if h : i < n then v.set i a h else v

/-- The write of such a register. -/
def sysWrite (s : State) (x : Ctx) (n : Nat) (v : Word) : State × Ctx :=
  let y := x.sys
  let put := fun z : Sys => (s, { x with sys := z })
  if n = 0x010 then put { y with tvec := v }
  else if n = 0x011 then put { y with tframe := v }
  else if n = 0x012 then put { y with tcause := v }
  else if n = 0x018 then put { y with dbgctl := v }
  else if n = 0x019 then put { y with watcha := v }
  else if n = 0x023 then put { y with ftabb := v }
  else if n = 0x02A then put { y with temper := v }
  else if n = 0x030 then put { y with predcfg := v }
  else if n = 0x031 then put { y with chkcfg := v }
  else if n = 0x032 then put { y with misslim := v }
  else if n = 0x033 then put { y with misscnt := v }
  else if 0x040 ≤ n ∧ n ≤ 0x05F then put { y with bfmt := vset y.bfmt (n - 0x040) v }
  else if 0x070 ≤ n ∧ n ≤ 0x077 then
    ({ s with firm := { s.firm with ageus := vset s.firm.ageus (n - 0x070) v.toNat } }, x)
  else if n = 0x080 then put { y with stasid := v }
  else if n = 0x081 then put { y with stidx := v }
  else
    let d : DReg := BitVec.ofNat 5 ((n - 0x200) / 16)
    (s, { x with regs := { x.regs with d := vset x.regs.d d.toNat (vset (x.desc d) (n % 16) v) } })

def execMts (o : C3) (s : State) : Out :=
  mtsWord o s (fun _ v => mtsPlainOk o.sysNum v) fun x v =>
    let (s, x) := sysWrite s x o.sysNum v
    .next (s.ctlDone x)

/-- TMR (R87): writing 0 cancels a TIMER that has not been delivered. -/
def execMtsTmr (o : C3) (s : State) : Out :=
  mtsWord o s (fun _ _ => true) fun x v =>
    .next (s.ctlDone { x with sys := { x.sys with tmr := v },
                              pendE := if v = 0 then x.pendE.filter (·.code != .timer) else x.pendE })

/-- The words that use the generators: those queued, in a loop body or at an engine. -/
def Ctx.drawers (x : Ctx) : List QWord :=
  let of := fun q : Queue => q.items ++ (match q.cur.loop with | some l => l.body | none => [])
    ++ (match q.saved.loop with | some l => l.body | none => [])
  of x.ql ++ of x.qx ++ of x.qs ++ x.runs.map (·.q)

/-- SRSEED (R64): the words pushed from here on use generators reset with the new seed, those pushed before it the generators as
they stand. -/
def Ctx.reseed (x : Ctx) (v : BitVec 32) : Ctx :=
  let g := fun c : BitVec 32 => if v ^^^ c = 0 then 1 else v ^^^ c
  { x with
    oldGens := ((x.genNum, x.gens) :: x.oldGens).filter fun p => x.drawers.any (·.cap.gen == p.1)
    genNum := x.genNum + 1
    gens := { vec := g 0, load := g 0x55555555, store := g 0xAAAAAAAA, brim := g 0xFFFFFFFF } }

def execMtsSrseed (o : C3) (s : State) : Out :=
  mtsWord o s (fun _ v => fieldNat v 32 32 == 0) fun x v =>
    .next (s.ctlDone { x.reseed (fieldOf v 0 32) with sys := { x.sys with srseed := v } })

/-- The rime generators after a reset (R203). -/
def rimeSeeds (seed : BitVec 32) : Vector (BitVec 32) 16 :=
  Vector.ofFn fun c => let g := seed ^^^ BitVec.ofNat 32 (c.val * 0x9E3779B9); if g = 0 then 1 else g

/-- SEED (R203): the words pushed from here on use rime generators reset with the new seed. -/
def Ctx.rimeReset (x : Ctx) (seed : BitVec 32) : Ctx :=
  { x with
    oldRime := ((x.rimeNum, x.rime) :: x.oldRime).filter fun p => x.drawers.any (·.cap.rime == p.1)
    rimeNum := x.rimeNum + 1
    rime := rimeSeeds seed }

def execMtsSeed (o : C3) (s : State) : Out :=
  mtsWord o s (fun _ _ => true) fun x v =>
    .next (s.ctlDone { x.rimeReset (fieldOf v 32 32) with sys := { x.sys with seed := v } })

/-- ROTSZ and RRB (R75). -/
def execMtsRotsz (o : C3) (s : State) : Out :=
  mtsWord o s (fun x v => decide (v.toNat ≤ x.vlen)) fun x v =>
    .next (s.ctlDone { x with sys := { x.sys with rotsz := v.toNat, rrb := 0 } })

def execMtsRrb (o : C3) (s : State) : Out :=
  mtsWord o s (fun x v => decide (v.toNat < x.sys.rotsz) || v == 0) fun x v =>
    .next (s.ctlDone { x with sys := { x.sys with rrb := v.toNat } })

/-- The handle word of MTS waits for the handle's users; the wait delivers the faults of the macros that name it (R86, R237, log 30). -/
def mtsHandle (o : C3) (s : State) (ok : Handle → Word → Bool) (f : Handle → Word → Handle) : Out :=
  let h : HReg := BitVec.ofNat 4 ((o.sysNum - 0x100) / 2)
  mtsWord o s (fun x v => ok (x.handle h) v) fun x v =>
    if x.usesHandle h then .next (s.ctlWait x (.handle h))
    else .next (s.ctlDone (x.setHandle h (f (x.handle h) v)))

/-- The geometry word (R236, R237). -/
def handleLowOk (v : Word) : Bool :=
  let slots := fieldNat v 20 9
  let rps := fieldNat v 32 9
  fieldNat v 41 23 == 0 && fieldNat v 29 3 == 0 && fieldNat v 13 7 == 0 && decide (1 ≤ slots) && decide (slots ≤ 256)
    && decide (1 ≤ rps) && decide (rps ≤ 256) && decide (slots * rps ≤ 8192)

def execMtsHandleLow (o : C3) (s : State) : Out :=
  mtsHandle o s (fun _ v => handleLowOk v) fun _ v =>
    { bank := fieldNat v 8 5, row := fieldNat v 0 8, slots := fieldNat v 20 9, rps := fieldNat v 32 9 }

/-- The live word (R236, R237). -/
def handleHighOk (h : Handle) (v : Word) : Bool :=
  let head := fieldNat v 16 8
  let tail := fieldNat v 24 8
  let filled := fieldNat v 32 9
  fieldNat v 41 23 == 0 && fieldNat v 0 16 == 0 && decide (head < h.slots) && decide (tail < h.slots)
    && decide (filled ≤ h.slots) && tail == (head + filled) % h.slots

def execMtsHandleHigh (o : C3) (s : State) : Out :=
  mtsHandle o s handleHighOk fun h v =>
    { h with head := fieldNat v 16 8, tail := fieldNat v 24 8, filled := fieldNat v 32 9 }

/-- FRAG (R101, R102). -/
def execMtsFrag (o : C3) (s : State) : Out :=
  mtsWord o s (fun _ v => fieldNat v 6 58 == 0) fun x v => .next (s.ctlDone { x with sys := { x.sys with frag := v } })

/-! ### Segment-table registers (R304, R307) -/

/-- The fields of PLACE that a tier leaves zero. -/
def placeOk (w2 : Word) : Bool :=
  match fieldNat w2 60 4 with
  | 0 | 1 => fieldNat w2 48 12 == 0 && fieldNat w2 0 16 == 0
  | 2 => fieldNat w2 58 2 == 0 && fieldNat w2 26 30 == 0 && fieldNat w2 0 16 == 0
  | 3 | 4 => fieldNat w2 10 50 == 0
  | _ => false

/-- The rules of R307 on a whole entry. -/
def State.entryOk (s : State) (e : SegEntry) : Bool :=
  fieldNat e.w0 52 12 == 0 && fieldNat e.w0 0 16 == 0 && fieldNat e.w1 52 12 == 0 && fieldNat e.w1 4 12 == 0
    && !e.w1.getLsbD 0 && placeOk e.w2 && fieldNat e.w3 8 4 == 0 && fieldNat e.w3 0 2 == 0 && e.dup != 3
    && decide (e.vbase + e.vleng ≤ 2 ^ 36)
    && (decide (e.tier < 3) || (!e.w && !e.x))
    && (decide (e.tier < 3) || e.vleng == 0 || (s.obj e.obj).isSome)

/-- MTS to STW0 to STW3: the entry as the word would leave it must obey R307. -/
def mtsEntry (o : C3) (s : State) (k : Ctx → BitVec 12 → Nat → SegEntry → SegEntry → Out) : Out :=
  let entry := fun x : Ctx =>
    (fieldOf x.sys.stasid 0 12, fieldNat x.sys.stidx 0 10, s.entry (fieldOf x.sys.stasid 0 12) (fieldNat x.sys.stidx 0 10))
  mtsWord o s
    (fun x v => let (a, _, e) := entry x; (s.space a).isSome && s.entryOk (e.setWord (o.sysNum - 0x082) v))
    fun x v => let (a, i, e) := entry x; k x a i e (e.setWord (o.sysNum - 0x082) v)

/-- Swap states follow the command or the eviction that is being performed, else the residency of the layers (R309). -/
def State.settle (s : State) : State :=
  { s with models := s.models.map fun m =>
      { m with swap := if m.cmd.isSome then .swapping
          else if m.leaving ≠ [] then .evicting
          else if m.defn.layers.all fun l => (s.entry m.asid l.1).res then .resident else .absent } }

/-- STW3 is read live, and its write is a module-scope release (R306, R307). -/
def execMtsStw3 (o : C3) (s : State) : Out :=
  mtsEntry o s fun x a i _ e =>
    if x.ops.isEmpty && s.drained (s.cur.core, x.id.serial) then .next ((s.setEntry a i e).settle.ctlDone x)
    else .next (s.ctlBusy x)

/-- STW0 to STW2: the old word stays in use until an SFLUSH (R306). -/
def execMtsStw (o : C3) (s : State) : Out :=
  mtsEntry o s fun x a i old e =>
    let w := o.sysNum - 0x082
    let s := { s with segOld := { asid := a, idx := i, word := w, val := old.word w, till := s.tick } :: s.segOld }
    .next ((s.setEntry a i e).ctlDone x)

/-! ### Traps, fences and flushes -/

/-- TRAP and BRKPT (R114): the frame's PC is the next header, and the boundary is the next clk (log 29). -/
def trapWord (o : C3) (s : State) (detail : Nat) : Out :=
  ctlWord o.g [] s fun x =>
    let target := match x.ctl.sec with | some c => c.next | none => x.ctl.pc + 12
    let y : Ctx := { x.leaveSec x.ctl with ctl := { pc := target } }
    let s := s.passCtl y.issued 1
    match s.ctx? with
    | none => .next s
    | some x => .next (s.takeTrap x { code := .swtrap, cls := .p, detail := BitVec.ofNat 8 detail } (some .c))

def execTrap (o : C3) (s : State) : Out := trapWord o s (fieldNat o.imm 0 8)
def execBrkpt (o : C3) (s : State) : Out := trapWord o s 0xFF

/-- RTT (R90, R115): waits for the trap-mode words and results, then chains into a pending fault, or validates the frame and
resumes. The frame is the one that TFRAME names at the RTT, and its rows are not held to the allotment again (DESIGN CHOICE,
log 28). A row of it that is read and is poisoned raises POISON of class P, which stops the context in trap mode (DESIGN CHOICE, log 75). -/
def execRtt (o : C3) (s : State) : Out :=
  ctlWord o.g [] s fun x =>
    if !x.trapMode then .next (s.trapP x .illegal)
    else if x.flights != [] || [x.ql, x.qx, x.qs].any fun q => (q.head true).isSome || q.cur != {} then .next (s.ctlBusy x)
    else match x.faultOn fun _ => true with
      | some r => match r.fault with
        | some f => .next ((s.chain x r f).passNow 3)
        | none => .next s
      | none =>
        let first := x.id.sbank * 256 + x.frameRow
        let fr := s.myCore.frame first
        let bad := fun i : Nat => s.myCore.spadBad.contains (first + i)
        if bad 0 || bad 2 || (List.range 12).any (fun j => fr.testBit (8 * 48 + j) && bad (3 + j)) then
          .next (s.trapP x .poison 0x10 0 (256 * x.frameRow))
        else
        let pc : Word := BitVec.ofNat 64 (fr >>> 64)
        match x.readSlots (fr) with
        | some slots =>
          if pc = x.trapPc ∨ fieldNat pc 0 3 = 0 then .next (s.resume (x.leaveSec x.ctl) slots pc)
          else .next (s.ctxFatal s.cur.core s.cur.bank x.sys.tcause)
        | none => .next (s.ctxFatal s.cur.core s.cur.bank x.sys.tcause)

/-- FENCE (R116): waits for the scalar accesses, and at die or module scope for the writes to reach every view. -/
def execFence (o : C3) (s : State) : Out :=
  ctlWord o.g [] s fun x =>
    if x.ops.isEmpty && (fieldNat o.imm 0 2 != 2 || s.drained (s.cur.core, x.id.serial)) then .next (s.ctlDone x)
    else .next (s.ctlBusy x)

/-- Every core discards its translations and code of the address space (R117, R306). -/
def State.discard (s : State) (asid : BitVec 12) : State :=
  { s with
    cores := s.cores.map fun k => { k with
      icache := k.icache.filter (·.asid != asid)
      discards := (asid, s.tick) :: k.discards.filter (·.1 != asid) }
    segOld := s.segOld.filter (·.asid != asid) }

/-- One core's discard (R117, R306). -/
def Core.discard (k : Core) (asid : BitVec 12) (tick : Nat) : Core :=
  { k with icache := k.icache.filter (·.asid != asid), discards := (asid, tick) :: k.discards.filter (·.1 != asid) }

/-- Old words of entries that every core has discarded since are dropped. -/
def State.pruneOld (s : State) (asid : BitVec 12) : State :=
  { s with segOld := s.segOld.filter fun o => o.asid != asid ||
      s.cores.toList.any fun k => decide ((k.discards.lookup asid).getD 0 < o.till) }

/-- Some cores discard, each at a boundary of its own. -/
def State.discardOn (s : State) (asid : BitVec 12) (cs : List CoreId) : State :=
  (cs.foldl (fun (s : State) c => s.setCore c ((s.core c).discard asid s.tick)) s).pruneOld asid

def allCores : List CoreId := (List.range 128).map (Fin.ofNat 128)

/-- How many writes each die has performed: what a core that discards for an SFLUSH must have received, so that the code it fetches
from then on is no older than the SFLUSH (R31, R117, log 18). -/
def State.written (s : State) : List Nat := ([0, 1, 2, 3] : List DieId).map fun d => s.vc[d][d]

/-- SFLUSH (R117): the discards, then the drain, which holds the control core or counts on a token. -/
def execSflush (o : C3) (s : State) : Out :=
  ctlWord o.g [o.sa] s fun x =>
    if x.ops.any (·.held) then .next (s.ctlBusy x)
    else if !x.id.priv && o.sa != 0 then .next (s.trapP x .perm)
    else if x.id.priv && fieldNat (x.rd o.sa) 12 52 != 0 then .next (s.trapP x .illegal)
    else if x.tokFull o.tok then .next (s.ctlBusy x)
    else
      let asid := if x.id.priv then fieldOf (x.rd o.sa) 0 12 else x.id.asid
      let k : OpKind := .sflush asid allCores [] s.written
      match o.tok with
      | some t => .next (s.ctlIssue x { kind := k, tok := some t })
      | none => .next (s.ctlBusy { x with ops := x.ops ++ [{ kind := k, held := true, born := s.tick }] })

/-- No access of the address space that was translated on a core before its discard is still on its way (R117). -/
def State.asidDrained (s : State) (asid : BitVec 12) (at_ : List (CoreId × Nat)) : Bool :=
  at_.all fun d => (s.core d.1).residents.all fun x => x.id.asid != asid || x.ops.all fun p =>
    decide (d.2 ≤ p.born) || (match p.loc, p.kind with
      | _, .sflush _ _ _ _ => true
      | .mem _, _ => false
      | .heat _ _, _ => false
      | .spad _, _ => true)

/-- A held word ends: the control core goes on after it. -/
def Ctx.unholdWord (x : Ctx) : Ctx := { x.issued with ctl := x.ctl.step }

/-- The cores that discard next, of those whose die has received the writes that the flush covers: those that the free choice names,
or all of them (log 18). -/
def State.nextDiscards (s : State) (left : List CoreId) (need : List Nat) : List CoreId :=
  let can := left.filter fun c => s.clockReached (dieOf c) need
  match can.filter fun c => Config.choice s.tick (3000 + c.val) % 2 == 1 with
  | [] => can
  | cs => cs

/-- One of the context's SFLUSHes, which a free choice names: further cores discard; once all have, the drain ends when the accesses
translated before have completed (R117). -/
def execSflushDrainEnd (c : CoreId) (b : BankId) (s : State) : Out :=
  match s.ctxAt c b with
  | none => .next s
  | some x =>
    let fs := x.ops.filter fun p => match p.kind with | .sflush _ _ _ _ => true | _ => false
    match fs[Config.choice s.tick 5 % fs.length]? with
    | none => .next s
    | some p => match p.kind with
      | .sflush asid left at_ need =>
        if left ≠ [] then
          let cs := s.nextDiscards left need
          let k : OpKind := .sflush asid (left.filter fun c => !cs.contains c) (at_ ++ cs.map fun c => (c, s.tick)) need
          let x := { x with ops := x.ops.map fun r => if r = p then { p with kind := k } else r }
          .next ((s.setCtxAt c b (some x)).discardOn asid cs)
        else if s.asidDrained asid at_ then
          let x := { (x.tokDone p.tok) with ops := x.ops.erase p }
          .next (s.setCtxAt c b (some (if p.held && x.fatal.isNone then x.unholdWord else x)))
        else .next s
      | _ => .next s
end Sys2Proof.Machine
end

