-- ==== Sys2Proof/Machine/Tier.lean ====
section
/-! DEFINITION. The row tier unit: heat, accretion and calving of governed rows, its configuration and its budgets (R313 to R320). -/

namespace Sys2Proof.Machine

/-! ### HEATCFG (R315) -/

def heatHalvd (w : Word) : Nat := fieldNat w 32 16
def heatThRs (w : Word) : Nat := fieldNat w 24 8
def heatThSt (w : Word) : Nat := fieldNat w 16 8
def heatRsMib (w : Word) : Nat := fieldNat w 8 8

/-- The value is in range: no threshold of 0, no budget above 48, no reserved bit. -/
def heatOk (w : Word) : Bool :=
  fieldNat w 48 16 == 0 && fieldNat w 0 8 == 0 && heatThRs w != 0 && heatThSt w != 0 && decide (heatRsMib w ≤ 48)

/-! ### Rows (R317, R318) -/

/-- The level below which an object's rows never fall (R318). -/
def Obj.floor (o : Obj) : Nat := if o.defn.homeCap then 0 else 1

/-- A row's record put back; one that holds nothing but its floor is not listed. -/
def Obj.putRow (o : Obj) (r : RowRec) : Obj :=
  let keep := r.heat != 0 || r.last != 0 || r.level != o.floor || r.landed != o.floor
  { o with rows := o.rows.filter (fun q => decide (q.row < r.row)) ++ (if keep then [r] else [])
      ++ o.rows.filter fun q => decide (r.row < q.row) }

/-- p goes before q as a victim: lower heat, then older fetch, then higher index (R318). -/
def RowRec.before (p q : RowRec) : Bool :=
  decide (p.heat < q.heat) || (p.heat == q.heat && (decide (p.last < q.last) || (p.last == q.last && decide (q.row < p.row))))

def victimOf (l : List RowRec) : Option RowRec :=
  l.foldl (fun acc r => match acc with | none => some r | some v => if r.before v then some r else some v) none

/-- Counts that a fetch or a calving adds to HEATST2 and HEATST3. -/
structure TierCounts where
  accRs  : Nat := 0
  accSt  : Nat := 0
  calvRs : Nat := 0
  calvSt : Nat := 0
  deriving DecidableEq, Repr

def TierCounts.add (a b : TierCounts) : TierCounts :=
  { accRs := a.accRs + b.accRs, accSt := a.accSt + b.accSt, calvRs := a.calvRs + b.calvRs, calvSt := a.calvSt + b.calvSt }

/-- The die's counters rise, modulo their widths (R316). -/
def State.countTier (s : State) (d : DieId) (n : TierCounts) (fetch cfetch : Nat := 0) : State :=
  let t := s.dies[d]
  s.setDie d { t with
    fetch := (t.fetch + fetch) % 2 ^ 64, cfetch := (t.cfetch + cfetch) % 2 ^ 64
    accRs := (t.accRs + n.accRs) % 2 ^ 32, accSt := (t.accSt + n.accSt) % 2 ^ 32
    calvRs := (t.calvRs + n.calvRs) % 2 ^ 32, calvSt := (t.calvSt + n.calvSt) % 2 ^ 32 }

/-- Row v gives up its nearest copy. -/
def Obj.calve (o : Obj) (v : RowRec) : Obj × TierCounts :=
  (o.putRow { v with level := v.level - 1, landed := min v.landed (v.level - 1) },
   if v.level = 2 then { calvRs := 1 } else { calvSt := 1 })

/-- Row j takes a slot one level nearer; its copy lands later. -/
def Obj.accrete (o : Obj) (j : Nat) : Obj × TierCounts :=
  let r := o.row j
  (o.putRow { r with level := r.level + 1 }, if r.level = 1 then { accRs := 1 } else { accSt := 1 })

/-- A token of the object: one more, and every heat is halved at each HALVD tokens (R317). -/
def Obj.token (o : Obj) (cfg : Word) : Obj :=
  let n := (o.tokens + 1) % 2 ^ 64
  let o := { o with tokens := n }
  if heatHalvd cfg ≠ 0 ∧ n % heatHalvd cfg = 0 then
    o.rows.foldl (fun o r => o.putRow { r with heat := r.heat / 2 }) o
  else o

/-- One fetch of row j: its heat and LAST, and the accretion and calving that follow (R318). -/
def Obj.fetch (o : Obj) (cfg : Word) (j : Nat) : Obj × TierCounts :=
  let r := { o.row j with heat := min ((o.row j).heat + 1) 255, last := o.tokens % 2 ^ 48 }
  let o := o.putRow r
  let l := r.level
  let th := if l = 0 then heatThSt cfg else heatThRs cfg
  let slots := if l = 0 then o.defn.stslots else o.defn.rsslots
  if 2 ≤ l ∨ r.heat < th then (o, {})
  else if o.usedAt (l + 1) < slots then o.accrete j
  else match victimOf (o.rows.filter fun q => q.level == l + 1 && decide (q.heat < r.heat)) with
    | none => (o, {})
    | some v =>
      let (o, n) := o.calve v
      let (o, m) := o.accrete j
      (o, n.add m)

/-- A fetch by ROWG reaches the object's unit. -/
def State.rowFetch (s : State) (o : Obj) (j : Nat) (crx : Bool) : State :=
  let (o', n) := o.fetch s.firm.heatcfg j
  (s.setObj o').countTier o.defn.gdie n 1 (if crx then 1 else 0)

/-- ACCRETION COPY LANDED: the nearer copy serves later fetches (R318). -/
def execAccretionCopyLanded (obj : Nat) (row : Nat) (s : State) : Out :=
  match s.obj obj with
  | none => .next s
  | some o =>
    let r := o.row row
    if r.landed < r.level then .next (s.setObj (o.putRow { r with landed := r.level })) else .next s

/-! ### Budgets (R315, R320) -/

/-- Row-store bytes that the objects of a die hold. -/
def State.rowStoreHeld (s : State) (d : DieId) : Nat :=
  ((s.objs.filter (·.defn.gdie == d)).map fun o => o.usedAt 2 * o.rowBytes).foldr (· + ·) 0

/-- Firmware is moving the segment (R346). -/
def State.isMoving (s : State) (asid : BitVec 12) (i : Nat) : Bool := s.firm.moving.any (·.segs.contains (asid, i))

/-- A segment takes its space while it is resident, as an evicted layer until its drain has ended (R312), and while firmware moves
it (R346). -/
def State.occupies (s : State) (asid : BitVec 12) (i : Nat) (e : SegEntry) : Bool :=
  e.res || s.isMoving asid i || s.models.any fun m => m.asid == asid && m.leaving.contains i

/-- Bytes of die d's shared memory that segments and their replicas take (R311; a replica stands on the next die, log 42). -/
def State.sharedUsed (s : State) (d : DieId) : Nat :=
  (s.spaces.flatMap fun t => t.entries.map fun e =>
    let home := fieldNat e.2.w2 56 2
    if e.2.vleng ≠ 0 ∧ e.2.tier = 2 ∧ s.occupies t.asid e.1 e.2 then
      (if home = d.val then e.2.bytes else 0) + (if e.2.repl ∧ (home + 1) % 4 = d.val then e.2.bytes else 0)
    else 0).foldr (· + ·) 0

/-- Bytes of the die's deque spill regions and park areas, which lie in its shared memory (R287, R299; the amount is free, log 6). -/
def dsmTaken (d : DieId) : Nat := min (Config.dsmReserved d.val) dsmBytes

/-- A row store of n MiB fits each die's shared memory beside its segments, deque spill regions and park areas (R315). -/
def State.rowStoreFits (s : State) (mib : Nat) : Bool :=
  ([0, 1, 2, 3] : List DieId).all fun d => decide (mib * 2 ^ 20 + s.sharedUsed d + dsmTaken d ≤ dsmBytes)

/-- Calves the first victim of a list of objects. -/
def State.calveFirst (s : State) (d : DieId) : List Obj → Option State
  | [] => none
  | o :: rest => match victimOf (o.rows.filter (·.level == 2)) with
    | some v => let (o', n) := o.calve v; some ((s.setObj o').countTier d n)
    | none => State.calveFirst s d rest

/-- The objects of a die, the highest OBJ first. -/
def State.objsDown (s : State) (d : DieId) : List Obj :=
  sortBy (fun a b => decide (b.defn.obj ≤ a.defn.obj)) (s.objs.filter (·.defn.gdie == d))

/-- Row-store copies of a die are calved until they fit its budget; at most n calvings (R320). -/
def State.calveDie (s : State) (d : DieId) : Nat → State
  | 0 => s
  | n + 1 =>
    if s.rowStoreHeld d ≤ heatRsMib s.firm.heatcfg * 2 ^ 20 then s
    else match s.calveFirst d (s.objsDown d) with
      | some s => State.calveDie s d n
      | none => s

/-- An object's row-store copies are calved until they fit its budget. -/
def State.calveObj (s : State) (obj : Nat) : Nat → State
  | 0 => s
  | n + 1 => match s.obj obj with
    | none => s
    | some o =>
      if o.usedAt 2 ≤ o.defn.rsslots then s
      else match s.calveFirst o.defn.gdie [o] with
        | some s => State.calveObj s obj n
        | none => s

/-- HEATCFG changes on every die. -/
def State.setHeat (s : State) (w : Word) : State :=
  let s := { s with firm := { s.firm with heatcfg := w } }
  let n := (s.objs.map (·.rows.length)).foldr (· + ·) 0
  ([0, 1, 2, 3] : List DieId).foldl (fun s d => s.calveDie d n) s

/-- MTS to HEATCFG (R315). -/
def execMtsHeatcfg (o : C3) (s : State) : Out :=
  ctlWord o.g [o.sa] s fun x =>
    let v := x.rd o.sa
    if !x.id.priv then .next (s.trapP x .perm)
    else if !heatOk v || !s.rowStoreFits (heatRsMib v) then .next (s.trapP x .illegal)
    else .next ((s.setHeat v).ctlDone x)
end Sys2Proof.Machine
end

