-- ==== Sys2Proof/Machine/Access.lean ====
section
/-! DEFINITION. The access unit's macros: row transfers, copies, gathers of governed rows, the residency probe, and the fabric
macros (R165 to R176, R241, R305, R330). -/

namespace Sys2Proof.Machine

/-! ### Translation by macros (R167, R305, R308) -/

/-- What a macro does where a translation does not give a place: a fault, which leaves it as `rf`, a stall up to the stall
limit, or a DUPW. The segment has been used (R311). -/
def macroStop (s : State) (x : Ctx) (r rf : Run) (va : Nat) (e : Xlat) : Out :=
  let s := s.noteXlat s.myCore x.id.asid va
  match e with
  | .segv => s.runFault x rf .segv 0 0 va
  | .perm => s.runFault x rf .perm 0 0 va
  | .poison ev => s.runFault x rf .poison 0 ev va
  | .resid => s.runFault x rf .resid 0 0 va
  | .absent i =>
    let from_ := match r.stall with | some (j, a, t) => if j = i ∧ a = va then t else s.firm.us | none => s.firm.us
    let lim := (s.entry x.id.asid i).stallus
    if lim ≠ 0 ∧ lim ≤ s.firm.us - from_ then s.runFault x rf .resid 0 0 va
    else s.putRun x { r with stall := some (i, va, from_) }
  | .dup i => s.putRun x { r with dupw := some (i, va) }
  | .hole => .fault .physicalHole
  | .ok _ _ => .next s

/-- Translates addresses in order: their places, or the first address that has none. -/
def State.xlatAll (s : State) (x : Ctx) (acc : AccKind) : List Nat → Except (Nat × Xlat) (List Loc × State)
  | [] => .ok ([], s)
  | va :: rest => match s.xlat x va acc with
    | .ok l i => (State.xlatAll (s.noteUse x.id.asid i l) x acc rest).map fun (ls, s) => (l :: ls, s)
    | e => .error (va, e)

/-- What the translations before the first that gives no place leave: their segments have been used (R311). -/
def State.xlatBefore (s : State) (x : Ctx) (acc : AccKind) : List Nat → State
  | [] => s
  | va :: rest => match s.xlat x va acc with
    | .ok l i => State.xlatBefore (s.noteUse x.id.asid i l) x acc rest
    | _ => s

/-- The macro goes on with the places of its addresses, or stops. -/
def withPlaces (s : State) (x : Ctx) (r rf : Run) (acc : AccKind) (vas : List Nat) (k : List Loc → State → Out) : Out :=
  match s.xlatAll x acc vas with
  | .ok (ls, s) => k ls s
  | .error (va, e) => macroStop (s.xlatBefore x acc vas) x r rf va e

/-! ### Operands of row transfers (R165, R169) -/

/-- One side of a transfer that a handle names: the register, its captured geometry, and whether the macro produces. -/
structure Side where
  h    : HReg
  geo  : Handle
  prod : Bool

/-- The destination and the source side of a macro, where they are handles. -/
def Run.dstSide (r : Run) (o : EM) : Option Side := if o.hau then some ⟨o.ha, r.q.cap.ha, true⟩ else none
def Run.srcSide (r : Run) (o : EM) : Option Side := if o.hbu then some ⟨o.hb, r.q.cap.hb, false⟩ else none

/-- Slots that a side may take now: free ones for a producer, filled ones for a consumer. -/
def Side.ready (d : Side) (x : Ctx) : Nat := let h := x.handle d.h; if d.prod then h.slots - h.filled else h.filled

/-- The slot that a side takes next. -/
def Side.next (d : Side) (x : Ctx) : Nat := let h := x.handle d.h; if d.prod then h.tail else h.head

/-- The side advances by n slots. -/
def Side.advance (d : Side) (x : Ctx) (n : Nat) : Ctx :=
  let h := x.handle d.h
  if n = 0 then x else x.setHandle d.h (if d.prod then h.produce n else h.consume n)

/-- Row `off` of a ring, counted from the first row of a slot. -/
def Side.row (d : Side) (slot off : Nat) : Nat := d.geo.slotRow slot (off / d.geo.rps) + off % d.geo.rps

/-- A row count that the side's slots divide. -/
def sideFits (d : Option Side) (rows : Nat) : Bool := match d with | none => true | some d => rows % d.geo.rps == 0

/-- The slot that the macro has taken, at a place of `aux`, which holds 0 for none and else one more than the slot. -/
def Run.slotAt (r : Run) (i : Nat) : Option Nat := match r.aux.getD i 0 with | 0 => none | n + 1 => some n

/-- A place of `aux` written. -/
def Run.setAux (r : Run) (i v : Nat) : Run := { r with aux := (r.aux ++ List.replicate (i + 1 - r.aux.length) 0).set i v }

/-- The first row that the macro moves on a side gives the side's format (R164). -/
def Run.governed (r : Run) (d : Side) (row : Nat) : Run :=
  if d.prod then { r with dstRow := r.dstRow.orElse fun _ => some row } else { r with srcRow := r.srcRow.orElse fun _ => some row }

/-- The wait for n slots: when it ends the side takes the slot at the live TAIL or HEAD, in a step of its own, and until then the
macro stands (R165, R238). -/
def takeSlot (s : State) (x : Ctx) (r : Run) (d : Side) (i n : Nat) : Out :=
  if d.ready x < n then s.putRun x { r with wait := some (d.h, d.prod, n) }
  else s.putRun x (({ r with wait := none }.setAux i (d.next x + 1)).governed d (d.row (d.next x) 0))

/-- The macro goes on with the slot of a side, once n slots from it on are there; a scalar operand has none. -/
def withSlot (s : State) (x : Ctx) (r : Run) (d : Option Side) (i n : Nat) (k : Nat → Out) : Out :=
  match d with
  | none => k 0
  | some d => match r.slotAt i with
    | none => takeSlot s x r d i n
    | some v => if 1 < n && decide (d.ready x < n) then s.putRun x { r with wait := some (d.h, d.prod, n) } else k v

/-- The format of a side: that of a scalar operand's first row, or of the first row that the macro moves on a handle side, which
is known before the first slot is taken where the whole ring has one format (R164). -/
def withFmt (s : State) (x : Ctx) (r rf : Run) (d : Option Side) (base i : Nat) (k : Fmt → Out) : Out :=
  match d with
  | none => orFault s x rf (govFmt x r.q base) k
  | some d => match (if d.prod then r.dstRow else r.srcRow), operandFmt x r.q d.geo.firstRow (d.geo.slots * d.geo.rps) with
    | some row, _ => orFault s x rf (govFmt x r.q row) k
    | none, .ok f => k f
    | none, .error _ => takeSlot s x r d i 1

/-- Row `pos` of a side, `slot` being the slot in use. -/
def sideRow (d : Option Side) (base slot pos : Nat) : Nat :=
  match d with | none => base + pos | some d => d.row slot (pos % d.geo.rps)

/-- Rows that lie in one slot with row `pos`, from it on; a scalar operand has no such bound. -/
def slotRest (d : Option Side) (pos : Nat) : Option Nat := d.map fun d => d.geo.rps - pos % d.geo.rps

/-- A bound that a slot sets. -/
def upTo (n : Nat) (rest : Option Nat) : Nat := match rest with | none => n | some m => min n m

/-- Position n lies at the end of a slot. -/
def slotEnds (d : Option Side) (n : Nat) : Bool := match d with | none => false | some d => n % d.geo.rps == 0

/-- The side advances where a slot has ended. -/
def sideEnd (d : Option Side) (x : Ctx) (ends : Bool) : Ctx :=
  match d with | none => x | some d => if ends then d.advance x 1 else x

/-- The positions of a nest (R154). -/
def nestLen (d : Vector Word 13) : Nat :=
  ((List.range 6).map fun j => fieldNat ((d.toList[2 * j + 1]?).getD 0) 0 32).foldr (· * ·) 1

/-- BASE + Σ IDX·STRIDE (R169). -/
def nestOffset (d : Vector Word 13) (i : Nat) : Word :=
  ((List.range 6).zip (nestPos d i)).foldl (fun acc (j, p) => acc + BitVec.ofNat 64 p * (d.toList[2 * j + 2]?).getD 0)
    ((d.toList[0]?).getD 0)

/-- The rows of a transfer. -/
def transferRows (o : EM) (r : Run) : Nat := if o.du then nestLen r.q.cap.desc else o.nrows

/-- The virtual addresses of the sectors of row i (R164, R169). -/
def rowSectors (o : EM) (r : Run) (base : Word) (i : Nat) (mask : BitVec 8) : List Nat :=
  let g := if o.du then base + nestOffset r.q.cap.desc i else base + BitVec.ofNat 64 (256 * i)
  (sectorsOf mask).map (sectorVa g 0)

/-- What the macro held within a slot is forgotten where it stops: it restarts at the slot (R168). -/
def Run.reslot (r : Run) : Run := { r with aux := [] }

/-- The next row of a transfer: its number, and its context row on the scratchpad side, once a slot has been taken. `k` receives
them with what follows when the row has landed. DONE counts rows, or slots of a handle; `aux` holds the slot and the rows landed
in it. -/
def nextRow (s : State) (x : Ctx) (r : Run) (total : Nat) (side : Option Side) (base : Word)
    (k : Nat → Nat → (Ctx → Ctx × Run) → Out) : Out :=
  if !sideFits side total then s.runFault x r .illegal 5
  else match side with
    | none =>
      if total ≤ r.done then s.putRun x (r.did true 0)
      else k r.done (rowOf base + r.done) fun x => (x, r.did (r.done + 1 == total))
    | some d =>
      let j := r.aux.getD 1 0
      let i := r.done * d.geo.rps + j
      if total ≤ i then s.putRun x (r.did true 0)
      else withSlot s x r side 0 1 fun slot =>
        k i (d.row slot j) fun x =>
          if j + 1 < d.geo.rps then (x, { r.setAux 1 (j + 1) with stall := none, dupw := none })
          else (d.advance x 1, { r.did (i + 1 == total) with aux := [] })

/-- The macro's new state with its context. -/
def putBoth (s : State) (p : Ctx × Run) : Out := s.putRun p.1 p.2

/-- The barrier that a macro credits (R166). -/
def barOf (on : Bool) (a : Nat) : Option Nat := if on then some a else none

/-- Sectors of a row from bytes at their places. -/
def gatherRow (s : State) (mask : BitVec 8) (ls : List Loc) : Row :=
  BitVec.ofNat 2048 ((((sectorsOf mask).zip ls).map fun (k, l) =>
    natOfBytes (s.readLoc s.myDie s.myCore l 32) <<< (256 * k)).foldr (· + ·) 0)

/-- The bytes of a row that a sector mask enables. -/
def maskBytes (mask : BitVec 8) : BitVec 256 := if mask = 0 then BitVec.allOnes 256 else spread 32 256 mask

/-- Bytes that land in a row under a sector mask. -/
def maskCount (mask : BitVec 8) : Nat := 32 * (sectorsOf mask).length

/-- A row lands in the scratchpad under a sector mask, with its byte credit. -/
def landRow (k : Core) (x : Ctx) (row : Nat) (mask : BitVec 8) (v : Row) (bar : Option Nat) : Mac Core := do
  let p ← x.rowAt row
  let k ← k.creditAt x bar (maskCount mask)
  pure (k.putRowBytes p (maskBytes mask) v)

/-! ### LDT and fills (R118, R169, R241) -/

/-- One row of an LDT. -/
def ldtRow (s : State) (x : Ctx) (r : Run) (o : EM) (base src : Word) (total : Nat) : Out :=
  let r0 := r.reslot
  nextRow s x r total (r.dstSide o) base fun i row after =>
    orFault s x r0 (x.rowAt row) fun _ =>
      withPlaces s x r r0 .read (rowSectors o r src i o.smask) fun ls s =>
        orFault s x r0 (landRow s.myCore x row o.smask (gatherRow s o.smask ls) (barOf o.bar r.q.cap.sc.toNat)) fun k =>
          putBoth (s.putCore k) (after x)

def execLdt (o : EM) (s : State) : Out :=
  macroWord s fun x r =>
    match r.q.fill with
    | none => ldtRow s x r o r.q.cap.sa r.q.cap.sb (transferRows o r)
    | some (_, blk, row, rows) =>
      if r.done + 1 = rows then .next s else ldtRow s x r o (BitVec.ofNat 64 (row * 256)) (BitVec.ofNat 64 blk) rows

/-- PROBE FILL LANDING: the last row of a fill lands, and PENDING is cleared if the entry still holds the block (R241). -/
def execProbeFillLanding (c : CoreId) (b : BankId) (s : State) : Out :=
  match s.ctxAt c b with
  | none => .next s
  | some x => match (x.engHead .load), (x.engHead .load).bind (·.q.fill) with
    | some r, some (tag, blk, row, rows) =>
      if r.done + 1 ≠ rows ∨ (s.core c).owners[1] ≠ some b then .next s
      else
        let s := { s with cur := { core := c, bank := b, unit := .eng .load, word := some r.q } }
        let o : EM := ⟨none, 0, 0, 0, 0, 0, 0, false, false, false, 0, 0⟩
        nextRow s x r rows none (BitVec.ofNat 64 (row * 256)) fun i row after =>
          if (s.core c).spadBad.contains (tag / 256) then s.runFault x r .poison 0x10 0 ((tag / 256 - x.id.sbank * 256) * 256)
          else withPlaces s x r r .read (rowSectors o r (BitVec.ofNat 64 blk) i 0) fun ls s =>
            orFault s x r (landRow s.myCore x row 0 (gatherRow s 0 ls) none) fun k =>
              let t := natOfBytes (k.spadBytes tag 8)
              let k := if tagBlock t = blk / 2 ^ 10 % 2 ^ 42 then k.putSpadBytes tag (bytesOf 8 (putBits t 1 1 0)) else k
              putBoth (s.putCore k) (after x)
    | _, _ => .next s

/-! ### STT (R169) -/

/-- Sectors written at their places by the executing context: each unit of the home order in one write. -/
def State.writeSectors (s : State) (cs : List Host.Cell) (own : Option (CoreId × BitVec 32)) : Option State :=
  ((cs.map fun c => orderKey c.1).eraseDups).foldlM (fun (s : State) key =>
    s.writeCells s.myDie key (cs.filter fun c => orderKey c.1 == key) own) s

/-- The cells of a row's sectors at their places. -/
def rowCells (mask : BitVec 8) (ls : List Loc) (v : Row) : List Host.Cell :=
  ((sectorsOf mask).zip ls).flatMap fun (k, l) => match l with
    | .mem pa => cellsAt pa (sectorBytes v k)
    | _ => []

def execStt (o : EM) (s : State) : Out :=
  macroWord s fun x r =>
    let r0 := r.reslot
    nextRow s x r (transferRows o r) (r.srcSide o) r.q.cap.sb fun i row after =>
      orFault s x r0 (readRow s.myCore x row) fun v =>
        withPlaces s x r r0 .write (rowSectors o r r.q.cap.sa i o.smask) fun ls s =>
          match s.writeSectors (rowCells o.smask ls v) (some (s.cur.core, x.id.serial)) with
          | none => .next s
          | some s => putBoth s (after x)

/-! ### CPY (R61, R170) -/

/-- The width of an element in CPY. -/
def Fmt.cpyBits (f : Fmt) : Nat := match f.type with | some t => t.width | none => 8

/-- No conversion (R61, log 39). -/
def sameBytes (f g : Fmt) : Bool := f.code == g.code || f.plain || g.plain

/-- The rounding generator of the executing side of the access unit, as the macro uses it (R64). -/
def Ctx.sideGen (x : Ctx) (q : QWord) : BitVec 32 :=
  let g := x.gensAt q.cap.gen
  if q.kind = .l then g.load else g.store
def Ctx.setSideGen (x : Ctx) (q : QWord) (v : BitVec 32) : Ctx :=
  let g := x.gensAt q.cap.gen
  x.setGensAt q.cap.gen (if q.kind = .l then { g with load := v } else { g with store := v })

/-- The sidecars of a row that is copied unchanged between block formats of one type (R53, R170). -/
def copySides (k : Core) (x : Ctx) (q : QWord) (f g : Fmt) (a b : Nat) : Mac Core :=
  match (if f.code = g.code then f.type else none) with
  | some t =>
    if t.isDB then
      let n := 2048 / t.width / 32
      (readBytes k x ((q.fmt a).aux * 256 + 2 * (a % 256 * n)) (2 * n)).bind fun v =>
        writeBytes k x ((q.fmt b).aux * 256 + 2 * (b % 256 * n)) (2 * n) v
    else .ok k
  | none => .ok k

/-- Where the output of source row i begins, in bytes, and, for i = n, where it ends: E·b_d/8 bytes in all (R170). Bytes that move
unchanged keep their places, and what a longer destination receives past the source follows the last row (DEDUCED, log 39). -/
def cpyOut (same : Bool) (bs bd n i : Nat) : Nat :=
  let total := n * 256 * bd / bs
  if n ≤ i then total else if same then min (256 * i) total else i * 256 * bd / bs

/-- A piece of a CPY: m source rows from row rd on, of which it writes the output bytes lo to hi − 1. -/
structure CpyPiece where
  rd : Nat
  m  : Nat
  lo : Nat
  hi : Nat

/-- The piece that stands next: the source rows of one destination row, or one source row, within one slot of each side (R165). -/
def cpyPiece (out : Nat → Nat) (unit n : Nat) (sd dd : Option Side) (rd wo : Nat) : CpyPiece :=
  let m := upTo (min (unit - rd % unit) (n - rd)) (slotRest sd rd)
  let lo := out rd + wo
  let full := out (rd + m)
  { rd := rd, m := m, lo := lo,
    hi := match dd with
      | none => full
      | some d => min full ((lo / (256 * d.geo.rps) + 1) * (256 * d.geo.rps)) }

/-- The rows that a run of bytes touches, by number, and how many bytes of each. -/
def rowsTouched (lo hi : Nat) : List (Nat × Nat) :=
  (List.range ((hi + 255) / 256 - lo / 256)).map fun i =>
    (lo / 256 + i, min hi (256 * (lo / 256 + i + 1)) - max lo (256 * (lo / 256 + i)))

/-- What a copy needs of a source row whose output goes to several slots: the row, and, where it converts, what the row is decoded with
(R262). -/
def cpySource (k : Core) (x : Ctx) (q : QWord) (same : Bool) (f : Fmt) (row : Nat) : Mac (List Nat) := do
  let v ← readRow k x row
  let side ← match (if same then none else f.type) with | some t => sideOf k x q t row 0 (2048 / t.width) | none => pure [0, 0, 0]
  pure (v.toNat :: side)

/-- The source rows, each with what it is decoded with: `held`, where a part of the row has been written, or as they are read now. -/
def cpySources (k : Core) (x : Ctx) (q : QWord) (same : Bool) (f : Fmt) (rows held : List Nat) : Mac (List (List Nat)) :=
  if held = [] then rows.mapM (cpySource k x q same f) else pure [held]

/-- Bytes that move unchanged, with what is past the source free (log 39), and the sidecars of block formats of one type. -/
def cpySame (k : Core) (x : Ctx) (q : QWord) (f g : Fmt) (free src row a wo n v : Nat) : Mac Core := do
  let k ← writeBytes k x a n ((v + Config.freeBits free * 2 ^ 2048) / 2 ^ (8 * wo) % 2 ^ (8 * n))
  if n = 256 then copySides k x q f g src row else pure k

/-- Elements that are decoded and encoded once (R61): those that the bytes wo to wo + n − 1 of the output hold. -/
def cpyConvert (k : Core) (x : Ctx) (q : QWord) (f g : Fmt) (rows : List Nat) (srcs : List (List Nat)) (a wo n : Nat) :
    Mac (Core × BitVec 32) :=
  match f.type, g.type with
  | some t, some u => do
    let vs := (rows.zip srcs).flatMap fun (row, c) => decodeWith q t row (BitVec.ofNat 2048 (c.headD 0)) (c.drop 1)
    let (codes, sides, gen) := encodeSpan u g (t.isAnyInt && !f.grouped) (x.sideGen q)
      ((vs.drop (8 * wo / u.width)).take (8 * n / u.width))
    let k ← writeSpan k x q u a codes sides
    pure (k, gen)
  | _, _ => pure (k, x.sideGen q)

/-- CPY (log 39). A step copies a piece. `aux` holds the source rows copied, the slots in use on both sides, the output bytes of the
present source row that stand, and that row where its output goes to several slots. A fault goes back to the first row, or slot of the
source, that is not recorded (R168), and what is done again draws again from the generator of its side (DESIGN CHOICE, log 75). -/
def execCpy (o : EM) (s : State) : Out :=
  macroWord s fun x r =>
    let q := r.q
    let n := o.nrows
    let sd := r.srcSide o
    let dd := r.dstSide o
    let rd := r.aux.headD 0
    let r0 : Run := { r with aux := [match sd with | some d => r.done * d.geo.rps | none => r.done] }
    if n ≤ rd then s.putRun x (r.did true 0)
    else withFmt s x r r0 sd (rowOf q.cap.sb) 1 fun f => withFmt s x r r0 dd (rowOf q.cap.sa) 2 fun g =>
      let same := sameBytes f g
      let out := cpyOut same f.cpyBits g.cpyBits n
      let p := cpyPiece out (if same then 1 else max 1 (f.cpyBits / g.cpyBits)) n sd dd rd (r.aux.getD 3 0)
      let whole := p.hi == out (rd + p.m)
      if !sideFits sd n || (dd.isSome && (out n % 256 != 0 || !sideFits dd (out n / 256))) then s.runFault x r0 .illegal 5
      else
        orFault s x r0 (if sd.isSome then pure f else operandFmt x q (rowOf q.cap.sb) n) fun _ =>
        orFault s x r0 (if dd.isSome then pure g else operandFmt x q (rowOf q.cap.sa) ((out n + 255) / 256)) fun _ =>
        withSlot s x r sd 1 1 fun ss => withSlot s x r (if p.lo < p.hi then dd else none) 2 1 fun ds =>
          let src := (List.range p.m).map fun i => sideRow sd (rowOf q.cap.sb) ss (rd + i)
          let dst := (rowsTouched p.lo p.hi).map fun t => (sideRow dd (rowOf q.cap.sa) ds t.1, t.2)
          let wo := p.lo - out rd
          let a := (dst.headD (0, 0)).1 * 256 + p.lo % 256
          let part := do
            agreeRows x q f src
            agreeRows x q g (dst.map (·.1))
            let srcs ← cpySources s.myCore x q same f src (r.aux.drop 4)
            let (k, gen) ←
              if p.hi ≤ p.lo then pure (s.myCore, x.sideGen q)
              else if same then (cpySame s.myCore x q f g s.tick (src.headD 0) ((dst.headD (0, 0)).1) a wo (p.hi - p.lo)
                ((srcs.headD []).headD 0)).map fun k => (k, x.sideGen q)
              else cpyConvert s.myCore x q f g src srcs a wo (p.hi - p.lo)
            let k ← dst.foldlM (fun (k : Core) t => k.creditAt x (barOf o.bar q.cap.sc.toNat) t.2) k
            pure (k, gen, if whole then [] else srcs.headD [])
          orFault s x r0 part fun (k, gen, held) =>
            let rd' := if whole then rd + p.m else rd
            let srcEnd := whole && slotEnds sd rd'
            let dstEnd := decide (p.lo < p.hi) && p.hi % 256 == 0 && slotEnds dd (p.hi / 256)
            let r' := r.did (rd' == n) (if sd.isSome then (if srcEnd then 1 else 0) else rd' - rd)
            (s.putCore k).putRun ((sideEnd dd (sideEnd sd x srcEnd) dstEnd).setSideGen q gen)
              { r' with aux := [rd', if srcEnd then 0 else ss + 1, if dstEnd || p.hi ≤ p.lo then 0 else ds + 1,
                                if whole then 0 else p.hi - out rd] ++ held }

/-! ### CPYA (R171, R240) -/

/-- A matrix macro that writes accumulators, and the port-frame slots it declares (R186). -/
def Run.accSlots (r : Run) : BitVec 4 :=
  let op := opOf r.q.w
  let a : BitVec 4 := fieldOf r.q.w 32 4
  if op = 0x280 ∨ op = 0x281 ∨ op = 0x282 ∨ op = 0x283 ∨ op = 0x285 ∨ (op = 0x286 ∧ fieldNat r.q.w 25 1 = 1) then
    (if a = 0 then 15 else a)
  else 0

/-- A matrix macro may have a write of accumulators ready now: it has been started or may start, stalls on nothing, and holds the slot of a
handle that its next step needs; MMG has read its count, and ADRAIN clears the row that it reads. -/
def Ctx.writesAcc (x : Ctx) (r : Run) : Bool :=
  let op := opOf r.q.w
  (r.started || !x.parkStop) && !r.blocked x && r.stall.isNone && !(op == 0x282 && r.aux.isEmpty) &&
    (if op = 0x286 then (fieldNat r.q.w 44 1 == 0 || x.brim.prog.contains 12 || (r.slotAt 1).isSome) && (r.aux.drop 2).isEmpty
     else fieldNat r.q.w 43 1 == 0 || (r.slotAt 1).isSome)

/-- A matrix macro of the core may have a write ready in a slot now. -/
def Core.matrixWrites (k : Core) (slot : Nat) : Bool :=
  match (k.owners[4]).bind fun b => k.banks[b] with
  | none => false
  | some x => match x.engHead .matrix with
    | some r => r.accSlots.getLsbD slot && x.writesAcc r
    | none => false

/-- The value that a term stands for. -/
def ETerm.val (t : ETerm) : FVal :=
  match t.cls with
  | 3 => .nan
  | 1 => .inf false
  | 2 => .inf true
  | _ => .fin t.neg t.mag t.ex

/-- CPYA: one accumulator row, which is written whole; a row that several slots of a handle hold is read slot by slot, and added with its last
part. Where the matrix engine may write in the same slot of the port frame, whether it does is free (log 4). `aux` holds how many
elements of the present row have been read, the slot in use, and those elements. The last slot ends with the last element that is added. -/
def execCpya (o : EM) (s : State) : Out :=
  macroWord s fun x r =>
    let q := r.q
    let sd := r.srcSide o
    let i := r.done
    if o.n10 ≤ i then s.putRun x (r.did true 0)
    else withFmt s x r r sd (rowOf q.cap.sb) 1 fun f =>
    match (if f.code = 1 ∨ f.code = 0x0A ∨ f.code = 0x0B then none else f.typeRaw32) with
    | none => s.runFault x r .illegal 3
    | some t =>
      let per := 2048 / t.width
      let total := (256 * o.n10 + per - 1) / per
      -- elements read, of which e of the present row
      let e := r.aux.headD 0
      let at_ := 256 * i + e
      let lo := at_ / per
      let rows := upTo ((256 * (i + 1) + per - 1) / per - lo) (slotRest sd lo)
      let end_ := min (256 * (i + 1)) ((lo + rows) * per)
      let cnt := end_ - at_
      if !sideFits sd total then s.runFault x r .illegal 5
      else orFault s x r (if sd.isSome then pure f else operandFmt x q (rowOf q.cap.sb) total) fun _ =>
        withSlot s x r sd 1 1 fun ss =>
          let src := (List.range rows).map fun j => sideRow sd (rowOf q.cap.sb) ss (lo + j)
          let ends := end_ == 256 * o.n10 || (end_ % per == 0 && slotEnds sd (end_ / per))
          let part := do
            agreeRows x q f src
            let vals ← src.zipIdx.mapM fun (row, j) =>
              let w := spanPart per (at_ - lo * per) cnt j
              decodePart s.myCore x q t row w.1 w.2
            pure ((vals.flatten.drop (at_ - lo * per)).take cnt)
          orFault s x r part fun vs =>
            let after := fun (s : State) (r' : Run) (held : List Nat) =>
              s.putRun (sideEnd sd x ends)
                { r' with aux := [held.length, if ends then 0 else ss + 1] ++ held }
            if e + cnt < 256 then after s { r with wait := none } (r.aux.drop 2 ++ vs.map fun v => (termOf v).bits)
            else
              let vs := (r.aux.drop 2).map (fun n => (ETerm.ofBits n).val) ++ vs
              let write := do
                let acc ← readAcc s.myCore x (o.acc + i)
                writeAcc s.myCore x (o.acc + i) (acc.zipWith accAdd vs)
              orFault s x r write fun k =>
                if s.myCore.matrixWrites o.slot && Config.choice s.tick 1 % 2 == 1 then s.runFault x r .slot
                else after (s.putCore k) (r.did (i + 1 == o.n10)) []

/-! ### ROWG (R172, R173, R313 to R319) -/

/-- Word i of the list at a scratchpad address (R172). -/
def listWord (k : Core) (x : Ctx) (a : Word) (i : Nat) : Mac Nat := readBytes k x (rowOf a * 256 + 4 * i) 4

/-- The rows of an entry that one step writes, and, before the first of them, the entry's fetch (R318, R324): row j of the object, its
scratchpad rows w to w + m − 1. The stack die that holds the row is in use (R323). -/
def rowgPart (s : State) (x : Ctx) (o : EM) (ob : Obj) (j w : Nat) (dst : List Nat) : Mac State :=
  let from_ := ob.base + j * ob.rowBytes
  let part := dst.zipIdx.foldlM (fun k (row, i) =>
    landRow k x row 0 (BitVec.ofNat 2048 (natOfBytes (s.readView s.myDie (from_ + 256 * (w + i)) 256))) (barOf o.bar o.barAddr))
    s.myCore
  part.map fun k =>
    let s := s.putCore k
    let s := { s with firm := s.firm.touch (.mem from_) }
    if w = 0 then s.rowFetch ob j o.crx else s

/-- ROWG. `aux` holds the list's count, read at the start, the slot in use, and, where a row goes to several slots, how many of its rows
have landed and its number (log 52). -/
def execRowg (o : EM) (s : State) : Out :=
  macroWord s fun x r =>
    let q := r.q
    let va := q.cap.sb.toNat
    match s.xlat x va .read with
    | .ok _ seg =>
      let s := s.noteSeg x.id.asid seg
      match (let e := s.segEntry s.myCore x.id.asid seg va; if e.tier = 3 then s.obj e.obj else none) with
      | none => s.runFault x r .perm 2 0 va
      | some ob =>
        match r.aux with
        | [] =>
          let ob' := if o.crx then ob else ob.token s.firm.heatcfg
          orFault s x r (listWord s.myCore x q.cap.sc 0) fun c =>
            (s.setObj ob').putRun x { r with aux := [c], fin := c == 0 }
        | c :: _ =>
          let dd := r.dstSide o
          let n := ob.defn.rowb
          let w := r.aux.getD 2 0
          let at_ := r.done * n + w
          if !sideFits dd (c * n) then s.runFault x r .illegal 5
          else if c ≤ r.done then s.putRun x (r.did true 0)
          else withSlot s x r dd 1 1 fun ds =>
            orFault s x r (if w = 0 then listWord s.myCore x q.cap.sc (1 + r.done) else pure (r.aux.getD 3 0)) fun j =>
              if ob.defn.rows ≤ j then s.runFault x r .segv 4 0 va
              else
                let m := upTo (n - w) (slotRest dd at_)
                orFault s x r (rowgPart s x o ob j w ((List.range m).map fun i => sideRow dd (rowOf q.cap.sa) ds (at_ + i)))
                  fun s =>
                    let ends := slotEnds dd (at_ + m)
                    let r' := if w + m = n then r.did (r.done + 1 == c) else { r with wait := none }
                    s.putRun (sideEnd dd x ends)
                      { r' with aux := [c, if ends then 0 else ds + 1] ++ if w + m = n then [] else [w + m, j] }
    | e => macroStop s x r r va e

/-! ### PFT (R174) -/

/-- The status of one byte. -/
def pftByte (s : State) (x : Ctx) (va : Nat) : Nat :=
  match s.findSeg s.myCore x.id.asid va with
  | none => 3
  | some (_, e) => if !e.rp then 3 else if e.pois then 2 else if !e.res then 1 else 0

/-- PFT: the first byte of the range and of every segment unit of 64 KiB within it (log 52). -/
def execPft (o : EM) (s : State) : Out :=
  macroWord s fun x r =>
    let va := r.q.cap.sa.toNat
    let len := o.imm.toNat
    let first := va / 2 ^ 16
    let units := if len = 0 then 0 else (va + len - 1) / 2 ^ 16 - first + 1
    let st := ((List.range units).map fun i => pftByte s x (max va ((first + i) * 2 ^ 16))).foldl max 0
    orFault s x r (writeBytes s.myCore x (r.q.cap.sb.toNat / 8 * 8) 8 st) fun k =>
      (s.putCore k).putRun x (r.did true)

/-! ### Fabric macros (R169, R176, R326 to R330, R339) -/

/-- The transaction that a macro waits for. -/
def State.txnOf (s : State) (r : Run) : Option Txn :=
  s.txns.find? fun t => t.core == s.cur.core && t.bank == s.cur.bank && t.num == r.q.num

def State.endTxn (s : State) (r : Run) : State :=
  { s with txns := s.txns.filter fun t => !(t.core == s.cur.core && t.bank == s.cur.bank && t.num == r.q.num) }

/-- Every die has reached the clock of the executing one: what the thread has read and written is in every view (R248). -/
def State.spread (s : State) : Bool := ([0, 1, 2, 3] : List DieId).all fun e => s.clockReached e s.vc[s.myDie].toList

/-- One transaction of a macro: sent to its node and answered, or performed here when the node is this one (R326, R329). It follows the local
accesses before it in the order of R250, in every die's view (R254). A refusal with DETAIL 0x06 is tried again (log 38). -/
def fabricUnit (s : State) (x : Ctx) (r : Run) (typ : Nat) (f : Flit) (here : State → Flit → Recv) (done : State → List Row → Out) :
    Out :=
  let f := { f with src := s.firm.node, asid := x.id.asid }
  let tag : Word := BitVec.ofNat 64 s.firm.nextTag
  let txn : Txn := { flit := { f with tag := tag }, typ := typ, core := s.cur.core, bank := s.cur.bank, eng := .store,
                     num := r.q.num, row := r.done, sent := s.firm.us }
  let s' := { s with firm := { s.firm with nextTag := s.firm.nextTag + 1 } }
  if (s.txnOf r).isNone && !s.spread then .next s
  else if f.dst = s.firm.node then
    match here s f with
    | .ok none => .next s
    | .ok (some (s, rows)) => done (s.endTxn r) rows
    | .error 6 =>
      if (s.txnOf r).isSome then .next s else .next { s' with txns := s.txns ++ [{ txn with since := some s.firm.us }] }
    | .error c => ((s.refused typ f c).endTxn r).runFault x r.restart .remote c
  else match s.txnOf r with
    | some t => (match t.reply with
      | some rows => done (s.endTxn r) rows
      | none => .next s)
    | none => .next { s' with txns := s.txns ++ [txn], outbox := s.outbox ++ [{ typ := typ, flit := txn.flit }] }

/-- A NODEID names a node, else REMOTE, DETAIL 0x01 (R326, log 50). -/
def withNode (s : State) (x : Ctx) (r : Run) (node : Nat) (k : BitVec 19 → Out) : Out :=
  if nodeOk node then k (BitVec.ofNat 19 node) else s.runFault x r .remote 1

/-- The remote address of row i. -/
def remoteRow (o : EM) (r : Run) (i : Nat) : Word :=
  if o.du then r.q.cap.sc + nestOffset r.q.cap.desc i else r.q.cap.sc + BitVec.ofNat 64 (256 * i)

def execGet (o : EM) (s : State) : Out :=
  macroWord s fun x r =>
    withNode s x r r.q.cap.sb.toNat fun node =>
      nextRow s x r (transferRows o r) (r.dstSide o) r.q.cap.sa fun i row after =>
        orFault s x r.reslot (x.rowAt row) fun _ =>
          fabricUnit s x r 2 { src := 0, dst := node, asid := 0, addr := remoteRow o r i, tag := 0, mask := o.smask, nrows := 1 }
            State.recvGet fun s rows =>
              orFault s x r.reslot (landRow s.myCore x row o.smask (rows.getD 0 0) none) fun k => putBoth (s.putCore k) (after x)

/-- The rows of PUT, and of a collective contribution. -/
def putRows (o : EM) (s : State) (typ : Nat) (mask : BitVec 8) (atype : BitVec 2) (here : State → Flit → Recv) : Out :=
  macroWord s fun x r =>
    withNode s x r r.q.cap.sa.toNat fun node =>
      nextRow s x r (transferRows o r) (r.srcSide o) r.q.cap.sb fun i row after =>
        orFault s x r.reslot (readRow s.myCore x row) fun v =>
          fabricUnit s x r typ { src := 0, dst := node, asid := 0, addr := remoteRow o r i, tag := 0, mask := mask,
                                 nrows := 1, atype := atype, rows := [v] } here fun s _ => putBoth s (after x)

def execPut (o : EM) (s : State) : Out := putRows o s 1 o.smask 0 State.recvPut

def execCollectiveContribution (o : EM) (s : State) : Out := putRows o s 5 o.smask o.atype State.recvCollective

/-- PUTH: one transaction of all its rows (R176). -/
def execPuth (o : EM) (s : State) : Out :=
  macroWord s fun x r =>
    if r.done ≠ 0 then s.putRun x (r.did true 0)
    else withNode s x r (fieldNat r.q.cap.sa 45 19) fun node =>
      orFault s x r (readRows s.myCore x (rowOf r.q.cap.sb) o.modeRows) fun rows =>
        fabricUnit s x r 3 { src := 0, dst := node, asid := 0, addr := r.q.cap.sa, tag := 0, nrows := o.modeRows,
                             prio := o.prio, handler := r.q.cap.sc, rows := rows } State.recvPuth fun s _ =>
          s.putRun x (r.did true o.modeRows)

/-! ### MCAST (R175, R219, R223) -/

/-- COREID of member m of the group at pa, as a die's view holds it. -/
def State.memberCore (s : State) (d : DieId) (pa m : Nat) : Nat := natOfBytes (s.readView d (pa + 256 + 2 * m) 2) % 128

/-- A context of the address space on the core, resident or parked, whose scratchpad allotment holds the physical rows and the
barrier (log 51). -/
def Core.accepts (k : Core) (asid : BitVec 12) (rows : List Nat) : Bool :=
  k.residents.any fun y => y.id.asid == asid && rows.all fun p => decide (y.id.sbank * 256 ≤ p) && decide (p < (y.id.sbank + y.id.snb) * 256)

/-- The rows and the barrier of an MCAST as physical rows and a physical address. -/
def mcastRows (x : Ctx) (r : Run) (o : EM) : Mac (List Nat × Option Nat) := do
  let rows ← (List.range o.modeRows).mapM fun i => x.rowAt (rowOf r.q.cap.sb + i)
  match (if o.castBar then some o.barAddr else none) with
  | none => pure (rows, none)
  | some a => match x.spadAddr a with
    | some p => pure (rows, some p)
    | none => mfault .allot 0 0 a

/-- The numbers of the bits set below n. -/
def bitsBelow (n m : Nat) : List Nat := (List.range n).filter m.testBit

/-- MCAST: the start reads the group, in the view of the issuer's die (R247), and finds which cores accept; then each row goes to every core that accepted, until its
context ends (log 51), and credits its barrier, whose row must not be poisoned (R345); then the members that failed are recorded. `aux` holds the members sent to, and their COREIDs as bits,
those that accept and those that do not. -/
def execMcast (o : EM) (s : State) : Out :=
  macroWord s fun x r =>
    let q := r.q
    let n := o.modeRows
    orFault s x r (mcastRows x r o) fun (rows, bar) =>
      let marks := rows ++ (match bar with | some p => [p / 256] | none => [])
      match r.aux with
      | [] =>
        let a := q.cap.sa.toNat / 1024 * 1024
        withPlaces s x r r .read [a] fun ls s =>
          match ls with
          | [.mem pa] =>
            if pa < dsmBase then s.runFault x r .perm 1 0 a
            else
              let ms := (bitsBelow 256 (s.groupIn s.myDie pa).members.toNat).filter fun m => s.memberCore s.myDie pa m != s.cur.core.val
              let cores := (ms.map (s.memberCore s.myDie pa)).eraseDups
              let (ok, bad) := cores.partition fun c => (s.core (Fin.ofNat 128 c)).accepts x.id.asid marks
              let set := fun l : List Nat => (l.map (2 ^ ·)).foldr (· + ·) 0
              s.putRun x { r with aux := [set ok, set bad] ++ ms.flatMap fun m => [m, s.memberCore s.myDie pa m] }
          | _ => s.runFault x r .perm 1 0 a
      | ok :: bad :: ms =>
        let set := fun l : List Nat => (l.map (2 ^ ·)).foldr (· + ·) 0
        if n ≤ r.done then
          if bad = 0 then s.putRun x (r.did true 0)
          else
            let failed := (List.range (ms.length / 2)).filter (fun i => bad.testBit (ms.getD (2 * i + 1) 0))
              |>.map fun i => ms.getD (2 * i) 0
            orFault s x r (writeBytes s.myCore x (q.cap.sc.toNat / 32 * 32) 32 (set failed)) fun k =>
              (s.putCore k).runFault x { r with aux := ok :: 0 :: ms } .remote 4 failed.length
        else orFault s x r (readRow s.myCore x (rowOf q.cap.sb + r.done)) fun v =>
          let row := rows.getD r.done 0
          let go := (bitsBelow 128 ok).filter fun c => (s.core (Fin.ofNat 128 c)).accepts x.id.asid marks
          if bar.any fun p => go.any fun c => (s.core (Fin.ofNat 128 c)).spadBad.contains (p / 256) then
            s.runFault x r .poison 0x10 0 (o.barAddr / 256 * 256)
          else
          let s := go.foldl (fun (s : State) c =>
            let c : CoreId := Fin.ofNat 128 c
            let k := (s.core c).putRow row v
            s.setCore c (match bar with | some p => k.credit p 256 | none => k)) s
          s.putRun x { r.did (r.done + 1 == n && bad == 0) with aux := set go :: bad :: ms }
      | _ => .next s
end Sys2Proof.Machine
end

