-- ==== Sys2Proof/Machine/Matrix.lean ====
section
/-! DEFINITION. The matrix engine: MMA, MMV, MMG, MATT, MPBLD and ACLR (R65, R179 to R186, R261, R262, R279 to R281). -/

namespace Sys2Proof.Machine

/-- The formats that matrix operands may have (R61, R179). -/
def Fmt.matrix (f : Fmt) : Option ElemType := if (3 ≤ f.code ∧ f.code ≤ 9) ∨ (0x0C ≤ f.code ∧ f.code ≤ 0x0F) then f.type else none

/-- A matrix operand: its side, first row, type, and the scratchpad rows of one operand row of K elements (R179). -/
structure MatOp where
  side : Option Side
  base : Nat
  t    : ElemType
  rows : Nat

/-- An operand of n rows of k elements under a format, which must be accepted (R164, R179); a handle side holds whole operand rows to a
slot (R180), else ILLEGAL with DETAIL 0x05 (DESIGN CHOICE, log 75), and its banks must agree where its rows are read. -/
def matOp (x : Ctx) (q : QWord) (side : Option Side) (f : Fmt) (base k n : Nat) : Mac MatOp :=
  match f.matrix with
  | none => mfault .illegal 3
  | some t => do
    let rows := (k * t.width + 2047) / 2048
    let _ ← if side.isSome then pure f else operandFmt x q base (n * rows)
    need (sideFits side (n * rows) && (match side with | some d => d.geo.rps % rows == 0 | none => true)) .illegal 5
    pure ⟨side, base, t, rows⟩

/-- A scalar operand of n rows of k elements. -/
def matScalar (x : Ctx) (q : QWord) (base k n : Nat) : Mac MatOp := (govFmt x q base).bind fun f => matOp x q none f base k n

/-- The scratchpad row at which an operand row begins that starts `off` rows into the slot in use; for a scalar operand, into the
operand. -/
def MatOp.at_ (m : MatOp) (slot off : Nat) : Nat := match m.side with | none => m.base + off | some d => d.row slot off

/-- The n rows from there on have the format that governs a handle side (R164). -/
def MatOp.agree (m : MatOp) (x : Ctx) (q : QWord) (f : Fmt) (slot off n : Nat) : Mac Unit :=
  if m.side.isSome then agreeRows x q f ((List.range n).map fun i => m.at_ slot (off + i)) else pure ()

/-- Slots that rows off to off + n − 1, counted from the slot in use, take up, and those of them that end there. -/
def slotsOf (d : Option Side) (off n : Nat) : Nat := match d with | none => 0 | some d => (off + n + d.geo.rps - 1) / d.geo.rps
def slotsDone (d : Option Side) (off n : Nat) : Nat := match d with | none => 0 | some d => (off + n) / d.geo.rps

/-- The side advances by n slots. -/
def sideAdvance (d : Option Side) (x : Ctx) (n : Nat) : Ctx := match d with | none => x | some d => d.advance x n

/-- What `aux` then holds of the slot in use: none where it has ended. -/
def slotAfter (d : Option Side) (slot off n : Nat) : Nat :=
  match d with
  | none => 0
  | some d => if (off + n) % d.geo.rps = 0 then 0 else (slot + (off + n) / d.geo.rps) % d.geo.slots + 1

/-- Exact sums of products by column: the factor and the row of weights of each K position (R65). -/
def colSums : List (FVal × List FVal) → List FVal
  | [] => []
  | p :: rest => rest.foldl (fun acc q => acc.zipWith (FVal.add .rne) (q.2.map q.1.mul)) (p.2.map p.1.mul)

/-- The exact sum of products of two rows. -/
def dotProduct (a b : List FVal) : FVal := FVal.sum (a.zipWith FVal.mul b)

/-- Tile step t of K positions: the first and how many (R65). -/
def tileLen (k t : Nat) : Nat := min 128 (k - 128 * t)

/-- A tile step of activation row m has landed: the next step, or the next row (R168). -/
def Run.stepped (r : Run) (last lastRow : Bool) : Run :=
  if last then r.did lastRow else { r with tstep := r.tstep + 1 }

/-! ### Weights by rows: MMA, MMV and MMG with DIR = 1 (R180) -/

/-- n weight rows of a tile step, the first at row `off`. -/
def weightTile (k : Core) (x : Ctx) (q : QWord) (w : MatOp) (slot off n : Nat) : Mac (List (List FVal)) :=
  (List.range n).mapM fun i => decodeSpan k x q w.t (w.at_ slot (off + i * w.rows)) 0 256

/-- A tile step of one activation row. -/
def addTile (k : Core) (x : Ctx) (q : QWord) (a : MatOp) (m first n acc : Nat) (sides : List Nat) (w : List (List FVal)) :
    Mac Core := do
  let av ← decodeSpanWith k x q a.t (a.at_ 0 (m * a.rows)) first n sides
  let old ← readAcc k x acc
  writeAcc k x acc (old.zipWith accAdd (colSums (av.zip w)))

/-- MMA: a tile step of an activation row. `aux` holds what that row is decoded with. -/
def execMma (o : EM) (s : State) : Out :=
  macroWord s fun x r =>
    let q := r.q
    let t := r.tstep
    let n := tileLen o.k t
    if o.mRows ≤ r.done then s.putRun x (r.did true 0)
    else
      let part := do
        let a ← matScalar x q (rowOf q.cap.sa) o.k o.mRows
        let w ← matScalar x q (rowOf q.cap.sb) 256 o.k
        let sides ← if t = 0 then spanSides s.myCore x q a.t (a.at_ 0 (r.done * a.rows)) o.k else pure r.aux
        let wt ← weightTile s.myCore x q w 0 (128 * t * w.rows) n
        (addTile s.myCore x q a r.done (128 * t) n (o.acc + r.done) sides wt).map fun k => (k, sides)
      orFault s x r part fun (k, sides) =>
        (s.putCore k).putRun x ({ r with aux := sides }.stepped (decide (o.k ≤ 128 * (t + 1))) (r.done + 1 == o.mRows))

/-- The slots that the next tile step of `left` weight rows needs of a side whose slot in use continues, `off` rows into it. -/
def nextNeed (d : Option Side) (rows off left : Nat) : Option (HReg × Bool × Nat) :=
  match d with
  | none => none
  | some t =>
    let n := slotsOf d (off % t.geo.rps) (min 128 left * rows)
    if off % t.geo.rps ≠ 0 ∧ 1 < n then some (t.h, t.prod, n) else none

/-- MMV over K weight rows: a tile step of every activation row, whose slots are then released. `aux` holds the list's count, the slot
in use, and what each activation row is decoded with. -/
def streamStep (s : State) (x : Ctx) (r : Run) (o : EM) (kk : Nat) : Out :=
  let q := r.q
  let sd := r.srcSide o
  let n := min 128 (kk - r.done)
  if kk ≤ r.done then s.putRun x (r.did true 0)
  else orFault s x r (matScalar x q (rowOf q.cap.sa) kk o.b6) fun a =>
    withFmt s x r r sd (rowOf q.cap.sb) 1 fun f =>
    orFault s x r (matOp x q sd f (rowOf q.cap.sb) 256 kk) fun w =>
      let off := match sd with | some d => r.done * w.rows % d.geo.rps | none => r.done * w.rows
      withSlot s x r sd 1 (slotsOf sd off (n * w.rows)) fun slot =>
        let part := do
          w.agree x q f slot off (n * w.rows)
          let sides ← match r.aux.drop 2 with
            | [] => ((List.range o.b6).mapM fun m => spanSides s.myCore x q a.t (a.at_ 0 (m * a.rows)) kk).map List.flatten
            | l => pure l
          let wt ← weightTile s.myCore x q w slot off n
          let k ← (List.range o.b6).foldlM (fun k m =>
            addTile k x q a m r.done n (o.acc + m) (sides.drop (3 * a.rows * m)) wt) s.myCore
          pure (k, sides)
        orFault s x r part fun (k, sides) =>
          (s.putCore k).putRun (sideAdvance sd x (slotsDone sd off (n * w.rows)))
            { r.did (r.done + n == kk) n with
              wait := nextNeed sd w.rows (off + n * w.rows) (kk - (r.done + n))
              aux := [r.aux.headD 0, slotAfter sd slot off (n * w.rows)] ++ sides }

def execMmv (o : EM) (s : State) : Out := macroWord s fun x r => streamStep s x r o o.k

/-! ### Operand rows by columns: MMG with DIR = 0 and MATT (R181, R184) -/

/-- A tile step of one activation row against n operand rows of K elements, row j for column j. `init` gives the accumulator
row of the first step where it does not stand in memory, and `on` the columns that take part. The slots of a handle are
released after the last step of the last row. With no operand row, nothing of the weights is looked at (R181). `aux` holds the list's count,
the slot in use, and what the activation row and then the operand rows are decoded with. -/
def columnStep (s : State) (x : Ctx) (r : Run) (o : EM) (kk ms n : Nat) (on : Nat → Nat → Bool) (init : Nat → Option (List FVal)) :
    Out :=
  let q := r.q
  let sd := if n = 0 then none else r.srcSide o
  let t := r.tstep
  let m := r.done
  let len := tileLen kk t
  if ms ≤ m then s.putRun x (r.did true 0)
  else orFault s x r (matScalar x q (rowOf q.cap.sa) kk ms) fun a =>
    (if n = 0 then fun k => k (q.fmt 0) else withFmt s x r r sd (rowOf q.cap.sb) 1) fun f =>
    orFault s x r (if n = 0 then pure ⟨none, 0, .f32, 0⟩ else matOp x q sd f (rowOf q.cap.sb) kk n) fun g =>
      withSlot s x r sd 1 (slotsOf sd 0 (n * g.rows)) fun slot =>
        let row := fun j : Nat => g.at_ slot (j * g.rows)
        let part := do
          g.agree x q f slot 0 (n * g.rows)
          let sides ← if t = 0 then (do
              let av ← spanSides s.myCore x q a.t (a.at_ 0 (m * a.rows)) kk
              let gs ← (List.range n).mapM fun j =>
                if on m j then spanSides s.myCore x q g.t (row j) kk else pure (List.replicate (3 * g.rows) 0)
              pure (av ++ gs.flatten)) else pure (r.aux.drop 2)
          let av ← decodeSpanWith s.myCore x q a.t (a.at_ 0 (m * a.rows)) (128 * t) len sides
          let old ← match (if t = 0 then init m else none) with
            | some vs => pure vs
            | none => readAcc s.myCore x (o.acc + m)
          let sums ← (List.range n).mapM fun j =>
            if on m j then (decodeSpanWith s.myCore x q g.t (row j) (128 * t) len (sides.drop (3 * (a.rows + g.rows * j)))).map
              fun b => some (dotProduct av b) else pure none
          let k ← writeAcc s.myCore x (o.acc + m) (old.zipIdx.map fun (v, j) => match sums.getD j none with
            | some d => accAdd v d
            | none => v)
          pure (k, sides)
        orFault s x r part fun (k, sides) =>
          let last := decide (kk ≤ 128 * (t + 1))
          let done := last && m + 1 == ms
          (s.putCore k).putRun (sideAdvance sd x (if done then slotsDone sd 0 (n * g.rows) else 0))
            ({ r with aux := [r.aux.headD 0, r.aux.getD 1 0] ++ sides }.stepped last (m + 1 == ms))

/-- MMG: `aux` holds the list's count. -/
def execMmg (o : EM) (s : State) : Out :=
  macroWord s fun x r =>
    match r.aux with
    | [] => orFault s x r (listWord s.myCore x r.q.cap.sc 0) fun c =>
        if !o.dir && decide (256 < c) then s.runFault x r .illegal 6 else s.putRun x { r with aux := [c] }
    | c :: _ =>
      if o.dir then streamStep s x r o c
      else columnStep s x r o o.k o.b6 c (fun _ _ => true) fun _ => none

/-- Key k is visible to query q (R183, R281). -/
def MaskRow.visible (m : MaskRow) (q k : Nat) : Bool :=
  decide (k < m.pre.toNat) || k - m.pre.toNat == q || (decide (k - m.pre.toNat < 64) && m.anc.getLsbD (k - m.pre.toNat))

/-- Query q's record shows key k; a query without a record shows none. -/
def Brim.visible (b : Brim) (q k : Nat) : Bool := match b.mask[q]? with | some m => m.visible q k | none => false

/-- MATT. -/
def execMatt (o : EM) (s : State) : Out :=
  macroWord s fun x r =>
    let see := fun m c : Nat =>
      decide (c < o.nk) && (!o.msk || x.brim.visible m ((fieldNat r.q.cap.sc 0 32 + c) % 2 ^ 32))
    if o.msk && decide (x.brim.mask.length < o.b6) then s.runFault x r .illegal 6
    else columnStep s x r o o.kc o.b6 o.nk see fun m =>
      some ((List.range 256).map fun c => if see m c then .fin false 0 0 else .inf true)

/-! ### MPBLD and ACLR (R185, R279) -/

/-- MPBLD. -/
def execMpbld (o : EM) (s : State) : Out :=
  macroWord s fun x r =>
    orFault s x r (readBytes s.myCore x (r.q.cap.sa.toNat / 16 * 16) (16 * o.nq)) fun v =>
      let row := fun i : Nat =>
        let w := BitVec.ofNat 128 (v >>> (128 * i))
        ({ anc := fieldOf w 0 64, pre := fieldOf w 64 32, pos := fieldOf w 96 32 } : MaskRow)
      s.putRun { x with brim := { x.brim with mask := (List.range o.nq).map row } } (r.did true)

/-- ACLR: one accumulator row. -/
def execAclr (o : EM) (s : State) : Out :=
  macroWord s fun x r =>
    if o.n10 ≤ r.done then s.putRun x (r.did true 0)
    else orFault s x r (x.accAt (o.acc + r.done)) fun p =>
      (s.putCore (s.myCore.putAcc p 0)).putRun x (r.did (r.done + 1 == o.n10))
end Sys2Proof.Machine
end

