-- ==== Sys2Proof/Machine/Brim.lean ====
section
/-! DEFINITION. The brim unit: BSET, BSAMP, BREAD and ADRAIN (R68, R70, R187 to R193, R270 to R272, R280, R281). -/

namespace Sys2Proof.Machine

/-! ### BSET and BSAMP (R68, R187, R188, R191) -/

/-- BSET. -/
def execBset (o : EM) (s : State) : Out :=
  macroWord s fun x r =>
    let set := fun p : Row => s.putRun { x with brim := { x.brim with prog := o.brimSteps, param := p } } (r.did true)
    if o.sa = 0 then set 0
    else orFault s x r (readRow s.myCore x (rowOf r.q.cap.sa)) fun p =>
      if fieldNat p 80 1968 ≠ 0 then s.runFault x r .illegal 6 else set p

/-- invt from TEMPER (R68). -/
def inverseTemp (temper : Word) : BitVec 32 :=
  BitVec.ofNat 32 (match decodeF f32F (fieldNat temper 0 32) with
    | .fin false m e => if m = 0 then nanBits f32F else
        (let (v, st) := recip (.fin false m e); encodeF f32F .rne false 0 v st)
    | _ => nanBits f32F)

/-- BSAMP. -/
def execBsamp (o : EM) (s : State) : Out :=
  macroWord s fun x r =>
    let q := r.q
    let ids := (List.range o.slots).map (o.first + ·)
    if o.possrc && ids.any fun i => decide (x.brim.mask.length ≤ i) then s.runFault x r .illegal 6
    else
      let slot := fun i : Nat =>
        ({ kh := o.kh, invt := inverseTemp q.cap.temp, seed := fieldOf q.cap.seed 0 32,
           pos := if o.possrc then (match x.brim.mask[i]? with | some m => m.pos | none => 0)
                  else BitVec.ofNat 32 (q.cap.sa.toNat + (i - o.first)) } : BrimSlot)
      let slots := Vector.ofFn fun i : Fin 64 => if ids.contains i.val then slot i.val else x.brim.slots[i]
      s.putRun { x with brim := { x.brim with slots := slots } } (r.did true)

/-! ### The steps (R189, R271, R272) -/

/-- The rows that a program's steps read for a drained row. -/
structure BrimRows where
  scl  : List FVal := []
  bias : List FVal := []
  tab  : List FVal := []
  res  : List FVal := []

/-- n raw FP32 values from a row on (R188). -/
def rawF32 (k : Core) (x : Ctx) (row n : Nat) : Mac (List FVal) :=
  (readRows k x row ((4 * n + 255) / 256)).map fun rows =>
    ((rows.flatMap (elemsOf 32)).take n).map (decodeF f32F)

/-- The residual operand of the i-th drained row (R190). -/
def residual (k : Core) (x : Ctx) (q : QWord) (row : Nat) : Mac (List FVal) :=
  (govFmt x q row).bind fun f => match (if f.code = 1 ∨ f.code = 0x0A ∨ f.code = 0x0B then none else f.typeRaw32) with
  | none => mfault .illegal 3
  | some t => (operandFmt x q row ((256 * t.width + 2047) / 2048)).bind fun _ => decodeSpan k x q t row 0 256

def brimRows (k : Core) (x : Ctx) (q : QWord) (i : Nat) : Mac BrimRows := do
  let p := x.brim.param
  let has := x.brim.prog.contains
  let scl ← if has 1 then rawF32 k x (fieldNat p 0 16) 256 else pure []
  let bias ← if has 2 then rawF32 k x (fieldNat p 16 16) 256 else pure []
  let tab ← if has 4 then rawF32 k x (fieldNat p 32 16) 128 else pure []
  let res ← if has 5 then residual k x q (fieldNat p 48 16 + i * fieldNat p 64 16) else pure []
  pure ⟨scl, bias, tab, res⟩

/-- ACT's segment: clamp(floor((y + 8) × 4), 0, 63). -/
def actIndex (y : FVal) : Nat :=
  match y with
  | .nan => 0
  | .inf n => if n then 0 else 63
  | .fin n m e =>
    let x := min e 0
    let v := FVal.atExp x (.fin n m e) * 4 + 32 * (2 ^ (-x).toNat : Nat)
    (clampInt 0 63 (v / (2 ^ (-x).toNat : Nat))).toNat

/-- The hash of R68. -/
def gumbelHash (seed pos v : BitVec 32) : BitVec 32 :=
  let h := seed ^^^ (pos * 0x4F1BBCDD) ^^^ (v * 0x68E31DA5)
  (List.range 3).foldl (fun h _ =>
    let h := (h ^^^ (h >>> 15)) * 0x2C9277B5
    h ^^^ (h >>> 13)) h

/-- The noise of a hash (R68). -/
def gumbelNoise (h : BitVec 32) : FVal :=
  let num : Int := 2 * (h.toNat / 256 : Nat) - 16383
  let j := num / 32768
  if j < 0 then gumbelEntry 0
  else if j = 1023 then gumbelEntry 1023
  else
    let a := gumbelEntry j.toNat
    let d := rne32 (FVal.add .rne (gumbelEntry (j.toNat + 1)) a.negate)
    rne32 (FVal.add .rne a (rne32 (FVal.mul (.fin false (num % 32768).toNat (-15)) d)))

def gumbelY (t : BrimSlot) (v : BitVec 32) (y : FVal) : FVal :=
  rne32 (FVal.add .rne (rne32 (FVal.mul y (decodeF f32F t.invt.toNat))) (gumbelNoise (gumbelHash t.seed t.pos v)))

/-- Pair a ranks before pair b (R70). -/
def pairBefore (a b : FVal × BitVec 32) : Bool := rankBefore a.1 b.1 || (!rankBefore b.1 a.1 && decide (a.2.toNat < b.2.toNat))

def pairOf (p : BitVec 32 × BitVec 32) : FVal × BitVec 32 := (decodeF f32F p.1.toNat, p.2)
def bitsOf (y : FVal) : BitVec 32 := BitVec.ofNat 32 (bits32 y)

/-- ARGMAX's candidate. -/
def BrimSlot.offer (t : BrimSlot) (y : FVal) (v : BitVec 32) : BrimSlot :=
  if pairBefore (y, v) (pairOf (t.candV, t.candI)) then { t with candV := bitsOf y, candI := v } else t

/-- A pair enters a heap, which is held best first. -/
def heapInsert (p : FVal × BitVec 32) : List (BitVec 32 × BitVec 32) → List (BitVec 32 × BitVec 32)
  | [] => [(bitsOf p.1, p.2)]
  | e :: r => if pairBefore p (pairOf e) then (bitsOf p.1, p.2) :: e :: r else e :: heapInsert p r

/-- TOPK's heap keeps the KH best (R272). -/
def BrimSlot.push (t : BrimSlot) (y : FVal) (v : BitVec 32) : BrimSlot := { t with heap := (heapInsert (y, v) t.heap).take t.kh }

/-- The update of SMAX and LSE, and the terms exp(y − m′) (R189, log 53). -/
def BrimSlot.online (t : BrimSlot) (ys : List FVal) : BrimSlot × List FVal :=
  let m := decodeF f32F t.m.toNat
  let m' := ys.foldl FVal.max m
  if m' = .inf true then ({ t with m := bitsOf m' }, ys.map fun _ => .fin false 0 0)
  else
    let es := ys.map fun y => exp32 (FVal.add .rne y m'.negate)
    let l := rne32 (FVal.mul (decodeF f32F t.l.toNat) (exp32 (FVal.add .rne m m'.negate)))
    ({ t with m := bitsOf m', l := bitsOf (es.foldl accAdd l) }, es)

/-- One step on the entries of a drained row; v gives an entry's vocabulary index. -/
def brimStep (b : Brim) (slot : Nat) (v : Nat → BitVec 32) (p : BrimRows) (t : BrimSlot) (ys : List FVal) (code : Nat) :
    BrimSlot × List FVal :=
  match code with
  | 1 => (t, ys.zipWith (fun y c => rne32 (y.mul c)) p.scl)
  | 2 => (t, ys.zipWith accAdd p.bias)
  | 3 => (t, ys.map fun y => if y.isNan then .nan else if y.neg? || y.isZero then .fin false 0 0 else y)
  | 4 => (t, ys.map fun y =>
      let i := actIndex y
      if y.isNan then .nan else rne32 (FVal.add .rne ((p.tab.getD (2 * i) .nan).mul y) (p.tab.getD (2 * i + 1) .nan)))
  | 5 => (t, ys.zipWith accAdd p.res)
  | 6 => (t, ys.zipIdx.map fun (y, c) => if b.visible slot (v c).toNat then y else .inf true)
  | 7 => t.online ys
  | 8 => ((t.online ys).1, ys)
  | 9 => (t, ys.zipIdx.map fun (y, c) => gumbelY t (v c) y)
  | 10 => (ys.zipIdx.foldl (fun t (y, c) => t.offer y (v c)) t, ys)
  | 11 => (ys.zipIdx.foldl (fun t (y, c) => t.push y (v c)) t, ys)
  | _ => (t, ys)

/-! ### ADRAIN (R192) -/

/-- The format of ADRAIN's destination; FP32 bits go into RAW unchanged (R61). -/
def Fmt.drain (f : Fmt) : Option (ElemType × Fmt) :=
  if f.code = 1 ∨ f.code = 0x0A then none
  else f.typeRaw32.map fun t => (t, if f.code = 0 then { f with rnd := .rne, sat := false } else f)

/-- ADRAIN: one accumulator row, written whole, or on a handle side slot by slot. `aux` holds how many of its bytes stand, the slot in
use, and, while some do, the bytes that follow (R165). -/
def execAdrain (o : EM) (s : State) : Out :=
  macroWord s fun x r =>
    let q := r.q
    let i := r.done
    let write := !x.brim.prog.contains 12
    let dd := if write then r.dstSide o else none
    if o.n10 ≤ i then s.putRun x (r.did true 0)
    else withFmt' s x r write dd fun gov =>
    match (if write then gov.drain else some (.f32, gov)) with
    | none => s.runFault x r .illegal 3
    | some (t, f) =>
      let len := 256 * t.width / 8
      let w := r.aux.headD 0
      let lo := i * len + w
      let hi := match dd with
        | none => (i + 1) * len
        | some d => min ((i + 1) * len) ((lo / (256 * d.geo.rps) + 1) * (256 * d.geo.rps))
      let si := if o.one then o.state else o.state + i
      let slot := x.brim.slots[si % 64]'(Nat.mod_lt _ (by decide))
      let v := fun c : Nat => BitVec.ofNat 32 (q.cap.sc.toNat + (if o.one then 256 * i else 0) + c)
      if dd.isSome && (o.n10 * len % 256 != 0 || !sideFits dd (o.n10 * len / 256)) then s.runFault x r .illegal 5
      else withSlot s x r dd 1 1 fun ds =>
        let a := sideRow dd (rowOf q.cap.sa) ds (lo / 256) * 256 + lo % 256
        let put := fun (s : State) (y : Ctx) (rest : Nat) =>
          let whole := hi == (i + 1) * len
          let ends := hi % 256 == 0 && slotEnds dd (hi / 256)
          let r' := if whole then r.did (i + 1 == o.n10) else { r with wait := none }
          s.putRun (sideEnd dd y ends)
            { r' with aux := [if whole then 0 else hi - i * len, if ends then 0 else ds + 1] ++ if whole then [] else [rest] }
        let agree := if dd.isSome then agreeRows x q gov ((rowsTouched lo hi).map fun p => sideRow dd 0 ds p.1) else pure ()
        match r.aux.drop 2 with
        | rest :: _ =>
          orFault s x r (do agree; writeBytes s.myCore x a (hi - lo) rest) fun k =>
            put (s.putCore k) x (rest / 2 ^ (8 * (hi - lo)))
        | [] =>
          if x.brim.prog.contains 6 && decide (x.brim.mask.length ≤ si) then s.runFault x r .illegal 6
          else
            let part := do
              let _ ← if write && dd.isNone then operandFmt x q (rowOf q.cap.sa) ((o.n10 * len + 255) / 256) else pure f
              agree
              let ys ← readAcc s.myCore x (o.acc + i)
              let p ← brimRows s.myCore x q i
              let (t', ys) := x.brim.prog.foldl (fun (a : BrimSlot × List FVal) c => brimStep x.brim si v p a.1 a.2 c) (slot, ys)
              let k ← if o.clr then writeAcc s.myCore x (o.acc + i) (List.replicate 256 (.fin false 0 0)) else pure s.myCore
              let gs := x.gensAt q.cap.gen
              if write then
                let (codes, sides, g) := encodeSpan t f false gs.brim ys
                let n := 8 * (hi - lo) / t.width
                let k ← writeSpan k x q t a (codes.take n) sides
                pure (k, t', g, ofElems t.width (codes.drop n))
              else pure (k, t', gs.brim, 0)
            orFault s x r part fun (k, t', g, rest) =>
              let y := x.setGensAt q.cap.gen { x.gensAt q.cap.gen with brim := g }
              put (s.putCore k)
                { y with brim := { y.brim with slots := y.brim.slots.set (si % 64) t' (Nat.mod_lt _ (by decide)) } } rest
where
  /-- The format of the destination; a program that writes none has none to ask for. -/
  withFmt' (s : State) (x : Ctx) (r : Run) (write : Bool) (dd : Option Side) (k : Fmt → Out) : Out :=
    if write then withFmt s x r r dd (rowOf r.q.cap.sa) 1 k else k (r.q.fmt 0)

/-! ### BREAD (R193) -/

/-- The log-sum-exp of a slot. -/
def BrimSlot.lse (t : BrimSlot) : FVal :=
  let l := decodeF f32F t.l.toNat
  if l.isZero && !l.neg? then .inf true else accAdd (decodeF f32F t.m.toNat) (ln32 l)

/-- The 768 bytes of a slot. -/
def BrimSlot.bytes (t : BrimSlot) : Nat :=
  ofElems 32 ([t.candV.toNat, t.candI.toNat, t.m.toNat, t.l.toNat, bits32 t.lse, t.heap.length, t.pos.toNat]
      ++ List.replicate 57 0
    ++ (List.range 64).flatMap fun j => match t.heap[j]? with
      | some e => [e.1.toNat, e.2.toNat]
      | none => [0xFF800000, 0xFFFFFFFF])

/-- BREAD: one slot. -/
def execBread (o : EM) (s : State) : Out :=
  macroWord s fun x r =>
    let i := r.done
    if o.slots ≤ i then s.putRun x (r.did true 0)
    else
      let t := x.brim.slots[(o.first + i) % 64]'(Nat.mod_lt _ (by decide))
      orFault s x r (writeBytes s.myCore x (rowOf r.q.cap.sa * 256 + 768 * i) 768 t.bytes) fun k =>
        (s.putCore k).putRun x (r.did (i + 1 == o.slots))
end Sys2Proof.Machine
end

