-- ==== Sys2Proof/Machine/Flags.lean ====
section
/-! DEFINITION. Conditions and flags: the machine has no flag register; a comparison gives a value or predicate bits (R25, R95,
R124, R127). -/

namespace Sys2Proof.Machine

/-- A condition between b-bit integers, signed or unsigned as the condition says (R25). -/
def intCond (cc b : Nat) (p q : Nat) : Bool :=
  match Cond.ofCode cc with
  | some .eq => p == q
  | some .ne => p != q
  | some .lt => decide (signedOf b p < signedOf b q)
  | some .le => decide (signedOf b p ≤ signedOf b q)
  | some .gt => decide (signedOf b q < signedOf b p)
  | some .ge => decide (signedOf b q ≤ signedOf b p)
  | some .lo => decide (p < q)
  | some .ls => decide (p ≤ q)
  | some .hi => decide (q < p)
  | some .hs => decide (q ≤ p)
  | some .un | some .ord | none => false

/-- CMP's condition on two scalars (R95). -/
def scalarCond (cc : Nat) (p q : Word) : Bool := intCond cc 64 p.toNat q.toNat
end Sys2Proof.Machine
end

