-- ==== Sys2Proof/Machine/CtlInt.lean ====
section
/-! DEFINITION. Control integer and bit instructions (R92 to R97). -/

namespace Sys2Proof.Machine

/-- The upper half of a 128-bit product. -/
def mulHigh (p q : Int) : Word := BitVec.ofInt 64 ((p * q) / (2 ^ 64 : Nat))

def execAdd (o : C3) (s : State) : Out := ctlAlu o 1 (fun a b _ => a + b) s
def execSub (o : C3) (s : State) : Out := ctlAlu o 1 (fun a b _ => a - b) s
def execMul (o : C3) (s : State) : Out := ctlAlu o 3 (fun a b _ => a * b) s
def execMulh (o : C3) (s : State) : Out := ctlAlu o 3 (fun a b _ => mulHigh a.toInt b.toInt) s
def execMulhn (o : C3) (s : State) : Out := ctlAlu o 3 (fun a b _ => mulHigh a.toNat b.toNat) s
def execDiv (o : C3) (s : State) : Out := ctlDiv o (fun a b => a.sdiv b) s
def execDivn (o : C3) (s : State) : Out := ctlDiv o (fun a b => a / b) s
def execRem (o : C3) (s : State) : Out := ctlDiv o (fun a b => a.srem b) s
def execRemn (o : C3) (s : State) : Out := ctlDiv o (fun a b => a % b) s
def execAnd (o : C3) (s : State) : Out := ctlAlu o 1 (fun a b _ => a &&& b) s
def execOr (o : C3) (s : State) : Out := ctlAlu o 1 (fun a b _ => a ||| b) s
def execXor (o : C3) (s : State) : Out := ctlAlu o 1 (fun a b _ => a ^^^ b) s
def execAndn (o : C3) (s : State) : Out := ctlAlu o 1 (fun a b _ => a &&& ~~~b) s
def execShl (o : C3) (s : State) : Out := ctlAlu o 1 (fun a b _ => a <<< shiftAmt o b) s
def execShra (o : C3) (s : State) : Out := ctlAlu o 1 (fun a b _ => a.sshiftRight (shiftAmt o b)) s
def execShrl (o : C3) (s : State) : Out := ctlAlu o 1 (fun a b _ => a >>> shiftAmt o b) s
def execRol (o : C3) (s : State) : Out := ctlAlu o 1 (fun a b _ => a.rotateLeft (shiftAmt o b)) s

/-- Leading zeros, trailing zeros and ones of the low n bits (R92, R129). -/
def clzNat (n v : Nat) : Nat := ((List.range n).reverse.takeWhile fun i => !v.testBit i).length
def ctzNat (n v : Nat) : Nat := ((List.range n).takeWhile fun i => !v.testBit i).length
def popNat (n v : Nat) : Nat := ((List.range n).filter fun i => v.testBit i).length

def execClz (o : C3) (s : State) : Out := ctlAlu o 1 (fun a _ _ => BitVec.ofNat 64 (clzNat 64 a.toNat)) s
def execCtz (o : C3) (s : State) : Out := ctlAlu o 1 (fun a _ _ => BitVec.ofNat 64 (ctzNat 64 a.toNat)) s
def execPopc (o : C3) (s : State) : Out := ctlAlu o 1 (fun a _ _ => BitVec.ofNat 64 (popNat 64 a.toNat)) s
def execMin (o : C3) (s : State) : Out := ctlAlu o 1 (fun a b _ => if a.toInt ≤ b.toInt then a else b) s
def execMax (o : C3) (s : State) : Out := ctlAlu o 1 (fun a b _ => if b.toInt ≤ a.toInt then a else b) s
def execMinn (o : C3) (s : State) : Out := ctlAlu o 1 (fun a b _ => if a.toNat ≤ b.toNat then a else b) s
def execMaxn (o : C3) (s : State) : Out := ctlAlu o 1 (fun a b _ => if b.toNat ≤ a.toNat then a else b) s
def execSel (o : C3) (s : State) : Out := ctlAlu o 1 (fun a b c => if c ≠ 0 then a else b) s
def execCmp (o : C3) (s : State) : Out := ctlAlu o 1 (fun a b _ => if scalarCond o.ccCode a b then 1 else 0) s

/-- EXTR: the field, extended with zeros or its sign (R94). -/
def extrValue (o : C3) (a : Word) : Word :=
  let f := (a.toNat >>> o.pos) % 2 ^ o.len
  if o.sx then BitVec.ofInt 64 (signedOf o.len f) else BitVec.ofNat 64 f

/-- INS: sb with the field replaced by the low bits of sa (R94). -/
def insValue (o : C3) (a b : Word) : Word :=
  let m : Word := BitVec.ofNat 64 ((2 ^ o.len - 1) <<< o.pos)
  merge m b (a <<< o.pos)

def execExtr (o : C3) (s : State) : Out := ctlAlu o 1 (fun a _ _ => extrValue o a) s
def execIns (o : C3) (s : State) : Out := ctlAlu o 1 (fun a b _ => insValue o a b) s
def execAddi (o : CI) (s : State) : Out := ctlImm o (fun x => x.rd o.sa + o.imm) s
def execLi (o : CI) (s : State) : Out := ctlImm o (fun _ => o.imm) s
def execLih (o : CI) (s : State) : Out :=
  ctlImm o (fun x => (fieldOf o.imm 0 32 : BitVec 32) ++ (fieldOf (x.rd o.sa) 0 32 : BitVec 32)) s
def execLea (o : CI) (s : State) : Out := ctlImm o (fun x => x.ctl.pc + o.imm) s
end Sys2Proof.Machine
end

