-- ==== Sys2Proof/Machine/Pools.lean ====
section
/-! DEFINITION. Firmware's pools of memory: what segments occupy, eviction, placement, and moving bytes (R308, R310 to R312, R323,
R346 to R348), and the end of a stall or of a DUPW. -/

namespace Sys2Proof.Machine

/-! ### What segments occupy (R311) -/

/-- The pools: of the stack tier, of the capacity tier, and of each die's shared memory (R311, log 41). -/
inductive Pool where
  | stack
  | cap
  | shared (d : DieId)
  deriving DecidableEq, Repr

def allPools : List Pool := [.stack, .cap, .shared 0, .shared 1, .shared 2, .shared 3]

/-- The pool in which the replica of a segment stands: of another tier, or another die's shared memory (R348, log 42). -/
def Pool.replica : Pool → Pool
  | .stack => .cap
  | .cap => .stack
  | .shared d => .shared (d + 1)

/-- The module addresses of a pool's memory: the first byte and the length. -/
def Pool.bounds : Pool → Nat × Nat
  | .stack => (0, stackBytes)
  | .cap => (capacityBase, capacityBytes)
  | .shared d => (dsmBase + d.val * dsmBytes, dsmBytes)

/-- Every entry of every loaded table, with its address space and index. -/
def State.allSegs (s : State) : List (BitVec 12 × Nat × SegEntry) :=
  s.spaces.flatMap fun t => t.entries.map fun e => (t.asid, e.1, e.2)

/-- The pool, the module address and the bytes that a valid entry's own copy takes; the objects of tier 0x3 are placed by their
definition. A heat window takes none (log 41). -/
def State.placed (s : State) (e : SegEntry) : Option (Pool × Nat × Nat) :=
  if e.vleng = 0 then none
  else match e.tier with
    | 0 => some (.stack, e.base, e.bytes)
    | 1 => some (.cap, e.base, e.bytes)
    | 2 => some (.shared (Fin.ofNat 4 (fieldNat e.w2 56 2)), e.base, e.bytes)
    | 3 => (s.obj e.obj).map fun o => (if o.defn.homeCap then .cap else .stack, o.base, o.defn.rows * o.rowBytes)
    | _ => none

/-- Bytes that an entry takes of a pool: its own and those of its replica (R348). -/
def State.poolBytes (s : State) (p : Pool) (a : BitVec 12) (i : Nat) (e : SegEntry) : Nat :=
  match s.placed e with
  | none => 0
  | some (c, _, n) => if s.occupies a i e then (if c = p then n else 0) + (if e.repl ∧ c.replica = p then n else 0) else 0

def sumNat (l : List Nat) : Nat := l.foldr (· + ·) 0

def State.poolUsed (s : State) (p : Pool) : Nat := sumNat (s.allSegs.map fun e => s.poolBytes p e.1 e.2.1 e.2.2)

/-- What segments may take of a pool: of a die's shared memory, what the row-store budget, the spill regions and the park areas
leave (R315). -/
def State.poolSize (s : State) : Pool → Nat
  | .stack => s.firm.stackCap
  | .cap => s.firm.capCap
  | .shared d => dsmBytes - heatRsMib s.firm.heatcfg * 2 ^ 20 - dsmTaken d

/-! ### Draining and moving -/

def inRange (lo n a : Nat) : Bool := decide (lo ≤ a) && decide (a < lo + n)

/-- No access that was translated earlier to these bytes is still on its way, in any context or between dies (R312). -/
def State.rangeQuiet (s : State) (lo n : Nat) : Bool :=
  (s.cores.toList.all fun k => k.residents.all fun x => x.ops.all fun p => match p.loc with
    | .mem a => !overlaps lo n a (max p.size 1)
    | _ => true)
  && s.transit.all fun t => t.cells.all fun c => !inRange lo n c.1

/-- n bytes of a view copied from one address to another. -/
def Memory.copy (m : Memory) (src dst n : Nat) : Memory :=
  ((m.filter fun c => inRange src n c.1).foldl (fun (m : Sparse 8) c => Sparse.write m (dst + (c.1 - src)) c.2)
    (m.filter fun c => !inRange dst n c.1))

/-- n bytes from an address are accessed: the stack dies that hold them (R323). -/
def Firm.touchRange (f : Firm) (pa n : Nat) : Firm :=
  (List.range (n / 2 ^ 32 + 2)).foldl (fun f i =>
    let a := (pa / 2 ^ 32 + i) * 2 ^ 32
    if a < pa + n then f.touch (.mem a) else f) f

/-- The bytes move in every view. -/
def State.copyBytes (s : State) (src dst n : Nat) : State :=
  { s with views := s.views.map fun m => Memory.copy m src dst n, firm := (s.firm.touchRange src n).touchRange dst n }

/-- No core holds code of the segment that it fetched before (R258). -/
def State.dropCode (s : State) (asid : BitVec 12) (e : SegEntry) : State :=
  { s with cores := s.cores.map fun k => { k with
      icache := k.icache.filter fun l => !(l.asid == asid && inRange (e.vbase * 2 ^ 16) e.bytes l.va) } }

end Sys2Proof.Machine

namespace Sys2Proof

/-- The entry with RES cleared or set. -/
def SegEntry.withRes (e : SegEntry) (b : Bool) : SegEntry := { e with w3 := BitVec.ofNat 64 (Machine.putBits e.w3.toNat 7 1 (if b then 1 else 0)) }
def SegEntry.noPoison (e : SegEntry) : SegEntry := { e with w3 := BitVec.ofNat 64 (Machine.putBits e.w3.toNat 3 1 0) }

/-- The entry placed at a module address of a pool (R304). -/
def SegEntry.withPlace (e : SegEntry) (p : Machine.Pool) (pa : Nat) : SegEntry :=
  { e with w2 := BitVec.ofNat 64 (match p with
      | .stack => pa
      | .cap => 2 ^ 60 + (pa - capacityBase)
      | .shared d => 2 * 2 ^ 60 + d.val * 2 ^ 56 + (pa - dsmBase) % dsmBytes) }

end Sys2Proof

namespace Sys2Proof.Machine

/-! ### Eviction (R312) -/

/-- A row-governed layer loses its copies, heats and LAST fields (R312). -/
def State.dropRows (s : State) (e : SegEntry) : State :=
  if e.tier = 3 then match s.obj e.obj with
    | some o => s.setObj { o with rows := [] }
    | none => s
  else s

/-- The eviction of a layer begins: RES is cleared, and the layer drains (R309, R312). -/
def State.evictLayer (s : State) (asid : BitVec 12) (i : Nat) : State :=
  let e := s.entry asid i
  let t := (s.setEntry asid i (e.withRes false)).dropRows e
  let leave := fun m : Model =>
    if m.asid = asid ∧ (m.defn.layers.map (·.1)).contains i then { m with leaving := m.leaving ++ [i] } else m
  State.settle { t with models := t.models.map leave }

/-- No access that was translated under the segment is still on its way. -/
def State.layerQuiet (s : State) (asid : BitVec 12) (i : Nat) : Bool :=
  let e := s.entry asid i
  match s.placed e with
  | some (_, pa, n) => s.rangeQuiet pa n
  | none => e.tier != 4 || s.cores.toList.all fun k => k.residents.all fun x => x.ops.all fun p => match p.loc with
      | .heat o _ => o != e.obj
      | _ => true

/-- The evictions whose drain has ended are over, and their space is free. -/
def State.drainLeaving (s : State) : State :=
  State.settle { s with models := s.models.map fun m => { m with leaving := m.leaving.filter fun i => !s.layerQuiet m.asid i } }

/-! ### Room in a pool (R311) -/

/-- m's layers are evicted before n's. -/
def Model.evictBefore (m n : Model) : Bool :=
  decide (m.defn.cls < n.defn.cls) || (m.defn.cls == n.defn.cls && (decide (m.lastUse < n.lastUse)
    || (m.lastUse == n.lastUse && decide (n.defn.num ≤ m.defn.num))))

/-- The resident layers that may be evicted from a pool, in order: their address space and index. -/
def State.victims (s : State) (p : Pool) (own : List Nat) (cls : Nat) : List (BitVec 12 × Nat) :=
  (sortBy Model.evictBefore (s.models.filter fun m => !own.contains m.defn.num && decide (m.defn.cls ≤ cls))).flatMap fun m =>
    ((m.defn.layers.map (·.1)).reverse.filter fun i =>
      (s.entry m.asid i).res && s.poolBytes p m.asid i (s.entry m.asid i) != 0).map fun i => (m.asid, i)

/-- The pool has room for n more bytes once every eviction has drained. -/
def State.willFit (s : State) (p : Pool) (n : Nat) : Bool :=
  decide (State.poolUsed { s with models := s.models.map fun m => { m with leaving := [] } } p + n ≤ s.poolSize p)

/-- Evicts in order until the need is met. -/
def State.evictUntil (s : State) (p : Pool) (need : Nat) : List (BitVec 12 × Nat) → State
  | [] => s
  | (a, i) :: rest => if s.willFit p need then s else (s.evictLayer a i).evictUntil p need rest

/-- A stack die that was switched off is powered on again, with a HOTADD event (R323, R336). -/
def State.wakeDie (s : State) (p : Nat × Nat) : State :=
  ({ s with firm := { s.firm with dieOff := s.firm.dieOff.erase p, stackCap := s.firm.stackCap + 2 ^ 32 } }).send 0x14 [p.1, p.2, 0]

/-- Stack dies are powered on until the need is met. -/
def State.wakeUntil (s : State) (need : Nat) : List (Nat × Nat) → State
  | [] => s
  | p :: rest => if s.willFit .stack need then s else (s.wakeDie p).wakeUntil need rest

/-- What a request for space comes to: the space is free; the evictions that free it drain; or it is refused. -/
inductive Room where
  | free (s : State)
  | draining (s : State)
  | refused (s : State)

/-- Room for `need` more bytes in a pool (R311, R323). Whether a request that fails evicts is free (log 43). -/
def State.makeRoom (s : State) (p : Pool) (need : Nat) (own : List Nat) (cls : Nat) : Room :=
  let t := s.evictUntil p need (s.victims p own cls)
  let t := if p = .stack then t.wakeUntil need t.firm.dieOff else t
  if t.willFit p need then
    let u := t.drainLeaving
    if u.poolUsed p + need ≤ u.poolSize p then .free u else .draining u
  else .refused (if Config.choice s.tick 1 % 2 = 0 then s else t)

/-- Room in each of the pools named. -/
def State.makeRooms (s : State) (own : List Nat) (cls : Nat) : List (Pool × Nat) → Room
  | [] => .free s
  | (p, n) :: rest => match s.makeRoom p n own cls with
    | .free t => t.makeRooms own cls rest
    | r => r

/-- Governed objects that no valid entry names. -/
def State.orphans (s : State) : List Obj :=
  s.objs.filter fun o => !s.allSegs.any fun p => p.2.2.vleng != 0 && p.2.2.tier == 3 && p.2.2.obj == o.defn.obj

/-- Ranges of the capacity tier that hold the backing bytes of layers (R309, R310). -/
def State.backings (s : State) : List (Pool × Nat × Nat) :=
  s.models.flatMap fun m => m.defn.layers.filterMap fun (i, b) =>
    if b.node.isSome then none else (s.placed (s.entry m.asid i)).map fun (_, _, n) => (.cap, capacityBase + b.addr, n)

/-- Ranges of a pool that segments, objects and backing bytes take. -/
def State.taken (s : State) (p : Pool) : List (Nat × Nat) :=
  let segs := s.allSegs.filterMap fun e => if s.occupies e.1 e.2.1 e.2.2 then s.placed e.2.2 else none
  let lone : List (Pool × Nat × Nat) :=
    s.orphans.map fun o => (if o.defn.homeCap then .cap else .stack, o.base, o.defn.rows * o.rowBytes)
  (segs ++ lone ++ s.backings).filterMap fun (c, pa, n) => if c = p then some (pa, n) else none

/-- Ranges of the stack tier that are switched off (R323). -/
def Firm.offRanges (f : Firm) : List (Nat × Nat) := f.dieOff.map fun p => (p.1 * 2 ^ 36 + p.2 * 2 ^ 32, 2 ^ 32)

/-- Capacity packages that are out of use (R347). -/
def Firm.badPackages (f : Firm) : List (Nat × Nat) :=
  ((List.range 16).filter fun p => decide (2 ≤ (f.badDev.toList[p]?).getD 0)).map fun p => (capacityBase + p * 2 ^ 37, 2 ^ 37)

/-- The places that firmware may give n bytes: the present one, or one after a taken range, clear of all others; which of them
it takes is free (log 6). -/
def State.choosePlace (s : State) (p : Pool) (now : Option Nat) (n : Nat) (avoid : List (Nat × Nat)) : Option Nat :=
  let taken := s.taken p ++ avoid ++ (match p with | .stack => s.firm.offRanges | .cap => s.firm.badPackages | .shared _ => [])
  let (base, size) := p.bounds
  let up := fun a : Nat => (a + 65535) / 65536 * 65536
  let spots := now.toList ++ [base] ++ taken.map fun t => up (t.1 + t.2)
  let free := spots.filter fun a => decide (base ≤ a) && decide (a + n ≤ base + size) && taken.all fun t => !overlaps a n t.1 t.2
  free[Config.placement s.tick % free.length]?

/-- A segment's entry, or its object, stands at a new place; the dies that hold a read-duplicated segment include its new home die
(R308). -/
def State.replace (s : State) (a : BitVec 12) (i : Nat) (e : SegEntry) (p : Pool) (pa : Nat) : State :=
  if e.tier = 3 then match s.obj e.obj with
    | some o => s.setObj { o with defn := { o.defn with homeCap := p == .cap, place := pa - p.bounds.1 } }
    | none => s
  else
    let t := (s.setEntry a i (e.withPlace p pa)).discard a
    if e.dup = 0 then t else t.setDup a i e.dup (e.dhold ||| 2 ^ (homeDie pa).val)

/-! ### Stalls and DUPW (R305, R308) -/

/-- STALL LIMIT EXPIRY: the access that has stalled on an absent segment for STALLUS µs raises RESID (R305); at the control core at a
boundary of the active context, which does not fall between the two repetitions of one clock (R83). -/
def execStallLimitExpiry (c : CoreId) (b : BankId) (e : Option Eng) (s : State) : Out :=
  let s := { s with cur := { core := c, bank := b, unit := match e with | none => .ctl | some e => .eng e } }
  match s.ctx? with
  | none => .next s
  | some x =>
    let spent := fun (i from_ : Nat) =>
      let g := s.entry x.id.asid i
      !g.res && g.stallus != 0 && decide (g.stallus ≤ s.firm.us - from_)
    match e with
    | none => (match x.hold with
      | .stall i va =>
        if spent i (x.stalledFrom i s.firm.us) && !x.midClk && s.myCore.active == some b then
          .next ((s.noteSeg x.id.asid i).trapP x .resid 0 0 va) else .next s
      | _ => .next s)
    | some e => (match (x.eng.get e).find? (·.stall.isSome) with
      | none => .next s
      | some r => match r.stall with
        | some (i, va, from_) =>
          if spent i from_ then (s.noteSeg x.id.asid i).runFault x r.restart .resid 0 0 va else .next s
        | none => .next s)

/-- Firmware's work on a segment that a parked writer waits for: DUP becomes 0b10, and 0b00 once every die has acknowledged
(R308, log 20). -/
def State.dupStep (s : State) (asid : BitVec 12) (i : Nat) : State :=
  let e := s.entry asid i
  if e.dup = 0 then s else if e.dup = 1 then s.setDup asid i 2 e.dhold else s.collapseDup asid i

/-- DUPW: firmware collapses the segment that the control core or the engine writes to its home die; the writer stays parked until
DUP is 0b00, and its write translates again (R308). -/
def execDupw (c : CoreId) (b : BankId) (e : Option Eng) (s : State) : Out :=
  match s.ctxAt c b with
  | none => .next s
  | some x =>
    match e with
    | none => (match x.hold with
      | .dupw i _ => .next (s.dupStep x.id.asid i)
      | _ => .next s)
    | some e => (match (x.eng.get e).find? (·.dupw.isSome) with
      | none => .next s
      | some r => match r.dupw with
        | some (i, _) =>
          let t := s.dupStep x.id.asid i
          .next (if (t.entry x.id.asid i).dup = 0 then t.setCtxAt c b (some (x.setRun { r with dupw := none })) else t)
        | none => .next s)
end Sys2Proof.Machine
end

