-- ==== Sys2Proof/Machine/Host.lean ====
section
/-! DEFINITION. Host commands and their responses (R244, R303, R309 to R315, R320, R323, R331 to R338, R341, R348, R354 to R357). -/

namespace Sys2Proof

/-- The same command: its sender and its SEQ (R331). -/
def HostCmd.same (g h : HostCmd) : Bool := g.src == h.src && g.seq == h.seq

end Sys2Proof

namespace Sys2Proof.Machine

/-! ### Responses (R331, R332) -/

/-- Status codes (R332). -/
abbrev stOk : Nat := 0
abbrev stBadcmd : Nat := 1
abbrev stNospace : Nat := 2
abbrev stNosuch : Nat := 3
abbrev stBusy : Nat := 4
abbrev stDenied : Nat := 5
abbrev stLimit : Nat := 6

/-- The BODY of a response's header flit: OPC, STATUS, KIND 1, SEQ and ARGS (R331). -/
def Response.body (r : Response) : List Byte :=
  bytesOf 1 r.opc ++ bytesOf 1 r.status ++ [1, 0] ++ bytesOf 4 r.cmd.seq.toNat ++ r.args.take 216

/-- The response leaves for its host, with the command's TAG (R327). -/
def State.transmit (s : State) (r : Response) : State :=
  { s with outbox := s.outbox ++ [{
      typ := 6, resp := true, body := r.body
      flit := { src := s.firm.node, dst := r.cmd.src, asid := 0, addr := 0, tag := r.cmd.tag, rows := r.flits } }] }

/-- Firmware keeps the responses to the last 64 SEQ values of each host (R331). -/
def Firm.keep (f : Firm) (r : Response) : Firm :=
  let mine := f.responses.filter (·.cmd.src == r.cmd.src)
  { f with responses := f.responses.filter (·.cmd.src != r.cmd.src) ++ mine.drop (mine.length - 63) ++ [r] }

/-- A command is answered, and waits no longer. -/
def State.respond (s : State) (h : HostCmd) (opc status : Nat) (args : List Byte := []) (flits : List Row := []) : State :=
  let r : Response := { cmd := h, opc := opc, status := status, args := args, flits := flits }
  { s with firm := { s.firm.keep r with waiting := s.firm.waiting.filter fun w => !w.1.same h } }.transmit r

/-- Commands that RETIRE stops early, that it never stops, and the others (R333). -/
inductive CmdClass where
  | launch
  | inquiry
  | other
  deriving DecidableEq, Repr

def Firm.refuses (f : Firm) : CmdClass → Bool
  | .launch => !f.accepting || f.drained
  | .inquiry => false
  | .other => f.drained

/-- The command has been accepted and waits, or is being performed (R331, R333). -/
def State.accepted (s : State) (h : HostCmd) : Bool :=
  (s.firm.waiting.any (·.1.same h)) || (s.firm.draining.any (·.same h)) || (s.models.any fun m => m.cmd.any (·.same h))
    || s.cores.toList.any fun k => k.msgnNew.any (·.2.same h)

/-- A command reaches firmware (R331, R332): before READY it waits for the port to train (R360); from a node that is no host it is
answered DENIED, with a SEQ that has been answered by the stored response, after RETIRE, unless it was accepted before, by BUSY, and with a reserved field that is
not zero by BADCMD; else it is performed (log 56). -/
def hostCommand (h : HostCmd) (opc : Nat) (cls : CmdClass) (s : State) (k : Out) : Out :=
  match s.firm.st with
  | .reset => .next s
  | .failed _ => .next s
  | .bringup _ => .next { s with firm := { s.firm with early := s.firm.early ++ [(h, opc)] } }
  | .ready =>
    if !s.firm.hosts.contains h.src then .next (s.transmit { cmd := h, opc := opc, status := stDenied })
    else match s.firm.responses.find? (·.cmd.same h) with
      | some r => .next (s.transmit { r with cmd := h })
      | none =>
        if s.firm.refuses cls && !s.accepted h then .next (s.respond h opc stBusy)
        else if h.resv then .next (s.respond h opc stBadcmd)
        else k

/-- A command that waits keeps its place among those on the same model context, address space or gang (R331). -/
def State.enqueue (s : State) (h : HostCmd) (on : CmdOn) : State :=
  if s.firm.waiting.any fun w => w.1.same h && w.2 == on then s
  else { s with firm := { s.firm with waiting := s.firm.waiting ++ [(h, on)] } }

/-- The command stands first among those on the same object. -/
def State.isFirst (s : State) (h : HostCmd) (on : CmdOn) : Bool :=
  match s.firm.waiting.find? (·.2 == on) with | some w => w.1.same h | none => true

/-- A segment that the command would act on is being moved (R346). -/
def State.movingOn (s : State) : CmdOn → Bool
  | .space a => s.firm.moving.any fun m => m.segs.any (·.1 == a)
  | .model m => s.models.any fun p => p.defn.num == m && p.defn.layers.any fun l => s.isMoving p.asid l.1
  | .gang _ => false

/-- A command is performed when none that came before it on the same objects waits (R331, log 58), and firmware moves no segment
of theirs (log 60). -/
def inTurns (h : HostCmd) (ons : List CmdOn) (s : State) (k : Out) : Out :=
  if ons.all fun on => s.isFirst h on && !s.movingOn on then k else .next (ons.foldl (·.enqueue h ·) s)

def inTurn (h : HostCmd) (on : CmdOn) (s : State) (k : Out) : Out := inTurns h [on] s k

/-- A command that only answers. -/
def answerWith (h : HostCmd) (opc : Nat) (cls : CmdClass) (s : State) (args : List Byte) (flits : List Row := []) : Out :=
  hostCommand h opc cls s (.next (s.respond h opc stOk args flits))

/-! ### Address spaces and objects (R303, R304, R309, R313) -/

/-- CREATE_SPACE. -/
def execCreateSpace (h : HostCmd) (asid : BitVec 12) (s : State) : Out :=
  hostCommand h 0x01 .other s (inTurn h (.space asid) s
    (if (s.space asid).isSome then .next (s.respond h 0x01 stBusy)
     else if 64 ≤ s.spaces.length then .next (s.respond h 0x01 stLimit)
     else
       let t : State := { s with spaces := s.spaces ++ [{ asid := asid }] }
       .next (t.respond h 0x01 stOk)))

/-- An object definition in range (R313). -/
def objOk (o : ObjDef) : Bool :=
  decide (o.obj < 1024) && decide (1 ≤ o.rows) && decide (o.rows ≤ 2 ^ 24) && decide (1 ≤ o.rowb) && decide (o.rowb ≤ 64)
    && decide (o.stslots < 2 ^ 32) && decide (o.rsslots ≤ o.rows)
    && decide (o.place + o.rows * (256 * o.rowb) ≤ if o.homeCap then capacityBytes else stackBytes)

/-- A valid entry of tier 0x0, 0x1 or 0x2 stands inside its tier (R304). -/
def entryInTier (e : SegEntry) : Bool :=
  match e.tier with
  | 0 => decide (e.base + e.bytes ≤ stackBytes)
  | 1 => decide (e.base + e.bytes ≤ capacityBase + capacityBytes)
  | 2 => decide (fieldNat e.w2 16 10 * 2 ^ 16 + e.bytes ≤ dsmBytes)
  | _ => true

/-- An entry in range, with the objects that the command defines (R304, R308, R309, R313, R348; log 57). -/
def State.loadOk (s : State) (e : SegEntry) : Bool :=
  s.entryOk e && (e.vleng == 0 || entryInTier e) && (!e.repl || !e.w) && e.dup != 2 && (e.dup != 1 || e.dhold.testBit (s.segHome e).val)
    && (match s.placed e with
        | some (_, _, n) => e.tier != 3 || decide (n ≤ e.bytes)
        | none => true)

/-- The backing bytes of a layer stand on another node, or inside the capacity tier (R309). -/
def State.backingOk (s : State) (e : SegEntry) (b : Backing) : Bool :=
  b.node.isSome || match s.placed e with | some (_, _, n) => decide (b.addr + n ≤ capacityBytes) | none => true

/-- A model definition in range: its number, class and list, and layers that are valid entries, may not be written and have
backing bytes in range (R304, R309, log 57). -/
def modelOk (s : State) (asid : BitVec 12) (m : ModelDef) : Bool :=
  decide (m.num < 256) && decide (m.cls < 8) && decide (1 ≤ m.layers.length) && decide (m.layers.length ≤ 256)
    && m.layers.all fun l => decide (l.1 < 1024) && !(s.entry asid l.1).w && (s.entry asid l.1).vleng != 0
      && s.backingOk (s.entry asid l.1) l.2

/-- The entries as the command leaves them. -/
def State.withEntries (s : State) (asid : BitVec 12) (first : Nat) (es : List SegEntry) : State :=
  es.zipIdx.foldl (fun s (e, i) => s.setEntry asid (first + i) e) s

/-- Row-store bytes that the budgets of a die's objects come to (R315, R320). -/
def State.rowStoreBudget (s : State) (d : DieId) : Nat :=
  sumNat ((s.objs.filter (·.defn.gdie == d)).map fun o => o.defn.rsslots * o.rowBytes)

/-- The module as LOAD_SEGMENTS would leave it, before room is made in the pools; or the status that refuses it. -/
def State.loaded (s : State) (asid : BitVec 12) (first : Nat) (es : List SegEntry) (os : List ObjDef) (ms : List ModelDef) :
    Except Nat State :=
  if 1024 < first + es.length ∨ os.any (fun o => !objOk o) then .error stBadcmd
  else if (s.space asid).isNone then .error stNosuch
  else if os.any fun o => (s.obj o.obj).isSome then .error stBusy
  else if !decide ((os.map (·.obj)).Nodup) || !decide ((ms.map (·.num)).Nodup) then .error stBadcmd
  else if ms.any fun m => s.models.any fun p => p.defn.num == m.num then .error stBusy
  else
    let t : State := { s with objs := s.objs ++ os.map fun o => ({ defn := o } : Obj) }
    if es.any fun e => e.vleng != 0 && (e.tier == 3 || e.tier == 4) && (t.obj e.obj).isNone then .error stNosuch
    else if es.any fun e => !t.loadOk e then .error stBadcmd
    else
      let u := t.withEntries asid first es
      let t : State := { u with models := u.models ++ ms.map fun m => ({ defn := m, asid := asid } : Model) }
      let owned : List (BitVec 12 × Nat) := t.models.flatMap fun m => m.defn.layers.map fun l => (m.asid, l.1)
      if !decide owned.Nodup ∨ t.models.any (fun m => m.asid == asid && !modelOk t asid m.defn) then .error stBadcmd
      else if os.any fun o => decide (heatRsMib t.firm.heatcfg * 2 ^ 20 < t.rowStoreBudget o.gdie) then .error stNospace
      else .ok t

/-- Stack dies that are off and on which a segment now stands are powered on (R323). -/
def State.wakeNamed (s : State) : State :=
  (s.firm.dieOff.filter fun p => s.allSegs.any fun e => match s.placed e.2.2 with
    | some (_, pa, n) => overlaps (p.1 * 2 ^ 36 + p.2 * 2 ^ 32) (2 ^ 32) pa n
    | none => false).foldl State.wakeDie s

/-- LOAD_SEGMENTS: entries, objects and models, with room in the pools where the entries are placed, then the SFLUSH of R117. The
command has its turn on the address space and on the model contexts that it defines (R331), and waits until the layers that it evicts, and the earlier accesses of the address space, are done. -/
def execLoadSegments (h : HostCmd) (asid : BitVec 12) (first : Nat) (es : List SegEntry) (os : List ObjDef)
    (ms : List ModelDef) (s : State) : Out :=
  let ons := CmdOn.space asid :: ms.map (CmdOn.model ·.num)
  hostCommand h 0x02 .other s (inTurns h ons s
    (match s.loaded asid first es os ms with
     | .error st => .next (s.respond h 0x02 st)
     | .ok t =>
       let need := (allPools.map fun p => (p, t.poolUsed p - s.poolUsed p)).filter (·.2 != 0)
       match s.makeRooms [] 8 need with
       | .refused u => .next (u.respond h 0x02 stNospace)
       | .draining u => .next (ons.foldl (·.enqueue h ·) u)
       | .free u =>
         if !u.asidDrained asid (allCores.map fun c => (c, u.tick)) then .next (ons.foldl (·.enqueue h ·) u)
         else match u.loaded asid first es os ms with
           | .error st => .next (u.respond h 0x02 st)
           | .ok v => .next ((v.wakeNamed.discard asid).settle.respond h 0x02 stOk)))

/-! ### Model contexts (R309 to R312) -/

def State.model (s : State) (m : Nat) : Option Model := s.models.find? (·.defn.num == m)

def State.setModel (s : State) (m : Model) : State :=
  { s with models := s.models.map fun p => if p.defn.num = m.defn.num then m else p }

/-- A command on a model context begins once the earlier ones, and the evictions that act on it, have ended (R309). -/
def onModel (h : HostCmd) (opc m : Nat) (s : State) (k : State → Model → Out) : Out :=
  if 256 ≤ m then .next (s.respond h opc stBadcmd)
  else inTurn h (.model m) s
    (let s := s.drainLeaving
     match s.model m with
     | none => .next (s.respond h opc stNosuch)
     | some p => if p.cmd.isSome ∨ p.leaving ≠ [] then .next (s.enqueue h (.model m)) else k s p)

/-- SWAPIN: it answers at once where no layer is absent, and else when LAYER_RESIDENT has brought the last. -/
def execSwapin (h : HostCmd) (m : Nat) (s : State) : Out :=
  hostCommand h 0x03 .other s (onModel h 0x03 m s fun s p =>
    if p.defn.layers.all fun l => (s.entry p.asid l.1).res then .next (s.respond h 0x03 stOk)
    else .next ((s.setModel { p with cmd := some h, swap := .swapping }).enqueue h (.model m)))

/-- The SWAPIN of a model context ends. -/
def State.endSwap (s : State) (m : Nat) (h : HostCmd) (status : Nat) : State :=
  (State.settle { s with models := s.models.map fun p => if p.defn.num = m then { p with cmd := none } else p }).respond h 0x03 status

/-- The bytes of an absent layer come to stand at their place: from the capacity tier, or as they arrive from another node. -/
def State.bringLayer (s : State) (b : Backing) (bytes : List Byte) (pa n : Nat) : State :=
  match b.node with
  | none => s.copyBytes (capacityBase + b.addr) pa n
  | some _ => { s with firm := s.firm.touchRange pa n }.writeAllViews pa ((bytes ++ List.replicate n 0).take n)

/-- No access to the backing bytes of a layer is on its way, so that every die takes the same ones (R258, R310). -/
def State.backingQuiet (s : State) (b : Backing) (n : Nat) : Bool := b.node.isSome || s.rangeQuiet (capacityBase + b.addr) n

/-- Another segment in use names the same governed object, whose home copy therefore stands. -/
def State.stands (s : State) (a : BitVec 12) (i : Nat) (e : SegEntry) : Bool :=
  e.tier == 3 && s.allSegs.any fun p => p.2.2.tier == 3 && p.2.2.obj == e.obj && p.2.2.vleng != 0
    && !(p.1 == a && p.2.1 == i) && s.occupies p.1 p.2.1 p.2.2

/-- A layer that is neither resident nor on the move (R346). -/
def State.absentLayer (s : State) (p : Model) : Option (Nat × Backing) :=
  p.defn.layers.find? fun l => !(s.entry p.asid l.1).res && !s.isMoving p.asid l.1

/-- LAYER RESIDENT: the first absent layer takes space and a place, its bytes land, and RES is set (R310). A home copy that another
entry in use names keeps its place, and a stack die that is off is powered on where only it has a place (R323). The command ends when every
layer is resident, those included that firmware was moving. -/
def execLayerResident (m : Nat) (bytes : List Byte) (s : State) : Out :=
  match s.model m with
  | none => .next s
  | some p =>
    let finish := fun (t : State) (h : HostCmd) =>
      if p.defn.layers.all fun l => (t.entry p.asid l.1).res then Host.Outcome.next (t.endSwap m h stOk) else .next t
    match p.cmd, s.absentLayer p with
    | some h, some (i, b) =>
      let e := s.entry p.asid i
      let done := fun (t : State) =>
        let e := t.entry p.asid i
        finish ((t.setEntry p.asid i (e.noPoison.withRes true)).dropCode p.asid e) h
      (match s.placed e with
       | none => done s
       | some (pool, now, n) =>
         match s.makeRooms [m] p.defn.cls ((pool, n) :: if e.repl then [(pool.replica, n)] else []) with
         | .refused t => .next (t.endSwap m h stNospace)
         | .draining t => .next t
         | .free t =>
           let at_ := if t.stands p.asid i e then some now else t.choosePlace pool (some now) n []
           match at_, (if pool = .stack then t.firm.dieOff else []) with
           | none, off :: _ => .next (t.wakeDie off)
           | none, [] => .next (t.endSwap m h stNospace)
           | some pa, _ =>
             if !(t.rangeQuiet pa n && t.backingQuiet b n) then .next t
             else
               let t := t.bringLayer b bytes pa n
               done (if pa = now then t else t.replace p.asid i e pool pa))
    | some h, none => finish s h
    | none, _ => .next s

/-- EVICT: the layers named lose their residency, and the command answers once they have drained (R309, R312). -/
def execEvict (h : HostCmd) (m : Nat) (layer : BitVec 16) (s : State) : Out :=
  hostCommand h 0x04 .other s (onModel h 0x04 m s fun s p =>
    let all := p.defn.layers.map (·.1)
    let pick : Option (List Nat) :=
      if layer = 0xFFFF then some all else (all[layer.toNat]?).map fun i => [i]
    if layer ≠ 0xFFFF ∧ 256 ≤ layer.toNat then .next (s.respond h 0x04 stBadcmd)
    else match pick with
      | none => .next (s.respond h 0x04 stNosuch)
      | some is =>
        let t := ((is.filter fun i => (s.entry p.asid i).res).foldl (fun s i => s.evictLayer p.asid i) s).drainLeaving
        match t.model m with
        | some q => if q.leaving = [] then .next (t.respond h 0x04 stOk) else .next (t.enqueue h (.model m))
        | none => .next t)

/-! ### Launches and gangs (R283 to R285, R333, R338) -/

/-- The queued copy of a record that a host gives; PRIV is honoured (R284). -/
def State.hostCopy (s : State) (asid : BitVec 12) (r : Rec) : QRec :=
  { rec_ := r, asid := asid, stamp := s.firm.us, priv := r.priv, level := r.prio, entered := s.firm.us }

/-- What refuses a host's record, with the detail of R283, where cores are those on which it may run. -/
def State.recDetail (s : State) (cores : List CoreId) (q : QRec) : Option Nat :=
  if q.rec_.share || !q.rec_.fieldsOk then some 0x06
  else if !(cores.any fun d => (s.core d).phys.isSome && ((s.core d).emptied.fit q).isSome) then some 0x0B
  else none

/-- LAUNCH: a push for which the ready queues have no room holds the command (R286, log 58). -/
def execLaunch (h : HostCmd) (d : DieId) (asid : BitVec 12) (r : Rec) (s : State) : Out :=
  hostCommand h 0x05 .launch s (inTurn h (.space asid) s
    (let q := s.hostCopy asid r
     let c : CoreId := Fin.ofNat 128 (32 * d.val)
     if (s.space asid).isNone then .next (s.respond h 0x05 stNosuch)
     else match s.recDetail (recCores c q) q with
       | some detail => .next (s.respond h 0x05 stBadcmd (bytesOf 1 detail))
       | none =>
         if !s.readyRoom ((readyDie c q).getD d) then .next (s.enqueue h (.space asid))
         else
           let t := if r.akind = 0 then
               let q := { q with order := s.firm.order }
               { s with firm := { s.firm with order := s.firm.order + 1 } }.pushReady d q
             else s.pushRec c q []
           .next (t.respond h 0x05 stOk)))

/-- The cores on which a gang's record may run: under AKIND 0 any core of the module (R338). -/
def gangCores (r : Rec) : List CoreId :=
  match r.akind with
  | 0 => (List.range 128).map (Fin.ofNat 128)
  | 1 => coresOf (Fin.ofNat 4 r.atarget)
  | _ => [Fin.ofNat 128 r.atarget]

/-- What the gang's record takes of its core. -/
def Place.reserve (p : Place) (gang : Nat) (q : QRec) : Reserve :=
  { gang := gang, vgroup := p.vgroup, vgroups := q.rec_.vgroups, sbank := p.sbank, snb := p.snb, agroup := p.agroup,
    agroups := q.rec_.agroups }

/-- GANG_ARM: a slot of a fitting core, and the record's allotments there, are held; which such core is free (log 44). -/
def execGangArm (h : HostCmd) (gang : Nat) (asid : BitVec 12) (armus : BitVec 32) (r : Rec) (s : State) : Out :=
  hostCommand h 0x06 .launch s (inTurns h [.gang gang, .space asid] s
    (let q := s.hostCopy asid r
     if armus = 0 then .next (s.respond h 0x06 stBadcmd)
     else if (s.space asid).isNone then .next (s.respond h 0x06 stNosuch)
     else if s.gangs.any (·.num == gang) then .next (s.respond h 0x06 stBusy)
     else match s.recDetail (gangCores r) q with
       | some detail => .next (s.respond h 0x06 stBadcmd (bytesOf 1 detail))
       | none =>
         let can := (gangCores r).filterMap fun c => match (s.lookers c).head?, (s.core c).fit q with
           | some b, some p => if (s.core c).beingCleared q p then none else some (c, b, p)
           | _, _ => none
         match can[Config.choice s.tick 2 % can.length]? with
         | none => .next ((s.enqueue h (.gang gang)).enqueue h (.space asid))
         | some (c, b, p) =>
           let k := s.core c
           let g : Gang := { num := gang, core := c, bank := b, rec_ := q, since := s.firm.us, armus := armus.toNat }
           .next (({ s with gangs := s.gangs ++ [g] }.setCore c { k with reserved := k.reserved ++ [p.reserve gang q] }).respond
             h 0x06 stOk)))

/-- A gang gives up its slot and what it holds. -/
def State.disarm (s : State) (g : Gang) : State :=
  let k := s.core g.core
  ({ s with gangs := s.gangs.filter (·.num != g.num) }).setCore g.core
    { k with reserved := k.reserved.filter (·.gang != g.num) }

def State.expired (s : State) (g : Gang) : Bool := decide (g.armus ≤ s.firm.us - g.since)

/-- GANGEXP: ARMUS has passed without GANG_GO. -/
def execGangexp (gang : Nat) (s : State) : Out :=
  match s.gangs.find? (·.num == gang) with
  | none => .next s
  | some g => if s.expired g then .next ((s.disarm g).send 0x18 [gang]) else .next s

/-- GANG_GO: the held slot dispatches the record at once (log 59). -/
def execGangGo (h : HostCmd) (gang : Nat) (s : State) : Out :=
  hostCommand h 0x07 .other s (inTurn h (.gang gang) s
    (match s.gangs.find? (·.num == gang) with
     | none => .next (s.respond h 0x07 stNosuch)
     | some g =>
       if s.expired g then .next (((s.disarm g).send 0x18 [gang]).respond h 0x07 stNosuch)
       else match (s.core g.core).reserved.find? (·.gang == gang) with
         | none => .next ((s.disarm g).respond h 0x07 stNosuch)
         | some v =>
           let p : Place := { vgroup := v.vgroup, sbank := v.sbank, snb := v.snb, agroup := v.agroup }
           .next (((s.disarm g).dispatch g.core g.bank g.rec_ p g.rec_.level).respond h 0x07 stOk)))

/-! ### QUERY (R335, R341, R354, R356) -/

/-- 64-bit results. -/
def dwords (l : List Nat) : List Byte := l.flatMap (bytesOf 8)

def allDies : List DieId := [0, 1, 2, 3]

/-- Bytes as data flits. -/
def flitsOf (bs : List Byte) : List Row :=
  (List.range ((bs.length + 255) / 256)).map fun i => BitVec.ofNat 2048 (natOfBytes ((bs.drop (256 * i)).take 256))

def execQueryHeatStatistics (h : HostCmd) (s : State) : Out :=
  answerWith h 0x08 .inquiry s (dwords (allDies.flatMap fun d => (List.range 4).map fun i => (s.dies[d].heatst i).toNat))

def execQueryPoolOccupancy (h : HostCmd) (s : State) : Out :=
  answerWith h 0x08 .inquiry s (dwords ([s.poolSize .stack, s.poolUsed .stack, s.poolSize .cap, s.poolUsed .cap]
    ++ (allDies.flatMap fun d => [dsmBytes, s.sharedUsed d]) ++ allDies.map s.rowStoreHeld))

def execQueryLoadedSpaces (h : HostCmd) (s : State) : Out :=
  let l := sortBy (fun a b : Nat => decide (a ≤ b)) (s.spaces.map (·.asid.toNat))
  answerWith h 0x08 .inquiry s (bytesOf 4 l.length ++ l.flatMap (bytesOf 2))

def execQueryEventLog (h : HostCmd) (s : State) : Out :=
  let n := s.firm.events.length
  let last := (s.firm.events.zipIdx.drop (n - 16)).map fun (e, i) => e.code % 256 + ((s.firm.evCount - n + i + 1) % 2 ^ 32) * 2 ^ 32
  answerWith h 0x08 .inquiry s (dwords (s.firm.evCount :: last))

/-- An error counter rises and saturates (R341). -/
def State.countErr (s : State) (i : Fin 8) (n : Nat := 1) : State :=
  { s with firm := { s.firm with errs := s.firm.errs.set i (min (s.firm.errs[i] + n) (2 ^ 64 - 1)) } }

/-- The capacity-tier errors that chip-kill has corrected and the links' retries since the last look, of which a program sees
nothing; how many there were is free (R340, log 61). -/
def State.quietErrors (s : State) : State :=
  (s.countErr 3 (Config.choice s.tick 7)).countErr 7 (Config.choice s.tick 8)

def execQueryErrorCounters (h : HostCmd) (s : State) : Out :=
  hostCommand h 0x08 .inquiry s (.next (s.quietErrors.respond h 0x08 stOk (dwords s.quietErrors.firm.errs.toList)))

def execQueryCertificate (h : HostCmd) (s : State) : Out :=
  answerWith h 0x08 .inquiry s (bytesOf 4 Config.certificate.length) (flitsOf Config.certificate)

/-- The 256 bytes of the sparing map (R354). -/
def State.sparingMap (s : State) : List Byte :=
  (s.cores.toList.map fun k => BitVec.ofNat 8 (k.phys.getD 255))
    ++ (allDies.map fun d => BitVec.ofNat 8 s.dies[d].spares.length)
    ++ (allDies.map fun d => BitVec.ofNat 8 s.dies[d].badBanks.length)
    ++ (allDies.flatMap fun d => (List.range 4).map fun i => BitVec.ofNat 8 ((s.dies[d].badBanks[i]?).getD 0))
    ++ List.replicate 104 0

def execQuerySparingMap (h : HostCmd) (s : State) : Out := answerWith h 0x08 .inquiry s [] (flitsOf s.sparingMap)

def execQueryMemorySpares (h : HostCmd) (s : State) : Out :=
  answerWith h 0x08 .inquiry s (s.firm.sparePc.toList.flatMap (bytesOf 1) ++ s.firm.softRep.toList.flatMap (bytesOf 4)
    ++ s.firm.badDev.toList.flatMap (bytesOf 1))

/-! ### SET_POLICY (R334) -/

/-- A policy whose value must be in range. -/
def setPolicy (h : HostCmd) (ok : Bool) (s : State) (k : State) : Out :=
  hostCommand h 0x09 .other s (.next (if ok then k.respond h 0x09 stOk else s.respond h 0x09 stBadcmd))

/-- No context holds a bank that a change of MSGN affects, below the larger value, and none is still being cleared (R232, R244). -/
def Core.msgnFree (k : Core) (n : Nat) : Bool :=
  (k.usedBanks.all fun b => decide (max k.msgn n ≤ b)) && k.clearing.all fun t => t.1 || decide (max k.msgn n ≤ t.2)

/-- MSGN is set and every row of the affected banks cleared (R244). -/
def Core.applyMsgn (k : Core) (n : Nat) : Core :=
  let m := max k.msgn n
  { k with
    msgn := n
    msgnNew := k.msgnNew.drop 1
    spad := k.spad.filter fun r => decide (m ≤ r.1 / 256)
    spadBad := k.spadBad.filter fun r => decide (m ≤ r / 256)
    barriers := k.barriers.filter fun a => decide (m ≤ a / 65536) }

/-- SET_POLICY 0x01: the change counts from the command's arrival; it waits for the contexts that hold the affected banks, and for
the changes of the core that came before. -/
def execSetMsgn (h : HostCmd) (c : CoreId) (v : Word) (s : State) : Out :=
  hostCommand h 0x09 .other s
    (let k := s.core c
     let n := v.toNat
     if 8 < n then .next (s.respond h 0x09 stBadcmd)
     else
       let k := if k.msgnNew.any (·.2.same h) then k else { k with msgnNew := k.msgnNew ++ [(n, h)] }
       if (k.msgnNew.head?.any (·.2.same h)) && k.msgnFree n then .next ((s.setCore c (k.applyMsgn n)).respond h 0x09 stOk)
       else .next (s.setCore c k))

def execSetBlkthr (h : HostCmd) (v : Word) (s : State) : Out :=
  setPolicy h (decide (64 ≤ v.toNat) && decide (v.toNat ≤ 65535)) s { s with firm := { s.firm with blkthr := v.toNat } }

def execSetHeatcfg (h : HostCmd) (v : Word) (s : State) : Out :=
  hostCommand h 0x09 .other s (.next (
    if !heatOk v then s.respond h 0x09 stBadcmd
    else if !s.rowStoreFits (heatRsMib v) then s.respond h 0x09 stNospace
    else (s.setHeat v).respond h 0x09 stOk))

/-- SET_POLICY 0x04: disabling powers the stack dies on again (R323). -/
def execSetDeepRetention (h : HostCmd) (v : Word) (s : State) : Out :=
  let t := if v = 0 then s.firm.dieOff.foldl State.wakeDie s else s
  setPolicy h (decide (v.toNat < 2 ^ 32)) s { t with firm := { t.firm with dridle := v.toNat } }

def execSetFtout (h : HostCmd) (v : Word) (s : State) : Out :=
  setPolicy h (decide (1 ≤ v.toNat) && decide (v.toNat ≤ 2 ^ 20)) s { s with firm := { s.firm with ftout := v.toNat } }

def execSetAgeus (h : HostCmd) (p : BitVec 3) (v : Word) (s : State) : Out :=
  setPolicy h (decide (v.toNat < 2 ^ 32)) s
    { s with firm := { s.firm with ageus := s.firm.ageus.set p.toNat v.toNat p.isLt } }

/-- SET_POLICY 0x07: the segment is read-duplicated on the dies named, among them its home die, or single again (R308, log 57). It
waits while a collapse is going on. -/
def execSetDuplication (h : HostCmd) (asid : BitVec 12) (idx : Nat) (v : DupPolicy) (s : State) : Out :=
  hostCommand h 0x09 .other s (inTurn h (.space asid) s
    (let e := s.entry asid idx
     if 1024 ≤ idx ∨ 2 ≤ v.dup.toNat then .next (s.respond h 0x09 stBadcmd)
     else if (s.space asid).isNone ∨ e.vleng = 0 then .next (s.respond h 0x09 stNosuch)
     else if v.dup = 1 ∧ !v.dhold.getLsbD (s.segHome e).val then .next (s.respond h 0x09 stBadcmd)
     else if e.dup = 2 then .next (s.enqueue h (.space asid))
     else if v.dup = 0 then .next ((s.collapseDup asid idx).respond h 0x09 stOk)
     else .next ((s.setDup asid idx 1 v.dhold.toNat).respond h 0x09 stOk)))

/-- SET_POLICY 0x08: an object's row-store budget (R320). -/
def execSetRsslots (h : HostCmd) (obj : Nat) (slots : Nat) (s : State) : Out :=
  hostCommand h 0x09 .other s (.next (
    match s.obj obj with
    | none => s.respond h 0x09 stNosuch
    | some o =>
      if o.defn.rows < slots then s.respond h 0x09 stBadcmd
      else
        let t := s.setObj { o with defn := { o.defn with rsslots := slots } }
        if heatRsMib s.firm.heatcfg * 2 ^ 20 < t.rowStoreBudget o.defn.gdie then s.respond h 0x09 stNospace
        else (t.calveObj obj o.rows.length).respond h 0x09 stOk))

/-! ### ATTEST, RETIRE and unknown commands (R332, R333, R357) -/

def digestBytes (b : BitVec 256) : List Byte := bytesOf 32 b.toNat

/-- ATTEST. -/
def execAttest (h : HostCmd) (nonce : List Byte) (s : State) : Out :=
  hostCommand h 0x0A .inquiry s
    (if 32 < nonce.length then .next (s.respond h 0x0A stBadcmd)
     else
       let n := nonce ++ List.replicate (32 - nonce.length) 0
       let count := bytesOf 8 s.firm.pwrCount
       let sig := Config.sm2Sign s.firm.idKey (digestBytes (Config.sm3 (n ++ digestBytes s.firm.meas ++ count))) s.tick
       .next (s.respond h 0x0A stOk (n ++ digestBytes s.firm.meas ++ count ++ bytesOf 64 sig.toNat)))

/-- MEAS, which bring-up takes: over the ROM, the image, the record and the sparing map (R357). -/
def State.measure (s : State) (image record : List Byte) : BitVec 256 :=
  Config.sm3 (digestBytes (Config.sm3 Config.romBytes) ++ digestBytes (Config.sm3 image) ++ digestBytes (Config.sm3 record)
    ++ s.sparingMap)

/-- No context is resident, on its way to or from the park area, parked, or about to start. -/
def State.allDone (s : State) : Bool := s.cores.toList.all fun k => k.residents.isEmpty && k.due.isEmpty

/-- The RETIRE commands that wait for the drain, h among them, in the order of their arrival. -/
def Firm.drainers (f : Firm) (h : HostCmd) : List HostCmd := if f.draining.any (·.same h) then f.draining else f.draining ++ [h]

/-- RETIRE: with the drain flag it answers once every context has ended, as do all that wait for the same, and only QUERY and ATTEST
are then accepted (log 58). -/
def execRetire (h : HostCmd) (drain : Bool) (s : State) : Out :=
  hostCommand h 0x0B .other s
    (let s := { s with firm := { s.firm with accepting := false } }
     if !drain then .next (s.respond h 0x0B stOk)
     else if s.allDone then
       .next ((s.firm.drainers h).foldl (fun s g => s.respond g 0x0B stOk)
         { s with firm := { s.firm with drained := true, draining := [] } })
     else .next { s with firm := { s.firm with draining := s.firm.drainers h } })

/-- The class of a command by its OPC. -/
def CmdClass.ofOpc (opc : Byte) : CmdClass :=
  if opc = 0x08 ∨ opc = 0x0A then .inquiry else if opc = 0x05 ∨ opc = 0x06 then .launch else .other

/-- UNKNOWN COMMAND: an unknown OPC, selector or key, or an argument out of range: BADCMD, with the command's own OPC (R332, R335). -/
def execUnknownCommand (h : StrayCmd) (s : State) : Out :=
  hostCommand h.cmd h.opc.toNat (.ofOpc h.opc) s (.next (s.respond h.cmd h.opc.toNat stBadcmd))
end Sys2Proof.Machine
end

