-- ==== Sys2Proof/Machine/Index.lean ====
section
/-! DEFINITION. The index engine: IXG, IXS and IXSA (R172, R177, R178, R257). -/

namespace Sys2Proof.Machine

/-- A command block (R177). -/
structure IxBlk where
  tbase  : Nat
  idx    : Nat
  data   : Nat
  esize  : Nat
  space  : Nat
  atype  : Nat
  skip   : Nat
  stride : Nat
  ok     : Bool

/-- The block of 64 bytes; `sa` says that ATYPE names elements (log 49). -/
def IxBlk.ofNat (v : Nat) (sa : Bool) : IxBlk :=
  let at_ := fun lo n => v / 2 ^ (8 * lo) % 2 ^ (8 * n)
  { tbase := at_ 0 8, idx := at_ 8 4, data := at_ 12 4, esize := at_ 16 1, space := at_ 17 1, atype := at_ 18 1,
    skip := at_ 19 1, stride := at_ 20 4,
    ok := 2 ≤ at_ 16 1 && at_ 16 1 ≤ 8 && at_ 17 1 ≤ 1 && at_ 19 1 ≤ 1 && at_ 24 40 == 0
      && (if sa then at_ 18 1 ≤ 3 && decide (atypeBits (at_ 18 1) ≤ 8 * 2 ^ at_ 16 1) else at_ 18 1 == 0) }

/-- The address of an entry's element, aligned down to its size (R178). -/
def IxBlk.addr (b : IxBlk) (i : Nat) : Nat :=
  let z := 2 ^ b.esize
  (b.tbase + i * (if b.stride = 0 then z else b.stride)) % 2 ^ 64 / z * z

/-- The addresses of an element's sectors, and the bytes in each. -/
def IxBlk.sectors (b : IxBlk) (a : Nat) : List Nat := (List.range ((2 ^ b.esize + 31) / 32)).map fun j => a + 32 * j
def IxBlk.part (b : IxBlk) : Nat := min 32 (2 ^ b.esize)

/-- An index macro: the first unit reads the block and the list's count, which `aux` then holds; each further unit is an entry,
whose element the continuation moves. The block's address is aligned down to 64 bytes (R177; DEDUCED, log 49). -/
def indexWord (s : State) (sa : Bool) (k : Ctx → Run → IxBlk → Nat → Nat → (Run → Run) → Out) : Out :=
  macroWord s fun x r =>
    match r.aux with
    | v :: c :: _ =>
      let b := IxBlk.ofNat v sa
      if c ≤ r.done then s.putRun x (r.did true 0)
      else orFault s x r (readBytes s.myCore x (b.idx / 256 * 256 + 4 * (1 + r.done)) 4) fun i =>
        let after := fun r : Run => r.did (r.done + 1 == c)
        if b.skip = 1 ∧ i = 0xFFFFFFFF then s.putRun x (after r)
        else k x r b (b.addr i) (b.data / 256 * 256 + r.done * 2 ^ b.esize) after
    | _ =>
      let part := do
        let v ← readBytes s.myCore x (r.q.cap.sa.toNat / 64 * 64) 64
        let b := IxBlk.ofNat v sa
        need b.ok .illegal 6
        let c ← readBytes s.myCore x (b.idx / 256 * 256) 4
        pure (v, c)
      orFault s x r part fun (v, c) => s.putRun x { r with aux := [v, c], fin := c == 0 }

/-- IXG. -/
def execIxg (_ : EM) (s : State) : Out :=
  indexWord s false fun x r b a d after =>
    let z := 2 ^ b.esize
    if b.space = 1 then
      orFault s x r (do let v ← readBytes s.myCore x a z; writeBytes s.myCore x d z v) fun k => (s.putCore k).putRun x (after r)
    else
      withPlaces s x r r .read (b.sectors a) fun ls s =>
        let v := ofElems (8 * b.part) (ls.map fun l => natOfBytes (s.readLoc s.myDie s.myCore l b.part))
        orFault s x r (writeBytes s.myCore x d z v) fun k => (s.putCore k).putRun x (after r)

/-- The cells of an element at its places. -/
def elemCells (n : Nat) (ls : List Loc) (v : Nat) : List Host.Cell :=
  ls.zipIdx.flatMap fun (l, j) => match l with
    | .mem pa => cellsAt pa (bytesOf n (v >>> (8 * n * j)))
    | _ => []

/-- IXS. -/
def execIxs (_ : EM) (s : State) : Out :=
  indexWord s false fun x r b a d after =>
    let z := 2 ^ b.esize
    orFault s x r (readBytes s.myCore x d z) fun v =>
      if b.space = 1 then orFault s x r (writeBytes s.myCore x a z v) fun k => (s.putCore k).putRun x (after r)
      else withPlaces s x r r .write (b.sectors a) fun ls s =>
        match s.writeSectors (elemCells b.part ls v) (some (s.cur.core, x.id.serial)) with
        | none => .next s
        | some s => s.putRun x (after r)

/-- The elements of one sector added at the bank ALU (R111, R178, R243). -/
def State.bankAdd (s : State) (x : Ctx) (atype n v : Nat) (l : Loc) : Option State :=
  match l with
  | .mem pa => (s.bankOp s.myDie pa n (some (s.cur.core, x.id.serial)) fun old => addBytes atype n old v).map (·.2)
  | _ => none

/-- The die of the thread has applied the additions of an element at other dies; `aux` holds their clock (R248, R256). -/
def Run.addedAt (r : Run) : List Nat := r.aux.drop 2

/-- IXSA. -/
def execIxsa (_ : EM) (s : State) : Out :=
  indexWord s true fun x r b a d after =>
    let z := 2 ^ b.esize
    orFault s x r (readBytes s.myCore x d z) fun v =>
      if b.space = 1 then
        orFault s x r (do let old ← readBytes s.myCore x a z; writeBytes s.myCore x a z (addBytes b.atype z old v))
          fun k => (s.putCore k).putRun x (after r)
      else withPlaces s x r r .write (b.sectors a) fun ls s =>
        let away := ls.any fun l => match l with | .mem pa => decide (homeDie pa ≠ s.myDie) | _ => false
        if !ls.all inShared then s.runFault x r .perm 1 0 a
        else if r.addedAt ≠ [] then
          (if s.clockReached s.myDie r.addedAt then s.putRun x (after { r with aux := r.aux.take 2 }) else .next s)
        else match ls.zipIdx.foldlM (fun (s : State) (l, j) =>
            s.bankAdd x b.atype b.part (v >>> (8 * b.part * j) % 2 ^ (8 * b.part)) l) s with
          | none => .next s
          | some s => if away then
              let seen := (ls.filterMap fun l => match l with | .mem pa => some s.vc[homeDie pa].toList | _ => none).foldl
                (fun a c => a.zipWith max c) (List.replicate 4 0)
              s.putRun x { r with aux := r.aux ++ seen }
            else s.putRun x (after r)
end Sys2Proof.Machine
end

