-- ==== Sys2Proof/Machine/Permute.lean ====
section
/-! DEFINITION. Permutes and moves (R135 to R139). -/

namespace Sys2Proof.Machine

/-- The bytes of two registers, one after the other. -/
def bytePair (a b : VWord) : Nat := a.toNat + b.toNat * 2 ^ 1024

def execVpermb (o : V4) (s : State) : Out :=
  xWord s o.g [o.va, o.vb, o.vc] [] [] fun x q =>
    let c := bytePair (s.vread x o.va) (s.vread x o.vb)
    s.xIssue x q 2 (x.outMap s o.g 8 o.vd [o.vc] fun l => (c >>> (8 * l.headD 0)) % 256)

def execVperml (o : V4) (s : State) : Out :=
  xWord s o.g [o.va, o.vb, o.vc] [] [] fun x q =>
    let c := bytePair (s.vread x o.va) (s.vread x o.vb)
    s.xIssue x q 2 (x.outMap s o.g 32 o.vd [o.vc] fun l =>
      let i := l.headD 0
      if i.testBit 6 then 0 else (c >>> (32 * (i % 64))) % 2 ^ 32)

/-- The value that VBCAST writes (R136). An F32 NaN widened to F64 gives the canonical NaN, as a conversion does (R49; DESIGN CHOICE,
log 74). -/
def broadcastValue (o : VS) (t : ElemType) (sa : Word) : Nat :=
  if o.srcBit then sa.toNat % 2 ^ t.width
  else if t = .f64 then encodeF f64F .rne false 0 (decodeF f32F o.imm32.toNat)
  else if t = .i64 then wrapInt 64 o.imm32.toInt
  else o.imm32.toNat % 2 ^ t.width

def execVbcast (o : VS) (s : State) : Out :=
  match o.ty with
  | none => .next s
  | some t =>
    xWord s o.g [] [] [] fun x q =>
      s.xIssue x q 2 (x.outElems o.g t.width o.vd (List.replicate (elems t.width) (broadcastValue o t q.cap.sa)))

/-- The byte amount of VROT and VRMRG (R137). -/
def byteAmount (o : V4) (x : Ctx) (s : State) : Nat := if o.immBit then o.amt7 else fieldNat (s.vread x o.vc) 0 7
def amountReg (o : V4) : List VReg := if o.immBit then [] else [o.vc]

def execVrot (o : V4) (s : State) : Out :=
  xWord s o.g (o.va :: amountReg o) [] [] fun x q =>
    let a := s.vread x o.va
    s.xIssue x q 2 (x.outElems o.g 8 o.vd (elemsOf 8 (a.rotateRight (8 * byteAmount o x s))))

def execVrmrg (o : V4) (s : State) : Out :=
  xWord s o.g (o.va :: o.vb :: amountReg o) [] [] fun x q =>
    let c := bytePair (s.vread x o.va) (s.vread x o.vb)
    s.xIssue x q 2 (x.outElems o.g 8 o.vd (elemsOf 8 (BitVec.ofNat 1024 (c >>> (8 * byteAmount o x s)))))

/-- VINSL (R138). -/
def execVinsl (o : VS) (s : State) : Out :=
  match o.ty with
  | none => .next s
  | some t =>
    xWord s o.g [] [] [] fun x q =>
      s.xIssue x q 2 (x.outElems o.g t.width o.vd [q.cap.sa.toNat] o.imm32.toNat)

/-- VEXTL (R138): its guard tests the lane of the element, and its result is a scalar of the control core. -/
def execVextl (o : VS) (s : State) : Out :=
  match o.ty with
  | none => .next s
  | some t =>
    xWordRes s o.g (fun x => x.active o.g t.width o.imm32.toNat) [o.va] [] fun x q =>
      let e := elemOf t.width (s.vread x o.va) o.imm32.toNat
      s.xIssue x q 2 (.scalar o.sa (if t.isSigned then BitVec.ofInt 64 (signedOf t.width e) else BitVec.ofNat 64 e))

/-- VIOTA (R139). -/
def execViota (o : V4) (s : State) : Out :=
  xWord s o.g [] [] [] fun x q =>
    s.xIssue x q 2 (x.outElems o.g o.ty.width o.vd ((List.range (elems o.ty.width)).map fun (j : Nat) =>
      if o.ty = .f32 then encodeF f32F .rne false 0 (FVal.ofInt (j : Nat)) else j))
end Sys2Proof.Machine
end

