-- ==== Sys2Proof/Machine/Repair.lean ====
section
/-! DEFINITION. Errors, repair and staying in service, and deep retention (R323, R340 to R352). -/

namespace Sys2Proof.Machine

/-! ### SRAM and registers (R342 to R345) -/

/-- SCRUB VISIT: a single-bit error is corrected and counted; no state that a program sees changes. -/
def execScrubVisit (err : Bool) (s : State) : Out := .next (if err then s.countErr 0 else s)

/-- SCRATCHPAD ROW POISON: a physical row is marked. -/
def execScratchpadRowPoison (c : CoreId) (acc : Bool) (row : Nat) (s : State) : Out :=
  let k := s.core c
  .next (if acc then
      (if row < accRows ∧ !k.accBad.contains row then s.setCore c { k with accBad := row :: k.accBad } else s)
    else if row < spadRows ∧ !k.spadBad.contains row then s.setCore c { k with spadBad := row :: k.spadBad } else s)

/-! ### Core failure (R350, R351) -/

/-- The first n operations of a context, which have been sent, complete (R350); it stands in a bank, or in the park area or on its way. -/
def completeOps (c : CoreId) (serial : BitVec 32) (s : State) : Nat → State
  | 0 => s
  | n + 1 => match (s.core c).residents.find? (·.id.serial == serial) with
    | none => s
    | some x =>
      let stands := ((s.core c).banks[x.id.bank]).any (·.id.serial == serial)
      match s.opRun c x 0 fun s y => if stands then s.setCtxAt c x.id.bank (some y) else s.setAway c y with
      | .next t => completeOps c serial t n
      | _ => s

/-- The shared allotments of a failed core: the owners have ended, and so have the sharers that are not pushed again (R295, R350). -/
def Core.sharesLeft (k : Core) : List Share :=
  (k.shares.map fun t => { t with
    ended := true
    count := t.count - (k.residents.filter fun x => x.id.share && !x.id.replay && x.id.sbank == t.sbank && x.id.snb == t.snb).length
    }).filter (·.count != 0)

/-- A core as it takes over a COREID: empty, with the policy, the serial number and the shared allotments of the COREID. -/
def Core.renew (k : Core) (phys : Option Nat) : Core :=
  { k with
    phys := phys
    banks := Vector.replicate 3 none
    active := none
    staging := none
    parked := []
    spad := []
    acc := []
    vregs := []
    spadBad := []
    accBad := []
    clearing := []
    barriers := []
    deque := []
    spill := []
    steal := #v[0, 0, 0]
    due := []
    shares := k.sharesLeft
    icache := []
    owners := Vector.replicate 6 none
    dupFail := [] }

/-- What becomes of a context of a failed core: it is pushed again from its copy, or it stops with CTXFATAL, as one that has stopped
already does with its own TCAUSE. -/
def State.replayOrStop (s : State) (c : CoreId) (x : Ctx) : State :=
  if x.id.replay && x.fatal.isNone then s.pushFirm (dieOf c) { x.id.copy with entered := s.firm.us }
  else s.send 0x11 [x.id.copy.rec_.toNat, (x.fatal.getD x.sys.tcause).toNat]

/-- Records bound to a COREID that leaves service are discarded (R350). -/
def State.dropBound (s : State) (c : CoreId) : State :=
  let d := s.dies[dieOf c]
  let mine := fun q : QRec => q.bound == some c
  let t := s.setDie (dieOf c) { d with ready := d.ready.filter (!mine ·), held := d.held.filter (!mine ·) }
  ((d.ready ++ d.held).filter mine).foldl (fun s q => s.send 0x10 [q.rec_.toNat]) (t.admitHeld (dieOf c))

/-- The failure of a core (R350); `lost` numbers the entries of its deque that an error has destroyed. A record that an idle slot has
obtained and not started goes back to the ready queue at its level. How many of each context's
pending operations had been sent is free (log 45, log 62). Of a die's two spares the one of lower physical number takes over first, which
the manual leaves open (R6, R350; DESIGN CHOICE, log 45). -/
def State.failCore (s : State) (c : CoreId) (lost : List Nat) : State :=
  let s := (s.core c).residents.zipIdx.foldl (fun s (x, i) =>
    completeOps c x.id.serial s (Config.choice s.tick (10000 + i) % (x.ops.length + 1))) s
  let k := s.core c
  let d := dieOf c
  let s := k.residents.foldl (fun s x => s.replayOrStop c x) s
  let s := (k.deque ++ k.spill).zipIdx.foldl (fun s (q, i) =>
    if lost.contains i then s.send 0x10 [q.rec_.toNat]
    else s.pushFirm d { q with level := q.rec_.prio, entered := s.firm.us }) s
  let s := k.due.foldl (fun s r => s.pushFirm d { r.rec_ with level := r.level, entered := s.firm.us }) s
  let s := { s with txns := s.txns.filter (·.core != c) }
  match (s.dies[d]).spares with
  | p :: rest =>
    ((s.setDie d { s.dies[d] with spares := rest }).setCore c (k.renew (some p))).send 0x15 [k.phys.getD 255, c.val]
  | [] =>
    let s := s.setCore c { k.renew none with reserved := [] }
    { s with gangs := s.gangs.filter (·.core != c) }.dropBound c

/-- CORE FAILURE. -/
def execCoreFailure (c : CoreId) (lost : List Nat) (s : State) : Out :=
  .next (if (s.core c).phys.isSome then s.failCore c lost else s)

/-- REGISTER PARITY REPLAY: the register is restored and the word issues again, with nothing to see; with the duplicate in error
the context stops, and the second such failure within a second is a core failure (R344, R350). -/
def execRegisterParityReplay (c : CoreId) (b : BankId) (dupBad : Bool) (s : State) : Out :=
  match s.ctxAt c b with
  | none => .next s
  | some _ =>
    if !dupBad then .next (s.countErr 1)
    else
      let t := s.ctxFatal c b (Cause.tcause { code := .poison, cls := .p, detail := 0x20 } .c 0)
      let again := (s.core c).dupFail.any fun u => decide (s.firm.us - u ≤ 1000000)
      .next (if again then t.failCore c []
        else t.setCore c { t.core c with dupFail := [s.firm.us] })

/-! ### Moving segments (R323, R346, R347) -/

/-- What a move has come to: the state, what has moved (source, length, destination), and the segments that have found no place. -/
structure Moved where
  s    : State
  done : List (Nat × Nat × Nat) := []
  left : List (BitVec 12 × Nat) := []

/-- Segments move one after the other, those that share bytes or name one object together; a segment that finds no place stays
absent (log 46). `none` while an access to the bytes is on its way. -/
def Moved.segs (m : Moved) (to_ : Pool) (avoid : List (Nat × Nat)) : List (BitVec 12 × Nat × SegEntry) → Option Moved
  | [] => some m
  | (a, i, e) :: rest =>
    match m.s.placed e with
    | none => m.segs to_ avoid rest
    | some (_, pa, n) =>
      if e.tier = 3 ∧ m.done.any (fun d => d.2.2 == pa && d.2.1 == n) then m.segs to_ avoid rest
      else match m.done.find? fun d => decide (d.1 ≤ pa) && decide (pa + n ≤ d.1 + d.2.1) with
      | some d => { m with s := m.s.replace a i e to_ (d.2.2 + (pa - d.1)) }.segs to_ avoid rest
      | none => match m.s.choosePlace to_ none n avoid with
        | none => { m with left := (a, i) :: m.left }.segs to_ avoid rest
        | some dst =>
          if m.s.rangeQuiet pa n && m.s.rangeQuiet dst n then
            { m with s := (m.s.copyBytes pa dst n).replace a i e to_ dst, done := (pa, n, dst) :: m.done }.segs to_ avoid rest
          else none

/-- The segments that a range of a tier holds, the longest first. -/
def State.segsIn (s : State) (lo n : Nat) : List (BitVec 12 × Nat × SegEntry) :=
  sortBy (fun p q => decide (q.2.2.bytes ≤ p.2.2.bytes)) (s.allSegs.filter fun p => match s.placed p.2.2 with
    | some (_, pa, m) => overlaps lo n pa m
    | none => false)

def movedBytes (l : List (Nat × Nat × Nat)) : Nat := sumNat (l.map (·.2.1))

/-- Rows of a capacity-homed object that lose the stack copies which a retired die held; which they are is free (log 6). -/
def State.dropStackCopies (s : State) (o : Obj) : State :=
  let gone := o.rows.filter fun r => decide (1 ≤ r.level) && Config.placement (s.tick + r.row) % 2 == 1
  let n : TierCounts := { calvSt := gone.length, calvRs := (gone.filter (·.level == 2)).length }
  let o := gone.foldl (fun o r => o.putRow { r with level := 0, landed := 0 }) o
  (s.setObj o).countTier o.defn.gdie n

/-- An object that was homed in the stack tier is capacity-homed: every row falls to level 0 (R323). -/
def State.dropToHome (s : State) (o : Obj) : State :=
  let n : TierCounts := { calvRs := (o.rows.filter (·.level == 2)).length }
  let rows := (o.rows.map fun r => { r with level := 0, landed := 0 }).filter fun r => r.heat != 0 || r.last != 0
  (s.setObj { o with rows := rows }).countTier o.defn.gdie n

/-- The stack die has seen no access for DRIDLE µs (R323). -/
def Firm.dieIdle (f : Firm) (stack die : Nat) : Bool :=
  f.dridle != 0 && decide (f.dridle ≤ f.us - (f.dieUse.lookup (16 * stack + die)).getD 0)

/-- The home copies of objects that no segment names move to the capacity tier, one after the other; `none` while one finds no place
or an access to it is on its way. -/
def Moved.orphans (m : Moved) : List Obj → Option Moved
  | [] => some m
  | o :: rest =>
    let n := o.defn.rows * o.rowBytes
    match m.s.choosePlace .cap none n [] with
    | none => none
    | some dst =>
      if m.s.rangeQuiet o.base n && m.s.rangeQuiet dst n then
        { m with
          s := (m.s.copyBytes o.base dst n).setObj { o with defn := { o.defn with homeCap := true, place := dst - capacityBase } }
          done := (o.base, n, dst) :: m.done }.orphans rest
      else none

/-! ### Migrations, step by step (R323, R346, R347; log 60) -/

/-- The segments of a migration whose RES it has cleared. -/
def Firm.movingOf (f : Firm) (what : MoveOf) : Option (List (BitVec 12 × Nat)) := (f.moving.find? (·.what == what)).map (·.segs)

/-- RES of these segments is cleared with release, and they are on the move. -/
def State.lift (s : State) (what : MoveOf) (segs : List (BitVec 12 × Nat)) : State :=
  let t := segs.foldl (fun (s : State) p => s.setEntry p.1 p.2 ((s.entry p.1 p.2).withRes false)) s
  State.settle { t with firm := { t.firm with
    moving := t.firm.moving.filter (·.what != what) ++ [⟨what, (t.firm.movingOf what).getD [] ++ segs⟩] } }

/-- The migration has ended: RES of its segments is set with release, but of those that found no place. -/
def State.setDown (s : State) (what : MoveOf) (left : List (BitVec 12 × Nat)) : State :=
  let t := { s with firm := { s.firm with moving := s.firm.moving.filter (·.what != what) } }
  State.settle ((((s.firm.movingOf what).getD []).filter fun p => !left.contains p).foldl (fun (t : State) p =>
    let e := t.entry p.1 p.2
    (t.setEntry p.1 p.2 (e.withRes true)).dropCode p.1 e) t)

/-- One step of a migration of the segments listed: the first clears RES, as does any while one of them is resident; and once what
was translated before is done, `move` moves them, RES is set, and `ends` follows. -/
def State.migrate (s : State) (what : MoveOf) (segs : List (BitVec 12 × Nat × SegEntry)) (move : State → Option Moved)
    (ends : State → List (Nat × Nat × Nat) → State) : State :=
  let live := (segs.filter (·.2.2.res)).map fun p => (p.1, p.2.1)
  if live ≠ [] ∨ s.firm.movingOf what = none then s.lift what live
  else match move s with
    | none => s
    | some m => ends (m.s.setDown what m.left) m.done

/-- DEEP RETENTION RETIRE: an idle stack die's stack copies are calved; then its contents move to the capacity tier, and it is
switched off (R323). -/
def execDeepRetentionRetire (stack : Nat) (die : Nat) (s : State) : Out :=
  let lo := stack * 2 ^ 36 + die * 2 ^ 32
  let segs := s.segsIn lo (2 ^ 32)
  let lone := s.orphans.filter fun o => !o.defn.homeCap && overlaps lo (2 ^ 32) o.base (o.defn.rows * o.rowBytes)
  let homed := (segs.filterMap fun p => if p.2.2.tier = 3 then some p.2.2.obj else none).eraseDups ++ lone.map (·.defn.obj)
  let begun := (s.firm.movingOf (.die stack die)).isSome
  if !begun && (decide (12 ≤ stack) || decide (16 ≤ die) || !s.firm.dieIdle stack die || s.firm.dieOff.contains (stack, die)
      || decide (s.poolSize .cap < s.poolUsed .cap + sumNat (segs.map fun p => s.poolBytes .stack p.1 p.2.1 p.2.2)
        + sumNat (lone.map fun o => o.defn.rows * o.rowBytes))) then .next s
  else
    let t := if begun then s
      else (s.objs.filter fun o => o.defn.homeCap && !homed.contains o.defn.obj).foldl State.dropStackCopies s
    .next (t.migrate (.die stack die) segs
      (fun t => (({ s := t } : Moved).segs .cap [] segs).bind fun m => m.orphans lone)
      fun t done =>
        let t := homed.foldl (fun t n => match t.obj n with | some o => t.dropToHome o | none => t) t
        { t with firm := { t.firm with
            dieOff := t.firm.dieOff ++ [(stack, die)]
            stackCap := t.firm.stackCap - 2 ^ 32 } }.send 0x13 [stack, die, movedBytes done])

/-! ### Stack and capacity tiers (R346, R347) -/

/-- Corrected errors that a stack row has shown since power-on. -/
def Firm.rowErr (f : Firm) (stack pc row : Nat) : Nat :=
  match f.rowErrs.find? fun r => r.1 == stack && r.2.1 == pc && r.2.2.1 == row with
  | some r => r.2.2.2
  | none => 0

/-- ROW REPAIR: a corrected error of a stack row is reported; at the eighth the row is repaired, and recorded for a hard repair
(R346, log 61). -/
def execRowRepair (stack : Nat) (at_ : PcRow) (s : State) : Out :=
  let pc := at_.pc
  let row := at_.row
  if h : stack < 12 then
    let n := s.firm.rowErr stack pc row + 1
    let s := s.countErr 2
    let s := { s with firm := { s.firm with
      rowErrs := (stack, pc, row, n) :: s.firm.rowErrs.filter fun r => !(r.1 == stack && r.2.1 == pc && r.2.2.1 == row) } }
    if n = 8 then
      .next ({ s with firm := { s.firm with
        softRep := s.firm.softRep.set stack (s.firm.softRep[stack] + 1)
        hardRep := s.firm.hardRep ++ [(stack, pc, row)]
        repaired := s.firm.repaired ++ [(stack, pc)] } }.countErr 6)
    else .next s
  else .next s

/-- A pseudo-channel is to be retired: it holds 32 repaired rows (R346); one that fails training is retired as the stack trains. -/
def Firm.pcBad (f : Firm) (stack pc : Nat) : Bool :=
  !f.retired.contains (stack, pc) && decide (32 ≤ f.repaired.count (stack, pc))

/-- A pseudo-channel is retired: to a spare one of its stack while there is one; else the stack pool shrinks, by an amount that the
manual does not give (log 6). -/
def Firm.retire (f : Firm) (stack pc n : Nat) : Firm :=
  let f := { f with retired := f.retired ++ [(stack, pc)] }
  if h : stack < 12 then
    if 0 < f.sparePc[stack] then { f with sparePc := f.sparePc.set stack (f.sparePc[stack] - 1) }
    else { f with stackCap := f.stackCap - max 1 (n % 2 ^ 36) }
  else f

/-- PSEUDO-CHANNEL SPARING: while a spare remains, the segments' bytes stand again at the same places; with none, those on the
channel move to other stacks. Which segments stand on the channel the manual does not give (log 6). -/
def execPseudoChannelSparing (stack : Nat) (pc : Nat) (s : State) : Out :=
  if h : stack < 12 ∧ s.firm.pcBad stack pc then
    let what := MoveOf.channel stack pc
    let lo := stack * 2 ^ 36
    let segs := match s.firm.movingOf what with
      | some l => l.map fun p => (p.1, p.2, s.entry p.1 p.2)
      | none => (s.segsIn lo (2 ^ 36)).zipIdx.filterMap fun (p, j) => if Config.placement (s.tick + j) % 2 = 1 then some p else none
    .next (s.migrate what segs
      (fun t =>
        if 0 < t.firm.sparePc[stack] then (if segs.all fun p => t.layerQuiet p.1 p.2.1 then some { s := t } else none)
        else ({ s := t } : Moved).segs .stack [(lo, 2 ^ 36)] segs)
      fun t _ => { t with firm := t.firm.retire stack pc (Config.freeBits t.tick) })
  else .next s

/-- CAPACITY DEVICE FAILURE: the first of a package is corrected; at the second every segment moves out and the pool shrinks. While
they move, the event is a step of the migration. -/
def execCapacityDeviceFailure (pkg : Nat) (s : State) : Out :=
  let what := MoveOf.package pkg
  let step := fun t : State =>
    let segs := t.segsIn (capacityBase + pkg * 2 ^ 37) (2 ^ 37)
    t.migrate what segs (fun t => ({ s := t } : Moved).segs .cap [] segs) fun t done =>
      { t with firm := { t.firm with capCap := t.firm.capCap - 2 ^ 37 } }.send 0x13 [pkg, movedBytes done]
  if (s.firm.movingOf what).isSome then .next (step s)
  else if h : pkg < 16 then
    let n := s.firm.badDev[pkg] + 1
    let t := { s with firm := { s.firm with badDev := s.firm.badDev.set pkg n } }.countErr 3
    .next (if n = 2 then step t else t)
  else .next s

/-! ### Uncorrectable reads (R348, R349) -/

/-- REPLICA READ: a read is served from the replica, or, for a governed row, from the next copy down, with no trap; the row whose
copy fails is the environment's to say. A home copy that fails is served from the segment's replica, where it has one. -/
def execReplicaRead (asid : BitVec 12) (idx : Nat) (s : State) : Out :=
  let e := s.entry asid idx
  if e.vleng = 0 then .next s
  else if e.tier = 3 then match s.obj e.obj with
    | none => .next s
    | some o =>
      let r := o.row (Config.choice s.tick 4 % (max o.defn.rows 1))
      if o.floor < r.level then
        let (o, n) := o.calve r
        .next (((s.setObj o).countTier o.defn.gdie n).countErr 4)
      else .next (if e.repl then s.countErr 4 else s)
  else .next (if e.repl then s.countErr 4 else s)

/-- SEGMENT POISONING (R349): one event number and one event for a segment. -/
def execSegmentPoisoning (asid : BitVec 12) (idx : Nat) (s : State) : Out :=
  let e := s.entry asid idx
  if e.vleng = 0 ∨ e.pois then .next s
  else
    let n := s.firm.nextEvent
    let v := putBits (putBits e.w3.toNat 32 32 n) 3 1 1
    let s := s.setEntry asid idx { e with w3 := BitVec.ofNat 64 v }
    .next (({ s with firm := { s.firm with nextEvent := (n + 1) % 2 ^ 32 } }.countErr 5).send 0x12 [n % 2 ^ 32])

/-! ### Links (R352) -/

/-- LANEDEG: the port goes on at the next lower width. -/
def execLanedeg (port : Nat) (s : State) : Out :=
  if h : port < 16 then
    let n := s.firm.lanes[port] / 2
    if s.firm.lanes[port] = 0 then .next s
    else .next ({ s with firm := { s.firm with lanes := s.firm.lanes.set port n } }.send 0x16 [port, n])
  else .next s
end Sys2Proof.Machine
end

