-- ==== Sys2Proof/Machine/Power.lean ====
section
/-! DEFINITION. Bring-up, rails, throttling and the management side-band (R353 to R360). -/

namespace Sys2Proof.Machine

/-- The module without its volatile state: what stays is the flash's (the images, the record and their floors, the repairs recorded
for the next bring-up and the rows that have been repaired, the power-on count), the sensors' last readings, and the model's own
fields (log 63). -/
def State.cold (s : State) (st : ModState) (rails : List Nat) : State :=
  { State.reset with
    firm := { State.reset.firm with
      st := st
      rails := rails
      pwrCount := s.firm.pwrCount
      imgFloor := s.firm.imgFloor
      recFloor := s.firm.recFloor
      slots := s.firm.slots
      record := s.firm.record
      hardRep := s.firm.hardRep
      repaired := s.firm.repaired
      sensors := s.firm.sensors
      watts := s.firm.watts
      sideband := s.firm.sideband }
    turn := s.turn
    tick := s.tick
    cur := s.cur }

/-- The rails in the order in which they rise: VAUX, VSRAM, VCORE, VSERDES, VHBM, VLP (R358). -/
def allRails : List Nat := [0, 1, 2, 3, 4, 5]

/-! ### The flash (R355) -/

/-- A signature over the SM3 digest of bytes verifies against the key whose digest the ROM holds. -/
def sigOk (bytes sig : List Byte) : Bool := Config.sm2Verify Config.signingKeyDigest (Config.sm3 bytes) sig

/-- The valid image of highest version: its signature verifies, and its version is not below the floor. -/
def bootImage (floor : Nat) (l : Vector ImageSlot 2) : Option ImageSlot :=
  (l.toList.filter fun i => sigOk i.bytes i.sig && decide (floor ≤ i.ver.toNat)).foldl (fun acc i => match acc with
    | none => some i
    | some a => if a.ver.toNat < i.ver.toNat then some i else some a) none

end Sys2Proof.Machine

namespace Sys2Proof

/-- n bytes of the record from an offset, as a number. -/
def ConfigRecord.num (r : ConfigRecord) (off n : Nat) : Nat := Machine.natOfBytes ((r.bytes.drop off).take n)
def ConfigRecord.ver (r : ConfigRecord) : Nat := r.num 0 4
def ConfigRecord.node (r : ConfigRecord) : Nat := r.num 4 4
def ConfigRecord.nhost (r : ConfigRecord) : Nat := r.num 8 1
def ConfigRecord.host (r : ConfigRecord) (i : Nat) : Nat := r.num (16 + 4 * i) 4

/-- The record verifies: 112 bytes, the signature at bytes 48 to 111 over the digest of bytes 0 to 47, the version, a NODE that
names a node, 1 to 8 hosts, and zero in every reserved and unused field (R326, R355). -/
def ConfigRecord.valid (r : ConfigRecord) (floor : Nat) : Bool :=
  Machine.sigOk (r.bytes.take 48) (r.bytes.drop 48) && r.bytes.length == 112 && decide (floor ≤ r.ver) && Machine.nodeOk r.node && r.num 9 7 == 0
    && decide (1 ≤ r.nhost) && decide (r.nhost ≤ 8) && (List.range 8).all fun i => decide (i < r.nhost) || r.host i == 0

/-- The hosts that the record names. -/
def ConfigRecord.hosts (r : ConfigRecord) : List (BitVec 19) := (List.range r.nhost).map fun i => BitVec.ofNat 19 (r.host i)

/-- A physical core fails self-test: its logic or ports fail, or its SRAMs show errors in more than one bank (R354). -/
def BringUp.coreBad (b : BringUp) (p : Nat) : Bool :=
  b.badCores.contains p || decide (1 < (((b.sramErrs.filter (·.1 == p)).map (·.2)).eraseDups).length)

end Sys2Proof

namespace Sys2Proof.Machine

/-! ### The steps of bring-up (R353) -/

/-- Physical cores of a die that pass self-test, in order (R354). -/
def passing (b : BringUp) (d : DieId) : List Nat :=
  ((List.range 34).map (34 * d.val + ·)).filter fun p => !b.coreBad p

/-- Self-test fixes the sparing map (R354). -/
def State.selfTest (s : State) (b : BringUp) : State :=
  { s with
    cores := s.cores.zipIdx.map fun (k, c) =>
      { k with phys := (passing b (Fin.ofNat 4 (c / 32)))[c % 32]? }
    dies := Vector.ofFn fun d =>
      { s.dies[d] with
        region := Config.queueRegion d.val
        spares := (passing b d).drop 32
        badBanks := (sortBy (fun m n : Nat => decide (m ≤ n)) ((b.badBanks.filter fun p => p.1 == d.val).map (·.2))).eraseDups } }

/-- A port that does not train is reported (R353). -/
def State.failPort (s : State) (p : Nat) : State :=
  if h : p < 16 then
    { s with firm := { s.firm with lanes := s.firm.lanes.set p 0 } }.send 0x16 [p, 0]
  else s

/-- Hard repairs recorded earlier are applied as the stacks train (R346, R353). -/
def State.hardRepairs (s : State) : State :=
  { s with firm := { s.firm with hardRep := [] } }.countErr 6 s.firm.hardRep.length

/-- Pseudo-channels that do not train, and those that hold 32 repaired rows, are retired; no segment is placed yet (R346, R353). -/
def State.trainStacks (s : State) (b : BringUp) : State :=
  let bad := (b.badPcs ++ s.firm.repaired.filter fun p => s.firm.pcBad p.1 p.2).eraseDups.filter fun p => decide (p.1 < 12)
  { s with firm := bad.zipIdx.foldl (fun f (p, i) => f.retire p.1 p.2 (Config.freeBits (s.tick + i))) s.firm }

/-- The commands that came before READY are answered BUSY (R331, R360). -/
def State.answerEarly (s : State) : State :=
  s.firm.early.foldl (fun s c =>
      if s.firm.hosts.contains c.1.src then s.respond c.1 c.2 stBusy else s.transmit { cmd := c.1, opc := c.2, status := stDenied })
    { s with firm := { s.firm with early := [] } }

def State.setSt (s : State) (st : ModState) : State := { s with firm := { s.firm with st := st } }

/-- Every rail but VAUX falls, the last that rose first (R358, R359); each step of the module drops one. -/
def Firm.dropRail (f : Firm) : List Nat := if 1 < f.rails.length then f.rails.dropLast else f.rails

/-- A sensor reads 115 °C or more. -/
def tooHot (temps : List Nat) : Bool := (temps.take 32).any fun t => decide (460 ≤ t)

/-- The module shuts down: it has failed, and its rails fall one after the other (R359; log 63). -/
def State.shutdown (s : State) : State := s.cold (.failed 0x0A) s.firm.dropRail

/-- A sensor of the die reads above 100 °C. -/
def hot (temps : List Nat) (d : DieId) : Bool := ((temps.drop (8 * d.val)).take 8).any fun t => decide (400 < t)

/-- The module with new readings; a die skips clocks above the power limit or above 100 °C, which changes nothing that is counted
in clk (R359). -/
def State.throttle (s : State) (watts : Nat) (temps : List Nat) : State :=
  let all := (temps ++ s.firm.sensors.drop temps.length).take 32
  { s with
    firm := { s.firm with watts := watts, sensors := all }
    dies := Vector.ofFn fun d => { s.dies[d] with throttled := decide (s.firm.plim < watts) || hot all d } }

/-- Step 5: what power-on gives a value takes it, but the power limit and the time spent throttling, which are the side-band's; self-test
fixes the sparing map, and what the sensors read throttles as before (R353, R354, R359). -/
def State.stepFive (s : State) (b : BringUp) : State :=
  let t := (s.cold (.bringup 6) allRails).selfTest b
  State.throttle { t with firm := { t.firm with
    image := s.firm.image, idKey := s.firm.idKey, early := s.firm.early, plim := s.firm.plim, throtUs := s.firm.throtUs } }
    s.firm.watts s.firm.sensors

/-- The next step of bring-up, or the failure that ends it (R353). The rails of step 4 rise one after the other, and those that a reset
finds up fall first (R358). -/
def State.bringStep (s : State) (b : BringUp) (n : Nat) : State :=
  match n with
  | 1 =>
    if 1 < s.firm.rails.length then { s with firm := { s.firm with rails := s.firm.dropRail } }
    else
      let t := s.cold (.bringup 2) [0]
      { t with firm := { t.firm with pwrCount := s.firm.pwrCount + 1, early := s.firm.early, plim := s.firm.plim, throtUs := s.firm.throtUs } }
  | 2 => (match b.puf with
    | none => s.setSt (.failed 2)
    | some p => { s with firm := { s.firm with idKey := Config.sm3Kdf p, st := .bringup 3 } })
  | 3 => (match bootImage s.firm.imgFloor s.firm.slots with
    | none => s.setSt (.failed 3)
    | some i => { s with firm := { s.firm with image := some i, st := .bringup 4 } })
  | 4 =>
    if s.firm.rails.length < 6 then
      (if b.railOk then { s with firm := { s.firm with rails := allRails.take (s.firm.rails.length + 1) } } else s.setSt (.failed 4))
    else s.setSt (if b.pllOk then .bringup 5 else .failed 4)
  | 5 =>
    let t := s.stepFive b
    if !b.linksOk || allDies.any fun d => decide (4 < (t.dies[d]).badBanks.length) then t.setSt (.failed 5) else t
  | 6 => (s.hardRepairs.trainStacks b).setSt (.bringup 7)
  | 7 =>
    let r := s.firm.record
    if r.valid s.firm.recFloor then
      { s with firm := { s.firm with
        node := BitVec.ofNat 19 r.node
        hosts := r.hosts
        meas := s.measure ((s.firm.image.map (·.bytes)).getD []) r.bytes
        st := .bringup 8 } }
    else s.setSt (.failed 7)
  | _ =>
    let t := { s with firm := { s.firm with
      imgFloor := max s.firm.imgFloor ((s.firm.image.map (·.ver.toNat)).getD 0)
      recFloor := max s.firm.recFloor s.firm.record.ver
      st := .ready } }
    (b.badPorts.foldl State.failPort t).answerEarly.send 0x19

/-- POWER ON: the next step of bring-up (R353), which a sensor at 115 °C ends once rails but VAUX are due (R359). -/
def execPowerOn (b : BringUp) (s : State) : Out :=
  .next (match s.firm.st with
    | .reset => if s.firm.rails = [] then s.bringStep b 1 else s
    | .bringup n => if 4 ≤ n ∧ tooHot s.firm.sensors then s.shutdown else s.bringStep b n
    | _ => s)

/-- POWER OFF: the rails fall in the reverse of their rising order (R358). -/
def execPowerOff (s : State) : Out := .next (s.cold .reset s.firm.rails.dropLast)

/-! ### The side-band (R360) -/

/-- VAUX feeds the side-band (R358). -/
def Firm.vaux (f : Firm) : Bool := f.rails.contains 0

/-- The side-band answers with the request's code and its values (R360). -/
def State.sideAnswer (s : State) (code : Nat) (vals : List Nat) : State :=
  if s.firm.vaux then { s with firm := { s.firm with sideband := code :: vals } } else s

/-- The state and its reason as numbers, in the order of R360. -/
def ModState.report : ModState → List Nat
  | .reset => [0, 0]
  | .bringup _ => [1, 0]
  | .ready => [2, 0]
  | .failed r => [3, r]

/-- Read state. -/
def execReadState (s : State) : Out := .next (s.sideAnswer 1 s.firm.st.report)

/-- Read temperatures. -/
def execReadTemperatures (s : State) : Out := .next (s.sideAnswer 2 s.firm.sensors)

/-- While a die throttles, the time spent throttling, which has no unit in the manual, rises by a free amount (log 47). -/
def State.passThrottle (s : State) : State :=
  if allDies.any fun d => (s.dies[d]).throttled then
    { s with firm := { s.firm with throtUs := s.firm.throtUs + Config.freeBits s.tick } }
  else s

/-- Read power. -/
def execReadPower (s : State) : Out :=
  let t := s.passThrottle
  .next (t.sideAnswer 3 [t.firm.watts, t.firm.throtUs])

/-- New readings: at 115 °C the module shuts down. -/
def State.readings (s : State) (watts : Nat) (temps : List Nat) : State :=
  let t := s.throttle watts temps
  if tooHot temps && s.firm.vaux then t.shutdown else t

/-- Set PLIM: the accepted value, or an error; the manual gives the error no code (log 47). -/
def execSetPlim (watts : Nat) (s : State) : Out :=
  .next (if s.firm.vaux = true ∧ 1200 ≤ watts ∧ watts ≤ 2400 then
      let t := s.passThrottle
      (State.throttle { t with firm := { t.firm with plim := watts } } t.firm.watts t.firm.sensors).sideAnswer 4 [watts]
    else s.sideAnswer 4 [])

/-- Request reset: the module starts again at step 1 of R353, whose powering on lets the rails but VAUX fall first (log 63). -/
def execRequestReset (_b : BringUp) (s : State) : Out :=
  .next (if s.firm.vaux then (s.cold (.bringup 1) s.firm.rails).sideAnswer 5 [] else s)

/-- THERMAL THROTTLE. -/
def execThermalThrottle (watts : Nat) (temps : List Nat) (s : State) : Out :=
  .next (if s.firm.plim < watts ∨ temps.any (fun t => decide (400 < t)) then s.passThrottle.readings watts temps else s)

/-- THERMAL THROTTLE END. -/
def execThermalThrottleEnd (watts : Nat) (temps : List Nat) (s : State) : Out :=
  .next (if watts ≤ s.firm.plim ∧ temps.all (fun t => decide (t ≤ 400)) then s.passThrottle.readings watts temps else s)

/-- THERMAL SHUTDOWN: at 115 °C every rail but VAUX falls, one with every event, the last that rose first (R358, R359). -/
def execThermalShutdown (sensor : Nat) (temp : Nat) (s : State) : Out :=
  .next (if s.firm.st = .failed 0x0A ∧ 1 < s.firm.rails.length then { s with firm := { s.firm with rails := s.firm.dropRail } }
    else if 460 ≤ temp ∧ sensor < 32 ∧ s.firm.vaux = true then
      State.shutdown { s with firm := { s.firm with sensors := s.firm.sensors.set sensor temp } }
    else s)
end Sys2Proof.Machine
end

