-- ==== Sys2Proof/Machine/Predictor.lean ====
section
/-! DEFINITION. The predictor: PRED, PCHK and PSTAT, with the generators and streams that PRED shares with the rime engine
(R194 to R197, R202 to R204, R207, R264, R265, R269). -/

namespace Sys2Proof.Machine

/-! ### Generators (R202 to R204) -/

/-- The feedback masks of the sixteen generator classes (R202). -/
def feedback : Vector (BitVec 32) 16 :=
  #v[0x80200003, 0x80000057, 0x80000062, 0x80400021, 0x80001A81, 0x80100105, 0x80020C01, 0x84000093,
     0x80008C11, 0x81002009, 0x80084101, 0x80000E0D, 0x82000513, 0x80011033, 0x80800241, 0x80042205]

def rimeStep (c : Fin 16) (g : BitVec 32) : BitVec 32 :=
  if g.getLsbD 0 then (g >>> 1) ^^^ feedback[c] else g >>> 1

/-- The comparison values of L stream clocks, and the generator after them (R202, R204). -/
def rimeDraws (c : Fin 16) : Nat → BitVec 32 → List Nat × BitVec 32
  | 0, g => ([], g)
  | n + 1, g =>
    let g := rimeStep c g
    let (rs, g') := rimeDraws c n g
    ((g.toNat >>> 16) :: rs, g')

/-- A lane: bit t is 1 where the comparison value is below the operand (R204). -/
def laneBits (rs : List Nat) (q : Nat) : Nat := ofElems 1 (rs.map fun r => if r < q then 1 else 0)

/-- The 16-bit operand of a value (R195, R207). -/
def streamOperand (bip : Bool) (v : FVal) : Nat :=
  let w := if bip then FVal.add .rne v (.fin false 1 0) else v
  match w with
  | .nan => 0
  | .inf n => if n then 0 else 65535
  | .fin n m e =>
    let k : Int := roundAt .rne n m (e + if bip then 15 else 16) 0 false 0
    (clampInt 0 65535 (if n then -k else k)).toNat

/-- The number of ones among the low n bits. -/
def ones (n v : Nat) : Nat := (List.range n).foldl (fun c i => if v.testBit i then c + 1 else c) 0

/-! ### Lists (R172, R195, R196) -/

/-- A list of NN + 1 words: the count, the entries, and zeros. -/
def listBytes (es : List Nat) : Nat := ofElems 32 (es.length :: es)

/-- A counter of PSTAT rises and saturates (R197). -/
def Ctx.count (x : Ctx) (i : Fin 6) (n : Nat) : Ctx :=
  { x with pstat := x.pstat.set i (min (x.pstat[i] + n) (2 ^ 64 - 1)) }

/-! ### PRED (R195, R204) -/

/-- DIN as captured. -/
def QWord.din (q : QWord) : Nat := fieldNat q.cap.pred 0 16

/-- The elements of an operand that the predictor decodes. -/
def predElems (k : Core) (x : Ctx) (q : QWord) (row n : Nat) : Mac (List FVal) :=
  (govFmt x q row).bind fun f => match f.typeRaw32 with
  | none => mfault .illegal 3
  | some t => (operandFmt x q row ((n * t.width + 2047) / 2048)).bind fun _ => decodeSpan k x q t row 0 n

/-- The counts of a factor row against the activation streams, and the generator after it. -/
def factorCount (cf : Fin 16) (len : Nat) (pol : Bool) : BitVec 32 → List (Nat × Nat) → Nat × BitVec 32
  | g, [] => (0, g)
  | g, (sx, f) :: rest =>
    let (rs, g) := rimeDraws cf len g
    let sf := laneBits rs f
    let both := if pol then (2 ^ len - 1) ^^^ (sx ^^^ sf) else sx &&& sf
    let (n, g) := factorCount cf len pol g rest
    (ones len both + n, g)

/-- PRED. -/
def execPred (o : EM) (s : State) : Out :=
  macroWord s fun x r =>
    let q := r.q
    let d := q.din
    let cx : Fin 16 := Fin.ofNat 16 (fieldNat q.cap.pred 24 4)
    let cf : Fin 16 := Fin.ofNat 16 (fieldNat q.cap.pred 28 4)
    let pol := q.cap.pred.getLsbD 18
    let len := 64 * 2 ^ fieldNat q.cap.pred 16 2
    let thr := signedOf 32 (fieldNat q.cap.pred 32 32)
    let rseed : BitVec 32 := fieldOf q.cap.seed 32 32
    let per := (2 * d + 255) / 256
    let part := do
      need (d != 0) .illegal 6
      need (cx != cf) .corr 2
      let vs ← predElems s.myCore x q (rowOf q.cap.sa) d
      let (sx, _) := vs.foldl (fun (a : List Nat × BitVec 32) v =>
        let (rs, g) := rimeDraws cx len a.2
        (a.1 ++ [laneBits rs (streamOperand pol v)], g)) ([], (rimeSeeds rseed)[cx])
      let (sel, _) ← (List.range o.nn).foldlM (fun (a : List Nat × BitVec 32) j => do
        let fs ← readBytes s.myCore x ((rowOf q.cap.sb + j * per) * 256) (2 * d)
        let (cnt, g) := factorCount cf len pol a.2 (sx.zipIdx.map fun (v, i) => (v, (fs >>> (16 * i)) % 2 ^ 16))
        let score : Int := if pol then 2 * (cnt : Int) - (d * len : Nat) else cnt
        pure (if thr ≤ score then a.1 ++ [j] else a.1, g)) ([], (rimeSeeds rseed)[cf])
      let k ← writeBytes s.myCore x (rowOf q.cap.sc * 256) (4 * (o.nn + 1)) (listBytes sel)
      pure (k, sel.length)
    if 0 < r.done then s.putRun x (r.did true 0)
    else orFault s x r part fun (k, n) =>
      (s.putCore k).putRun ((x.count 0 1).count 1 n) (r.did true)

/-! ### PCHK (R196, R265, R269) -/

/-- An exact sum of products, rounded once to FP32. -/
def dot32 (a b : List FVal) : FVal := rne32 (FVal.sum (a.zipWith FVal.mul b))

/-- Strictly ascending entries below nn. -/
def ascending (nn : Nat) : List Nat → Bool
  | [] => true
  | [a] => decide (a < nn)
  | a :: b :: rest => decide (a < b) && ascending nn (b :: rest)

/-- The predicted list that PCHK checks. -/
def readPlist (k : Core) (x : Ctx) (row nn : Nat) : Mac (List Nat) := do
  let n ← readBytes k x (row * 256) 4
  need (n ≤ nn) .illegal 6
  let v ← readBytes k x (row * 256) (4 * (n + 1))
  let es := (List.range n).map fun i => (v >>> (32 * (i + 1))) % 2 ^ 32
  need (ascending nn es) .illegal 6
  pure es

/-- The neurons whose estimate reaches τ and which the list leaves out. -/
def missList (k : Core) (x : Ctx) (q : QWord) (nn rk : Nat) (plist : List Nat) : Mac (List Nat) := do
  let d := q.din
  let row := rowOf q.cap.sb
  let xs ← predElems k x q (rowOf q.cap.sa) d
  let f ← govFmt x q row
  match f.typeRaw32 with
  | none => mfault .illegal 3
  | some t =>
    let ur := (rk * d * t.width + 2047) / 2048
    let vr := (nn * rk * t.width + 2047) / 2048
    let _ ← operandFmt x q row (ur + vr)
    let us ← decodeSpan k x q t row 0 (rk * d)
    let vs ← decodeSpan k x q t (row + ur) 0 (nn * rk)
    let h := (List.range rk).map fun i => dot32 xs ((us.drop (i * d)).take d)
    let tau := decodeF f32F (fieldNat q.cap.chk 0 32)
    pure ((List.range nn).filter fun j =>
      (match FVal.cmp (dot32 h ((vs.drop (j * rk)).take rk)) tau with | some c => decide (0 ≤ c) | none => false)
        && !plist.contains j)

/-- PCHK. In trap mode of the limit, COUNT and the lists have landed when it faults, and it then has nothing left to do (log 54). -/
def execPchk (o : EM) (s : State) : Out :=
  macroWord s fun x r =>
    let q := r.q
    let row := rowOf q.cap.sc
    let limit := fieldNat q.cap.lim 0 16
    let part := do
      need (q.din != 0) .illegal 6
      let plist ← readPlist s.myCore x row o.nn
      let miss ← missList s.myCore x q o.nn o.rk plist
      let k ← writeBytes s.myCore x ((row + (4 * (o.nn + 1) + 255) / 256) * 256) (4 * (o.nn + 1)) (listBytes miss)
      pure (k, miss.length)
    if 0 < r.done then s.putRun x (r.did true 0)
    else orFault s x r part fun (k, n) =>
      let past := decide (limit < n)
      let x := ((x.count 2 1).count 3 n).count 5 (if past then 1 else 0)
      let x : Ctx := { x with pstat := x.pstat.set 4 (max x.pstat[4] n) }
      let s := s.putCore k
      if past && !q.cap.lim.getLsbD 16 then
        let cnt : Word := BitVec.ofNat 64 (n % 65536 + fieldNat x.sys.misscnt 16 1 * 65536)
        let x : Ctx := { x with sys := { x.sys with misscnt := cnt } }
        s.runFault x { r with done := 1 } .misslim 0 n
      else s.putRun x { r.did true with aux := [n, if past then 1 else 0] }

/-! ### PSTAT (R197) -/

/-- PSTAT. -/
def execPstat (o : EM) (s : State) : Out :=
  macroWord s fun x r =>
    if 0 < r.done then s.putRun x (r.did true 0)
    else orFault s x r (writeBytes s.myCore x (rowOf r.q.cap.sa * 256) 48 (ofElems 64 x.pstat.toList)) fun k =>
      (s.putCore k).putRun (if o.pclr then { x with pstat := Vector.replicate 6 0 } else x) (r.did true)
end Sys2Proof.Machine
end

