-- ==== Sys2Proof/Machine/Rime.lean ====
section
/-! DEFINITION. The rime engine's stream words (R57, R201, R202, R204 to R211). -/

namespace Sys2Proof.Machine

/-- A stream word: at the head of the X queue it reads its vector registers, resolves its destination names and is handed over;
at the predictor it executes whole (R205). -/
def streamWord (vs : List VReg) (cap : State → Ctx → List Nat) (s : State) (k : Ctx → Run → Out) : Out :=
  match s.cur.unit with
  | .queue _ => xReads s none vs [] [] fun x q => s.handOver x q (cap s x)
  | _ => macroWord s k

/-- The stream of the word has been written, or its fault stops it (R205). -/
def putStream (s : State) (x : Ctx) (r : Run) (zd : VReg) (z : Mac Stream) : Out :=
  orFault s x r z fun z => s.putRun (x.setStream zd z) (r.did true)

/-! ### Lanes (R57, R201) -/

/-- The length of a stream. -/
def Stream.len (z : Stream) : Nat := 64 * 2 ^ z.lc.toNat

/-- The bits of lane i. -/
def Stream.lane (z : Stream) (i : Nat) : Nat := (z.bits.toNat >>> (512 * i)) % 2 ^ z.len

/-- A stream from its 32 lanes. -/
def mkStream (lc : BitVec 2) (acm : BitVec 16) (lanes : List Nat) : Stream :=
  { bits := BitVec.ofNat 16384 (ofElems 512 (lanes.map (· % 2 ^ (64 * 2 ^ lc.toNat)))), acm := acm, lc := lc }

def Stream.lanes (z : Stream) : List Nat := (List.range 32).map z.lane

/-- A fresh stream of class c for a word, and the class's generator after it, among those of the word's reset (R203, R204). -/
def freshStream (x : Ctx) (q : QWord) (c : Fin 16) (lc : BitVec 2) (qs : List Nat) : Stream × Ctx :=
  let gs := x.rimeAt q.cap.rime
  let (rs, g) := rimeDraws c (64 * 2 ^ lc.toNat) gs[c]
  (mkStream lc (1 <<< c.val) (qs.map (laneBits rs)), x.setRimeAt q.cap.rime (gs.set c g))

/-- The class that a word names. -/
def V4.cls (o : V4) : Fin 16 := Fin.ofNat 16 o.clsNum

/-- The count of a lane as a 16-bit operand (R209, R210). -/
def countOperand (len n : Nat) : Nat := min (n * 65536 / len) 65535

/-! ### SGEN (R207) -/

/-- The 32 operands of SGEN. -/
def sgenOperands (o : V4) (v : Nat) : List Nat :=
  (List.range 32).map fun i =>
    let e := (v >>> (32 * i)) % 2 ^ 32
    if o.ty = .f32 then streamOperand o.bip (decodeF f32F e) else if o.hi then e / 65536 else e % 65536

/-- SGEN. -/
def execSgen (o : V4) (s : State) : Out :=
  streamWord [o.va] (fun s x => [(s.vread x o.va).toNat]) s fun x r =>
    let (z, x) := freshStream x r.q (V4.cls o) o.lenCode (sgenOperands o (r.aux.headD 0))
    s.putRun (x.setStream o.vd z) (r.did true)

/-! ### Logic on streams (R206, R208) -/

/-- A stream word on streams: its lengths must agree, and no two of the checked masks may share a class. -/
def streamOp (o : V4) (zs : List VReg) (check : List Stream → Option (Nat × BitVec 16)) (f : List Nat → Nat) (s : State) :
    Out :=
  streamWord [] (fun _ _ => []) s fun x r =>
    let vs := zs.map x.stream
    let lc := match vs with | z :: _ => z.lc | [] => 0
    putStream s x r o.vd (do
      need (vs.all fun z => z.lc == lc) .illegal 8
      match check vs with
      | some (d, bits) => if bits = 0 then pure () else mfault .corr d bits.toNat
      | none => pure ()
      pure (mkStream lc (vs.foldl (fun m z => m ||| z.acm) 0)
        ((List.range 32).map fun i => f (vs.map fun z => z.lane i))))

/-- The checked pair of SAND and SXNOR. -/
def pairCheck (vs : List Stream) : Option (Nat × BitVec 16) :=
  match vs with
  | [a, b] => some (0, a.acm &&& b.acm)
  | _ => none

/-- SMUX checks its selector against both inputs. -/
def muxCheck (vs : List Stream) : Option (Nat × BitVec 16) :=
  match vs with
  | [a, b, c] => some (1, c.acm &&& (a.acm ||| b.acm))
  | _ => none

/-- All 512 places of a lane. -/
def laneOnes : Nat := 2 ^ 512 - 1

/-- SAND. -/
def execSand (o : V4) (s : State) : Out :=
  streamOp o [o.va, o.vb] pairCheck (fun l => l.getD 0 0 &&& l.getD 1 0) s

/-- SXNOR. -/
def execSxnor (o : V4) (s : State) : Out :=
  streamOp o [o.va, o.vb] pairCheck (fun l => laneOnes ^^^ (l.getD 0 0 ^^^ l.getD 1 0)) s

/-- SOR. -/
def execSor (o : V4) (s : State) : Out :=
  streamOp o [o.va, o.vb] (fun _ => none) (fun l => l.getD 0 0 ||| l.getD 1 0) s

/-- SNOT. -/
def execSnot (o : V4) (s : State) : Out :=
  streamOp o [o.va] (fun _ => none) (fun l => laneOnes ^^^ l.getD 0 0) s

/-- SMUX. -/
def execSmux (o : V4) (s : State) : Out :=
  streamOp o [o.va, o.vb, o.vc] muxCheck
    (fun l => (l.getD 2 0 &&& l.getD 1 0) ||| ((laneOnes ^^^ l.getD 2 0) &&& l.getD 0 0)) s

/-- SMAJ. -/
def execSmaj (o : V4) (s : State) : Out :=
  streamOp o [o.va, o.vb, o.vc] (fun _ => none)
    (fun l => (l.getD 0 0 &&& l.getD 1 0) ||| (l.getD 0 0 &&& l.getD 2 0) ||| (l.getD 1 0 &&& l.getD 2 0)) s

/-! ### Counts and binary values (R209, R211) -/

/-- The physical registers of n names from vd on; names past VLEN have none. -/
def destNames (vd : VReg) (n : Nat) (_ : State) (x : Ctx) : List Nat :=
  ((List.range n).filter fun i => decide (vd.toNat + i < x.vlen)).map fun i => x.phys (vd.toNat + i)

/-- The registers take their values at the word's completion; the vector results that land by then are served first (R80, R211). -/
def State.putVregs (s : State) (x : Ctx) (vs : List (Nat × Nat)) : State × Ctx :=
  let (k, x) := landBefore .vec (if x.xFresh then x.xclk else x.xclk + 1) s.myCore x
  (s.putCore { k with vregs := vs.foldl (fun m p => m.write p.1 (BitVec.ofNat 1024 p.2)) k.vregs }, x)

/-- The word completes with its registers written. -/
def State.endVregs (s : State) (x : Ctx) (r : Run) (vs : List (Nat × Nat)) : Out :=
  let (s, x) := s.putVregs x vs
  s.putRun x (r.did true)

/-- SCNT. -/
def execScnt (o : V4) (s : State) : Out :=
  streamWord [] (destNames o.vd 1) s fun x r =>
    let z := x.stream o.va
    s.endVregs x r [(r.aux.headD 0, ofElems 32 (z.lanes.map (ones z.len)))]

/-- A lane's binary value (R209). -/
def s2bLane (o : V4) (len n : Nat) : Nat :=
  if o.ty = .f32 then
    let v : Int := if o.bip then 2 * (n : Int) - len else n
    encodeF f32F .rne false 0 (.fin (decide (v < 0)) v.natAbs (-(len.log2 : Int)))
  else countOperand len n

/-- S2B. -/
def execS2b (o : V4) (s : State) : Out :=
  streamWord [] (destNames o.vd (if o.raw then 16 else 1)) s fun x r =>
    let z := x.stream o.va
    if o.raw then
      let n := z.len / 32
      if r.aux.length < n then s.runFault x r .allot 9
      else
        let v := ofElems z.len z.lanes
        s.endVregs x r ((r.aux.take n).zipIdx.map fun (p, j) => (p, (v >>> (1024 * j)) % 2 ^ 1024))
    else s.endVregs x r [(r.aux.headD 0, ofElems 32 (z.lanes.map fun l => s2bLane o z.len (ones z.len l)))]

/-! ### SREGEN, SLEN and SCLS (R210) -/

/-- SREGEN. -/
def execSregen (o : V4) (s : State) : Out :=
  streamWord [] (fun _ _ => []) s fun x r =>
    let z := x.stream o.va
    let (y, x) := freshStream x r.q (V4.cls o) z.lc (z.lanes.map fun l => countOperand z.len (ones z.len l))
    s.putRun (x.setStream o.vd y) (r.did true)

/-- A lane repeated to fill a longer stream, or its prefix. -/
def stretch (len len' l : Nat) : Nat := ofElems len (List.replicate (len' / len + 1) l) % 2 ^ len'

/-- SLEN. -/
def execSlen (o : V4) (s : State) : Out :=
  streamWord [] (fun _ _ => []) s fun x r =>
    let z := x.stream o.va
    putStream s x r o.vd (.ok (mkStream o.lenCode z.acm (z.lanes.map (stretch z.len (64 * 2 ^ o.lenCode.toNat)))))

/-- SCLS. -/
def execScls (o : V4) (s : State) : Out :=
  streamWord [] (fun _ _ => []) s fun x r => putStream s x r o.vd (.ok { x.stream o.va with acm := o.mask })

/-- The registers that SCLS.V loads. -/
def sclsRegs (o : V4) : List VReg := (List.range (2 * 2 ^ o.lenCode.toNat)).map fun i => o.va + BitVec.ofNat 11 i

/-- SCLS.V. -/
def execSclsV (o : V4) (s : State) : Out :=
  streamWord (sclsRegs o) (fun s x => (sclsRegs o).map fun v => (s.vread x v).toNat) s fun x r =>
    let len := 64 * 2 ^ o.lenCode.toNat
    let v := ofElems 1024 r.aux
    putStream s x r o.vd (.ok (mkStream o.lenCode o.mask ((List.range 32).map fun i => (v >>> (len * i)) % 2 ^ len)))
end Sys2Proof.Machine
end

