-- ==== Sys2Proof/Machine/VecConv.lean ====
section
/-! DEFINITION. Conversion and quantisation words (R130 to R134). -/

namespace Sys2Proof.Machine

/-- The frame of R130: where the k-th converted element is read and written. -/
structure Frame where
  n    : Nat
  src0 : Nat
  dst0 : Nat

def convFrame (o : V4) (ws wd : Nat) : Frame :=
  let n := elems (max ws wd)
  { n := n, src0 := if ws < wd then o.part * n else 0, dst0 := if wd < ws then o.part * n else 0 }

/-- The F4X value of the bank that VCVT names, as captured at push (R131). -/
def QWord.f4x (q : QWord) (bank : Nat) : Nat := fieldNat ((q.cap.bfmt.toList[bank]?).getD 0) 16 16

/-- VCVT (R131). -/
def execVcvt (o : V4) (s : State) : Out :=
  match o.src with
  | none => .next s
  | some t =>
    xWord s o.g [o.va] [] [] fun x q =>
      let f := convFrame o t.width o.ty.width
      let a := s.vread x o.va
      let vs := (List.range f.n).map fun k => decodeElem t (q.f4x o.bank) (elemOf t.width a (f.src0 + k))
      let (vals, g) := mapDraw o.rnd (fun r v => encodeElem o.ty o.rnd o.sat r t.isAnyInt v) (x.vecGen q) vs
      s.xIssue (x.setVecGen q g) q 3 (x.outElems o.g o.ty.width o.vd vals f.dst0)

/-- VPACK (R132). -/
def execVpack (o : V4) (s : State) : Out :=
  match o.src with
  | none => .next s
  | some t =>
    xWord s o.g [o.va, o.vb] [] [] fun x q =>
      let es := elemsOf t.width (s.vread x o.va) ++ elemsOf t.width (s.vread x o.vb)
      s.xIssue x q 3 (x.outElems o.g o.ty.width o.vd
        (es.map fun e => encodeInt o.ty o.sat (if t.isSigned then signedOf t.width e else (e : Int))))

/-- VUNPK (R132). -/
def execVunpk (o : V4) (s : State) : Out :=
  match o.src with
  | none => .next s
  | some t =>
    xWord s o.g [o.va] [] [] fun x q =>
      let f := convFrame o t.width o.ty.width
      let a := s.vread x o.va
      s.xIssue x q 3 (x.outElems o.g o.ty.width o.vd ((List.range f.n).map fun k =>
        let e := elemOf t.width a (f.src0 + k)
        wrapInt o.ty.width (if t.isSigned then signedOf t.width e else (e : Int))))

/-- The scale and the zero point in lane 0 of vb (R133). -/
def quantScale (v : VWord) : Nat := fieldNat v 0 16
def quantZero (v : VWord) : Nat := fieldNat v 16 4

/-- One element quantised to I4 or N4 (R133). -/
def quantise (t : ElemType) (rnd : Rnd) (sc : FVal) (zp r : Nat) (v : FVal) : Nat :=
  let q : Int :=
    match v, sc with
    | .nan, _ => 0
    | _, .nan => 0
    | _, .inf _ => 0
    | _, .fin _ 0 _ => 0
    | .inf n, .fin p _ _ => if n = p then 1000 else -1000
    | .fin n m e, .fin p d f =>
      let k : Nat := roundQuot rnd (n != p) (m <<< (e - f).toNat) (d <<< (f - e).toNat) false r
      if n = p then k else -(k : Int)
  if t = .n4 then (clampInt 0 15 (q + zp)).toNat else wrapInt 4 (clampInt (-8) 7 q)

/-- VQNT (R133). -/
def execVqnt (o : V4) (s : State) : Out :=
  if o.ty.isDB then
    xWord s none [o.va] [] [] fun x q =>
      let vs := (elemsOf 32 (s.vread x o.va)).map (decodeF f32F)
      let (codes, side, g) := encodeDB o.ty o.rnd o.sat (x.vecGen q) vs
      let b := o.ty.width
      let v := ofElems b codes + (side % 2 ^ 16) * 2 ^ (32 * b)
      s.xIssue (x.setVecGen q g) q 3 (x.outAt o.vd 0 1024 v)
  else
    xWord s o.g [o.va, o.vb] [] [] fun x q =>
      let vs := (elemsOf 32 (s.vread x o.va)).map (decodeF f32F)
      let b := s.vread x o.vb
      let (vals, g) := mapDraw o.rnd (quantise o.ty o.rnd (decodeF bf16F (quantScale b)) (quantZero b)) (x.vecGen q) vs
      s.xIssue (x.setVecGen q g) q 3 (x.outElems o.g 4 o.vd vals (32 * o.part))

/-- VDQNT (R134). -/
def execVdqnt (o : V4) (s : State) : Out :=
  match o.src with
  | none => .next s
  | some t =>
    if t.isDB then
      xWord s o.g [o.va] [] [] fun x q =>
        let a := s.vread x o.va
        let side := fieldNat a (32 * t.width) 16
        s.xIssue x q 3 (x.outElems o.g 32 o.vd ((List.range 32).map fun k =>
          encodeF f32F .rne false 0 (decodeDB t side (elemOf t.width a k))))
    else
      xWord s o.g [o.va, o.vb] [] [] fun x q =>
        let a := s.vread x o.va
        let b := s.vread x o.vb
        s.xIssue x q 3 (x.outElems o.g 32 o.vd ((List.range 32).map fun k =>
          let e := elemOf 4 a (32 * o.part + k)
          let i : Int := if t = .n4 then (e : Int) - quantZero b else signedOf 4 e
          encodeF f32F .rne false 0 ((FVal.ofInt i).mul (decodeF bf16F (quantScale b)))))
end Sys2Proof.Machine
end

