-- ==== Sys2Proof/Machine/VecFloat.lean ====
section
/-! DEFINITION. Floating-point vector words (R122 to R125). -/

namespace Sys2Proof.Machine

/-- The latency of the words of R122: F64 takes the longer one. The words that R158 calls F64 arithmetic, one repetition for each clk, are
those of R122 and VSEL of F64, with VCMP.F64; reductions, VSCAN, conversions and XRND of F64 issue two for each clk (DESIGN CHOICE,
log 75). -/
def floatLat (o : V4) (lat lat64 : Nat) : Nat := if o.ty = .f64 then lat64 else lat

/-- An element-wise word of R122: FPX before it takes effect where FXT asks for it (R123), else each exact value rounded once
under RND (R121, R122). -/
def vecFloat (o : V4) (srcs : List VReg) (lat lat64 : Nat) (f : Rnd → List FVal → Near) (s : State) : Out :=
  match o.ty.ffmt? with
  | none => .next s
  | some fmt =>
    xWord s o.g srcs [] [] fun x q =>
      let b := o.ty.width
      let vs := srcs.map (s.vread x)
      let ops := (List.range (elems b)).map fun j => vs.map fun v => decodeF fmt (elemOf b v j)
      let invalid := (List.range (elems b)).find? fun j => x.active o.g b j &&
        (match ops[j]? with | some l => (f o.rnd l).1.isNan && !l.any FVal.isNan | none => false)
      match (if o.fxt then invalid else none) with
      | some j => s.trapQ x .fpx (j % 256)
      | none =>
        let (vals, g) := mapDraw o.rnd (fun r l => let v := f o.rnd l; encodeF fmt o.rnd false r v.1 v.2) (x.vecGen q) ops
        s.xIssue (x.setVecGen q g) q (floatLat o lat lat64) (x.outElems o.g b o.vd vals) (o.ty == .f64)

/-- The forms with one, two and three sources. -/
def fun1 (f : FVal → Near) : Rnd → List FVal → Near
  | _, [a] => f a
  | _, _ => (.nan, false)
def fun2 (f : Rnd → FVal → FVal → FVal) : Rnd → List FVal → Near
  | r, [a, b] => (f r a b, false)
  | _, _ => (.nan, false)
def fun3 (f : Rnd → FVal → FVal → FVal → FVal) : Rnd → List FVal → Near
  | r, [a, b, c] => (f r a b c, false)
  | _, _ => (.nan, false)

def execVadd (o : V4) (s : State) : Out := vecFloat o [o.va, o.vb] 4 8 (fun2 fun r a b => a.add r b) s
def execVsub (o : V4) (s : State) : Out := vecFloat o [o.va, o.vb] 4 8 (fun2 fun r a b => a.add r b.negate) s
def execVmul (o : V4) (s : State) : Out := vecFloat o [o.va, o.vb] 4 8 (fun2 fun _ a b => a.mul b) s
def execVfma (o : V4) (s : State) : Out :=
  vecFloat o [o.va, o.vb, o.vc] 4 8 (fun3 fun r a b c => (a.mul b).add r c) s
def execVfms (o : V4) (s : State) : Out :=
  vecFloat o [o.va, o.vb, o.vc] 4 8 (fun3 fun r a b c => (a.mul b).add r c.negate) s
def execVfnma (o : V4) (s : State) : Out :=
  vecFloat o [o.va, o.vb, o.vc] 4 8 (fun3 fun r a b c => c.add r (a.mul b).negate) s
def execVmin (o : V4) (s : State) : Out := vecFloat o [o.va, o.vb] 4 8 (fun2 fun _ a b => a.min b) s
def execVmax (o : V4) (s : State) : Out := vecFloat o [o.va, o.vb] 4 8 (fun2 fun _ a b => a.max b) s
def execVrcp (o : V4) (s : State) : Out := vecFloat o [o.va] 6 16 (fun1 recip) s
def execVrsq (o : V4) (s : State) : Out := vecFloat o [o.va] 6 16 (fun1 rsqrt) s
def execVexp2 (o : V4) (s : State) : Out := vecFloat o [o.va] 6 16 (fun1 exp2) s
def execVlog2 (o : V4) (s : State) : Out := vecFloat o [o.va] 6 16 (fun1 log2F) s

/-- VABS and VNEG change only the sign bit, even of a NaN (R122). -/
def vecSign (o : V4) (f : Nat → Nat → Nat) (s : State) : Out :=
  xWord s o.g [o.va] [] [] fun x q =>
    let b := o.ty.width
    s.xIssue x q (floatLat o 4 8) (x.outMap s o.g b o.vd [o.va] fun l => f b (l.headD 0)) (o.ty == .f64)

def execVabs (o : V4) (s : State) : Out := vecSign o (fun b a => a % 2 ^ (b - 1)) s
def execVneg (o : V4) (s : State) : Out := vecSign o (fun b a => a ^^^ 2 ^ (b - 1)) s

/-- VCMP (R124). -/
def execVcmp (o : V4) (s : State) : Out :=
  match o.ty.ffmt? with
  | none => .next s
  | some fmt =>
    xWord s o.g [o.va, o.vb] [] [] fun x q =>
      s.xIssue x q (floatLat o 4 8)
        (x.outCmp s o fun a b => floatCond o.ccCode (decodeF fmt a) (decodeF fmt b)) (o.ty == .f64)

/-- VSEL (R125). -/
def execVsel (o : V4) (s : State) : Out :=
  xWord s o.g [o.va, o.vb] [predOf o.vc] [] fun x q =>
    let b := o.ty.width
    let va := s.vread x o.va
    let vb := s.vread x o.vb
    let c := x.pred (predOf o.vc)
    s.xIssue x q (floatLat o 4 8) (x.outElems o.g b o.vd ((List.range (elems b)).map fun j =>
      if c.getLsbD (laneOf b j) then elemOf b va j else elemOf b vb j)) (o.ty == .f64)
end Sys2Proof.Machine
end

