-- ==== Sys2Proof/Machine/VecInt.lean ====
section
/-! DEFINITION. Integer, logic and bit-count vector words (R126 to R129). -/

namespace Sys2Proof.Machine

/-- An element as its type reads it. -/
def elemInt (t : ElemType) (v : Nat) : Int := if t.isSigned then signedOf t.width v else (v % 2 ^ t.width : Nat)

/-- An element-wise integer word: the exact result of f, wrapped or clamped (R121, R126). -/
def vecInt (o : V4) (srcs : List VReg) (sat : Bool) (f : List Int → Int) (s : State) : Out :=
  xWord s o.g srcs [] [] fun x q =>
    s.xIssue x q 1 (x.outMap s o.g o.ty.width o.vd srcs fun l => encodeInt o.ty sat (f (l.map (elemInt o.ty))))

def int2 (f : Int → Int → Int) : List Int → Int
  | [a, b] => f a b
  | _ => 0

def execViadd (o : V4) (s : State) : Out := vecInt o [o.va, o.vb] o.sat (int2 fun a b => a + b) s
def execVisub (o : V4) (s : State) : Out := vecInt o [o.va, o.vb] o.sat (int2 fun a b => a - b) s
def execVimul (o : V4) (s : State) : Out := vecInt o [o.va, o.vb] o.sat (int2 fun a b => a * b) s
def execVimulh (o : V4) (s : State) : Out :=
  vecInt o [o.va, o.vb] false (int2 fun a b => a * b / (2 ^ o.ty.width : Nat)) s
def execVimad (o : V4) (s : State) : Out :=
  vecInt o [o.va, o.vb, o.vc] o.sat (fun l => match l with | [a, b, c] => a * b + c | _ => 0) s
def execVimin (o : V4) (s : State) : Out := vecInt o [o.va, o.vb] false (int2 fun a b => if a ≤ b then a else b) s
def execVimax (o : V4) (s : State) : Out := vecInt o [o.va, o.vb] false (int2 fun a b => if a ≤ b then b else a) s

/-- The shift amounts of VISHL and VISHR: immediate, or the low log2 b bits of vb's element (R126). -/
def vecShift (o : V4) (sat : Bool) (f : Int → Nat → Int) (s : State) : Out :=
  if o.immBit then vecInt o [o.va] sat (fun l => f (l.headD 0) o.amt6) s
  else vecInt o [o.va, o.vb] sat (int2 fun a b => f a (b % (o.ty.width : Nat)).toNat) s

def execVishl (o : V4) (s : State) : Out := vecShift o o.sat (fun a k => a * (2 ^ k : Nat)) s
def execVishr (o : V4) (s : State) : Out := vecShift o false (fun a k => a / (2 ^ k : Nat)) s
def execViabs (o : V4) (s : State) : Out := vecInt o [o.va] o.sat (fun l => ((l.headD 0).natAbs : Int)) s

/-- VISAT clamps to B bits (R126). -/
def execVisat (o : V4) (s : State) : Out :=
  let n := o.amt6 + 1
  let lo : Int := if o.ty.isSigned then -(2 ^ (n - 1) : Nat) else 0
  let hi : Int := if o.ty.isSigned then (2 ^ (n - 1) : Nat) - 1 else (2 ^ n : Nat) - 1
  vecInt o [o.va] false (fun l => clampInt lo hi (l.headD 0)) s

/-- VICMP (R127). -/
def execVicmp (o : V4) (s : State) : Out :=
  xWord s o.g [o.va, o.vb] [] [] fun x q => s.xIssue x q 1 (x.outCmp s o (intCond o.ccCode o.ty.width))

/-- One bit of the truth table for the three operands' bits (R128). -/
def lop3 (tt : BitVec 8) (a b c : VWord) : VWord :=
  (List.range 8).foldl (fun acc t =>
    if tt.getLsbD t then
      acc ||| ((if t / 4 = 1 then a else ~~~a) &&& (if t / 2 % 2 = 1 then b else ~~~b) &&& (if t % 2 = 1 then c else ~~~c))
    else acc) 0

def execVlop3 (o : V4) (s : State) : Out :=
  xWord s o.g [o.va, o.vb, o.vc] [] [] fun x q =>
    s.xIssue x q 1 (x.outElems o.g 32 o.vd (elemsOf 32 (lop3 o.tt (s.vread x o.va) (s.vread x o.vb) (s.vread x o.vc))))

/-- The funnel shifts of R129. -/
def vecFunnel (o : V4) (f : Nat → Nat → Nat) (s : State) : Out :=
  if o.immBit then
    xWord s o.g [o.va, o.vb] [] [] fun x q =>
      s.xIssue x q 1 (x.outMap s o.g 32 o.vd [o.va, o.vb] fun l =>
        match l with | [a, b] => f (a * 2 ^ 32 + b) o.amt5 | _ => 0)
  else
    xWord s o.g [o.va, o.vb, o.vc] [] [] fun x q =>
      s.xIssue x q 1 (x.outMap s o.g 32 o.vd [o.va, o.vb, o.vc] fun l =>
        match l with | [a, b, c] => f (a * 2 ^ 32 + b) (c % 32) | _ => 0)

def execVfshl (o : V4) (s : State) : Out := vecFunnel o (fun t k => ((t <<< k) >>> 32) % 2 ^ 32) s
def execVfshr (o : V4) (s : State) : Out := vecFunnel o (fun t k => (t >>> k) % 2 ^ 32) s

/-- VPOPC and VCLZ (R129). -/
def vecCount (o : V4) (f : Nat → Nat → Nat) (s : State) : Out :=
  xWord s o.g [o.va] [] [] fun x q =>
    s.xIssue x q 1 (x.outMap s o.g o.ty.width o.vd [o.va] fun l => f o.ty.width (l.headD 0))

def execVpopc (o : V4) (s : State) : Out := vecCount o popNat s
def execVclz (o : V4) (s : State) : Out := vecCount o clzNat s
end Sys2Proof.Machine
end

