-- ==== Sys2Proof/Machine/Dispatch.lean ====
section
/-! DEFINITION. One arm for each instruction and event: its meaning. -/

namespace Sys2Proof.Machine

def exec (i : Instr) (s : State) : Host.Outcome State Fault Refusal :=
  match i with
  | .add o => Sys2Proof.Machine.execAdd o s
  | .sub o => Sys2Proof.Machine.execSub o s
  | .mul o => Sys2Proof.Machine.execMul o s
  | .mulh o => Sys2Proof.Machine.execMulh o s
  | .mulhn o => Sys2Proof.Machine.execMulhn o s
  | .div o => Sys2Proof.Machine.execDiv o s
  | .divn o => Sys2Proof.Machine.execDivn o s
  | .rem o => Sys2Proof.Machine.execRem o s
  | .remn o => Sys2Proof.Machine.execRemn o s
  | .and o => Sys2Proof.Machine.execAnd o s
  | .or o => Sys2Proof.Machine.execOr o s
  | .xor o => Sys2Proof.Machine.execXor o s
  | .andn o => Sys2Proof.Machine.execAndn o s
  | .shl o => Sys2Proof.Machine.execShl o s
  | .shra o => Sys2Proof.Machine.execShra o s
  | .shrl o => Sys2Proof.Machine.execShrl o s
  | .rol o => Sys2Proof.Machine.execRol o s
  | .clz o => Sys2Proof.Machine.execClz o s
  | .ctz o => Sys2Proof.Machine.execCtz o s
  | .popc o => Sys2Proof.Machine.execPopc o s
  | .min o => Sys2Proof.Machine.execMin o s
  | .max o => Sys2Proof.Machine.execMax o s
  | .minn o => Sys2Proof.Machine.execMinn o s
  | .maxn o => Sys2Proof.Machine.execMaxn o s
  | .sel o => Sys2Proof.Machine.execSel o s
  | .cmp o => Sys2Proof.Machine.execCmp o s
  | .extr o => Sys2Proof.Machine.execExtr o s
  | .ins o => Sys2Proof.Machine.execIns o s
  | .addi o => Sys2Proof.Machine.execAddi o s
  | .li o => Sys2Proof.Machine.execLi o s
  | .lih o => Sys2Proof.Machine.execLih o s
  | .lea o => Sys2Proof.Machine.execLea o s
  | .br o => Sys2Proof.Machine.execBr o s
  | .bc o => Sys2Proof.Machine.execBc o s
  | .call o => Sys2Proof.Machine.execCall o s
  | .ret o => Sys2Proof.Machine.execRet o s
  | .jtab o => Sys2Proof.Machine.execJtab o s
  | .jfrag o => Sys2Proof.Machine.execJfrag o s
  | .done o => Sys2Proof.Machine.execDone o s
  | .yield o => Sys2Proof.Machine.execYield o s
  | .sld o => Sys2Proof.Machine.execSld o s
  | .sst o => Sys2Proof.Machine.execSst o s
  | .await o => Sys2Proof.Machine.execAwait o s
  | .amo o => Sys2Proof.Machine.execAmo o s
  | .amof o => Sys2Proof.Machine.execAmof o s
  | .mfs o => Sys2Proof.Machine.execMfs o s
  | .mts o => Sys2Proof.Machine.execMts o s
  | .mtsTmr o => Sys2Proof.Machine.execMtsTmr o s
  | .mtsSrseed o => Sys2Proof.Machine.execMtsSrseed o s
  | .mtsSeed o => Sys2Proof.Machine.execMtsSeed o s
  | .mtsRotsz o => Sys2Proof.Machine.execMtsRotsz o s
  | .mtsRrb o => Sys2Proof.Machine.execMtsRrb o s
  | .mtsHandleLow o => Sys2Proof.Machine.execMtsHandleLow o s
  | .mtsHandleHigh o => Sys2Proof.Machine.execMtsHandleHigh o s
  | .mtsFrag o => Sys2Proof.Machine.execMtsFrag o s
  | .mtsStw3 o => Sys2Proof.Machine.execMtsStw3 o s
  | .mtsStw o => Sys2Proof.Machine.execMtsStw o s
  | .mtsHeatcfg o => Sys2Proof.Machine.execMtsHeatcfg o s
  | .trap o => Sys2Proof.Machine.execTrap o s
  | .brkpt o => Sys2Proof.Machine.execBrkpt o s
  | .rtt o => Sys2Proof.Machine.execRtt o s
  | .fence o => Sys2Proof.Machine.execFence o s
  | .sflush o => Sys2Proof.Machine.execSflush o s
  | .sflushDrainEnd c b => Sys2Proof.Machine.execSflushDrainEnd c b s
  | .probe o => Sys2Proof.Machine.execProbe o s
  | .probeF o => Sys2Proof.Machine.execProbeF o s
  | .probeFillLanding c b => Sys2Proof.Machine.execProbeFillLanding c b s
  | .nop o => Sys2Proof.Machine.execNop o s
  | .vadd o => Sys2Proof.Machine.execVadd o s
  | .vsub o => Sys2Proof.Machine.execVsub o s
  | .vmul o => Sys2Proof.Machine.execVmul o s
  | .vfma o => Sys2Proof.Machine.execVfma o s
  | .vfms o => Sys2Proof.Machine.execVfms o s
  | .vfnma o => Sys2Proof.Machine.execVfnma o s
  | .vmin o => Sys2Proof.Machine.execVmin o s
  | .vmax o => Sys2Proof.Machine.execVmax o s
  | .vabs o => Sys2Proof.Machine.execVabs o s
  | .vneg o => Sys2Proof.Machine.execVneg o s
  | .vrcp o => Sys2Proof.Machine.execVrcp o s
  | .vrsq o => Sys2Proof.Machine.execVrsq o s
  | .vexp2 o => Sys2Proof.Machine.execVexp2 o s
  | .vlog2 o => Sys2Proof.Machine.execVlog2 o s
  | .vcmp o => Sys2Proof.Machine.execVcmp o s
  | .vsel o => Sys2Proof.Machine.execVsel o s
  | .viadd o => Sys2Proof.Machine.execViadd o s
  | .visub o => Sys2Proof.Machine.execVisub o s
  | .vimul o => Sys2Proof.Machine.execVimul o s
  | .vimulh o => Sys2Proof.Machine.execVimulh o s
  | .vimad o => Sys2Proof.Machine.execVimad o s
  | .vimin o => Sys2Proof.Machine.execVimin o s
  | .vimax o => Sys2Proof.Machine.execVimax o s
  | .vishl o => Sys2Proof.Machine.execVishl o s
  | .vishr o => Sys2Proof.Machine.execVishr o s
  | .viabs o => Sys2Proof.Machine.execViabs o s
  | .visat o => Sys2Proof.Machine.execVisat o s
  | .vicmp o => Sys2Proof.Machine.execVicmp o s
  | .vlop3 o => Sys2Proof.Machine.execVlop3 o s
  | .vfshl o => Sys2Proof.Machine.execVfshl o s
  | .vfshr o => Sys2Proof.Machine.execVfshr o s
  | .vpopc o => Sys2Proof.Machine.execVpopc o s
  | .vclz o => Sys2Proof.Machine.execVclz o s
  | .vcvt o => Sys2Proof.Machine.execVcvt o s
  | .vpack o => Sys2Proof.Machine.execVpack o s
  | .vunpk o => Sys2Proof.Machine.execVunpk o s
  | .vqnt o => Sys2Proof.Machine.execVqnt o s
  | .vdqnt o => Sys2Proof.Machine.execVdqnt o s
  | .vpermb o => Sys2Proof.Machine.execVpermb o s
  | .vperml o => Sys2Proof.Machine.execVperml o s
  | .vbcast o => Sys2Proof.Machine.execVbcast o s
  | .vrot o => Sys2Proof.Machine.execVrot o s
  | .vrmrg o => Sys2Proof.Machine.execVrmrg o s
  | .vinsl o => Sys2Proof.Machine.execVinsl o s
  | .vextl o => Sys2Proof.Machine.execVextl o s
  | .viota o => Sys2Proof.Machine.execViota o s
  | .vrsum o => Sys2Proof.Machine.execVrsum o s
  | .vrmax o => Sys2Proof.Machine.execVrmax o s
  | .vrmin o => Sys2Proof.Machine.execVrmin o s
  | .vrargmax o => Sys2Proof.Machine.execVrargmax o s
  | .vscan o => Sys2Proof.Machine.execVscan o s
  | .vbsort o => Sys2Proof.Machine.execVbsort o s
  | .vbmerge o => Sys2Proof.Machine.execVbmerge o s
  | .vbstep o => Sys2Proof.Machine.execVbstep o s
  | .vmergek o => Sys2Proof.Machine.execVmergek o s
  | .visect o => Sys2Proof.Machine.execVisect o s
  | .vunion o => Sys2Proof.Machine.execVunion o s
  | .xclr o => Sys2Proof.Machine.execXclr o s
  | .xadd o => Sys2Proof.Machine.execXadd o s
  | .xacc o => Sys2Proof.Machine.execXacc o s
  | .xrnd o => Sys2Proof.Machine.execXrnd o s
  | .xmov o => Sys2Proof.Machine.execXmov o s
  | .vld o => Sys2Proof.Machine.execVld o s
  | .vst o => Sys2Proof.Machine.execVst o s
  | .vldh o => Sys2Proof.Machine.execVldh o s
  | .vsth o => Sys2Proof.Machine.execVsth o s
  | .hadvc o => Sys2Proof.Machine.execHadvc o s
  | .hadvp o => Sys2Proof.Machine.execHadvp o s
  | .vloop o => Sys2Proof.Machine.execVloop o s
  | .vexit o => Sys2Proof.Machine.execVexit o s
  | .rrbset o => Sys2Proof.Machine.execRrbset o s
  | .rep o => Sys2Proof.Machine.execRep o s
  | .pand o => Sys2Proof.Machine.execPand o s
  | .por o => Sys2Proof.Machine.execPor o s
  | .pxor o => Sys2Proof.Machine.execPxor o s
  | .pnot o => Sys2Proof.Machine.execPnot o s
  | .pmov o => Sys2Proof.Machine.execPmov o s
  | .pset o => Sys2Proof.Machine.execPset o s
  | .ppopc o => Sys2Proof.Machine.execPpopc o s
  | .ldt o => Sys2Proof.Machine.execLdt o s
  | .stt o => Sys2Proof.Machine.execStt o s
  | .cpy o => Sys2Proof.Machine.execCpy o s
  | .cpya o => Sys2Proof.Machine.execCpya o s
  | .rowg o => Sys2Proof.Machine.execRowg o s
  | .mcast o => Sys2Proof.Machine.execMcast o s
  | .puth o => Sys2Proof.Machine.execPuth o s
  | .get o => Sys2Proof.Machine.execGet o s
  | .put o => Sys2Proof.Machine.execPut o s
  | .collectiveContribution o => Sys2Proof.Machine.execCollectiveContribution o s
  | .pft o => Sys2Proof.Machine.execPft o s
  | .ixg o => Sys2Proof.Machine.execIxg o s
  | .ixs o => Sys2Proof.Machine.execIxs o s
  | .ixsa o => Sys2Proof.Machine.execIxsa o s
  | .mma o => Sys2Proof.Machine.execMma o s
  | .mmv o => Sys2Proof.Machine.execMmv o s
  | .mmg o => Sys2Proof.Machine.execMmg o s
  | .matt o => Sys2Proof.Machine.execMatt o s
  | .mpbld o => Sys2Proof.Machine.execMpbld o s
  | .aclr o => Sys2Proof.Machine.execAclr o s
  | .adrain o => Sys2Proof.Machine.execAdrain o s
  | .bset o => Sys2Proof.Machine.execBset o s
  | .bsamp o => Sys2Proof.Machine.execBsamp o s
  | .bread o => Sys2Proof.Machine.execBread o s
  | .pred o => Sys2Proof.Machine.execPred o s
  | .pchk o => Sys2Proof.Machine.execPchk o s
  | .pstat o => Sys2Proof.Machine.execPstat o s
  | .accept o => Sys2Proof.Machine.execAccept o s
  | .fragset o => Sys2Proof.Machine.execFragset o s
  | .sgen o => Sys2Proof.Machine.execSgen o s
  | .sand o => Sys2Proof.Machine.execSand o s
  | .sxnor o => Sys2Proof.Machine.execSxnor o s
  | .sor o => Sys2Proof.Machine.execSor o s
  | .snot o => Sys2Proof.Machine.execSnot o s
  | .smux o => Sys2Proof.Machine.execSmux o s
  | .smaj o => Sys2Proof.Machine.execSmaj o s
  | .scnt o => Sys2Proof.Machine.execScnt o s
  | .s2b o => Sys2Proof.Machine.execS2b o s
  | .sregen o => Sys2Proof.Machine.execSregen o s
  | .slen o => Sys2Proof.Machine.execSlen o s
  | .scls o => Sys2Proof.Machine.execScls o s
  | .sclsV o => Sys2Proof.Machine.execSclsV o s
  | .binit o => Sys2Proof.Machine.execBinit o s
  | .arrive o => Sys2Proof.Machine.execArrive o s
  | .bwait o => Sys2Proof.Machine.execBwait o s
  | .twait o => Sys2Proof.Machine.execTwait o s
  | .tread o => Sys2Proof.Machine.execTread o s
  | .join o => Sys2Proof.Machine.execJoin o s
  | .leave o => Sys2Proof.Machine.execLeave o s
  | .barg o => Sys2Proof.Machine.execBarg o s
  | .spawn o => Sys2Proof.Machine.execSpawn o s
  | .jdec o => Sys2Proof.Machine.execJdec o s
  | .sectionDispatch hdr => Sys2Proof.Machine.execSectionDispatch hdr s
  | .backReferenceSatisfied => Sys2Proof.Machine.execBackReferenceSatisfied s
  | .wordPush w => Sys2Proof.Machine.execWordPush w s
  | .sectionRetirement c b k trapm => Sys2Proof.Machine.execSectionRetirement c b k trapm s
  | .resultLanding c b u => Sys2Proof.Machine.execResultLanding c b u s
  | .macroCompletion c b e => Sys2Proof.Machine.execMacroCompletion c b e s
  | .timerExpiry c b => Sys2Proof.Machine.execTimerExpiry c b s
  | .trapEntry cause => Sys2Proof.Machine.execTrapEntry cause s
  | .idleSlotDispatch c => Sys2Proof.Machine.execIdleSlotDispatch c s
  | .ageingTick => Sys2Proof.Machine.execAgeingTick s
  | .contextSwitch c => Sys2Proof.Machine.execContextSwitch c s
  | .engineContextChange c e => Sys2Proof.Machine.execEngineContextChange c e s
  | .park d => Sys2Proof.Machine.execPark d s
  | .parkedResume c => Sys2Proof.Machine.execParkedResume c s
  | .watchdogExpiry pa => Sys2Proof.Machine.execWatchdogExpiry pa s
  | .stallLimitExpiry c b e => Sys2Proof.Machine.execStallLimitExpiry c b e s
  | .writePropagation k => Sys2Proof.Machine.execWritePropagation k s
  | .dupw c b e => Sys2Proof.Machine.execDupw c b e s
  | .receivePut t => Sys2Proof.Machine.execReceivePut t s
  | .receiveGet t => Sys2Proof.Machine.execReceiveGet t s
  | .receivePuth t => Sys2Proof.Machine.execReceivePuth t s
  | .receiveAtomic t => Sys2Proof.Machine.execReceiveAtomic t s
  | .receiveCollective t => Sys2Proof.Machine.execReceiveCollective t s
  | .receiveAnswer tag refused rows => Sys2Proof.Machine.execReceiveAnswer tag refused rows s
  | .rxbad src code => Sys2Proof.Machine.execRxbad src code s
  | .fabricTimeout tag => Sys2Proof.Machine.execFabricTimeout tag s
  | .gangRetryTimeout tag => Sys2Proof.Machine.execGangRetryTimeout tag s
  | .gangexp gang => Sys2Proof.Machine.execGangexp gang s
  | .createSpace h asid => Sys2Proof.Machine.execCreateSpace h asid s
  | .loadSegments h asid first es os ms => Sys2Proof.Machine.execLoadSegments h asid first es os ms s
  | .swapin h m => Sys2Proof.Machine.execSwapin h m s
  | .layerResident m bytes => Sys2Proof.Machine.execLayerResident m bytes s
  | .evict h m layer => Sys2Proof.Machine.execEvict h m layer s
  | .launch h d asid r => Sys2Proof.Machine.execLaunch h d asid r s
  | .gangArm h gang asid armus r => Sys2Proof.Machine.execGangArm h gang asid armus r s
  | .gangGo h gang => Sys2Proof.Machine.execGangGo h gang s
  | .queryHeatStatistics h => Sys2Proof.Machine.execQueryHeatStatistics h s
  | .queryPoolOccupancy h => Sys2Proof.Machine.execQueryPoolOccupancy h s
  | .queryLoadedSpaces h => Sys2Proof.Machine.execQueryLoadedSpaces h s
  | .queryEventLog h => Sys2Proof.Machine.execQueryEventLog h s
  | .queryErrorCounters h => Sys2Proof.Machine.execQueryErrorCounters h s
  | .queryCertificate h => Sys2Proof.Machine.execQueryCertificate h s
  | .querySparingMap h => Sys2Proof.Machine.execQuerySparingMap h s
  | .queryMemorySpares h => Sys2Proof.Machine.execQueryMemorySpares h s
  | .setMsgn h c v => Sys2Proof.Machine.execSetMsgn h c v s
  | .setBlkthr h v => Sys2Proof.Machine.execSetBlkthr h v s
  | .setHeatcfg h v => Sys2Proof.Machine.execSetHeatcfg h v s
  | .setDeepRetention h v => Sys2Proof.Machine.execSetDeepRetention h v s
  | .setFtout h v => Sys2Proof.Machine.execSetFtout h v s
  | .setAgeus h p v => Sys2Proof.Machine.execSetAgeus h p v s
  | .setDuplication h asid idx v => Sys2Proof.Machine.execSetDuplication h asid idx v s
  | .setRsslots h obj slots => Sys2Proof.Machine.execSetRsslots h obj slots s
  | .attest h nonce => Sys2Proof.Machine.execAttest h nonce s
  | .retire h drain => Sys2Proof.Machine.execRetire h drain s
  | .deepRetentionRetire stack die => Sys2Proof.Machine.execDeepRetentionRetire stack die s
  | .scrubVisit err => Sys2Proof.Machine.execScrubVisit err s
  | .registerParityReplay c b dupBad => Sys2Proof.Machine.execRegisterParityReplay c b dupBad s
  | .scratchpadRowPoison c acc row => Sys2Proof.Machine.execScratchpadRowPoison c acc row s
  | .rowRepair stack at_ => Sys2Proof.Machine.execRowRepair stack at_ s
  | .pseudoChannelSparing stack pc => Sys2Proof.Machine.execPseudoChannelSparing stack pc s
  | .capacityDeviceFailure pkg => Sys2Proof.Machine.execCapacityDeviceFailure pkg s
  | .replicaRead asid idx => Sys2Proof.Machine.execReplicaRead asid idx s
  | .segmentPoisoning asid idx => Sys2Proof.Machine.execSegmentPoisoning asid idx s
  | .coreFailure c lost => Sys2Proof.Machine.execCoreFailure c lost s
  | .lanedeg port => Sys2Proof.Machine.execLanedeg port s
  | .powerOn b => Sys2Proof.Machine.execPowerOn b s
  | .thermalThrottle watts temps => Sys2Proof.Machine.execThermalThrottle watts temps s
  | .thermalShutdown sensor temp => Sys2Proof.Machine.execThermalShutdown sensor temp s
  | .readState => Sys2Proof.Machine.execReadState s
  | .readTemperatures => Sys2Proof.Machine.execReadTemperatures s
  | .readPower => Sys2Proof.Machine.execReadPower s
  | .setPlim watts => Sys2Proof.Machine.execSetPlim watts s
  | .requestReset b => Sys2Proof.Machine.execRequestReset b s
  | .scalarAccessCompletion c b k => Sys2Proof.Machine.execScalarAccessCompletion c b k s
  | .rowClearingDone c => Sys2Proof.Machine.execRowClearingDone c s
  | .accretionCopyLanded obj row => Sys2Proof.Machine.execAccretionCopyLanded obj row s
  | .powerOff => Sys2Proof.Machine.execPowerOff s
  | .thermalThrottleEnd watts temps => Sys2Proof.Machine.execThermalThrottleEnd watts temps s
  | .unknownCommand h => Sys2Proof.Machine.execUnknownCommand h s

end Sys2Proof.Machine
end

