-- ==== Sys2Proof/Machine/Wire.lean ====
section
/-! DEFINITION. Transactions as flits: the instruction that a header flit and its data flits ask for, numbers least significant byte
first (R2, R327, R328, R331 to R335). -/

namespace Sys2Proof.Machine

/-- n bytes of a header from an offset, as a number (R2). -/
def wireNum (h : List Byte) (off n : Nat) : Nat := natOfBytes ((h.drop off).take n)

/-- The header fields of a transaction, with its data flits (R327, R328). R327 gives bits 31:19 of SRC and DST and bits 15:12 of ASID
neither a meaning nor a reaction where they are set: they are not looked at (DESIGN CHOICE, log 7). -/
def wireFlit (h : List Byte) (rows : List Row) : Flit where
  src := BitVec.ofNat 19 (wireNum h 4 4)
  dst := BitVec.ofNat 19 (wireNum h 8 4)
  asid := BitVec.ofNat 12 (wireNum h 12 2)
  addr := BitVec.ofNat 64 (wireNum h 16 8)
  tag := BitVec.ofNat 64 (wireNum h 24 8)
  mask := Config.wireMask h
  nrows := Config.wireRows h
  prio := BitVec.ofNat 3 (wireNum h 3 1)
  handler := BitVec.ofNat 64 (wireNum h 32 8)
  atype := BitVec.ofNat 2 (wireNum h 32 1)
  aop := BitVec.ofNat 8 (wireNum h 32 1)
  size := BitVec.ofNat 8 (wireNum h 33 1)
  operand := BitVec.ofNat 64 (wireNum h 40 8)
  cmp := BitVec.ofNat 64 (wireNum h 48 8)
  resv := wireNum h 34 6 != 0 || wireNum h 56 200 != 0 || rows.length != 0
  rows := rows

/-- The sender, SEQ and TAG of a command, and whether a reserved field of its header is not zero (R327, R331, R332); SRC, DST and ASID
above their fields do not count (DESIGN CHOICE, log 7). -/
def wireCmd (h : List Byte) : HostCmd where
  src := BitVec.ofNat 19 (wireNum h 4 4)
  seq := BitVec.ofNat 32 (wireNum h 36 4)
  tag := BitVec.ofNat 64 (wireNum h 24 8)
  resv := wireNum h 1 3 != 0 || wireNum h 33 3 != 0

/-! ### Commands (R331 to R335)

ARGS has no layout: each field of a command is a number, least significant byte first (R2), at a free place (log 7). -/

/-- A field of a command's arguments. -/
def argNum (opc : Nat) (args : List Byte) (path : List Nat) : Nat :=
  let (at_, n) := Config.argPlace opc path args
  natOfBytes args / 2 ^ at_ % 2 ^ n

/-- A field that must fit in w bits. -/
def argBits (opc : Nat) (args : List Byte) (w : Nat) (path : List Nat) : Option (BitVec w) :=
  let v := argNum opc args path
  if v < 2 ^ w then some (BitVec.ofNat w v) else none

/-- Data of a command that stand at a whole byte. -/
def argBytes (opc : Nat) (args : List Byte) (path : List Nat) : List Byte := args.drop ((Config.argPlace opc path args).1 / 8)

/-- A record of 32 bytes (R282). -/
def argRec (opc : Nat) (args : List Byte) (path : List Nat) : Rec := BitVec.ofNat 256 (natOfBytes ((argBytes opc args path).take 32))

/-- Segment entries one after the other, of four 64-bit words each (R304). -/
def argEntries (bs : List Byte) (n : Nat) : List SegEntry :=
  (List.range n).map fun j =>
    let word := fun i : Nat => BitVec.ofNat 64 (wireNum bs (32 * j + 8 * i) 8)
    { w0 := word 0, w1 := word 1, w2 := word 2, w3 := word 3 }

/-- The definition of an object (R313). -/
def argObj (args : List Byte) (j : Nat) : Option ObjDef := do
  let num := fun i : Nat => argNum 2 args [4, j, i]
  let cap ← argBits 2 args 1 [4, j, 3]
  let die ← argBits 2 args 2 [4, j, 5]
  pure { obj := num 0, rows := num 1, rowb := num 2, homeCap := cap == 1, place := num 4, gdie := die.toFin, stslots := num 6, rsslots := num 7 }

/-- A layer of a model context: its segment, and its backing address here or on another node (R309). -/
def argLayer (args : List Byte) (j k : Nat) : Option (Nat × Backing) := do
  let away ← argBits 2 args 1 [6, j, k, 1]
  let node ← argBits 2 args 19 [6, j, k, 2]
  pure (argNum 2 args [6, j, k, 0], { node := if away = 1 then some node else none, addr := argNum 2 args [6, j, k, 3] })

/-- The definition of a model context (R309). -/
def argModel (args : List Byte) (j : Nat) : Option ModelDef := do
  let layers ← (List.range (argNum 2 args [6, j, 2])).mapM (argLayer args j)
  pure { num := argNum 2 args [6, j, 0], cls := argNum 2 args [6, j, 1], layers := layers }

/-- SET_POLICY by its key (R334). -/
def wirePolicy (c : HostCmd) (args : List Byte) : Option Instr := do
  let v ← argBits 9 args 64 [1]
  match argNum 9 args [0] with
  | 1 => (do let core ← argBits 9 args 7 [2]; pure (.setMsgn c core.toFin v))
  | 2 => pure (.setBlkthr c v)
  | 3 => pure (.setHeatcfg c v)
  | 4 => pure (.setDeepRetention c v)
  | 5 => pure (.setFtout c v)
  | 6 => (do let p ← argBits 9 args 3 [3]; pure (.setAgeus c p v))
  | 7 => (do
      let asid ← argBits 9 args 12 [4]
      let dup ← argBits 9 args 2 [6]
      let dhold ← argBits 9 args 4 [7]
      pure (.setDuplication c asid (argNum 9 args [5]) { dup := dup, dhold := dhold }))
  | 8 => pure (.setRsslots c (argNum 9 args [8]) (argNum 9 args [9]))
  | _ => none

/-- A command by its OPC, but QUERY (R333); LAUNCH and LOAD_SEGMENTS have their record and their entries in the data flits. -/
def wireCmdOf (c : HostCmd) (opc : Nat) (args data : List Byte) : Option Instr :=
  let all := args ++ data
  let asid := argBits opc all 12
  match opc with
  | 0x01 => (do let a ← asid [0]; pure (.createSpace c a))
  | 0x02 => (do
      let a ← asid [0]
      let objs ← (List.range (argNum 2 all [3])).mapM (argObj all)
      let models ← (List.range (argNum 2 all [5])).mapM (argModel all)
      pure (.loadSegments c a (argNum 2 all [1]) (argEntries (argBytes 2 data [7]) (argNum 2 all [2])) objs models))
  | 0x03 => pure (.swapin c (argNum 3 all [0]))
  | 0x04 => (do let l ← argBits 4 all 16 [1]; pure (.evict c (argNum 4 all [0]) l))
  | 0x05 => (do let d ← argBits 5 all 2 [0]; let a ← asid [1]; pure (.launch c d.toFin a (argRec 5 data [2])))
  | 0x06 => (do let a ← asid [1]; let us ← argBits 6 all 32 [2]; pure (.gangArm c (argNum 6 all [0]) a us (argRec 6 all [3])))
  | 0x07 => pure (.gangGo c (argNum 7 all [0]))
  | 0x09 => wirePolicy c all
  | 0x0A => pure (.attest c ((argBytes 10 all [0]).take (argNum 10 all [1])))
  | 0x0B => (do let f ← argBits 11 all 1 [0]; pure (.retire c (f == 1)))
  | _ => none

/-- QUERY by its selector, in ARGS byte 40 (R335). -/
def wireQuery (c : HostCmd) (sel : Nat) : Instr :=
  match sel with
  | 1 => .queryHeatStatistics c
  | 2 => .queryPoolOccupancy c
  | 3 => .queryLoadedSpaces c
  | 4 => .queryEventLog c
  | 5 => .queryErrorCounters c
  | 6 => .queryCertificate c
  | 7 => .querySparingMap c
  | 8 => .queryMemorySpares c
  | _ => .unknownCommand ⟨c, 0x08⟩

/-- A command: QUERY, one that its OPC and its arguments give, or one that is answered BADCMD (R331 to R333). -/
def wireCommand (h : List Byte) (rows : List Row) : Instr :=
  let c := wireCmd h
  let opc := wireNum h 32 1
  let data := rows.flatMap fun r => bytesOf 256 r.toNat
  if opc = 0x08 then wireQuery c (wireNum h 40 1)
  else match if Config.argsBad opc (h.drop 40 ++ data) then none else wireCmdOf c opc (h.drop 40) data with
    | some i => i
    | none => .unknownCommand ⟨c, BitVec.ofNat 8 opc⟩

/-- What arrives: an answer by its TAG, a transaction by its TYPE, or a flit of reserved TYPE, which is discarded and reported. A
header of another length, or with another number of data flits than NDATA, is no transaction (R327, R329); a response or an event
is for hosts alone (R331, R336). -/
def wireInstr (h : List Byte) (rows : List Row) : Option Instr :=
  let typ := wireNum h 0 1
  let flags := wireNum h 1 1
  if h.length ≠ 256 ∨ wireNum h 14 2 ≠ rows.length then none
  else if typ = 0 ∨ 7 ≤ typ then some (.rxbad (BitVec.ofNat 19 (wireNum h 4 4)) (BitVec.ofNat 8 typ))
  else if typ = 6 then (if wireNum h 34 1 = 0 then some (wireCommand h rows) else none)
  else if flags % 2 = 1 then
    some (.receiveAnswer (BitVec.ofNat 64 (wireNum h 24 8)) (if flags / 2 % 2 = 1 then some (BitVec.ofNat 8 (wireNum h 2 1)) else none) rows)
  else match typ with
    | 1 => some (.receivePut (wireFlit h rows))
    | 2 => some (.receiveGet (wireFlit h rows))
    | 3 => some (.receivePuth (wireFlit h rows))
    | 4 => some (.receiveAtomic (wireFlit h rows))
    | _ => some (.receiveCollective (wireFlit h rows))

/-- The flits are for this module, which knows its NODE once it is in service; bits 31:19 of DST are not looked at (log 7). -/
def State.wireHere (s : State) (h : List Byte) : Bool :=
  s.firm.st != .ready || BitVec.ofNat 19 (wireNum h 8 4) == s.firm.node
end Sys2Proof.Machine
end

