-- ==== Sys2Proof/Machine/Turns.lean ====
section
/-! DEFINITION. What moves next: which word the control core decodes (R29, R30, R43), which word a queue issues (R35, R154, R157),
which macro an engine runs (R162, R298), and which events may come. -/

namespace Sys2Proof.Machine

/-! ### The control core -/

/-- A code fetch at an address fails: the trap, or the stall on an absent segment (R30, R305). -/
def fetchFails (s : State) (x : Ctx) (va : Word) (e : NoFetch) : Act :=
  let s := e.st.noteXlat s.myCore x.id.asid e.at_
  match e.why with
  | .hole => .stop .physicalHole
  | e => match e.cause va.toNat with
    | some t => .run (.trapEntry t) s
    | none => .idle (s.ctlStall x (match e with | .absent i => i | _ => 0) va.toNat)

/-- The control core at a header. -/
def atHeader (s : State) (x : Ctx) : Act :=
  match s.fetch s.cur.core x.id.asid x.begun x.ctl.pc 8 with
  | .ok (h, s) => .run (.sectionDispatch (BitVec.ofNat 64 h)) s
  | .error e => fetchFails s x x.ctl.pc e

/-- The control core inside a section. A REP whose next word cannot be fetched is accepted, and that word raises its own trap
(DESIGN CHOICE, log 31). A word that has issued and holds the control core is not fetched again (R91). -/
def insideSection (s : State) (x : Ctx) (c : CtlSec) : Act :=
  match x.issue.bind fun h => decode h.word with
  | some i => .run i s
  | none =>
  if c.idx < c.h.len then
    match s.fetch s.cur.core x.id.asid x.begun x.ctl.pc 12 with
    | .ok (w, s) =>
      let w : IWord := BitVec.ofNat 96 w
      let next := if c.idx + 1 < c.h.len then
          (match s.fetch s.cur.core x.id.asid x.begun (x.ctl.pc + 12) 12 with
           | .ok (n, _) => some (BitVec.ofNat 96 n)
           | .error _ => none)
        else none
      match checkWord x c w (if opOf w = 0x1F3 then next else none) with
      | .error t => .run (.trapEntry t) s
      | .ok i => if c.h.kind = .c then .run i { s with cur := { s.cur with raw := w } } else .run (.wordPush w) s
    | .error e => fetchFails s x x.ctl.pc e
  else
    let goOn (s : State) : Act :=
      let x := { x.leaveSec x.ctl with ctl := { pc := c.next } }
      atHeader (s.putCtx x) x
    if c.h.len % 2 = 0 then goOn s
    else match s.fetch s.cur.core x.id.asid x.begun c.pad 4 with
      | .ok (p, s) => if p = 0 then goOn s else .run (.trapEntry { code := .illegal, cls := .p }) s
      | .error e => fetchFails s x c.pad e

/-- The control core's turn. A context that has stopped frees its slot once what it issued is over (R88). No boundary falls between the
two repetitions of one clock (R83), a context that is being parked issues no further word (R299), and neither does the active one
once a switch is decided (R296). -/
def controlTurn (s : State) : Act :=
  match s.ctx? with
  | none => .idle s
  | some x => match x.fatal with
    | some tc => .idle (if x.spent then s.endFatal s.cur.core s.cur.bank tc else s)
    | none =>
      if s.myCore.active ≠ some s.cur.bank || x.midClk || x.parkStop || (s.switchTarget s.cur.core).isSome then .idle s
      else controlWord s x
where
  controlWord (s : State) (x : Ctx) : Act :=
    match (if x.midWord then none else x.boundary) with
    | some t => .run (.trapEntry t) s
    | none =>
      if x.ending then (match (if x.trapMode then none else x.pendQ) with
        | some q => .run (.trapEntry q.cause) s
        | none => .run (.done ⟨none, none, 0, 0, 0, 0, 0⟩) s)
      else match x.ctl.phase, x.ctl.sec with
      | .waiting, some c =>
        if x.headerOver c.h.trapm c.deps then .run .backReferenceSatisfied s
        else match (if x.trapMode then none else x.faultOn (x.waitEngines c.h.trapm c.deps)).bind (·.fault) with
          | some t => .run (.trapEntry t) s
          | none => .idle (s.ctlHold x (.wait .header))
      | .inside, some c => insideSection s x c
      | _, _ => atHeader s x

/-! ### The queues -/

/-- A word that stands at the queue's head issues: its section's back-references first (R32, R35). -/
def issueWord (s0 s : State) (x : Ctx) (k : Kind) (q : QWord) : Act :=
  let s := { s with cur := { s.cur with word := some q } }
  match x.secs.find? (·.uid == q.uid) with
  | some t =>
    if t.open_ then go s
    else if x.secOver t q then .run .backReferenceSatisfied { s0 with cur := s.cur }
    else
      .idle (s.putCtx ((x.deliverFor (x.waitEngines t.trapm t.deps)).qIdle k))
  | none => go s
where
  go (s : State) : Act :=
    match (x.queue k).cur.rep, repTarget q.w with
    | some r, true =>
      if r.px.count = 0 then .idle (s.putCtx (x.qNext k))
      else
      let w := strideWord q.w r.px r.i
      match decode w, inAllot x ((decodeRaw q.w).getD .powerOff) r.px r.i with
      | some i, true => .run i { s with cur := { s.cur with rep := r.i } }
      | _, _ =>
        .idle (s.raiseQ x q { code := .allot, cls := .q, event := BitVec.ofNat 64 r.i })
    | _, _ => match decode q.w with
      | some i => .run i s
      | none => .idle s

/-- The turn of the L, X or S queue of a context. A word of a VLOOP's body leaves the queue, and gives up its room there, when the
loop buffer takes it (DESIGN CHOICE, log 22). -/
def queueTurn (s : State) (k : Kind) : Act :=
  if k = .c ∨ (k = .x ∧ (s.myCore.owners[0]) ≠ some s.cur.bank) then .idle s
  else
    let s0 := s
    let s := if k = .x then s.landAt s.cur.core s.cur.bank .vec else s
    match s.ctx? with
    | none => .idle s
    | some x =>
      let x := x.abandon k
      let s := s.putCtx x
      let q := x.queue k
      if (x.parkStop || x.fatal.isSome || (k = .x && s.myCore.engineMust s.cur.bank x true (Ctx.vecReady s.myCore))) && !x.midClk then .idle s
      else if x.queueStopped k then .idle (s.putCtx (x.qIdle k))
      else if q.cur.nop ≠ 0 then
        let x := x.setQueue k { q with cur := { q.cur with nop := q.cur.nop - 1 } }
        .idle (s.putCtx ((if q.cur.nop = 1 then x.qNext k else x).qTick k))
      else match q.cur.loop, q.head x.trapMode with
        | some l, h =>
          (match l.body[l.idx]?, h with
           | some w, _ => issueWord s0 s x k w
           | none, some w =>
             let x := x.setQueue k { q.pop x.trapMode with cur := { q.cur with loop := some { l with body := l.body ++ [w] } } }
             issueWord s0 (s.putCtx x) x k w
           | none, none => .idle (s.putCtx (x.qIdle k)))
        | none, some w =>
          if q.cur.skip ≠ 0 then
            .idle (s.putCtx (x.setQueue k { q.pop x.trapMode with cur := { q.cur with skip := q.cur.skip - 1, uid := if q.cur.skip = 1 then 0 else q.cur.uid } }))
          else issueWord s0 s x k w
        | none, none => .idle (s.putCtx (x.qIdle k))

/-! ### The engines -/

def Eng.num : Eng → Fin 5
  | .load => 0 | .store => 1 | .index => 2 | .matrix => 3 | .pred => 4

/-- The turn of an engine of a context: one progress unit of its macro (R168, R298). -/
def engineTurn (s : State) (e : Eng) : Act :=
  if (s.myCore.owners[1 + (Eng.num e).val]) ≠ some s.cur.bank then .idle s
  else match s.ctx? with
    | none => .idle s
    | some x =>
      if s.myCore.engineMust s.cur.bank x false (fun y => s.engReady s.cur.core y e) then .idle s
      else match x.engHead e with
      | some r =>
        if x.parkStop && !r.started then .idle s
        else match decode r.q.w with
          | some i => .run i { s with cur := { s.cur with word := some r.q } }
          | none => .idle s
      | none => .idle s

/-! ### Turns -/

/-- An event that may come by itself: no word, and none of the events that belong to a unit's own turn. -/
def isOwnEvent (i : Instr) : Bool :=
  (encode i).isNone &&
  match i with
  | .sectionDispatch _ | .backReferenceSatisfied | .wordPush _ | .trapEntry _ => false
  | _ => true

/-- The turn that the state gives, and the next one drawn. -/
def State.begin (s : State) : Act :=
  let s' := { s with turn := Config.nextTurn s.tick, tick := s.tick + 1 }
  match s.turn with
  | .control c b => controlTurn { s' with cur := { core := c, bank := b, unit := .ctl } }
  | .queue c b k => queueTurn { s' with cur := { core := c, bank := b, unit := .queue k } } k
  | .engine c b e => engineTurn { s' with cur := { core := c, bank := b, unit := .eng e } } e
  | .event i =>
    let t := { s'.readAhead with cur := {} }
    if isOwnEvent i then .run i t else .idle t
  | .wire h rows =>
    let t := { s'.readAhead with cur := {} }
    match wireInstr h rows with
    | some i => if s.wireHere h then .run i t else .idle t
    | none => .idle t

/-- What an X queue's turn leaves of state s when no clk of the queue has passed in it: the results that land in the clk that stands were
read by the word, and are withheld until one passes, so that a trap entry in between still finds them in flight (R79, R88). The first of
two repetitions of one clk keeps them landed, since no boundary falls before the second (R83). -/
def State.withhold (s t : State) : State :=
  match s.turn with
  | .queue c b .x => match s.ctxAt c b, t.ctxAt c b with
    | some x, some y =>
      if y.xclk = x.xclk ∧ y.midClk = false then
        let k := s.core c
        (t.setCore c { t.core c with vregs := k.vregs, spad := k.spad, spadBad := k.spadBad }).setCtxAt c b
          (some { y with regs := x.regs, flights := x.flights })
      else t
    | _, _ => t
  | _ => t
end Sys2Proof.Machine
end

