-- ==== Sys2Proof/Machine/Step.lean ====
section
/-! DEFINITION. One step of the module, and a state whose next step runs a given word. -/

namespace Sys2Proof.Machine

/-- One step: the agent whose turn it is moves (log 1). -/
def step (s : State) : Host.Outcome State Fault Refusal :=
  match s.begin with
  | .idle t => .next (s.withhold t)
  | .run i t => match exec i t with
    | .next u => .next (s.withhold u)
    | o => o
  | .stop f => .fault f

/-- The section kind that a word is placed in: C where it may stand there, else the first kind that admits it. -/
def placeKind (w : IWord) : Kind :=
  if (opKinds (opOf w)).contains .c then .c else ((opKinds (opOf w)).head?).getD .c

/-- A context of an otherwise idle core 0 whose only section holds one word (log 9). -/
def placeCtx : Ctx :=
  Ctx.start { asid := 1, serial := 0, bank := 0, share := false, replay := false, priv := false, pri := 0, vbase := 0,
              vlen := 2048, sbank := 0, snb := 32, abase := 0, alen := 512,
              copy := { rec_ := 0, asid := 1, stamp := 0, priv := false } }

/-- Core 0 with that context active, and every engine with it. -/
def placeCore (k : Core) (x : Ctx) : Core :=
  { k with banks := Vector.replicate 3 none |>.set 0 (some x), active := some 0, icache := [],
           owners := Vector.replicate 6 (some 0) }

/-- The word stored where the next step finds it: a word of a C section in code at address 8, under a header at 0; a word of
an L, X or S section at the head of its queue (log 9). -/
def State.withFetchWord (s : State) (nbits w : Nat) : State :=
  let w : IWord := BitVec.ofNat 96 (w % 2 ^ min nbits 96)
  let k := placeKind w
  let h : Header := { kind := k, len := 1, depA := 0xFFFF, depB := 0xFFFF, depC := 0xFFFF, trapm := false }
  let s := { s with
    spaces := [{ asid := 1, entries := [(0, { w1 := 0x1000E, w3 := 0x80 })] }]
    segOld := []
    views := Vector.replicate 4 (Sparse.writeAll (w := 8) [] 0 (bytesOf 8 (encodeHeader h).toNat ++ wordBytes w)) }
  match k with
  | .c =>
    let x := { placeCtx with ctl := { pc := 8, phase := .inside, sec := some { hdr := 0, h := h } }, disp := { c := 1 } }
    { s.setCore 0 (placeCore (s.core 0) x) with turn := .control 0 0 }
  | k =>
    let q : QWord := { w := w, uid := 0, hdr := 0, idx := 0, kind := k, trapm := false,
                       cap := { desc := Vector.replicate 13 0, bfmt := Vector.replicate 32 0 } }
    let x := placeCtx.setQueue k { items := [q] }
    { s.setCore 0 (placeCore (s.core 0) x) with turn := .queue 0 0 k }

end Sys2Proof.Machine
end

