-- ==== Sys2Proof/WellFormed.lean ====
section
/-! DEFINITION. Well-formed instructions: the words that step 3 of R43 lets through, as far as the word alone decides it. What
a check of R43 needs beside the word (the section, the allotment, the loop body) is checked where the control core decodes
(Machine/Fetch.lean). Events are always well-formed: what comes from outside is checked by the event's own rule. -/

namespace Sys2Proof

/-- The word of this instruction passes the checks of step 3 of R43 that its bits alone decide. -/
def WellFormed (i : Instr) : Prop := i.fieldsOk = true

end Sys2Proof
end

