-- ==== Sys2Proof/Safety.lean ====
section
/-! DEFINITION. What a safe step is, and the terms that the statements use: when a word runs, what it may change, and where its
result goes. -/

namespace Sys2Proof

/-- Every memory of the module has its canonical form: the four die views, and each core's scratchpad, accumulator memory
and vector registers. -/
def MemoryOk (s : Machine.State) : Prop :=
  (∀ d : DieId, Machine.Memory.wf s.views[d] = true) ∧
  ∀ c : CoreId, Machine.Sparse.wf (s.cores[c]).spad = true ∧ Machine.Sparse.wf (s.cores[c]).acc = true
    ∧ Machine.Sparse.wf (s.cores[c]).vregs = true

namespace Machine

/-! ### What does not change -/

/-- Every byte of module memory in every view, and every cell of every core's scratchpad, accumulator memory and vector
registers, reads in t as it reads in s. -/
def SameMemory (s t : State) : Prop :=
  (∀ (d : DieId) (a : Nat), t.readView d a 1 = s.readView d a 1) ∧
  ∀ (c : CoreId) (a : Nat), (t.core c).spad.read a = (s.core c).spad.read a ∧ (t.core c).acc.read a = (s.core c).acc.read a
    ∧ (t.core c).vregs.read a = (s.core c).vregs.read a

/-- The state in which a turn acts: the next turn is drawn and the executing unit is set (the model's own fields, log 1). -/
def turnState (s : State) (c : CoreId) (b : BankId) (u : Unit_) : State :=
  { s with turn := Config.nextTurn s.tick, tick := s.tick + 1, cur := { core := c, bank := b, unit := u } }

/-- What a step from s makes of its word's outcome: a turn of the X queue that has passed no clk withholds what landed in it (R88). -/
def State.after (s : State) : Host.Outcome State Fault Refusal → Host.Outcome State Fault Refusal
  | .next u => .next (s.withhold u)
  | o => o

/-! ### Control words -/

/-- The context on which a control word of the state acts: the executing one, with the results of the control core that are
due landed (R79). -/
def CtlView (s : State) (x : Ctx) : Prop := s.ctx?.map (·.landed s.myCore) = some x

/-- A control word with guard g that reads these scalars takes its effect: the guard passes, and where PENDR is set no register
it reads has a result in flight (R16, R82). -/
def CtlRuns (s : State) (g : Guard) (reads : List SReg) (x : Ctx) : Prop :=
  CtlView s x ∧ x.guardOk g = true ∧ (x.pendr = true → x.guardPending g = false ∧ ∀ r ∈ reads, x.scalarPending r = false)

/-- The executing context becomes y with the control core past its word after n clk. Nothing else changes: only TMR counts
down, and a TIMER may become pending (R87). -/
def Advances (s : State) (y : Ctx) (n : Nat) (t : State) : Prop :=
  (∃ z : Ctx, t = s.putCtx z ∧
    z = { y with ctl := y.ctl.step, cclk := y.cclk + n, hold := .none, heldClk := 0, issue := none, stall := none,
                 ctlFresh := false, sys := { y.sys with tmr := z.sys.tmr }, pendE := z.pendE }) ∧
  SameMemory s t

/-- The control core goes to a header, whose first word issues n clk later (R38, R99). -/
def Branches (s : State) (x : Ctx) (target : Word) (n : Nat) (t : State) : Prop :=
  (∃ z : Ctx, t = s.putCtx z ∧
    z = { x.leaveSec x.ctl with ctl := { pc := target, phase := .header, sec := none }, cclk := x.cclk + n, hold := .none,
                                heldClk := 0, issue := none, stall := none, ctlFresh := false,
                                sys := { x.sys with tmr := z.sys.tmr }, pendE := z.pendE }) ∧
  SameMemory s t

/-- The control core stands at its word for one more clk. One that has issued keeps its word and the registers of that clock (R91).
Where the word has not issued and would be the first since a return from a trap or a change of context, the results that were put in
flight again wait with it (R229, R297), but where it waits for one of them to land (R81). -/
def Waits (s : State) (y : Ctx) (h : Hold) (t : State) : Prop :=
  (∃ z : Ctx, t = s.putCtx z ∧
    z = { y with cclk := y.cclk + 1, hold := h, heldClk := y.heldClk + 1, ctlFresh := y.ctlFresh && h != .busy,
                 issue := if h = .busy then some (s.issuing y) else none,
                 flights := if y.ctlFresh = true ∧ h ≠ .busy ∧ h ≠ .full then (y.postpone .ctl 1).flights else y.flights,
                 sys := { y.sys with tmr := z.sys.tmr }, pendE := z.pendE }) ∧
  SameMemory s t

/-- A result for scalar register sd joins the results in flight; one for s0 is discarded (R71, R79). -/
def Ctx.withScalar (x : Ctx) (sd : SReg) (v : Word) (lat : Nat) : Ctx :=
  if sd = 0 then x else { x with flights := x.flights ++ [{ unit := .ctl, land := x.cclk + lat, val := .scalar sd v }] }

/-- A result for sd can issue (R81). -/
def Ctx.hasRoom (x : Ctx) (sd : SReg) : Prop := sd = 0 ∨ x.room .ctl = true

/-- What a scalar register holds, whatever the word that holds the control core read of it (R71). -/
def Ctx.reg (x : Ctx) (r : SReg) : Word := if r = 0 then 0 else x.regs.s[r.toNat]'r.isLt

/-- Only scalar results of the control core are in flight at it. -/
def Ctx.onlyScalars (x : Ctx) : Prop := ∀ f ∈ x.flights, f.unit = .ctl → ∃ r w, f.val = .scalar r w

/-- The control core goes on at a place after n clk with v in sd: what was in flight at the control core has landed or is
still in flight, and nothing else of the context or the module has changed. -/
def EndsAfter (s : State) (x : Ctx) (ctl : CtlPos) (n : Nat) (sd : SReg) (v : Word) (t : State) : Prop :=
  (∃ z : Ctx, t = s.putCtx z ∧
    z = { x with ctl := ctl, cclk := x.cclk + n, hold := .none, heldClk := 0, issue := none, stall := none,
                 ctlFresh := false, flights := z.flights,
                 regs := { x.regs with s := z.regs.s }, sys := { x.sys with tmr := z.sys.tmr }, pendE := z.pendE } ∧
    (sd ≠ 0 → z.rd sd = v) ∧
    ∀ r, r ≠ sd → (∀ f ∈ x.flights, ∀ w, f.val ≠ .scalar r w) → z.rd r = x.reg r) ∧
  SameMemory s t

/-- A word that held the control core has ended with v in sd. -/
def HeldWord (s : State) (x : Ctx) (sd : SReg) (v : Word) (t : State) : Prop := ∃ n, EndsAfter s x x.ctl.step n sd v t

/-- A register-to-register control word: from sources a, b, c it writes a value v that they and the word fix, lat clk later, in
one clk. -/
def AluWord (w : C3 → Instr) (reads : C3 → List SReg) (lat : Nat) (result : C3 → Word → Word → Word → Word → Prop) : Prop :=
  ∀ (s : State) (x : Ctx) (o : C3), WellFormed (w o) → CtlRuns s o.g (reads o) x → x.hasRoom o.sd →
    ∃ v t, result o (x.rd o.sa) (x.rd o.sb) (x.rd o.sc) v ∧ exec (w o) s = .next t ∧ Advances s (x.withScalar o.sd v lat) 1 t

/-! ### Words of the X queue -/

/-- The X queue issues word q of context x, which reads these registers: where PENDR is set, none of them has a result in flight
(R82). -/
def XRuns (s : State) (g : Guard) (vs : List VReg) (ps : List PReg) (es : List EReg) (x : Ctx) (q : QWord) : Prop :=
  s.ctx? = some x ∧ s.cur.word = some q ∧
    (x.pendr = true → x.guardPending g = false ∧ (∀ r ∈ vs, x.vecPending (x.phys r.toNat) = false)
      ∧ (∀ p ∈ ps, x.predPending p = false) ∧ ∀ e ∈ es, x.exactPending e = false)

/-- The word's result v joins the results in flight and lands lat clk after its issue (R79); a word that names a handle holds it
until then (R237). -/
def Ctx.withResult (x : Ctx) (q : QWord) (lat : Nat) (v : FlightVal) (h : Option HReg := none) : Ctx :=
  { x with flights := x.flights ++ [{ unit := .vec, land := x.xclk + lat, val := v, uid := q.uid, hnd := h }] }

/-- v writes element j of vd with val j, for each j of the 1024 / b elements with `on j`, and no other byte of any register
(R120). -/
def WritesElems (x : Ctx) (vd : VReg) (b : Nat) (on : Nat → Bool) (val : Nat → Nat) (v : FlightVal) : Prop :=
  ∃ en w, v = .vec (x.phys vd.toNat) en w ∧ (∀ y, y < 128 → en.getLsbD y = on (8 * y / b)) ∧
    ∀ j, j < 1024 / b → on j = true → elemOf b w j = val j % 2 ^ b

/-- v writes the low `bits` bits of vd, whole bytes, with n, whatever the guard, and no other byte of any register. -/
def WritesBits (x : Ctx) (vd : VReg) (bits n : Nat) (v : FlightVal) : Prop :=
  ∃ en w, v = .vec (x.phys vd.toNat) en w ∧ (∀ y, y < 128 → en.getLsbD y = decide (8 * y < bits)) ∧ w.toNat = n % 2 ^ bits

/-- Element j of a register as the word reads it. -/
def State.elem (s : State) (x : Ctx) (r : VReg) (b j : Nat) : Nat := elemOf b (s.vread x r) j

/-- The X queue issues the word of context x, as it then is, with result v after lat clk (R79, R158). -/
def XResult (i : Instr) (s : State) (x : Ctx) (q : QWord) (lat : Nat) (solo : Bool) (v : FlightVal) : Prop :=
  exec i s = .next (s.putCtx ((x.withResult q lat v).xDone solo 0))

/-- A rounding generator after n draws; only SR draws (R64). -/
def drawn (r : Rnd) (g : BitVec 32) (n : Nat) : BitVec 32 := if r = .sr then srNext^[n] g else g

/-- The context after the vector generator that word q uses has drawn n times (R64). -/
def Ctx.withDraws (x : Ctx) (q : QWord) (r : Rnd) (n : Nat) : Ctx := x.setVecGen q (drawn r (x.vecGen q) n)

/-- A word that writes the elements of vd: with room in flight it issues, and its result has these values. -/
def ElemWord (w : V4 → Instr) (srcs : V4 → List VReg) (ps : V4 → List PReg) (width lat : V4 → Nat) (solo : V4 → Bool)
    (val : State → Ctx → V4 → Nat → Nat) : Prop :=
  ∀ (s : State) (x : Ctx) (q : QWord) (o : V4), WellFormed (w o) → XRuns s o.g (srcs o) (ps o) [] x q →
    x.room .vec = true → ∃ v, XResult (w o) s x q (lat o) (solo o) v ∧
      WritesElems x o.vd (width o) (x.active o.g (width o)) (val s x o) v

/-- A floating-point word: each element is the exact value f of the sources' elements, rounded once under the word's mode with a
draw of its own; where FXT is set, the first active element that is invalid raises FPX (R121 to R123). -/
def FloatWord (w : V4 → Instr) (srcs : V4 → List VReg) (lat lat64 : Nat) (f : Rnd → List FVal → Near) : Prop :=
  ∀ (s : State) (x : Ctx) (q : QWord) (o : V4) (fmt : FFmt), WellFormed (w o) → o.ty.ffmt? = some fmt →
    XRuns s o.g (srcs o) [] [] x q → x.room .vec = true →
    let b := o.ty.width
    let ops := fun j => (srcs o).map fun r => decodeF fmt (s.elem x r b j)
    let bad := fun j => x.active o.g b j = true ∧ (f o.rnd (ops j)).1 = .nan ∧ FVal.nan ∉ ops j
    ((o.mods.getLsbD 0 = false ∨ ∀ j, j < 1024 / b → ¬ bad j) →
      ∃ v, XResult (w o) s (x.withDraws q o.rnd (1024 / b)) q (if o.ty = .f64 then lat64 else lat) (o.ty == .f64) v ∧
        WritesElems x o.vd b (x.active o.g b)
          (fun j => encodeF fmt o.rnd false (drawn o.rnd (x.vecGen q) (j + 1)).toNat (f o.rnd (ops j)).1 (f o.rnd (ops j)).2) v) ∧
    (∀ j, j < 1024 / b → o.mods.getLsbD 0 = true → bad j → (∀ i, i < j → ¬ bad i) → exec (w o) s = s.trapQ x .fpx j)

/-- An integer word: each element is the exact value f of the sources' elements as integers, its low bits or, with SAT, clamped to
the type (R121, R126). -/
def IntWord (w : V4 → Instr) (srcs : V4 → List VReg) (sat : V4 → Bool) (f : V4 → List Int → Int) : Prop :=
  ElemWord w srcs (fun _ => []) (fun o => o.ty.width) (fun _ => 1) (fun _ => false) fun s x o j =>
    let i := f o ((srcs o).map fun r => if o.ty.isSigned then (BitVec.ofNat o.ty.width (s.elem x r o.ty.width j)).toInt
      else (s.elem x r o.ty.width j : Nat))
    ((if sat o then max (intMin o.ty) (min (intMax o.ty) i) else i) % 2 ^ o.ty.width).toNat

/-- v writes bit i of predicate p with `bit i`, for each i with `on i`, and no other bit. -/
def WritesPred (p : PReg) (on bit : Nat → Bool) (v : FlightVal) : Prop :=
  ∃ m w, v = .pred p m w ∧ ∀ i, i < 32 → m.getLsbD i = on i ∧ (on i = true → w.getLsbD i = bit i)

/-- What a vector word reads in the clock in which it issues: its guard's predicate, and its vector registers, predicates and exact
accumulators. -/
structure VecReads where
  g  : Guard
  vs : List VReg := []
  ps : List PReg := []
  es : List EReg := []

/-- A result for one of them is in flight (R82). -/
def VecReads.pending (r : VecReads) (x : Ctx) : Bool :=
  x.guardPending r.g || r.vs.any (fun v => x.vecPending (x.phys v.toNat)) || r.ps.any x.predPending || r.es.any x.exactPending

/-- The sources of every vector word with a result whose guard, where it has one, is a lane mask (R18, R19, R120 to R159): a shift
by an immediate, a permute by one and a half row read one register less, and the sorting and set words, and VQNT to a block format, take
no guard. -/
def vecReads : Instr → Option VecReads
  | .vfma o | .vfms o | .vfnma o | .vimad o | .vlop3 o | .vpermb o | .vperml o => some ⟨o.g, [o.va, o.vb, o.vc], [], []⟩
  | .vadd o | .vsub o | .vmul o | .vmin o | .vmax o | .viadd o | .visub o | .vimul o | .vimulh o | .vimin o | .vimax o
  | .vcmp o | .vicmp o | .vpack o | .xacc o => some ⟨o.g, [o.va, o.vb], [], []⟩
  | .vrcp o | .vrsq o | .vexp2 o | .vlog2 o | .vabs o | .vneg o | .viabs o | .visat o | .vpopc o | .vclz o | .vcvt o
  | .vunpk o | .vrsum o | .vscan o | .vrmax o | .vrmin o | .vrargmax o | .xadd o => some ⟨o.g, [o.va], [], []⟩
  | .vsel o => some ⟨o.g, [o.va, o.vb], [o.vc.extractLsb' 0 4], []⟩
  | .vishl o | .vishr o => some ⟨o.g, if o.mods.getLsbD 1 then [o.va] else [o.va, o.vb], [], []⟩
  | .vfshl o | .vfshr o => some ⟨o.g, if o.mods.getLsbD 1 then [o.va, o.vb] else [o.va, o.vb, o.vc], [], []⟩
  | .vrot o => some ⟨o.g, if o.mods.getLsbD 1 then [o.va] else [o.va, o.vc], [], []⟩
  | .vrmrg o => some ⟨o.g, if o.mods.getLsbD 1 then [o.va, o.vb] else [o.va, o.vb, o.vc], [], []⟩
  | .vqnt o => some (if o.ty.isDB then ⟨none, [o.va], [], []⟩ else ⟨o.g, [o.va, o.vb], [], []⟩)
  | .vdqnt o => (ElemType.ofCode (o.mods.extractLsb' 17 6).toNat).map fun t => ⟨o.g, if t.isDB then [o.va] else [o.va, o.vb], [], []⟩
  | .vbsort o | .vbstep o => some ⟨none, [o.va], [], []⟩
  | .vbmerge o | .vmergek o | .visect o | .vunion o => some ⟨none, [o.va, o.vb], [], []⟩
  | .viota o => some ⟨o.g, [], [], []⟩
  | .vbcast o | .vinsl o | .pset o => some ⟨o.g, [], [], []⟩
  | .xrnd o => some ⟨o.g, [], [], [o.va.extractLsb' 0 2]⟩
  | .pand o | .por o | .pxor o => some ⟨o.g, [], [o.va.extractLsb' 0 4, o.vb.extractLsb' 0 4], []⟩
  | .pnot o | .pmov o => some ⟨o.g, [], [o.va.extractLsb' 0 4], []⟩
  | .ppopc o => some ⟨o.g, [], [o.va.extractLsb' 0 4], []⟩
  | .vld o | .vldh o => some ⟨o.g, [], [], []⟩
  | .vst o | .vsth o => some ⟨o.g, if (o.mods.extractLsb' 0 2).toNat = 0 then [o.v, o.v + 1] else [o.v], [], []⟩
  | _ => none

/-- A word that may stand in a C section or in a queue issues from queue k with guard g passed (R16, R42). -/
def SyncRuns (s : State) (g : Guard) (x : Ctx) (q : QWord) (k : Kind) : Prop :=
  s.ctx? = some x ∧ s.cur.unit = .queue k ∧ s.cur.word = some q ∧ x.guardOk g = true ∧
    (x.pendr = true → x.guardPending g = false)

/-- A word that may stand in a C section or in a queue executes at the control core. -/
def SyncCtl (s : State) (g : Guard) (reads : List SReg) (x : Ctx) : Prop :=
  CtlRuns s g reads x ∧ ∀ k, s.cur.unit ≠ .queue k

/-- An operation on a group's record is performed: the thread has nothing on its way, and the home die has reached the clock
of the thread's die (R219, R221, R222). -/
def GroupRuns (s : State) (g : Guard) (reads : List SReg) (sa : SReg) (x : Ctx) (pa i : Nat) : Prop :=
  CtlRuns s g reads x ∧ x.ops = [] ∧ s.xlat x ((x.rd sa).toNat / 1024 * 1024) .write = .ok (.mem pa) i ∧ dsmBase ≤ pa ∧
    s.clockReached (homeDie pa) s.vc[s.myDie].toList = true

/-! ### Macros -/

/-- Engine e performs a progress unit of macro r of context x. -/
def EngRuns (s : State) (x : Ctx) (e : Eng) (r : Run) : Prop :=
  s.ctx? = some x ∧ s.cur.unit = .eng e ∧ s.curRun x e = some r

/-- The macro at the head of queue k goes to its engine. -/
def QueueRuns (s : State) (x : Ctx) (k : Kind) (q : QWord) : Prop :=
  s.ctx? = some x ∧ s.cur.unit = .queue k ∧ s.cur.word = some q

/-- The macro holds a class-A fault of its counter, which waits to be delivered (R86, R167). -/
def Run.faulted (r : Run) (code : CauseCode) (detail event addr : Nat) : Run :=
  { r with stall := none, dupw := none, wait := none,
           fault := some { code := code, cls := .a, detail := BitVec.ofNat 8 detail, event := BitVec.ofNat 64 event, addr := BitVec.ofNat 64 addr,
                           eng := some r.ctr, num := r.q.num } }

/-- The next row of a transfer of `total` rows (R165, R168, R169): row i of the transfer stands at context row `row` of the
scratchpad side, and y and r' are the context and the macro once it has landed. With a handle, DONE counts slots, the row lies in the
slot that the macro has taken, and the side moves on after the last row of a slot. -/
def RowTurn (x : Ctx) (r : Run) (total : Nat) (side : Option Side) (base : Word) (i row : Nat) (y : Ctx) (r' : Run) : Prop :=
  match side with
  | none => r.done < total ∧ i = r.done ∧ row = base.toNat / 256 + i ∧ y = x ∧ r' = r.did (i + 1 == total)
  | some d =>
    let j := r.aux.getD 1 0
    total % d.geo.rps = 0 ∧ i = r.done * d.geo.rps + j ∧ i < total ∧
      (∃ slot, r.slotAt 0 = some slot ∧ row = d.row slot j) ∧
      (if j + 1 < d.geo.rps then y = x ∧ r' = { r.setAux 1 (j + 1) with stall := none, dupw := none }
       else y = d.advance x 1 ∧ r' = { r.did (i + 1 == total) with aux := [] })

/-- A macro that needs the next slot of side d, with n slots from it on, at place i of what it holds: while they are not there it waits,
with no fault, and else it takes the slot at the live TAIL, or HEAD (R165, R238). -/
def TakesSlot (x : Ctx) (r : Run) (d : Side) (i n : Nat) (r' : Run) : Prop :=
  r' = if d.ready x < n then { r with wait := some (d.h, d.prod, n) }
    else ({ r with wait := none }.setAux i (d.next x + 1)).governed d (d.row (d.next x) 0)

/-- A row transfer that needs a slot of a handle and has none. -/
def SlotTurn (x : Ctx) (r : Run) (total : Nat) (d : Side) (r' : Run) : Prop :=
  total % d.geo.rps = 0 ∧ r.done * d.geo.rps + r.aux.getD 1 0 < total ∧ r.slotAt 0 = none ∧ TakesSlot x r d 0 1 r'

/-- f is the format of a side: that of a scalar operand's first row; of the first row that the macro moved on a handle side; and before
there is one, that of the ring, where it has one format (R164). -/
def SideFmt (x : Ctx) (r : Run) (d : Option Side) (base : Nat) (f : Fmt) : Prop :=
  match d with
  | none => govFmt x r.q base = .ok f
  | some d => match (if d.prod then r.dstRow else r.srcRow) with
    | some row => govFmt x r.q row = .ok f
    | none => operandFmt x r.q d.geo.firstRow (d.geo.slots * d.geo.rps) = .ok f

/-- The macro has slot v of a side in use, at place i of what it holds; a scalar operand has none. -/
def SideSlot (r : Run) (d : Option Side) (i v : Nat) : Prop :=
  match d with | none => v = 0 | some _ => r.slotAt i = some v

/-! ### Host commands -/

/-- Firmware performs the command: the module is READY, its sender is a host, its SEQ is new, and RETIRE does not turn it
away, or it was accepted before (R331, R333). -/
def CommandRuns (s : State) (h : HostCmd) (cls : CmdClass) : Prop :=
  s.firm.st = .ready ∧ h.src ∈ s.firm.hosts ∧ (s.firm.responses.find? (·.cmd.same h)) = none ∧
    (s.firm.refuses cls = false ∨ s.accepted h = true) ∧ h.resv = false

/-- Nothing that came before the command on the same model context, address space or gang waits (R331), and firmware moves no
segment of it (log 60). -/
def FirstInTurn (s : State) (h : HostCmd) (on : CmdOn) : Prop :=
  (∀ w, s.firm.waiting.find? (·.2 == on) = some w → w.1.same h = true) ∧ s.movingOn on = false

end Machine

end Sys2Proof
end

