-- ==== Sys2Proof/Certificates/Slice0/Obligations.lean ====
section
/-! DEFINITION. The statements for the provers. Each is about the machine, for every state; the rules they formalise stand in
OBLIGATIONS.json and in their docstrings. -/

open Sys2Proof Sys2Proof.Machine

/-! ### Encoding and stepping -/

/-- Every well-formed instruction that has a word is the one that its word decodes to, with every operand at every value that
the encoding admits (R15 to R20). -/
def Obligations.DecodeOfEncode : Prop :=
  ∀ (i : Instr) (w : IWord), WellFormed i → encode i = some w → decode w = some i

/-- Every word that decodes is the word of the instruction that it decodes to: no bit of an accepted word is ignored
(R3, R19, R20). -/
def Obligations.EncodeOfDecode : Prop :=
  ∀ (w : IWord) (i : Instr), decode w = some i → encode i = some w

/-- Words written out from the formats and the opcode map decode to the instructions they stand for, one of each format, and a
reserved bit, an unassigned opcode and a malformed guard are refused (R15 to R20, R41). -/
def Obligations.KnownWordsDecode : Prop :=
  -- ADD s7, s6, s8, guarded by !p3
  decode (0x000#10 ++ 1#1 ++ 3#4 ++ 1#1 ++ 0#4 ++ 7#6 ++ 6#6 ++ 8#6 ++ 0#6 ++ 0#52)
    = some (.add ⟨some ⟨3, true⟩, none, 7, 6, 8, 0, 0⟩) ∧
  -- SLD s3, [s1 + 16], 8 bytes, token w2
  decode (0x080#10 ++ 0#6 ++ 1#1 ++ 2#3 ++ 3#6 ++ 1#6 ++ 0#6 ++ 0#6 ++ 0#18 ++ 3#2 ++ 16#32)
    = some (.sld ⟨none, some 2, 3, 1, 0, 0, 0x300000010⟩) ∧
  -- LI s3, −1
  decode (0x021#10 ++ 0#6 ++ 0#4 ++ 3#6 ++ 0#6 ++ 0xFFFFFFFFFFFFFFFF#64) = some (.li ⟨none, 3, 0, 0xFFFFFFFFFFFFFFFF⟩) ∧
  -- BC s5, −36
  decode (0x041#10 ++ 0#6 ++ 0#4 ++ 5#6 ++ 0#6 ++ (-36 : BitVec 64)) = some (.bc ⟨none, 5, -36⟩) ∧
  -- VFMA v1, v2, v3, v4 in F32, rounding to nearest even
  decode (0x103#10 ++ 0#6 ++ 0#4 ++ 1#11 ++ 2#11 ++ 3#11 ++ 4#11 ++ 1#6 ++ 0#3 ++ 0#23)
    = some (.vfma ⟨none, none, 1, 2, 3, 4, .f32, .rne, 0⟩) ∧
  -- VBCAST v0, s10, and VEXTL with va v8 (VS)
  decode (0x1B2#10 ++ 0#6 ++ 0#4 ++ 0#11 ++ 0#11 ++ 10#6 ++ 0x040100000000#48) = some (.vbcast ⟨none, 0, 0, 10, 0x40100000000⟩) ∧
  decode (0x1B6#10 ++ 0#6 ++ 0#4 ++ 0#11 ++ 8#11 ++ 13#6 ++ 0x040000000000#48) = some (.vextl ⟨none, 0, 8, 13, 0x40000000000⟩) ∧
  -- VST v40 and VLDH v60 through handle h0 (VM)
  decode (0x1E1#10 ++ 0#6 ++ 0#4 ++ 40#11 ++ 0#1 ++ 8#6 ++ 0#16 ++ 0x80002#42) = some (.vst ⟨none, 40, false, 8, 0, 0x80002⟩) ∧
  decode (0x1E2#10 ++ 0#6 ++ 0#4 ++ 60#11 ++ 1#1 ++ 0#6 ++ 0#16 ++ 2#42) = some (.vldh ⟨none, 60, true, 0, 0, 2⟩) ∧
  -- LDT with the handle h0 as destination, and MMV (EM)
  decode (0x200#10 ++ 0#6 ++ 0#4 ++ 0#5 ++ 0#6 ++ 3#6 ++ 0#6 ++ 0#4 ++ 0#4 ++ 1#1 ++ 0#1 ++ 0#1 ++ 0#10 ++ 1#32)
    = some (.ldt ⟨none, 0, 0, 3, 0, 0, 0, true, false, false, 0, 1⟩) ∧
  decode (0x281#10 ++ 0#6 ++ 0#4 ++ 0#5 ++ 5#6 ++ 6#6 ++ 0#6 ++ 0#4 ++ 0#4 ++ 0#1 ++ 0#1 ++ 0#1 ++ 0#10 ++ 0x800000#32)
    = some (.mmv ⟨none, 0, 5, 6, 0, 0, 0, false, false, false, 0, 0x800000⟩) ∧
  -- REP 4 with strides 1, 1, 0, 1 (PX)
  decode (0x1F3#10 ++ 0#6 ++ 0#4 ++ 4#16 ++ 1#6 ++ 1#6 ++ 0#6 ++ 1#6 ++ 0#36) = some (.rep ⟨4, 1, 1, 0, 1⟩) ∧
  -- a bit of ADD's immediate, an unassigned opcode, and G without E
  decode (0x000#10 ++ 0#6 ++ 0#4 ++ 7#6 ++ 6#6 ++ 8#6 ++ 0#6 ++ 1#52) = none ∧
  decode (0x3FF#10 ++ 0#86) = none ∧
  decode (0x000#10 ++ 0#1 ++ 3#4 ++ 0#1 ++ 0#4 ++ 7#6 ++ 6#6 ++ 8#6 ++ 0#6 ++ 0#52) = none

/-- A step runs the instruction that the bytes at the control core's pc decode to: in a C section it executes, in an L, X or S
section it is pushed (R14, R43); a REP is checked beside the word that follows it (R21). A word that has issued and holds the control
core goes on without a second fetch (R91). The core's active context stands inside a
section, not at its end, with no trap to take and no other context to give way to.
Where the manual leaves a point open, the clause is the model's choice (log 1, 14, 16). -/
def Obligations.StepRunsControlWord : Prop :=
  ∀ (s : State) (c : CoreId) (b : BankId) (x : Ctx) (k : CtlSec) (i : Instr),
    s.turn = .control c b → (s.core c).active = some b → s.ctxAt c b = some x → x.fatal = none → x.midClk = false →
    (x.parking = true → x.midWord = true) → s.switchTarget c = none → (x.midWord = false → x.boundary = none) → x.ending = false →
    x.ctl.phase = .inside → x.ctl.sec = some k →
    (∀ h : Issued, x.issue = some h → decode h.word = some i → step s = exec i (turnState s c b .ctl)) ∧
    (∀ (w : IWord) (n : Nat) (t : State), x.issue = none → k.idx < k.h.len →
      (turnState s c b .ctl).fetch c x.id.asid x.begun x.ctl.pc 12 = .ok (n, t) → w = BitVec.ofNat 96 n →
      let next : Option IWord :=
        if opOf w = 0x1F3 ∧ k.idx + 1 < k.h.len then
          (match t.fetch c x.id.asid x.begun (x.ctl.pc + 12) 12 with | .ok (m, _) => some (BitVec.ofNat 96 m) | .error _ => none)
        else none
      checkWord x k w next = .ok i →
        decode w = some i ∧
          step s = if k.h.kind = .c then exec i { t with cur := { t.cur with raw := w } } else exec (.wordPush w) t)

/-- A step runs the word at the head of a queue, or the next word of its loop body, moved by its strides where a REP runs (R35,
R154, R157). The results that are due have landed, and a REP or a loop body whose section was closed has ended (R44, R79). Where the
word takes no clk of the X queue, those results are withheld again (R88).
Where the manual leaves a point open, the clause is the model's choice (log 1, 22). -/
def Obligations.StepRunsQueueWord : Prop :=
  ∀ (s : State) (c : CoreId) (b : BankId) (k : Kind) (x y : Ctx) (q : QWord) (i : Instr) (u t : State),
    s.turn = .queue c b k → k ≠ .c → (k = .x → (s.core c).owners[0] = some b) →
    u = (if k = .x then (turnState s c b (.queue k)).landAt c b .vec else turnState s c b (.queue k)) →
    u.ctx? = some y → x = y.abandon k → t = u.putCtx x →
    (x.midClk = true ∨ (x.parkStop = false ∧ x.fatal = none ∧
      (k = .x → (t.core c).engineMust b x true (Ctx.vecReady (t.core c)) = false))) →
    x.queueStopped k = false → (x.queue k).cur.nop = 0 →
    (match (x.queue k).cur.loop with
      | some l => l.body[l.idx]? = some q
      | none => (x.queue k).head x.trapMode = some q ∧ (x.queue k).cur.skip = 0) →
    (match x.secs.find? (·.uid == q.uid) with | some e => e.open_ = true | none => True) →
      ((x.queue k).cur.rep = none → decode q.w = some i →
        step s = s.after (exec i { t with cur := { t.cur with word := some q } })) ∧
      (∀ r, (x.queue k).cur.rep = some r → repTarget q.w = true → r.px.count ≠ 0 → decode (strideWord q.w r.px r.i) = some i →
        inAllot x ((decodeRaw q.w).getD .powerOff) r.px r.i = true →
        step s = s.after (exec i { t with cur := { t.cur with word := some q, rep := r.i } }))

/-- A step of an engine runs the first macro of its list, unless that has finished or holds a fault, where no context goes before its
own (R162, R168, R298); a step of an event runs the event, and one of flits that arrive runs what their bytes ask for, before which the
cores may have read code ahead (R31, R327).
Where the manual leaves a point open, the clause is the model's choice (log 1, 7, 14). -/
def Obligations.StepRunsEngineAndEvent : Prop :=
  (∀ (s : State) (c : CoreId) (b : BankId) (e : Eng) (x : Ctx) (r : Run) (rest : List Run) (i : Instr),
    s.turn = .engine c b e → (s.core c).owners[1 + (Eng.num e).val] = some b → s.ctxAt c b = some x →
    (s.core c).engineMust b x false (fun y => s.engReady c y e) = false → (x.parkStop = true → r.started = true) →
    x.eng.get e = r :: rest → r.fin = false → r.fault = none → r.held = false → decode r.q.w = some i →
      step s = exec i { turnState s c b (.eng e) with cur := { core := c, bank := b, unit := .eng e, word := some r.q } }) ∧
  (∀ (s : State) (i : Instr), s.turn = .event i → isOwnEvent i = true →
      step s = exec i { (State.readAhead { s with turn := Config.nextTurn s.tick, tick := s.tick + 1 }) with cur := {} }) ∧
  (∀ (s : State) (h : List Byte) (rows : List Row) (i : Instr), s.turn = .wire h rows → s.wireHere h = true →
      wireInstr h rows = some i →
      step s = exec i { (State.readAhead { s with turn := Config.nextTurn s.tick, tick := s.tick + 1 }) with cur := {} })

/-- At reset no context is resident or parked, nothing is queued, on its way or loaded, the module is in state RESET, and every
byte of module memory, every scratchpad and accumulator row and every vector register reads zero (R353).
Where the manual leaves a point open, the clause is the model's choice (log 2, 3). -/
def Obligations.ResetState : Prop :=
  State.reset.firm.st = .reset ∧ State.reset.spaces = [] ∧ State.reset.objs = [] ∧ State.reset.models = [] ∧
  State.reset.gangs = [] ∧ State.reset.txns = [] ∧ State.reset.transit = [] ∧
  State.reset.firm.errs = Vector.replicate 8 0 ∧ State.reset.firm.heatcfg = 0x0000001008040000 ∧
  (∀ d : DieId, (State.reset.dies[d]).ready = [] ∧ State.reset.vc[d] = Vector.replicate 4 0) ∧
  (∀ (c : CoreId) (b : BankId), State.reset.ctxAt c b = none ∧ (State.reset.core c).parked = [] ∧
    (State.reset.core c).staging = none ∧ (State.reset.core c).deque = [] ∧ (State.reset.core c).spill = []) ∧
  (∀ (d : DieId) (a : Nat), State.reset.readView d a 1 = [0]) ∧
  (∀ (c : CoreId) (a : Nat), (State.reset.core c).spad.read a = 0 ∧ (State.reset.core c).acc.read a = 0 ∧
    (State.reset.core c).vregs.read a = 0) ∧
  MemoryOk State.reset

/-- A thread starts at its code pointer with s1 holding the frame pointer; every other scalar, predicate, token count, exact
accumulator, handle and descriptor word is zero, RRB is zero, and SRSEED, TEMPER, PREDCFG, CHKCFG, MISSLIM have the reset
values of their maps (R12, R64, R68, R71). -/
def Obligations.ThreadStart : Prop :=
  ∀ (id : Ident),
    (Ctx.start id).ctl.pc = fieldOf id.copy.rec_ 0 64 ∧
    (∀ r : SReg, (Ctx.start id).rd r = if r = 1 then fieldOf id.copy.rec_ 64 64 else 0) ∧
    (∀ p : PReg, (Ctx.start id).pred p = 0) ∧ (∀ k : BitVec 3, (Ctx.start id).tokCount k = 0) ∧
    (∀ e : EReg, (Ctx.start id).exact e = 0) ∧ (∀ h : HReg, (Ctx.start id).handle h = {}) ∧
    (∀ (d : DReg) (k : Fin 13), ((Ctx.start id).desc d)[k] = 0) ∧
    (Ctx.start id).sys.rrb = 0 ∧ (Ctx.start id).sys.rotsz = 0 ∧ (Ctx.start id).sys.srseed = 1 ∧
    (Ctx.start id).sys.temper = 0x3F800000 ∧ (Ctx.start id).sys.predcfg = 0x10000000 ∧
    (Ctx.start id).sys.chkcfg = 0x7F800000 ∧ (Ctx.start id).sys.misslim = 0xFFFF ∧ (Ctx.start id).sys.tmr = 0 ∧ (Ctx.start id).sys.dbgctl = 0 ∧
    (Ctx.start id).trapMode = false ∧ (Ctx.start id).flights = []

/-- Every step keeps every memory in its canonical form.
Where the manual leaves a point open, the clause is the model's choice (log 3). -/
def Obligations.StepKeepsMemoryForm : Prop :=
  ∀ (s t : State), MemoryOk s → step s = .next t → MemoryOk t

/-! ### Control integer and bit words -/

/-- ADD, SUB, MUL, MULH, MULHN, AND, OR, XOR and ANDN (R91, R92). -/
def Obligations.AddMultiplyAndLogicWords : Prop :=
  AluWord .add (fun o => [o.sa, o.sb, o.sc]) 1 (fun _ a b _ v => v = a + b) ∧
  AluWord .sub (fun o => [o.sa, o.sb, o.sc]) 1 (fun _ a b _ v => v = a - b) ∧
  AluWord .mul (fun o => [o.sa, o.sb, o.sc]) 3 (fun _ a b _ v => v = a * b) ∧
  AluWord .mulh (fun o => [o.sa, o.sb, o.sc]) 3
    (fun _ a b _ v => v = (a.signExtend 128 * b.signExtend 128).extractLsb' 64 64) ∧
  AluWord .mulhn (fun o => [o.sa, o.sb, o.sc]) 3
    (fun _ a b _ v => v = (a.zeroExtend 128 * b.zeroExtend 128).extractLsb' 64 64) ∧
  AluWord .and (fun o => [o.sa, o.sb, o.sc]) 1 (fun _ a b _ v => v = a &&& b) ∧
  AluWord .or (fun o => [o.sa, o.sb, o.sc]) 1 (fun _ a b _ v => v = a ||| b) ∧
  AluWord .xor (fun o => [o.sa, o.sb, o.sc]) 1 (fun _ a b _ v => v = a ^^^ b) ∧
  AluWord .andn (fun o => [o.sa, o.sb, o.sc]) 1 (fun _ a b _ v => ∀ i, i < 64 → v.getLsbD i = (a.getLsbD i && !b.getLsbD i))

/-- SHL, SHRA, SHRL and ROL by an amount k from the immediate where bit 6 of it is set, else from sb[5:0], stated bit by bit; the
source that k does not come from is zero (R92, R93). -/
def Obligations.ShiftWords : Prop :=
  let k := fun (o : C3) (b : Word) => if o.imm.getLsbD 6 then (o.imm.extractLsb' 0 6).toNat else (b.extractLsb' 0 6).toNat
  AluWord .shl (fun o => [o.sa, o.sb, o.sc]) 1
    (fun o a b _ v => ∀ i, i < 64 → v.getLsbD i = (decide (k o b ≤ i) && a.getLsbD (i - k o b))) ∧
  AluWord .shra (fun o => [o.sa, o.sb, o.sc]) 1
    (fun o a b _ v => ∀ i, i < 64 → v.getLsbD i = if i + k o b < 64 then a.getLsbD (i + k o b) else a.getLsbD 63) ∧
  AluWord .shrl (fun o => [o.sa, o.sb, o.sc]) 1
    (fun o a b _ v => ∀ i, i < 64 → v.getLsbD i = (decide (i + k o b < 64) && a.getLsbD (i + k o b))) ∧
  AluWord .rol (fun o => [o.sa, o.sb, o.sc]) 1
    (fun o a b _ v => ∀ i, i < 64 → v.getLsbD ((i + k o b) % 64) = a.getLsbD i) ∧
  (∀ o : C3, ∀ w ∈ [Instr.shl o, .shra o, .shrl o, .rol o], WellFormed w → o.imm.extractLsb' 7 45 = 0 ∧
    (o.imm.getLsbD 6 = false → o.imm.extractLsb' 0 6 = 0) ∧ (o.imm.getLsbD 6 = true → o.sb = 0))

/-- CLZ, CTZ and POPC; MIN, MAX, MINN, MAXN and SEL; CMP under each condition that it accepts; EXTR and INS, bit by bit, with POS
in immediate bits [5:0], LEN − 1 in [11:6] and SX in [12]. A condition that CMP does not accept, a field that leaves the word, and
INS with bit [12] are ILLEGAL at decode (R25, R92, R94, R95). -/
def Obligations.CountSelectCompareAndFieldWords : Prop :=
  (AluWord .clz (fun o => [o.sa, o.sb, o.sc]) 1 (fun _ a _ _ v => v.toNat ≤ 64 ∧
     (∀ i, 64 - v.toNat ≤ i → a.getLsbD i = false) ∧ (v.toNat < 64 → a.getLsbD (63 - v.toNat) = true)) ∧
   AluWord .ctz (fun o => [o.sa, o.sb, o.sc]) 1 (fun _ a _ _ v => v.toNat ≤ 64 ∧
     (∀ i, i < v.toNat → a.getLsbD i = false) ∧ (v.toNat < 64 → a.getLsbD v.toNat = true)) ∧
   AluWord .popc (fun o => [o.sa, o.sb, o.sc]) 1
     (fun _ a _ _ v => v.toNat = (Finset.univ.filter fun i : Fin 64 => a.getLsbD i = true).card) ∧
   AluWord .min (fun o => [o.sa, o.sb, o.sc]) 1 (fun _ a b _ v => (v = a ∨ v = b) ∧ v.sle a = true ∧ v.sle b = true) ∧
   AluWord .max (fun o => [o.sa, o.sb, o.sc]) 1 (fun _ a b _ v => (v = a ∨ v = b) ∧ a.sle v = true ∧ b.sle v = true) ∧
   AluWord .minn (fun o => [o.sa, o.sb, o.sc]) 1 (fun _ a b _ v => (v = a ∨ v = b) ∧ v ≤ a ∧ v ≤ b) ∧
   AluWord .maxn (fun o => [o.sa, o.sb, o.sc]) 1 (fun _ a b _ v => (v = a ∨ v = b) ∧ a ≤ v ∧ b ≤ v) ∧
   AluWord .sel (fun o => [o.sa, o.sb, o.sc]) 1 (fun _ a b c v => v = if c = 0 then b else a) ∧
   AluWord .cmp (fun o => [o.sa, o.sb, o.sc]) 1 (fun o a b _ v =>
     v = if (match (o.imm.extractLsb' 48 4).toNat with
       | 0 => a == b | 1 => a != b | 2 => a.slt b | 3 => a.sle b | 4 => b.slt a | 5 => b.sle a
       | 6 => a.ult b | 7 => a.ule b | 8 => b.ult a | _ => b.ule a) then 1 else 0)) ∧
  (let pos := fun o : C3 => (o.imm.extractLsb' 0 6).toNat
   let len := fun o : C3 => (o.imm.extractLsb' 6 6).toNat + 1
   AluWord .extr (fun o => [o.sa, o.sb, o.sc]) 1 (fun o a _ _ v => ∀ i, i < 64 →
     v.getLsbD i = if i < len o then a.getLsbD (pos o + i) else o.imm.getLsbD 12 && a.getLsbD (pos o + len o - 1)) ∧
   AluWord .ins (fun o => [o.sa, o.sb, o.sc]) 1 (fun o a b _ v => ∀ i, i < 64 →
     v.getLsbD i = if pos o ≤ i ∧ i < pos o + len o then a.getLsbD (i - pos o) else b.getLsbD i)) ∧
  (∀ o : C3, WellFormed (.cmp o) → (o.imm.extractLsb' 48 4).toNat < 10 ∧ o.imm.extractLsb' 0 48 = 0) ∧
  (∀ w : IWord, opOf w = 0x019 → 10 ≤ (w.extractLsb' 48 4).toNat → decodeIn .c w = .error .illegal) ∧
  (∀ w : IWord, opOf w = 0x01A ∨ opOf w = 0x01B → 64 < (w.extractLsb' 0 6).toNat + (w.extractLsb' 6 6).toNat + 1 →
    decodeIn .c w = .error .illegal) ∧
  (∀ w : IWord, opOf w = 0x01B → w.getLsbD 12 = true → decodeIn .c w = .error .illegal)

/-- DIV, DIVN, REM and REMN: the results of R92, exactly 20 clk after issue; with a zero divisor DIVZ is raised, and nothing
enters flight (R96). -/
def Obligations.DivideWords : Prop :=
  ∀ (s : State) (x : Ctx) (o : C3), CtlRuns s o.g [o.sa, o.sb] x →
    let a := x.rd o.sa
    let b := x.rd o.sb
    (b ≠ 0 → x.hasRoom o.sd →
      (∃ t, exec (.div o) s = .next t ∧ Advances s (x.withScalar o.sd (BitVec.ofInt 64 (a.toInt.tdiv b.toInt)) 20) 1 t) ∧
      (∃ t, exec (.divn o) s = .next t ∧ Advances s (x.withScalar o.sd (BitVec.ofNat 64 (a.toNat / b.toNat)) 20) 1 t) ∧
      (∃ t, exec (.rem o) s = .next t ∧ Advances s (x.withScalar o.sd (BitVec.ofInt 64 (a.toInt.tmod b.toInt)) 20) 1 t) ∧
      (∃ t, exec (.remn o) s = .next t ∧ Advances s (x.withScalar o.sd (BitVec.ofNat 64 (a.toNat % b.toNat)) 20) 1 t)) ∧
    (b = 0 → x.hasRoom o.sd → ∀ w ∈ [Instr.div o, .divn o, .rem o, .remn o], exec w s = .next (s.trapP x .divz))

/-- ADDI, LI, LIH and LEA; sa is zero in LI and LEA, and the high half of LIH's immediate is reserved (R97). -/
def Obligations.ImmediateWords : Prop :=
  (∀ (s : State) (x : Ctx) (o : CI), CtlRuns s o.g [o.sa] x → x.hasRoom o.sd →
    (∃ t, exec (.addi o) s = .next t ∧ Advances s (x.withScalar o.sd (x.rd o.sa + o.imm) 1) 1 t) ∧
    (∃ t, exec (.li o) s = .next t ∧ Advances s (x.withScalar o.sd o.imm 1) 1 t) ∧
    (∃ t, exec (.lih o) s = .next t ∧ Advances s
      (x.withScalar o.sd (o.imm <<< 32 ||| (x.rd o.sa &&& 0xFFFFFFFF)) 1) 1 t) ∧
    (∃ t, exec (.lea o) s = .next t ∧ Advances s (x.withScalar o.sd (x.ctl.pc + o.imm) 1) 1 t)) ∧
  (∀ o : CI, (WellFormed (.li o) → o.sa = 0) ∧ (WellFormed (.lea o) → o.sa = 0) ∧ (WellFormed (.lih o) → o.imm.extractLsb' 32 32 = 0))

/-- The control words of R92 and R97, and MFS and TREAD: a guard whose test fails makes the word take 1 clk and do nothing else;
a word that would make a thirteenth result waits until one lands, and reads its operands and raises its traps once it issues; and with
PENDR set, a guard or a source with a result in flight raises PEND (R16, R81, R82, R91). A word that has issued and holds the control core tests neither again (`issue`). CALL waits with its link's
result, and TREAD and MFS with theirs.
Where the manual leaves a point open, the clause is the model's choice (log 16). -/
def Obligations.ControlWordsThatDoNotExecute : Prop :=
  let alu := fun o : C3 => [Instr.add o, .sub o, .mul o, .mulh o, .mulhn o, .and o, .or o, .xor o, .andn o, .shl o, .shra o,
    .shrl o, .rol o, .clz o, .ctz o, .popc o, .min o, .max o, .minn o, .maxn o, .sel o, .cmp o, .extr o, .ins o]
  let div := fun o : C3 => [Instr.div o, .divn o, .rem o, .remn o]
  let imm := fun o : CI => [Instr.addi o, .li o, .lih o, .lea o]
  let res := fun o : C3 => alu o ++ div o ++ [Instr.mfs o, .tread o]
  let others := fun o : C3 => [Instr.ret o, .jfrag o, .done o, .yield o, .sld o, .sst o, .await o, .amo o, .amof o,
    .trap o, .brkpt o, .rtt o, .fence o, .sflush o, .probe o, .probeF o, .binit o, .join o, .leave o, .barg o, .spawn o, .jdec o]
  -- the guard fails
  (∀ (s : State) (x : Ctx), CtlView s x → x.issue = none →
    (∀ o : C3, (x.pendr = true → x.guardPending o.g = false) → x.guardOk o.g = false →
      ∀ w ∈ res o ++ others o, ∃ t, exec w s = .next t ∧ Advances s x 1 t) ∧
    (∀ o : CI, (x.pendr = true → x.guardPending o.g = false) → x.guardOk o.g = false →
      ∀ w ∈ imm o, ∃ t, exec w s = .next t ∧ Advances s x 1 t)) ∧
  -- a thirteenth result
  (∀ (s : State) (x : Ctx), CtlView s x → x.room .ctl = false →
    let issues := fun g : Guard => (x.pendr = true ∧ x.guardPending g = true) ∨ x.guardOk g = true
    let waits := fun w : Instr => ∃ t, exec w s = .next t ∧ Waits s x .full t
    (∀ o : C3, o.sd ≠ 0 → issues o.g → (∀ w ∈ alu o ++ div o ++ [.tread o], waits w) ∧
      (∀ a, sysAccess o.sysNum = some a → (x.id.priv = true ∨ a.ur = true) → waits (.mfs o))) ∧
    (∀ o : CI, o.sd ≠ 0 → issues o.g → ∀ w ∈ imm o, waits w) ∧
    (∀ o : CB, o.r ≠ 0 → issues o.g → (x.ctl.pc + o.off).toNat % 8 = 0 → waits (.call o))) ∧
  -- a guard or a source with a result in flight, under PENDR
  (∀ (s : State) (x : Ctx), CtlView s x → x.issue = none → x.pendr = true →
    (∀ o : C3, x.guardPending o.g = true → (∀ w ∈ others o, exec w s = .next (s.trapP x .pend)) ∧
      (x.hasRoom o.sd → ∀ w ∈ res o, exec w s = .next (s.trapP x .pend))) ∧
    (∀ o : CI, x.guardPending o.g = true → x.hasRoom o.sd → ∀ w ∈ imm o, exec w s = .next (s.trapP x .pend)) ∧
    (∀ o : C3, x.guardPending o.g = false → x.guardOk o.g = true → x.hasRoom o.sd →
      (x.scalarPending o.sa = true ∨ x.scalarPending o.sb = true ∨ x.scalarPending o.sc = true →
        ∀ w ∈ alu o, exec w s = .next (s.trapP x .pend)) ∧
      (x.scalarPending o.sa = true ∨ x.scalarPending o.sb = true → ∀ w ∈ div o, exec w s = .next (s.trapP x .pend))) ∧
    (∀ o : CI, x.guardPending o.g = false → x.guardOk o.g = true → x.hasRoom o.sd → x.scalarPending o.sa = true →
      ∀ w ∈ imm o, exec w s = .next (s.trapP x .pend)))

/-- A fixed-latency result issued in clock a with latency L is read by words that issue in clock a + L or later; a word that
issues earlier reads the old value (R79, R80). A word that holds the control core reads what its registers were as it issued (R91). -/
def Obligations.FixedLatencyLanding : Prop :=
  ∀ (x : Ctx) (k : Core) (r : SReg) (v : Word) (a lat : Nat) (fl : List Flight), r ≠ 0 →
    x.flights = fl ++ [{ unit := .ctl, land := a + lat, val := .scalar r v }] →
    (∀ f ∈ fl, ∀ w, f.val ≠ .scalar r w) →
    ((x.landed k).reg r = if a + lat ≤ x.cclk then v else x.reg r) ∧
    (∀ q : SReg, q ≠ r → (∀ f ∈ fl, ∀ w, f.val ≠ .scalar q w) → (x.landed k).reg q = x.reg q) ∧
    (x.issue = none → ∀ q : SReg, (x.landed k).rd q = (x.landed k).reg q) ∧
    (∀ h : Issued, x.issue = some h → ∀ q : SReg, (x.landed k).rd q = if q = 0 then 0 else h.s[q.toNat]'q.isLt) ∧
    (∀ v' : Word, (x.wr 0 v').rd 0 = 0)

/-! ### Flow -/

/-- BR, BC, CALL and RET: a target that is a multiple of 8 is entered, its first word 3 clk later; another target raises ILLEGAL
and the branch is not taken; a BC whose register is zero falls to the next word in 1 clk; CALL writes the address of the next
header to its link register (R38, R98, R99). JTAB with every word of its table at hand: a register below the bound enters the entry
it selects, and another falls to the next word. JFRAG enters entry FRAG of the fragment table (R100, R101, R102).
Where the manual leaves a point open, the clause is the model's choice (log 4, 10). -/
def Obligations.BranchAndTableWords : Prop :=
  (∀ (s : State) (x : Ctx),
     (∀ o : CB, CtlRuns s o.g [] x →
       ((x.ctl.pc + o.off).toNat % 8 = 0 → ∃ t, exec (.br o) s = .next t ∧ Branches s x (x.ctl.pc + o.off) 3 t) ∧
       ((x.ctl.pc + o.off).toNat % 8 ≠ 0 → exec (.br o) s = .next (s.trapP x .illegal)
         ∧ exec (.call o) s = .next (s.trapP x .illegal)) ∧
       (∀ c, x.ctl.sec = some c → (x.ctl.pc + o.off).toNat % 8 = 0 → x.hasRoom o.r →
         ∃ t, exec (.call o) s = .next t ∧ Branches s (x.withScalar o.r c.next 1) (x.ctl.pc + o.off) 3 t)) ∧
     (∀ o : CB, CtlRuns s o.g [o.r] x →
       (x.rd o.r = 0 → ∃ t, exec (.bc o) s = .next t ∧ Advances s x 1 t) ∧
       (x.rd o.r ≠ 0 → (x.ctl.pc + o.off).toNat % 8 = 0 → ∃ t, exec (.bc o) s = .next t ∧ Branches s x (x.ctl.pc + o.off) 3 t) ∧
       (x.rd o.r ≠ 0 → (x.ctl.pc + o.off).toNat % 8 ≠ 0 → exec (.bc o) s = .next (s.trapP x .illegal))) ∧
     (∀ o : C3, CtlRuns s o.g [o.sa] x →
       ((x.rd o.sa).toNat % 8 = 0 → ∃ t, exec (.ret o) s = .next t ∧ Branches s x (x.rd o.sa) 3 t) ∧
       ((x.rd o.sa).toNat % 8 ≠ 0 → exec (.ret o) s = .next (s.trapP x .illegal)))) ∧
  (∀ (s : State) (x : Ctx),
     (∀ (o : CB) (pb pt : Nat) (i j : Nat), CtlRuns s o.g [o.r] x → x.ops = [] →
       s.xlatTable x o.off.toNat = .ok (.mem pb) i →
       let bound := natOfBytes (s.readView s.myDie pb 8)
       let va := (o.off + 8 + x.rd o.r * 8).toNat
       let entry := natOfBytes (s.readView s.myDie pt 8)
       (bound ≤ (x.rd o.r).toNat → ∃ t n, exec (.jtab o) s = .next t ∧ Advances (s.noteUse x.id.asid i (.mem pb)) x n t) ∧
       ((x.rd o.r).toNat < bound → (s.noteUse x.id.asid i (.mem pb)).xlatTable x va = .ok (.mem pt) j → entry % 8 = 0 →
         ∃ t n, exec (.jtab o) s = .next t
           ∧ Branches ((s.noteUse x.id.asid i (.mem pb)).noteUse x.id.asid j (.mem pt)) x (BitVec.ofNat 64 entry) n t)) ∧
     (∀ (o : C3) (pt i : Nat), CtlRuns s o.g [] x → x.ops = [] →
       let va := (x.sys.ftabb.extractLsb' 3 49).toNat * 8 + 8 * (x.sys.frag.extractLsb' 0 6).toNat
       let entry := natOfBytes (s.readView s.myDie pt 8)
       s.xlat x va .fetch = .ok (.mem pt) i → entry % 8 = 0 →
         ∃ t n, exec (.jfrag o) s = .next t ∧ Branches (s.noteUse x.id.asid i (.mem pt)) x (BitVec.ofNat 64 entry) n t))

/-- DONE waits until everything of the thread has completed and its writes have reached every die, and then frees its context
slot; a held fault is delivered once nothing else that the thread pushed or issued goes on, and no result is in flight but those that a
stopped X queue holds back: the words that wait for the faulted macro cannot complete before it is delivered. In trap mode the words
that have not issued are dropped, and a fault is not delivered (R103). YIELD takes 1 clk and does nothing in trap mode or with no other
context ready at its priority or above, and else switches to one (R104).
Where the manual leaves a point open, the clause is the model's choice (log 16, 33, 73). -/
def Obligations.DoneAndYield : Prop :=
  ∀ (s : State) (x : Ctx) (o : C3), CtlRuns s o.g [] x →
    let y := if x.trapMode then x.dropQueued else x
    ((x.trapMode = true ∨ (x.faultOn fun _ => true) = none) →
      (y.quiet = true ∧ s.drained (s.cur.core, x.id.serial) = true →
        exec (.done o) s = .next (s.freeBank s.cur.core s.cur.bank)) ∧
      (y.quiet = false ∨ s.drained (s.cur.core, x.id.serial) = false →
        ∃ t, exec (.done o) s = .next t ∧ Waits s { y with ending := true } .busy t)) ∧
    (s.ctx?.isSome → (s.freeBank s.cur.core s.cur.bank).ctx? = none ∧ SameMemory s (s.freeBank s.cur.core s.cur.bank)) ∧
    (let ended := x.going s.myCore = false ∧ ∀ f ∈ x.flights, f.unit = .vec ∧ x.xFresh = true ∧ x.qx.items ≠ []
     (∀ r f, x.trapMode = false → ended → (x.faultOn fun _ => true) = some r → r.fault = some f →
       exec (.done o) s = .next (s.takeTrap x f)) ∧
     (x.trapMode = false → ¬ ended → ∃ t, exec (.done o) s = .next t ∧ Waits s { x with ending := true } .busy t)) ∧
    (x.trapMode = true → ∃ t, exec (.yield o) s = .next t ∧ Advances s x 1 t) ∧
    ((s.myCore.best fun b y => decide (b ≠ s.cur.bank) && s.ready s.cur.core y && decide (x.id.pri ≤ y.id.pri)) = none →
      ∃ t, exec (.yield o) s = .next t ∧ Advances s x 1 t) ∧
    (∀ b, x.trapMode = false →
      (s.myCore.best fun b y => decide (b ≠ s.cur.bank) && s.ready s.cur.core y && decide (x.id.pri ≤ y.id.pri)) = some b →
      ∃ t, exec (.yield o) s = .next t ∧ (t.core s.cur.core).active = some b ∧ SameMemory s t)

/-! ### Scalar memory -/

/-- SLD without a token holds the control core until sd is written with the bytes at the aligned address, extended with zeros or
with their sign; with a token it goes on, the load joins the operations on their way and counts on its token. In the scratchpad
the address must lie in the allotment, and a row with a vector store in flight raises nothing. One that acquires waits for the bank
operations that the thread has posted (R105, R106, R107, R110).
Where the manual leaves a point open, the clause is the model's choice (log 4, 53). -/
def Obligations.LoadWord : Prop :=
  ∀ (s s' : State) (x : Ctx) (o : C3) (l : Loc), CtlRuns s o.g [o.sa] x → x.watched o = false → x.tokFull o.tok = false →
    let a := scalarAddr x o
    let n := 2 ^ (o.imm.extractLsb' 32 2).toNat
    ((o.sp = false ∧ ∃ i, s.xlat x a .read = .ok l i ∧ s' = s.noteUse x.id.asid i l) ∨
      (o.sp = true ∧ s' = s ∧ ∃ p, x.spadAddr a = some p ∧ l = .spad p ∧ p / 256 ∉ s.myCore.spadBad)) →
    (a = (x.rd o.sa + (o.imm.extractLsb' 0 32).signExtend 64).toNat / n * n) ∧
    (∀ k, o.tok = some k → ∃ t, exec (.sld o) s = .next t ∧
      Advances s' { (x.tokAdd o.tok) with
        ops := x.ops ++ [{ kind := .load o.sd o.msx, loc := l, size := n, tok := some k, born := s.tick }] } 1 t) ∧
    (o.tok = none → x.mustWait l n = false → (o.acq = true → x.posted = false) → x.onlyScalars →
      ∃ t, exec (.sld o) s = .next t ∧ HeldWord s' x o.sd
        (if o.imm.getLsbD 34 then
          BitVec.signExtend 64 (BitVec.ofNat (8 * n) (natOfBytes (s.readLoc s.myDie s.myCore l n)))
         else BitVec.ofNat 64 (natOfBytes (s.readLoc s.myDie s.myCore l n))) t) ∧
    (o.tok = none → x.mustWait l n = true ∨ (o.acq = true ∧ x.posted = true) → ∃ t, exec (.sld o) s = .next t ∧ Waits s' x .busy t)

/-- SST joins the operations on their way with the low SIZE bytes of sb, its order and its scope, and counts on its token; it
never holds the control core (R105, R106, R108). AWAIT goes on once every count it names is zero and what the thread posted has
completed (R110), and else delivers a fault of an engine that runs an uncompleted macro of a named token, or waits; in trap mode it delivers none, and does not wait for a macro that
holds a fault (R86, R112). -/
def Obligations.StoreAndAwaitWords : Prop :=
  (∀ (s s' : State) (x : Ctx) (o : C3) (l : Loc), CtlRuns s o.g [o.sa, o.sb] x → x.watched o = false →
    x.tokFull o.tok = false →
    let n := 2 ^ (o.imm.extractLsb' 32 2).toNat
    ((o.sp = false ∧ ∃ i, s.xlat x (scalarAddr x o) .write = .ok l i ∧ s' = s.noteUse x.id.asid i l) ∨
      (o.sp = true ∧ s' = s ∧ ∃ p, x.spadAddr (scalarAddr x o) = some p ∧ l = .spad p)) →
    ∃ t, exec (.sst o) s = .next t ∧
      Advances s' { (x.tokAdd o.tok) with
        ops := x.ops ++ [{ kind := .store ((x.rd o.sb).toNat % 2 ^ (8 * n)), loc := l, size := n, rel := o.imm.getLsbD 36,
                           scope := (o.imm.extractLsb' 37 2).toNat, tok := o.tok, born := s.tick }] } 1 t) ∧
  (∀ (s : State) (x : Ctx) (o : C3), CtlRuns s o.g [] x →
    let named := fun t : Token => t.any fun k => o.imm.getLsbD k.toNat
    let tokOf := fun q : QWord => if q.w.getLsbD 79 then some (q.w.extractLsb' 76 3) else (none : Token)
    let uses := fun e : Eng => x.macros.any fun q => named (tokOf q) && q.eng == e
    let stuck := fun k : Nat => (x.runs.filter fun r => (r.fault.isSome || r.held) && tokOf r.q == some (BitVec.ofNat 3 k)).length
    let left := fun k : Nat => x.tokCount (BitVec.ofNat 3 k) - (if x.trapMode then stuck k else 0)
    let allDone := (∀ k : Nat, k < 8 → o.imm.getLsbD k = true → left k = 0) ∧ x.posted = false
    let waits := ∃ t, exec (.await o) s = .next t ∧ Waits s x (.wait (.tokens (o.imm.extractLsb' 0 8).toNat)) t
    (allDone → ∃ t, exec (.await o) s = .next t ∧ Advances s x 1 t) ∧
    (¬ allDone → x.trapMode = true ∨ x.faultOn uses = none → waits) ∧
    (∀ r f, ¬ allDone → x.trapMode = false → x.faultOn uses = some r → r.fault = some f → exec (.await o) s = .next (s.takeTrap x f)))

/-- The traps of scalar accesses, class P with ADDR the aligned address: SEGV, PERM, POISON with the segment's event, RESID, ALLOT
outside the scratchpad allotment, and WATCH (R82, R106). A translation that fails is a use of the segment that it finds (R311).
Where the manual leaves a point open, the clause is the model's choice (log 4). -/
def Obligations.ScalarAccessTraps : Prop :=
  ∀ (s : State) (x : Ctx) (o : C3) (w : Instr) (acc : AccKind), CtlRuns s o.g [o.sa, o.sb] x →
    (w = .sld o ∧ acc = .read ∨ w = .sst o ∧ acc = .write) →
    let a := scalarAddr x o
    (x.watched o = true → exec w s = .next (s.trapP x .watch 0 0 a)) ∧
    (x.watched o = false → x.tokFull o.tok = false → o.sp = false →
      let s' := s.noteXlat s.myCore x.id.asid a
      (s.xlat x a acc = .segv → exec w s = .next (s'.trapP x .segv 0 0 a)) ∧
      (s.xlat x a acc = .perm → exec w s = .next (s'.trapP x .perm 0 0 a)) ∧
      (∀ ev, s.xlat x a acc = .poison ev → exec w s = .next (s'.trapP x .poison 0 ev a)) ∧
      (s.xlat x a acc = .resid → exec w s = .next (s'.trapP x .resid 0 0 a)) ∧
      (∀ i, s.xlat x a acc = .dup i → ∃ t, exec w s = .next t ∧ Waits (s.noteSeg x.id.asid i) x (.dupw i a) t)) ∧
    (x.watched o = false → x.tokFull o.tok = false → o.sp = true → x.spadAddr a = none →
      exec w s = .next (s.trapP x .allot 0 0 a))

/-- AMO and AMOF on die shared memory: posted or with a token they join the operations on their way; acquiring, or with a
destination, they hold the control core, and at the home die with nothing before them sd receives the old value and the bank
the new one, which is that of R110's table for each AOP on n bits. Any other tier raises PERM with DETAIL 0x01 (R110, R111).
Where the manual leaves a point open, the clause is the model's choice (log 4, 55). -/
def Obligations.AtomicWords : Prop :=
  (∀ (s : State) (x : Ctx) (o : C3) (w : Instr) (n : Nat) (kind : OpKind) (f : Nat → Nat) (writes : Nat → Bool) (pa i : Nat),
     let b := (x.rd o.sb).toNat % 2 ^ (8 * n)
     let c := (x.rd o.sc).toNat % 2 ^ (8 * n)
     (w = .amo o ∧ n = 2 ^ o.size ∧ kind = .amo o.sd o.aop b c ∧ f = (fun old => amoValue o.aop (8 * n) old b c) ∧
         writes = (fun old => decide (o.aop < 9) || old == c) ∨
       w = .amof o ∧ n = (if o.aop = 1 then 8 else 4) ∧ kind = .amof o.sd (o.aop == 1) b ∧ f = amofValue (o.aop == 1) (b := b) ∧ writes = fun _ => true) →
     CtlRuns s o.g [o.sa, o.sb, o.sc] x → x.wen = false → x.tokFull o.tok = false → x.ops.any (·.held) = false →
     let a := (x.rd o.sa + o.offset).toNat / n * n
     let s' := s.noteUse x.id.asid i (.mem pa)
     let op : Op := { kind := kind, loc := .mem pa, size := n, acq := o.acq, rel := o.rel, scope := o.scopeCode, tok := o.tok }
     s.xlat x a .write = .ok (.mem pa) i →
       (pa < dsmBase → exec w s = .next (s'.trapP x .perm 1 0 a)) ∧
       (dsmBase ≤ pa → o.tok ≠ none ∨ (o.sd = 0 ∧ o.acq = false) →
         ∃ t, exec w s = .next t ∧ Advances s' { (x.tokAdd o.tok) with ops := x.ops ++ [{ op with born := s.tick }] } 1 t) ∧
       (dsmBase ≤ pa → o.tok = none → (o.sd ≠ 0 ∨ o.acq = true) → homeDie pa = s.myDie → x.ops = [] → x.onlyScalars →
         ∀ old u, s'.bankOp s.myDie pa n (some (s.cur.core, x.id.serial)) f writes = some (old, u) →
           ∃ t, exec w s = .next t ∧ HeldWord u x o.sd (BitVec.ofNat 64 old) t) ∧
       (dsmBase ≤ pa → o.tok = none → (o.sd ≠ 0 ∨ o.acq = true) → homeDie pa ≠ s.myDie ∨ x.ops ≠ [] →
         ∃ t, exec w s = .next t ∧ Waits s' { x with ops := x.ops ++ [{ op with held := true, born := s.tick }] } .busy t)) ∧
  (∀ (n : Nat) (old b c : BitVec n), 0 < n →
     let v := fun aop => amoValue aop n old.toNat b.toNat c.toNat
     v 0 = (old + b).toNat ∧ v 1 = (old &&& b).toNat ∧ v 2 = (old ||| b).toNat ∧ v 3 = (old ^^^ b).toNat ∧
     v 4 = (if old.sle b then old else b).toNat ∧ v 5 = (if b.sle old then old else b).toNat ∧
     v 6 = min old.toNat b.toNat ∧ v 7 = max old.toNat b.toNat ∧ v 8 = b.toNat ∧ v 9 = (if old = c then b else old).toNat)

/-- A pending scalar operation that nothing stands in the way of completes: a load writes its register, a store its bytes and no
other, each lowers its token's count; a store to the scratchpad on a barrier applies the completion rule, and a BINIT writes the
barrier (R77, R107, R108, R109, R212, R213). An AMO or AMOF takes effect at the home die in one step; its result is in sd, or on its way
to the thread's die, whose clock must cover the write before it counts as done (R110, R111, R243, R249). A write on its way
reaches the view of a die when the vector clock and the home order let it, and is then read there (R248, R249).
Where the manual leaves a point open, the clause is the model's choice (log 11, 19, 55, 72). -/
def Obligations.ScalarCompletionAndPropagation : Prop :=
  (∀ (s : State) (c : CoreId) (b : BankId) (k : Nat) (x : Ctx) (p : Op), s.ctxAt c b = some x → x.ops[k]? = some p →
    opFree (x.ops.take k) p = true → MemoryOk s →
    let z := (landBefore .ctl x.cclk (s.core c) x).2
    let y := z.opDone p
    let runs := exec (.scalarAccessCompletion c b k) s
    (∀ sd sx, p.kind = .load sd sx → (∀ a, p.loc = .spad a → a / 256 ∉ (s.core c).spadBad) →
      runs = .next (s.setCtxAt c b (some (y.wr sd (loadValue p.size sx (s.readLoc (dieOf c) (s.core c) p.loc p.size)))))) ∧
    (∀ v pa u, p.kind = .store v → p.loc = .mem pa →
      s.writeMem (dieOf c) pa (bytesOf p.size v) (some (c, y.id.serial)) = some u →
      runs = .next (u.setCtxAt c b (some y)) ∧
      (∀ a, u.readView (dieOf c) a 1 = if pa ≤ a ∧ a < pa + p.size then bytesOf 1 (v >>> (8 * (a - pa)))
        else s.readView (dieOf c) a 1)) ∧
    (∀ v a, p.kind = .store v → p.loc = .spad a →
      runs = .next ((s.setCore c ((s.core c).storeSpad a (bytesOf p.size v))).setCtxAt c b (some y))) ∧
    (∀ v a, p.kind = .binit v → p.loc = .spad a →
      runs = .next ((s.setCore c ((s.core c).initBarrier a v)).setCtxAt c b (some y))) ∧
    (∀ (sd : SReg) (f : Nat → Nat) (wr : Nat → Bool) (pa old : Nat) (u : State),
      ((∃ aop v w, p.kind = .amo sd aop v w ∧ f = (fun old => amoValue aop (8 * p.size) old v w) ∧
          wr = fun old => decide (aop < 9) || old == w) ∨
        (∃ f64 v, p.kind = .amof sd f64 v ∧ f = (fun old => amofValue f64 old v) ∧ wr = fun _ => true)) → p.loc = .mem pa →
      s.bankOp (dieOf c) pa p.size (some (c, y.id.serial)) f wr = some (old, u) →
      runs = .next (u.setCtxAt c b (some (if homeDie pa = dieOf c then y.wr sd (BitVec.ofNat 64 old)
        else z.opReply p sd (BitVec.ofNat 64 old) u.vc[homeDie pa].toList (wr old))))) ∧
    (∀ sd v vc writes, p.kind = .deliver sd v vc writes →
      runs = .next (if s.clockReached (dieOf c) vc = true then s.setCtxAt c b (some (y.wr sd v)) else s))) ∧
  -- an operation at a bank ALU
  (∀ (s : State) (d : DieId) (pa n old : Nat) (own : Option (CoreId × BitVec 32)) (f : Nat → Nat) (wr : Nat → Bool) (u : State),
    MemoryOk s → s.bankOp d pa n own f wr = some (old, u) →
      s.clockReached (homeDie pa) s.vc[d].toList = true ∧ old = natOfBytes (s.readView (homeDie pa) pa n) ∧ (wr old = false → u = s) ∧
      (wr old = true → ∀ a, u.readView (homeDie pa) a 1 = if pa ≤ a ∧ a < pa + n then bytesOf 1 (f old >>> (8 * (a - pa)))
        else s.readView (homeDie pa) a 1)) ∧
  -- a store to the scratchpad
  (∀ (k : Core) (a : Nat) (bs : List Byte), Sparse.wf k.spad = true → a % 16 + bs.length ≤ 16 →
    let b := a / 16 * 16
    let v := (k.putSpadBytes a bs).barrier b
    let t := k.storeSpad a bs
    let w := t.barrier b
    (∀ i, i < b ∨ b + 16 ≤ i → t.spadBytes i 1 = k.spadBytes i 1) ∧
    (∀ i, i < 16 → fieldOf v (8 * i) 8 = if a ≤ b + i ∧ b + i < a + bs.length then bs.getD (b + i - a) 0
      else fieldOf (k.barrier b) (8 * i) 8) ∧
    (b ∉ k.barriers → w = v) ∧
    (b ∈ k.barriers → barArrivals v = 0 → barBytes v = 0 →
      barPhase w = barPhase v + 1 ∧ barArrivals w = barReload v ∧ barBytes w = 0 ∧ barReload w = barReload v) ∧
    (b ∈ k.barriers → ¬ (barArrivals v = 0 ∧ barBytes v = 0) →
      barPhase w = barPhase v ∧ barArrivals w = barArrivals v ∧ barBytes w = barBytes v ∧ barReload w = barReload v)) ∧
  -- propagation
  (∀ (s : State) (k : Nat) (w : Transit), MemoryOk s → s.transit[k]? = some w →
    let u := s.applyTransit w
    (s.applicable w = true → exec (.writePropagation k) s = .next { u with transit := s.transit.eraseIdx k }) ∧
    (s.applicable w = false → exec (.writePropagation k) s = .next s) ∧
    (s.applicable w = true ↔ (∀ e : DieId, if e = w.src then w.stamp.getD e.val 0 = s.vc[w.dst][e] + 1
        else w.stamp.getD e.val 0 ≤ s.vc[w.dst][e]) ∧ s.appliedOf w.dst w.key + 1 = w.seq) ∧
    ((w.cells.map (·.1)).Nodup → ∀ e ∈ w.cells, u.readView w.dst e.1 1 = [e.2]) ∧
    (∀ a, (∀ e ∈ w.cells, e.1 ≠ a) → u.readView w.dst a 1 = s.readView w.dst a 1) ∧
    (∀ d, d ≠ w.dst → u.views[d] = s.views[d]) ∧ u.appliedOf w.dst w.key = w.seq ∧
    (∀ d e : DieId, u.vc[d][e] = if d = w.dst ∧ e = w.src then w.stamp.getD e.val 0 else s.vc[d][e]))

/-! ### System words -/

/-- Which system registers MFS reads and MTS writes, by number: unassigned numbers raise ILLEGAL, a register that is read-only in
both views raises ILLEGAL on MTS, and a register that the unprivileged view may not reach so raises PERM there (R72, R113). And what
MFS reads: the identity of the context, its allotments, the machine's registers and the context's own (R6, R74, R78, R230, R236,
R294, R315, R316).
Where the manual leaves a point open, the clause is the model's choice (log 7, 23, 36). -/
def Obligations.SystemRegisterReads : Prop :=
  (∀ (s : State) (x : Ctx) (o : C3), CtlRuns s o.g [o.sa] x →
     let n := (o.imm.extractLsb' 0 12).toNat
     let privileged := (0x070 ≤ n ∧ n ≤ 0x077) ∨ (0x080 ≤ n ∧ n ≤ 0x08F)
     let readOnly := n ≤ 0x004 ∨ n = 0x008 ∨ n = 0x009 ∨ (0x039 ≤ n ∧ n ≤ 0x03C) ∨ (0x060 ≤ n ∧ n ≤ 0x065)
     let readWrite := (0x010 ≤ n ∧ n ≤ 0x013) ∨ n = 0x018 ∨ n = 0x019 ∨ (0x020 ≤ n ∧ n ≤ 0x023) ∨ (0x028 ≤ n ∧ n ≤ 0x02A)
       ∨ (0x030 ≤ n ∧ n ≤ 0x033) ∨ (0x040 ≤ n ∧ n ≤ 0x05F) ∨ (0x100 ≤ n ∧ n ≤ 0x11F) ∨ (0x200 ≤ n ∧ n ≤ 0x3FF ∧ n % 16 ≤ 12)
     (¬ (privileged ∨ readOnly ∨ readWrite ∨ n = 0x038) →
       exec (.mfs o) s = .next (s.trapP x .illegal) ∧ exec (.mts o) s = .next (s.trapP x .illegal)) ∧
     (privileged → x.id.priv = false →
       exec (.mfs o) s = .next (s.trapP x .perm) ∧ ∀ w ∈ [Instr.mts o, .mtsStw o, .mtsStw3 o], exec w s = .next (s.trapP x .perm)) ∧
     (readOnly → exec (.mts o) s = .next (s.trapP x .illegal)) ∧
     ((readOnly ∨ readWrite ∨ n = 0x038 ∨ (privileged ∧ x.id.priv = true)) → x.hasRoom o.sd →
       ∃ t, exec (.mfs o) s = .next t ∧ Advances s (x.withScalar o.sd (s.sysRead x n) 1) 1 t)) ∧
  (∀ (s : State) (x : Ctx),
     let r := s.sysRead x
     r 0x000 = x.id.asid.zeroExtend 64 ∧ r 0x002 = BitVec.ofNat 64 s.cur.core.val ∧ r 0x003 = BitVec.ofNat 64 (s.cur.core.val / 32) ∧
     r 0x004 = s.firm.node.zeroExtend 64 ∧
     (x.id.pri < 8 → (r 0x001).toNat = x.id.pri + (if x.id.priv then 128 else 0) + (if x.id.replay then 256 else 0)
       + (if x.id.share then 512 else 0) + x.id.bank.val * 1024 + x.id.serial.toNat * 2 ^ 32) ∧
     (x.id.vlen ≤ 2048 → x.id.vbase < 4096 → (r 0x008).toNat = x.id.vlen % 2048 + x.id.vbase * 2 ^ 16) ∧
     r 0x009 = BitVec.ofNat 64 (x.id.sbank + x.id.snb * 2 ^ 8 + s.myCore.msgn * 2 ^ 16 + x.id.abase * 2 ^ 23 + x.id.alen * 2 ^ 32) ∧
     r 0x010 = x.sys.tvec ∧ r 0x011 = x.sys.tframe ∧ r 0x012 = x.sys.tcause ∧ r 0x013 = x.sys.tmr ∧ r 0x018 = x.sys.dbgctl ∧
     r 0x019 = x.sys.watcha ∧ r 0x020 = BitVec.ofNat 64 x.sys.rrb ∧ r 0x021 = BitVec.ofNat 64 x.sys.rotsz ∧ r 0x022 = x.sys.frag ∧
     r 0x023 = x.sys.ftabb ∧ r 0x028 = x.sys.srseed ∧ r 0x029 = x.sys.seed ∧ r 0x02A = x.sys.temper ∧ r 0x030 = x.sys.predcfg ∧
     r 0x031 = x.sys.chkcfg ∧ r 0x032 = x.sys.misslim ∧ r 0x033 = x.sys.misscnt ∧ r 0x038 = s.firm.heatcfg ∧
     r 0x039 = BitVec.ofNat 64 (s.dies[s.myDie]).fetch ∧
     r 0x03A = BitVec.ofNat 64 (s.dies[s.myDie]).cfetch ∧
     (let d := s.dies[s.myDie]
      (r 0x03B).toNat = d.accSt % 2 ^ 32 + d.accRs % 2 ^ 32 * 2 ^ 32 ∧ (r 0x03C).toNat = d.calvSt % 2 ^ 32 + d.calvRs % 2 ^ 32 * 2 ^ 32) ∧
     (∀ k : Fin 32, r (0x040 + k.val) = x.sys.bfmt[k]) ∧
     r 0x060 = BitVec.ofNat 64 x.tl.a.value ∧ r 0x061 = BitVec.ofNat 64 x.tl.s.value ∧ r 0x062 = BitVec.ofNat 64 x.tl.m.value ∧
     r 0x063 = BitVec.ofNat 64 x.tl.p.value ∧ r 0x064 = BitVec.ofNat 64 x.tl.i.value ∧ r 0x065 = BitVec.ofNat 64 x.tl.c.value ∧
     (∀ k : Fin 8, r (0x070 + k.val) = BitVec.ofNat 64 s.firm.ageus[k]) ∧
     r 0x080 = x.sys.stasid ∧ r 0x081 = x.sys.stidx ∧ (∀ n, 0x087 ≤ n → n ≤ 0x08F → r n = 0) ∧
     (∀ e, s.space (x.sys.stasid.extractLsb' 0 12) = some e →
       r 0x086 = 1 ∧ ∀ k : Fin 4, r (0x082 + k.val) = (e.entry (x.sys.stidx.extractLsb' 0 10).toNat).word k.val) ∧
     (∀ h : HReg, r (0x100 + 2 * h.toNat) = (x.handle h).low ∧ r (0x101 + 2 * h.toNat) = (x.handle h).high) ∧
     (∀ (d : DReg) (k : Fin 13), r (0x200 + 16 * d.toNat + k.val) = (x.desc d)[k]))

/-- MTS to the registers of plain fields: with a value whose reserved fields are zero it takes effect in its clk; a value that the
register's map excludes raises ILLEGAL and changes nothing. TMR becomes the value, less the clk that
passes, and writing 0 takes a TIMER away that has not been delivered. SRSEED, SEED, ROTSZ, RRB and FRAG: SRSEED and SEED reset the
generators for the words pushed from here on, while those pushed before it draw from the generators as they stood, and ROTSZ sets RRB to 0 (R64, R72, R75, R82, R87, R101, R113, R203).
Where the manual leaves a point open, the clause is the model's choice (log 24). -/
def Obligations.MtsRegisters : Prop :=
  (∀ (s : State) (x : Ctx) (o : C3), CtlRuns s o.g [o.sa] x →
     let n := (o.imm.extractLsb' 0 12).toNat
     let v := x.rd o.sa
     let sets := fun (ok : Bool) (y : Sys) =>
       (ok = true → ∃ t, exec (.mts o) s = .next t ∧ Advances s { x with sys := y } 1 t) ∧
       (ok = false → exec (.mts o) s = .next (s.trapP x .illegal))
     (n = 0x010 → sets true { x.sys with tvec := v }) ∧
     (n = 0x011 → sets (v.toNat < 2 ^ 13) { x.sys with tframe := v }) ∧
     (n = 0x012 → sets (v.extractLsb' 40 24 == 0 && v.extractLsb' 27 5 == 0 && v.extractLsb' 22 2 == 0 && v.extractLsb' 18 2 == 0)
       { x.sys with tcause := v }) ∧
     (n = 0x030 → sets (v.extractLsb' 19 5 == 0) { x.sys with predcfg := v }) ∧
     (n = 0x018 → sets (v.toNat < 2 ^ 4) { x.sys with dbgctl := v }) ∧
     (n = 0x019 → sets (decide (v.toNat < 2 ^ 52) && v.toNat % 32 == 0) { x.sys with watcha := v }) ∧
     (n = 0x023 → sets (decide (v.toNat < 2 ^ 52) && v.toNat % 8 == 0) { x.sys with ftabb := v }) ∧
     (n = 0x02A → sets (v.toNat < 2 ^ 32) { x.sys with temper := v }) ∧
     (n = 0x031 → sets (v.toNat < 2 ^ 32) { x.sys with chkcfg := v }) ∧
     (n = 0x032 → sets (v.toNat < 2 ^ 17) { x.sys with misslim := v }) ∧
     (n = 0x033 → sets (v.toNat < 2 ^ 17) { x.sys with misscnt := v }) ∧
     (∀ k : Fin 32, n = 0x040 + k.val → sets (bfmtOk v) { x.sys with bfmt := x.sys.bfmt.set k v }) ∧
     (n = 0x080 → x.id.priv = true → sets (v.toNat < 2 ^ 12) { x.sys with stasid := v }) ∧
     (n = 0x081 → x.id.priv = true → sets (v.toNat < 2 ^ 10) { x.sys with stidx := v }) ∧
     (∀ (d : DReg) (k : Fin 13), n = 0x200 + 16 * d.toNat + k.val → (k.val % 2 = 1 → v.toNat < 2 ^ 32) →
       ∃ t z, exec (.mts o) s = .next t ∧ Advances s z 1 t ∧ (z.desc d)[k] = v ∧
         (∀ (e : DReg) (j : Fin 13), ¬ (e = d ∧ j = k) → (z.desc e)[j] = (x.desc e)[j])) ∧
     (∀ p : Fin 8, n = 0x070 + p.val → x.id.priv = true → v.toNat < 2 ^ 32 →
       ∃ t, exec (.mts o) s = .next t ∧ t.firm.ageus = s.firm.ageus.set p v.toNat ∧ SameMemory s t)) ∧
  (∀ (s : State) (x : Ctx) (o : C3), CtlRuns s o.g [o.sa] x →
     let n := (o.imm.extractLsb' 0 12).toNat
     let v := x.rd o.sa
     let illegal := fun w : Instr => exec w s = .next (s.trapP x .illegal)
     (n = 0x013 →
       let counts := decide (s.myCore.active = some s.cur.bank) && !x.trapMode
       let left := if v = 0 then x.pendE.filter (·.code != .timer) else x.pendE
       ∃ t y, exec (.mtsTmr o) s = .next t ∧ Advances s { x with sys := { x.sys with tmr := v }, pendE := left } 1 t ∧ t = s.putCtx y ∧
         y.sys.tmr.toNat = (if counts then v.toNat - 1 else v.toNat) ∧
         y.pendE = if counts = true ∧ v = 1 then left ++ [{ code := .timer, cls := .e }] else left) ∧
     (n = 0x028 → (v.toNat < 2 ^ 32 → ∃ t, exec (.mtsSrseed o) s = .next t ∧
         Advances s { x.reseed (v.extractLsb' 0 32) with sys := { x.sys with srseed := v } } 1 t)
       ∧ (2 ^ 32 ≤ v.toNat → illegal (.mtsSrseed o))) ∧
     (n = 0x029 → ∃ t, exec (.mtsSeed o) s = .next t ∧
       Advances s { x.rimeReset (v.extractLsb' 32 32) with sys := { x.sys with seed := v } } 1 t) ∧
     (n = 0x021 → (v.toNat ≤ x.vlen → ∃ t, exec (.mtsRotsz o) s = .next t ∧
         Advances s { x with sys := { x.sys with rotsz := v.toNat, rrb := 0 } } 1 t)
       ∧ (x.vlen < v.toNat → illegal (.mtsRotsz o))) ∧
     (n = 0x020 → (v.toNat < x.sys.rotsz ∨ v = 0 → ∃ t, exec (.mtsRrb o) s = .next t ∧
         Advances s { x with sys := { x.sys with rrb := v.toNat } } 1 t)
       ∧ (x.sys.rotsz ≤ v.toNat → v ≠ 0 → illegal (.mtsRrb o))) ∧
     (n = 0x022 → (v.toNat < 2 ^ 6 → ∃ t, exec (.mtsFrag o) s = .next t ∧ Advances s { x with sys := { x.sys with frag := v } } 1 t)
       ∧ (2 ^ 6 ≤ v.toNat → illegal (.mtsFrag o)))) ∧
  (∀ (x : Ctx) (v : BitVec 32) (w : IWord),
     let orOne := fun g : BitVec 32 => if g = 0 then 1 else g
     let y := x.reseed v
     let z := x.rimeReset v
     y = { x with oldGens := y.oldGens, genNum := x.genNum + 1, gens := y.gens } ∧
     z = { x with oldRime := z.oldRime, rimeNum := x.rimeNum + 1, rime := z.rime } ∧
     (y.capture w).gen = x.genNum + 1 ∧ y.gensAt (x.genNum + 1)
       = { vec := orOne v, load := orOne (v ^^^ 0x55555555), store := orOne (v ^^^ 0xAAAAAAAA), brim := orOne (v ^^^ 0xFFFFFFFF) } ∧
     (z.capture w).rime = x.rimeNum + 1 ∧
     (∀ c : Fin 16, (z.rimeAt (x.rimeNum + 1))[c] = orOne (v ^^^ BitVec.ofNat 32 (c.val * 0x9E3779B9))) ∧
     ∀ q ∈ x.drawers,
       (q.cap.gen ≤ x.genNum → q.cap.gen = x.genNum ∨ (x.oldGens.lookup q.cap.gen).isSome = true → y.gensAt q.cap.gen = x.gensAt q.cap.gen) ∧
       (q.cap.rime ≤ x.rimeNum → q.cap.rime = x.rimeNum ∨ (x.oldRime.lookup q.cap.rime).isSome = true →
         z.rimeAt q.cap.rime = x.rimeAt q.cap.rime))

/-- MTS to a handle waits for the pushed words that name it, and then sets its geometry, which empties it, or its live fields; a
value that the map excludes raises ILLEGAL, and the wait delivers a fault of an engine that runs one of those words (R86, R236,
R237).
Where the manual leaves a point open, the clause is the model's choice (log 24, 30). -/
def Obligations.MtsHandles : Prop :=
  ∀ (s : State) (x : Ctx) (o : C3) (h : HReg), CtlRuns s o.g [o.sa] x →
    let n := (o.imm.extractLsb' 0 12).toNat
    let v := x.rd o.sa
    let uses := fun e : Eng => x.macros.any fun q => q.names h && q.eng == e
    let waits := fun w : Instr => x.trapMode = true ∨ x.faultOn uses = none →
      ∃ t, exec w s = .next t ∧ Waits s x (.wait (.handle h)) t
    let delivers := fun w : Instr => ∀ r f, x.trapMode = false → x.faultOn uses = some r → r.fault = some f →
      exec w s = .next (s.takeTrap x f)
    (n = 0x100 + 2 * h.toNat →
      (handleLowOk v = false → exec (.mtsHandleLow o) s = .next (s.trapP x .illegal)) ∧
      (handleLowOk v = true → x.usesHandle h = false → ∃ t, exec (.mtsHandleLow o) s = .next t ∧
        Advances s (x.setHandle h {
          bank := (v.extractLsb' 8 5).toNat, row := (v.extractLsb' 0 8).toNat, slots := (v.extractLsb' 20 9).toNat,
          rps := (v.extractLsb' 32 9).toNat, head := 0, tail := 0, filled := 0 }) 1 t) ∧
      (handleLowOk v = true → x.usesHandle h = true → waits (.mtsHandleLow o)) ∧
      (handleLowOk v = true → x.usesHandle h = true → delivers (.mtsHandleLow o))) ∧
    (n = 0x101 + 2 * h.toNat →
      (handleHighOk (x.handle h) v = false → exec (.mtsHandleHigh o) s = .next (s.trapP x .illegal)) ∧
      (handleHighOk (x.handle h) v = true → x.usesHandle h = false → ∃ t, exec (.mtsHandleHigh o) s = .next t ∧
        Advances s (x.setHandle h { (x.handle h) with
          head := (v.extractLsb' 16 8).toNat, tail := (v.extractLsb' 24 8).toNat,
          filled := (v.extractLsb' 32 9).toNat }) 1 t) ∧
      (handleHighOk (x.handle h) v = true → x.usesHandle h = true → waits (.mtsHandleHigh o)) ∧
      (handleHighOk (x.handle h) v = true → x.usesHandle h = true → delivers (.mtsHandleHigh o)))

/-- MTS to the segment-table words in the privileged view: an entry that R307 admits takes the word; one that it excludes raises
ILLEGAL. STW3 waits for the thread's earlier accesses, and STW0 to STW2 leave the old word in use until an SFLUSH (R304, R306,
R307). MTS to HEATCFG sets it on every die in the privileged view, and raises PERM in the other (R72, R315).
Where the manual leaves a point open, the clause is the model's choice (log 4, 23). -/
def Obligations.MtsSegmentTableAndHeatcfg : Prop :=
  ∀ (s : State) (x : Ctx) (o : C3), CtlRuns s o.g [o.sa] x →
    let n := (o.imm.extractLsb' 0 12).toNat
    let v := x.rd o.sa
    let a : BitVec 12 := x.sys.stasid.extractLsb' 0 12
    let i := (x.sys.stidx.extractLsb' 0 10).toNat
    (x.id.priv = true → 0x082 ≤ n → n ≤ 0x084 →
      (((s.space a).isSome = true ∧ s.entryOk ((s.entry a i).setWord (n - 0x082) v) = true) →
        ∃ t s', exec (.mtsStw o) s = .next t ∧ Advances s' x 1 t ∧
          s' = ({ s with segOld := { asid := a, idx := i, word := n - 0x082, val := (s.entry a i).word (n - 0x082), till := s.tick }
            :: s.segOld }).setEntry a i ((s.entry a i).setWord (n - 0x082) v)) ∧
      (¬ ((s.space a).isSome = true ∧ s.entryOk ((s.entry a i).setWord (n - 0x082) v) = true) →
        exec (.mtsStw o) s = .next (s.trapP x .illegal))) ∧
    (x.id.priv = true → n = 0x085 → (s.space a).isSome = true → s.entryOk ((s.entry a i).setWord 3 v) = true →
      (x.ops = [] ∧ s.drained (s.cur.core, x.id.serial) = true →
        ∃ t, exec (.mtsStw3 o) s = .next t ∧ Advances ((s.setEntry a i ((s.entry a i).setWord 3 v)).settle) x 1 t) ∧
      (x.ops ≠ [] ∨ s.drained (s.cur.core, x.id.serial) = false →
        ∃ t, exec (.mtsStw3 o) s = .next t ∧ Waits s x .busy t)) ∧
    (x.id.priv = false → exec (.mtsHeatcfg o) s = .next (s.trapP x .perm)) ∧
    (x.id.priv = true → (heatOk v = false ∨ s.rowStoreFits (heatRsMib v) = false) →
      exec (.mtsHeatcfg o) s = .next (s.trapP x .illegal)) ∧
    (x.id.priv = true → heatOk v = true → s.rowStoreFits (heatRsMib v) = true →
      ∃ t, exec (.mtsHeatcfg o) s = .next t ∧ Advances (s.setHeat v) x 1 t ∧ t.firm.heatcfg = v)

/-- FENCE goes on once every scalar access of the thread is done, and at module scope once its writes have reached every die
(R116). SFLUSH joins the operations on their way, and holds or counts on its token: every core discards its
translations and code of the address space in a step of its own, once its die has received the writes performed before the SFLUSH, and
the drain ends once no access that a core translated before
its discard is on its way (R117).
Where the manual leaves a point open, the clause is the model's choice (log 18). -/
def Obligations.FenceAndFlushWords : Prop :=
  (∀ (s : State) (x : Ctx) (o : C3), CtlRuns s o.g [] x →
    (x.ops = [] → ((o.imm.extractLsb' 0 2).toNat = 2 → s.drained (s.cur.core, x.id.serial) = true) →
      ∃ t, exec (.fence o) s = .next t ∧ Advances s x 1 t) ∧
    (x.ops ≠ [] ∨ ((o.imm.extractLsb' 0 2).toNat = 2 ∧ s.drained (s.cur.core, x.id.serial) = false) →
      ∃ t, exec (.fence o) s = .next t ∧ Waits s x .busy t)) ∧
  (∀ (s : State) (x : Ctx) (o : C3), CtlRuns s o.g [o.sa] x → x.ops.any (·.held) = false → x.tokFull o.tok = false →
    let asid : BitVec 12 := if x.id.priv then (x.rd o.sa).extractLsb' 0 12 else x.id.asid
    let op : Op := { kind := .sflush asid allCores [] (([0, 1, 2, 3] : List DieId).map fun d => s.vc[d][d]), born := s.tick }
    (x.id.priv = false → o.sa ≠ 0 → exec (.sflush o) s = .next (s.trapP x .perm)) ∧
    (x.id.priv = true → 2 ^ 12 ≤ (x.rd o.sa).toNat → exec (.sflush o) s = .next (s.trapP x .illegal)) ∧
    ((x.id.priv = false ∧ o.sa = 0 ∨ x.id.priv = true ∧ (x.rd o.sa).toNat < 2 ^ 12) →
      (∀ k, o.tok = some k → ∃ t, exec (.sflush o) s = .next t ∧
        Advances s { (x.tokAdd o.tok) with ops := x.ops ++ [{ op with tok := some k }] } 1 t) ∧
      (o.tok = none → ∃ t, exec (.sflush o) s = .next t ∧ Waits s { x with ops := x.ops ++ [{ op with held := true }] } .busy t))) ∧
  (∀ c : CoreId, c ∈ allCores) ∧
  (∀ (s : State) (c : CoreId) (b : BankId) (x : Ctx) (p : Op) (asid : BitVec 12) (left : List CoreId)
      (done : List (CoreId × Nat)) (need : List Nat), s.ctxAt c b = some x → p.kind = .sflush asid left done need →
    -- the flush that the step goes on with is any of the context's
    (let fs := x.ops.filter fun q => match q.kind with | .sflush _ _ _ _ => true | _ => false
     fs[Config.choice s.tick 5 % fs.length]? = some p) →
    (left ≠ [] → ∃ t y more, exec (.sflushDrainEnd c b) s = .next t ∧ t.ctxAt c b = some y ∧
      y = { x with ops := x.ops.map fun r => if r = p then { p with
        kind := .sflush asid more (done ++ (left.filter (· ∉ more)).map fun d => (d, s.tick)) need } else r } ∧
      (∀ d ∈ more, d ∈ left) ∧ (∀ d ∈ left, d ∉ more → s.clockReached (dieOf d) need = true) ∧
      ((∃ d ∈ left, s.clockReached (dieOf d) need = true) → more.length < left.length) ∧ SameMemory s t ∧
      (∀ d ∈ left, d ∉ more → ∀ l ∈ (t.core d).icache, l.asid ≠ asid) ∧
      (∀ d, (d ∉ left ∨ d ∈ more) → (t.core d).icache = (s.core d).icache) ∧
      (∀ o ∈ s.segOld, o.asid ≠ asid → o ∈ t.segOld)) ∧
    (left = [] → (∀ d ∈ done, ∀ z ∈ (s.core d.1).residents, z.id.asid = asid → ∀ q ∈ z.ops, q.born < d.2 →
        (∃ a, q.loc = .spad a) ∨ ∃ a l e n, q.kind = .sflush a l e n) →
      let y : Ctx := { (x.tokDone p.tok) with ops := x.ops.erase p }
      exec (.sflushDrainEnd c b) s = .next (s.setCtxAt c b (some (if p.held = true ∧ x.fatal = none then
        { y with ctl := x.ctl.step, hold := .none, heldClk := 0, issue := none, stall := none, ctlFresh := false } else y)))) ∧
    (∀ d z q, left = [] → d ∈ done → z ∈ (s.core d.1).residents → z.id.asid = asid → q ∈ z.ops → q.born < d.2 →
      (∀ a, q.loc ≠ .spad a) → (∀ a l e n, q.kind ≠ .sflush a l e n) → exec (.sflushDrainEnd c b) s = .next s)) ∧
  (∀ (s : State) (asid : BitVec 12) (c : CoreId), (∀ l ∈ ((s.discard asid).core c).icache, l.asid ≠ asid) ∧
    (∀ e ∈ (s.discard asid).segOld, e.asid ≠ asid) ∧ SameMemory s (s.discard asid))

/-- PROBE and PROBE.F on a well-formed control word whose regions lie in the allotment: a hit gives the slot and
goes on after 4 clk, when sd is written; a miss takes the first entry that is not valid, else the one that the replacement bits of entry 0 name, and
branches to its target, with sd its slot; PROBE.F pushes a fill of the slot, makes the entry VALID, PENDING and the block's, and
where every entry is valid moves the replacement bits on. Otherwise ILLEGAL, ALLOT or POISON; an access of the thread to the entries that
is still on its way is waited for (R118, R241, R250).
Where the manual leaves a point open, the clause is the model's choice (log 17); a tag row with a vector store in flight raises nothing
(log 53). -/
def Obligations.ProbeWords : Prop :=
  ∀ (s : State) (x : Ctx) (o : C3) (fill : Bool), CtlRuns s o.g [o.sa, o.sb] x →
    let w : Instr := if fill then .probeF o else .probe o
    let v := x.rd o.sb
    let bsz := 1024 * 2 ^ (v.extractLsb' 26 2).toNat
    let blk := (x.rd o.sa).toNat / bsz * bsz
    let set := blk / bsz % (2 ^ (v.extractLsb' 28 4).toNat / 4)
    let base := (x.id.sbank * 256 + (v.extractLsb' 0 13).toNat) * 256 + 32 * set
    let tags := (List.range 4).map fun j => natOfBytes (s.myCore.spadBytes (base + 8 * j) 8)
    let tag := fun j : Nat => tags.getD j 0
    let target := x.ctl.pc + (o.imm.extractLsb' 0 32).signExtend 64
    let holds := fun j : Nat => (tag j).testBit 0 = true ∧ tag j / 2 ^ 10 % 2 ^ 42 = blk / 2 ^ 10 % 2 ^ 42
    let full := ∀ j, j < 4 → (tag j).testBit 0 = true
    let way := ((List.range 4).find? fun j => !(tag j).testBit 0).getD (tag 0 / 2 ^ 4 % 4)
    let slot := 4 * set + way
    let miss := ∀ j, j < 4 → ¬ holds j
    -- the miss leaves the section for the target, and sd is written when 4 clk have passed
    let leaves := fun (u : State) (y : Ctx) => ∃ t n, exec w s = .next t ∧ 4 ≤ n ∧
      EndsAfter u (y.leaveSec y.ctl) { pc := target, phase := .header, sec := none } n o.sd (BitVec.ofNat 64 slot) t
    (probeOk v = false → exec w s = .next (s.trapP x .illegal)) ∧
    (probeOk v = true → probeFits x v = false → exec w s = .next (s.trapP x .allot)) ∧
    (probeOk v = true → probeFits x v = true → x.mustWait (.spad base) 32 = true → ∃ t, exec w s = .next t ∧ Waits s x .busy t) ∧
    (probeOk v = true → probeFits x v = true → x.mustWait (.spad base) 32 = false → base / 256 ∈ s.myCore.spadBad →
      exec w s = .next (s.trapP x .poison 0x10 0 ((v.extractLsb' 0 13).toNat * 256 + 32 * set))) ∧
    (probeOk v = true → probeFits x v = true → x.mustWait (.spad base) 32 = false → base / 256 ∉ s.myCore.spadBad → x.onlyScalars →
      (∀ j, j < 4 → holds j → (∀ i, i < j → ¬ holds i) →
        ∃ t, exec w s = .next t ∧ EndsAfter s x x.ctl.step 4 o.sd (BitVec.ofNat 64 (4 * set + j)) t) ∧
      (miss → target.toNat % 8 ≠ 0 → exec w s = .next (s.trapP x .illegal)) ∧
      (miss → target.toNat % 8 = 0 → fill = false → leaves s x) ∧
      (miss → target.toNat % 8 = 0 → fill = true → 128 ≤ x.filled .l ∨ x.tokFull o.tok = true →
        ∃ t, exec w s = .next t ∧ Waits s x (.wait (.room .l o.tok)) t) ∧
      (miss → target.toNat % 8 = 0 → fill = true → x.filled .l < 128 → x.tokFull o.tok = false →
        let rows := bsz / 256
        ∃ k q, leaves (s.putCore k) { (x.tokAdd o.tok) with
            tl := { x.tl with a := { x.tl.a with pushed := x.tl.a.pushed + 1 } }
            ql := { x.ql with items := x.ql.items ++ [q] } } ∧
          q.kind = .l ∧ q.trapm = x.trapMode ∧ q.num = x.tl.a.pushed + 1 ∧
          q.fill = some (base + 8 * way, blk, (v.extractLsb' 13 13).toNat + slot * rows, rows) ∧
          k = { s.myCore with spad := k.spad, spadBad := k.spadBad } ∧
          (∀ a, (a < base ∨ base + 32 ≤ a) → k.spadBytes a 1 = s.myCore.spadBytes a 1) ∧
          ∀ j i, j < 4 → i < 64 → (natOfBytes (k.spadBytes (base + 8 * j) 8)).testBit i =
            if j = way ∧ i < 2 then true
            else if j = way ∧ 10 ≤ i ∧ i < 52 then blk.testBit i
            else if j = 0 ∧ full ∧ (i = 4 ∨ i = 5) then (way + 1).testBit (i - 4)
            else (tag j).testBit i))

/-! ### Traps -/

/-- TRAP and BRKPT raise SWTRAP with DETAIL n or 0xFF, with the frame's PC the address of the next header, 1 clk on; their
fields are fixed, but for the guard, and elsewhere than at the end of their section they are ILLEGAL (R88, R114).
Where the manual leaves a point open, the clause is the model's choice (log 29, 65). -/
def Obligations.SoftwareTraps : Prop :=
  (∀ (s : State) (x : Ctx) (o : C3) (w : Instr) (n : BitVec 8), CtlRuns s o.g [] x →
    (w = .trap o ∧ n = o.imm.extractLsb' 0 8 ∨ w = .brkpt o ∧ n = 0xFF) →
    ∀ c, x.ctl.sec = some c → ∃ y u, exec w s = .next (u.takeTrap y { code := .swtrap, cls := .p, detail := n } (some .c)) ∧
      y.ctl.pc = c.next ∧ y.cclk = x.cclk + 1 ∧ y.flights = x.flights ∧ y.regs = x.regs ∧ u = s.putCtx y) ∧
  (∀ o : C3, (WellFormed (.trap o) ↔ o.imm.toNat < 255 ∧ o.sd = 0 ∧ o.sa = 0 ∧ o.sb = 0 ∧ o.sc = 0 ∧ o.tok = none) ∧
    (WellFormed (.brkpt o) ↔ o.imm = 0xFF ∧ o.sd = 0 ∧ o.sa = 0 ∧ o.sb = 0 ∧ o.sc = 0 ∧ o.tok = none)) ∧
  (∀ (x : Ctx) (c : CtlSec) (w : IWord) (next : Option IWord) (o : C3), decodeIn c.h.kind w = .ok (.trap o) ∨
    decodeIn c.h.kind w = .ok (.brkpt o) → c.idx + 1 ≠ c.h.len → checkWord x c w next = .error { code := .illegal, cls := .p })

/-- TRAP ENTRY outside trap mode, with a frame that fits the allotment and a TVEC that opens a trap-mode C section: the frame's
first words hold CAUSE, PC, QPC, TLNUM, EVENT and ADDR, TCAUSE is set, the control core goes to TVEC in trap mode, and the queues
keep their words. QPC and TLNUM are 0 but for class Q, which gives the word that raised it, and class A, which gives the macro, its
number, its captured descriptor and its progress; the macro stays stopped until the RTT. The results in flight, those of the control
core first, take the latch slots in their order of issue, with KIND, UNIT, DEST, REMAIN and value, and none stays in flight (R84, R85,
R86, R88, R89). The context stops where the frame or TVEC is not so, and where a class-P trap comes in trap mode: it issues nothing more,
and its slot is free once what it had issued has completed (R88).
Where the manual leaves a point open, the clause is the model's choice (log 8, 15, 28). -/
def Obligations.TrapEntryEffect : Prop :=
  ∀ (s : State) (x : Ctx) (cause : Cause), s.ctx? = some x → MemoryOk s →
    let first := (x.sys.tframe.extractLsb' 0 13).toNat
    let fits := first + 15 ≤ x.id.snb * 256
    let opens := x.sys.tvec.toNat % 8 = 0 ∧ ∃ h u d, s.fetch s.cur.core x.id.asid x.begun x.sys.tvec 8 = .ok (h, u) ∧
      decodeHeader (BitVec.ofNat 64 h) = some d ∧ d.kind = .c ∧ d.trapm = true
    -- the kind of a class-P trap: that of the section the control core is in, else of the one that it decodes next
    let kindP := match x.ctl.sec with | some k => k.h.kind | none => s.nextKind x
    -- the source of the trap: the section kind for TCAUSE, QPC, TLNUM and the macro
    (∀ (kind : Kind) (qpc num : Nat) (run : Option Run),
      ((cause.cls = .p ∧ kind = kindP ∨ cause.cls = .e ∧ kind = s.nextKind x) ∧ qpc = 0 ∧ num = 0 ∧ run = none ∨
       (∃ q, cause.cls = .q ∧ x.pendQ = some q ∧ kind = q.kind ∧ qpc = q.hdr.toNat * 2 ^ 12 + q.idx ∧ num = 0 ∧ run = none) ∨
       (∃ r, cause.cls = .a ∧ x.runs.find? (fun r => cause.eng == some r.ctr && r.q.num == cause.num) = some r ∧ kind = r.q.kind ∧
         qpc = r.q.hdr.toNat * 2 ^ 12 + r.q.idx ∧ num = r.q.num ∧ run = some r)) →
      x.trapMode = false → fits → opens → (∀ f ∈ x.flights, x.clk f.unit ≤ f.land) → x.flights.length ≤ 12 →
      let tc := cause.tcause kind 0
      let slots := (x.flights.filter (·.unit == .ctl)) ++ x.flights.filter (·.unit == .vec)
      ∃ t y, exec (.trapEntry cause) s = .next t ∧ t.ctx? = some y ∧ y.trapMode = true ∧ y.sys.tcause = tc ∧
        y.ctl.pc = x.sys.tvec ∧ y.ctl.phase = .header ∧ y.trapPc = x.ctl.addr ∧ y.saved = some x.ctl ∧ y.flights = [] ∧
        y.regs = x.regs ∧ y.ql.items = x.ql.items ∧ y.qx.items = x.qx.items ∧ y.qs.items = x.qs.items ∧
        (cause.cls ≠ .a → y.eng = x.eng) ∧ (cause.cls = .q → y.pendQ = none) ∧
        (∀ r, run = some r → y.eng = (x.setRun { r with fault := none, held := true }).eng) ∧
        let f := t.myCore.frame (x.id.sbank * 256 + first)
        let field := fun (at_ bits : Nat) => f / 2 ^ (8 * at_) % 2 ^ bits
        field 0 64 = tc.toNat ∧ field 8 64 = x.ctl.addr.toNat ∧ field 16 64 = qpc % 2 ^ 64 ∧ field 24 64 = num % 2 ^ 64 ∧
        field 32 64 = cause.event.toNat ∧ field 40 64 = cause.addr.toNat ∧ field 48 64 = 2 ^ x.flights.length - 1 ∧
        (∀ j e, slots[j]? = some e →
          let dir := fun lo bits : Nat => field (512 + 16 * j) 128 / 2 ^ lo % 2 ^ bits
          let val := field (768 + 256 * j) 2048
          dir 8 8 = (if e.unit = .ctl then 0 else 1) ∧ dir 32 16 = (e.land - x.clk e.unit) % 2 ^ 16 ∧
            match e.val with
            | .scalar r v => dir 0 8 = 1 ∧ dir 16 16 = r.toNat ∧ val = v.toNat
            | .vec p b v => dir 0 8 = 2 ∧ dir 16 16 = (p - x.id.vbase) % 2 ^ 16 ∧ val % 2 ^ 1024 = v.toNat ∧
                (∀ i, i < 32 → (dir 64 32).testBit i = (b.extractLsb' (4 * i) 4 != 0)) ∧
                (∀ i, i < 128 → ((dir 64 32).testBit (i / 4) && (val / 2 ^ 1024).testBit i) = b.getLsbD i)
            | .pair lo hi m v => dir 0 8 = 3 ∧ dir 16 16 = (lo - x.id.vbase) % 2 ^ 16 ∧ dir 48 16 = (hi - x.id.vbase) % 2 ^ 16 ∧
                dir 64 64 = m.toNat ∧ val = v.toNat
            | .pred r m v => dir 0 8 = 4 ∧ dir 16 16 = r.toNat ∧ dir 64 32 = m.toNat ∧ val = v.toNat
            | .terms r _ => dir 0 8 = 5 ∧ dir 16 16 = r.toNat
            | .exact r v => dir 0 8 = 5 ∧ dir 16 16 = r.toNat ∧ y.heldMov.lookup j = some v
            | .row r m v => dir 0 8 = 6 ∧ dir 16 16 = r % 2 ^ 16 ∧ dir 64 64 = m.toNat ∧ val = v.toNat) ∧
        (∀ r, run = some r → field 256 64 = r.q.hdr.toNat ∧ field 264 64 = r.q.idx % 2 ^ 64 ∧
          (∀ k : Fin 13, field (336 + 8 * k.val) 64 = r.q.cap.desc[k].toNat) ∧ field 472 32 = r.done % 2 ^ 32) ∧
        (∀ d a, t.readView d a 1 = s.readView d a 1) ∧
        (∀ c r, (c ≠ s.cur.core ∨ r < x.id.sbank * 256 + first ∨ x.id.sbank * 256 + first + 15 ≤ r) →
          (t.core c).spad.read r = (s.core c).spad.read r)) ∧
    (cause.cls = .p ∨ cause.cls = .e → (x.trapMode = true ∧ cause.cls = .p) ∨ (x.trapMode = false ∧ ¬ (fits ∧ opens)) →
      let tc := cause.tcause (if cause.cls = .p then kindP else s.nextKind x) 0
      ∃ t, exec (.trapEntry cause) s = .next t ∧
        (x.spent = true → t.ctx? = none ∧
          t.firm.events = s.firm.events ++ [{ code := 0x11, args := [x.id.copy.rec_.toNat, tc.toNat] }]) ∧
        (x.spent = false → t.firm = s.firm ∧ t.myCore.active ≠ some s.cur.bank ∧ ∃ y, t.ctx? = some y ∧ y.fatal = some tc ∧
          y.ops = x.ops ∧ y.eng = x.eng ∧ y.ql = {} ∧ y.qx = {} ∧ y.qs = {} ∧ y.flights = []))

/-- RTT raises ILLEGAL outside trap mode. In trap mode, with no trap-mode word queued and nothing in flight, a fault held by an engine
chains: the frame takes its cause, QPC, TLNUM and macro, CHAIN rises and the handler is entered again, or, where the frame or TVEC does
not serve, the context stops. With no fault held, RTT
resumes at the frame's PC, with trap mode left: each valid latch slot goes in flight again, to land REMAIN clk after the clock in which its
unit first issues, and at the trapped PC the control core stands where it stood; a slot that the machine cannot hold, a DEST out of
range among them, ends the context, and a poisoned row of the frame that is read raises POISON (R90, R115). TMR counts the clks of the active context outside trap mode down, and reaching 0 raises TIMER; it stops at 0 and in trap
mode; the event TIMER EXPIRY lets a held control core's clks pass until then, but those of a word that waits for a result only until one
lands (R81, R87).
Where the manual leaves a point open, the clause is the model's choice (log 15, 16, 25, 28, 29, 75). -/
def Obligations.ReturnFromTrapAndTimer : Prop :=
  (∀ (s : State) (x : Ctx) (o : C3), CtlRuns s o.g [] x →
     (x.trapMode = false → exec (.rtt o) s = .next (s.trapP x .illegal)) ∧
     (x.trapMode = true → x.flights ≠ [] ∨ (∃ q ∈ [x.ql, x.qx, x.qs], (q.head true).isSome = true ∨ q.cur ≠ {}) →
       ∃ t, exec (.rtt o) s = .next t ∧ Waits s x .busy t) ∧
     (x.trapMode = true → x.flights = [] → (∀ q ∈ [x.ql, x.qx, x.qs], q.head true = none ∧ q.cur = {}) →
       let row := x.id.sbank * 256 + (x.sys.tframe.extractLsb' 0 13).toNat
       let f := s.myCore.frame row
       let field := fun (at_ bits : Nat) => f / 2 ^ (8 * at_) % 2 ^ bits
       let pc : Word := BitVec.ofNat 64 (f / 2 ^ 64)
       let dir := fun j lo bits : Nat => field (512 + 16 * j) 128 / 2 ^ lo % 2 ^ bits
       let valid := (List.range 12).filter fun j => (field 48 12).testBit j
       let whole := row ∉ s.myCore.spadBad ∧ row + 2 ∉ s.myCore.spadBad ∧ ∀ j ∈ valid, row + 3 + j ∉ s.myCore.spadBad
       -- the record number of an exact accumulator's slot is the one that the trap entry gave it
       let recOk := fun j : Nat => BitVec.ofNat 6 (field (768 + 256 * j) 2048 / 2 ^ 122) = (x.latchRec.lookup j).getD 0
       let again := fun (j : Nat) (e : Flight) =>
         dir j 8 8 = (if e.unit = .ctl then 0 else 1) ∧ dir j 32 16 < 20 ∧
           e.land = (if e.unit = .ctl then x.cclk + 1 else x.xclk) + dir j 32 16 ∧
           let val := field (768 + 256 * j) 2048
           match e.val with
           | .scalar r v => dir j 0 8 = 1 ∧ dir j 16 16 = r.toNat ∧ v.toNat = val % 2 ^ 64
           | .vec p b v => dir j 0 8 = 2 ∧ dir j 16 16 < x.vlen ∧ p = x.id.vbase + dir j 16 16 ∧ v.toNat = val % 2 ^ 1024 ∧
               ∀ i, i < 128 → b.getLsbD i = ((dir j 64 32).testBit (i / 4) && (val / 2 ^ 1024).testBit i)
           | .pair lo hi m v => dir j 0 8 = 3 ∧ dir j 16 16 < x.vlen ∧ dir j 48 16 < x.vlen ∧ lo = x.id.vbase + dir j 16 16 ∧
               hi = x.id.vbase + dir j 48 16 ∧ m.toNat = dir j 64 64 ∧ v.toNat = val
           | .exact r v => dir j 0 8 = 5 ∧ dir j 16 16 = r.toNat ∧ recOk j ∧ x.heldMov.lookup j = some v
           | .terms r ts => dir j 0 8 = 5 ∧ dir j 16 16 = r.toNat ∧ recOk j ∧ x.heldMov.lookup j = none ∧
               ts = (List.range 16).map fun i => ETerm.ofBits (val / 2 ^ (128 * i) % 2 ^ 128)
           | .pred r m v => dir j 0 8 = 4 ∧ dir j 16 16 = r.toNat ∧ m.toNat = dir j 64 32 ∧ v.toNat = val % 2 ^ 32
           | .row r m v => dir j 0 8 = 6 ∧ dir j 16 16 = r ∧ r < x.id.snb * 256 ∧ m.toNat = dir j 64 64 ∧ v.toNat = val
       let outOfRange := fun j : Nat => let d := dir j 16 16
         match dir j 0 8 with
         | 1 => 64 ≤ d
         | 2 => x.vlen ≤ d
         | 3 => x.vlen ≤ d ∨ x.vlen ≤ dir j 48 16
         | 4 => 16 ≤ d
         | 5 => 4 ≤ d ∨ ¬ recOk j
         | _ => x.id.snb * 256 ≤ d
       -- resuming
       (∀ es : List Flight, (x.faultOn fun _ => true) = none → whole → es.length = valid.length →
         (∀ (i j : Nat) (e : Flight), valid[i]? = some j → es[i]? = some e → again j e ∧ (e.uid, e.hnd) = (x.latchUid[j]?).getD (0, none)) →
         (∀ p, x.saved = some p → pc = x.trapPc →
           ∃ t y, exec (.rtt o) s = .next t ∧ t = s.putCtx y ∧ y.trapMode = false ∧ y.ctl = p ∧ y.flights = es ∧
             y.regs = x.regs ∧ y.ql.items = x.ql.items ∧ y.ql.cur = x.ql.saved ∧ y.qx.cur = x.qx.saved ∧ y.qs.cur = x.qs.saved
             ∧ y.ctlFresh = true ∧ y.xFresh = true ∧ y.sys.tcause.extractLsb' 32 8 = 0) ∧
         (pc ≠ x.trapPc → pc.toNat % 8 = 0 →
           ∃ t y, exec (.rtt o) s = .next t ∧ t = s.putCtx y ∧ y.trapMode = false ∧ y.ctl.pc = pc ∧ y.ctl.phase = .header ∧
             y.flights = es) ∧
         (pc ≠ x.trapPc → pc.toNat % 8 ≠ 0 →
           exec (.rtt o) s = .next (s.ctxFatal s.cur.core s.cur.bank x.sys.tcause))) ∧
       ((x.faultOn fun _ => true) = none → whole →
         ∀ j ∈ valid, dir j 0 8 = 0 ∨ 6 < dir j 0 8 ∨ 2 ≤ dir j 8 8 ∨ 20 ≤ dir j 32 16 ∨ outOfRange j →
         exec (.rtt o) s = .next (s.ctxFatal s.cur.core s.cur.bank x.sys.tcause)) ∧
       ((x.faultOn fun _ => true) = none → ¬ whole →
         exec (.rtt o) s = .next (s.trapP x .poison 0x10 0 (256 * (x.sys.tframe.extractLsb' 0 13).toNat))) ∧
       -- chaining
       (∀ r c, (x.faultOn fun _ => true) = some r → r.fault = some c → s.noHandler x = true →
         exec (.rtt o) s = .next (State.passNow (s.ctxFatal s.cur.core s.cur.bank
           (c.tcause r.q.kind (min ((x.sys.tcause.extractLsb' 32 8).toNat + 1) 255))) 3)) ∧
       (∀ r c, MemoryOk s → (x.faultOn fun _ => true) = some r → r.fault = some c → s.noHandler x = false →
         ∃ t y, exec (.rtt o) s = .next t ∧ t.ctx? = some y ∧ y.trapMode = true ∧ y.ctl.pc = x.sys.tvec ∧ y.ctl.phase = .header ∧
           y.regs = x.regs ∧ y.saved = x.saved ∧ y.trapPc = x.trapPc ∧ y.flights = [] ∧
           y.eng = (x.setRun { r with fault := none, held := true }).eng ∧
           let tc := c.tcause r.q.kind (min ((x.sys.tcause.extractLsb' 32 8).toNat + 1) 255)
           y.sys.tcause = tc ∧
           let g := t.myCore.frame row
           let new := fun (at_ bits : Nat) => g / 2 ^ (8 * at_) % 2 ^ bits
           new 0 64 = tc.toNat ∧ new 8 64 = field 8 64 ∧ new 16 64 = (r.q.hdr.toNat * 2 ^ 12 + r.q.idx) % 2 ^ 64 ∧
             new 24 64 = r.q.num % 2 ^ 64 ∧ new 32 64 = c.event.toNat ∧ new 40 64 = c.addr.toNat ∧
             new 48 1664 = field 48 1664 ∧ new 512 26624 = field 512 26624 ∧
             new 256 64 = r.q.hdr.toNat ∧ (∀ k : Fin 13, new (336 + 8 * k.val) 64 = r.q.cap.desc[k].toNat) ∧
             (∀ q, (q < row ∨ row + 15 ≤ q) → t.myCore.spad.read q = s.myCore.spad.read q)))) ∧
  ((∀ (s : State) (x : Ctx) (n : Nat), 0 < n → s.myCore.active = some s.cur.bank → x.trapMode = false →
     ∃ z, s.passCtl x n = s.putCtx z ∧ z.cclk = x.cclk + n ∧ z.sys.tmr.toNat = x.sys.tmr.toNat - n ∧
       z.pendE = (if x.sys.tmr ≠ 0 ∧ x.sys.tmr.toNat ≤ n then x.pendE ++ [{ code := .timer, cls := .e }] else x.pendE)) ∧
   (∀ (s : State) (x : Ctx) (n : Nat), s.myCore.active ≠ some s.cur.bank ∨ x.trapMode = true →
     s.passCtl x n = s.putCtx { x with cclk := x.cclk + n }) ∧
   (∀ (s : State) (c : CoreId) (b : BankId) (x : Ctx), s.ctxAt c b = some x → (s.core c).active = some b → x.trapMode = false →
     x.sys.tmr ≠ 0 → x.hold ≠ .none →
     let passes := ∀ f ∈ x.flights, f.unit = .ctl → x.cclk < f.land → x.cclk + x.sys.tmr.toNat ≤ f.land
     ((x.hold = .full → passes) → ∃ t y, exec (.timerExpiry c b) s = .next t ∧ t = s.setCtxAt c b (some y) ∧
       y.sys.tmr = 0 ∧ y.cclk = x.cclk + x.sys.tmr.toNat ∧ y.pendE = x.pendE ++ [{ code := .timer, cls := .e }] ∧ y.regs = x.regs) ∧
     (x.hold = .full → ¬ passes → exec (.timerExpiry c b) s = .next s)))


/-! ### Barriers, timelines, groups and continuations -/

/-- An update of a barrier by n arrivals and b bytes under the completion rule of R212: when both counts reach zero the phase
moves on and the arrivals are those of RELOAD; the reserved bits are zero (R3), and no other byte of the scratchpad changes. -/
def Obligations.BarrierUpdate : Prop :=
  ∀ (k : Core) (a : Nat) (n : BitVec 28) (b : BitVec 48), Sparse.wf k.spad = true → a % 16 = 0 →
    let v := k.barrier a
    let w := (k.updBarrier a n b).barrier a
    (barArrivals v - n = 0 ∧ barBytes v + b = 0 →
      barPhase w = barPhase v + 1 ∧ barArrivals w = barReload v ∧ barBytes w = 0 ∧ barReload w = barReload v) ∧
    (¬ (barArrivals v - n = 0 ∧ barBytes v + b = 0) →
      barPhase w = barPhase v ∧ barArrivals w = barArrivals v - n ∧ barBytes w = barBytes v + b ∧ barReload w = barReload v) ∧
    w.extractLsb' 108 20 = 0 ∧
    (∀ r, r ≠ a / 256 → (k.updBarrier a n b).spad.read r = k.spad.read r) ∧
    (∀ i, i < 2048 → (i < 8 * (a % 256) ∨ 8 * (a % 256) + 128 ≤ i) →
      ((k.updBarrier a n b).spad.read (a / 256)).getLsbD i = (k.spad.read (a / 256)).getLsbD i)

/-- BINIT joins the scratchpad stores with the barrier of its reload; ARRIVE updates its barrier by one arrival and sb bytes and
goes on, or waits while the phase is full; BWAIT goes on once PHASE differs from p and, in a C section, what the thread posted has
completed (R110); their waits deliver the faults of the engines that
run a macro crediting the barrier (R86). In a queue ARRIVE also waits for the rows that its X queue has in flight, and BWAIT for what the
thread had posted when it was pushed. Each outside the allotment raises ALLOT, in a queue of class Q; a poisoned row raises POISON in a C
section and stops the context in a queue (R213, R214, R216).
Where the manual leaves a point open, the clause is the model's choice (log 13, 16, 65, 75): the queue's words test their guard when they
issue (log 65). -/
def Obligations.BarrierWords : Prop :=
  ∀ (s : State) (x : Ctx) (o : C3),
    let at_ := fun v : Word => v.toNat / 16 * 16
    let uses := fun (a : Nat) (e : Eng) => x.macros.any fun q => q.credits a && q.eng == e
    let phase := fun v : Word => if o.imm.getLsbD 4 then o.imm.extractLsb' 0 4 else v.extractLsb' 0 4
    (CtlRuns s o.g [o.sa] x →
      (∀ p, x.spadAddr (at_ (x.rd o.sa)) = some p → ∃ t, exec (.binit o) s = .next t ∧ Advances s { x with
        ops := x.ops ++ [{ kind := .binit (mkBarrier (o.imm.extractLsb' 0 28) 0 (o.imm.extractLsb' 0 28) 0), loc := .spad p,
                           size := 16, born := s.tick }] } 1 t) ∧
      (x.spadAddr (at_ (x.rd o.sa)) = none → exec (.binit o) s = .next (s.trapP x .allot 0 0 (at_ (x.rd o.sa))))) ∧
    (SyncCtl s o.g [o.sa, o.sb] x →
      (2 ^ 46 ≤ (x.rd o.sb).toNat → exec (.arrive o) s = .next (s.trapP x .illegal)) ∧
      (x.spadAddr (at_ (x.rd o.sa)) = none → ((x.rd o.sb).toNat < 2 ^ 46 →
        exec (.arrive o) s = .next (s.trapP x .allot 0 0 (at_ (x.rd o.sa)))) ∧
        exec (.bwait o) s = .next (s.trapP x .allot 0 0 (at_ (x.rd o.sa)))) ∧
      (∀ p, x.spadAddr (at_ (x.rd o.sa)) = some p →
        (x.ops = [] → p / 256 ∈ s.myCore.spadBad → (x.rd o.sb).toNat < 2 ^ 46 →
          exec (.arrive o) s = .next (s.trapP x .poison 0x10 0 (at_ (x.rd o.sa)))) ∧
        (x.mustWait (.spad p) 16 = false → x.posted = false → p / 256 ∈ s.myCore.spadBad →
          exec (.bwait o) s = .next (s.trapP x .poison 0x10 0 (at_ (x.rd o.sa)))) ∧
        ((x.rd o.sb).toNat < 2 ^ 46 → x.ops = [] → p / 256 ∉ s.myCore.spadBad → barArrivals (s.myCore.barrier p) ≠ 0 → ∃ t, exec (.arrive o) s = .next t ∧
          Advances (s.putCore (s.myCore.updBarrier p 1 ((x.rd o.sb).extractLsb' 0 48))) x 1 t) ∧
        ((x.rd o.sb).toNat < 2 ^ 46 → (x.ops ≠ [] ∨ (p / 256 ∉ s.myCore.spadBad ∧ barArrivals (s.myCore.barrier p) = 0)) →
          (x.trapMode = true ∨ x.faultOn (uses (at_ (x.rd o.sa))) = none →
            ∃ t, exec (.arrive o) s = .next t ∧ Waits s x (.wait (.barRoom (at_ (x.rd o.sa)))) t) ∧
          (∀ r f, x.trapMode = false → x.faultOn (uses (at_ (x.rd o.sa))) = some r → r.fault = some f →
            exec (.arrive o) s = .next (s.takeTrap x f))) ∧
        (x.mustWait (.spad p) 16 = false → x.posted = false → p / 256 ∉ s.myCore.spadBad → barPhase (s.myCore.barrier p) ≠ phase (x.rd o.sb) →
          ∃ t, exec (.bwait o) s = .next t ∧ Advances s x 1 t) ∧
        (x.mustWait (.spad p) 16 = true ∨ x.posted = true ∨
            (p / 256 ∉ s.myCore.spadBad ∧ barPhase (s.myCore.barrier p) = phase (x.rd o.sb)) →
          (x.trapMode = true ∨ x.faultOn (uses (at_ (x.rd o.sa))) = none →
            ∃ t, exec (.bwait o) s = .next t ∧ Waits s x (.wait (.barPhase (at_ (x.rd o.sa)) (phase (x.rd o.sb)))) t) ∧
          (∀ r f, x.trapMode = false → x.faultOn (uses (at_ (x.rd o.sa))) = some r → r.fault = some f →
            exec (.bwait o) s = .next (s.takeTrap x f))))) ∧
    (∀ q k, SyncRuns s o.g x q k →
      (x.spadAddr (at_ q.cap.sa) = none → exec (.arrive o) s = s.trapQ x .allot 0 0 (at_ q.cap.sa)
        ∧ exec (.bwait o) s = s.trapQ x .allot 0 0 (at_ q.cap.sa)) ∧
      (∀ p, x.spadAddr (at_ q.cap.sa) = some p →
        let bad := p / 256 ∈ s.myCore.spadBad
        let settled := k = .x → ∀ f ∈ x.flights, ∀ r l v, f.val ≠ .row r l v
        let stops := fun w : Instr => exec w s = .next (s.ctxFatal s.cur.core s.cur.bank
          (Cause.tcause { code := .poison, cls := .q, detail := 0x10 } k 0))
        (settled → ¬ bad → barArrivals (s.myCore.barrier p) ≠ 0 →
          exec (.arrive o) s = .next ((s.putCore (s.myCore.updBarrier p 1 (q.cap.sb.extractLsb' 0 48))).putCtx
            ((x.qNext k).qTick k))) ∧
        (¬ settled → exec (.arrive o) s = .next (s.putCtx (x.qTick k))) ∧
        (settled → ¬ bad → barArrivals (s.myCore.barrier p) = 0 →
          exec (.arrive o) s = .next (s.putCtx ((x.deliverFor (uses (at_ q.cap.sa))).qIdle k))) ∧
        (settled → bad → stops (.arrive o)) ∧ (bad → stops (.bwait o)) ∧
        (¬ bad → barPhase (s.myCore.barrier p) ≠ phase q.cap.sb → x.postedBefore q = false →
          exec (.bwait o) s = .next (s.putCtx ((x.qNext k).qTick k))) ∧
        (¬ bad → barPhase (s.myCore.barrier p) = phase q.cap.sb ∨ x.postedBefore q = true →
          exec (.bwait o) s = .next (s.putCtx ((x.deliverFor (uses (at_ q.cap.sa))).qIdle k)))))

/-- TWAIT goes on once the counter's value is at least n and what the thread posted, in a queue what it had posted when the word was pushed,
has completed (R110, R255); in a C section it raises ILLEGAL with DETAIL 0x01 for an n above the
last number pushed; ended or not, it delivers a fault of an engine that runs an uncompleted macro of the counter, in a queue by marking
the engine. TREAD gives the last number pushed (R78, R86, R217, R218).
Where the manual leaves a point open, the clause is the model's choice (log 65): in a queue TWAIT tests its guard when it issues. -/
def Obligations.TimelineWords : Prop :=
  (∀ (x : Ctx) (want : Eng → Bool), x.deliverFor want = { x with deliver := (x.deliverFor want).deliver } ∧
    ∀ e, e ∈ (x.deliverFor want).deliver ↔
      e ∈ x.deliver ∨ (want e = true ∧ ∃ r ∈ x.eng.get e, r.fault.isSome = true)) ∧
  ∀ (s : State) (x : Ctx) (o : C3) (c : Ctr), Ctr.ofCode (o.imm.extractLsb' 0 3).toNat = some c →
    let uses := fun e : Eng => x.macros.any fun q => ctrOf (opOf q.w) q.kind == some c && q.eng == e
    (SyncCtl s o.g [o.sa] x →
      let n := (x.rd o.sa).toNat
      ((x.tl.get c).pushed < n → exec (.twait o) s = .next (s.trapP x .illegal 0x01)) ∧
      (n ≤ (x.tl.get c).pushed → n ≤ (x.tl.get c).value → x.posted = false → (x.trapMode = true ∨ x.faultOn uses = none) →
        ∃ t, exec (.twait o) s = .next t ∧ Advances s x 1 t) ∧
      (n ≤ (x.tl.get c).pushed → (x.tl.get c).value < n ∨ x.posted = true → (x.trapMode = true ∨ x.faultOn uses = none) →
        ∃ t, exec (.twait o) s = .next t ∧ Waits s x (.wait (.timeline c n)) t) ∧
      (∀ r f, n ≤ (x.tl.get c).pushed → x.trapMode = false → x.faultOn uses = some r → r.fault = some f →
        exec (.twait o) s = .next (s.takeTrap x f))) ∧
    (∀ q k, SyncRuns s o.g x q k →
      (q.cap.sa.toNat ≤ (x.tl.get c).value → x.postedBefore q = false →
        exec (.twait o) s = .next (s.putCtx (((x.deliverFor uses).qNext k).qTick k))) ∧
      ((x.tl.get c).value < q.cap.sa.toNat ∨ x.postedBefore q = true → exec (.twait o) s = .next (s.putCtx ((x.deliverFor uses).qIdle k)))) ∧
    (CtlRuns s o.g [] x → x.hasRoom o.sd → ∃ t, exec (.tread o) s = .next t ∧
      Advances s (x.withScalar o.sd (BitVec.ofNat 64 (x.tl.get c).pushed) 1) 1 t)

/-- JOIN gives the lowest number that is free in both memberships, LEAVE takes a member out and counts as its arrival, and BARG
arrives once and goes on in a later phase, waits where the member has arrived already, and, where it only joined for the next phase,
arrives once it belongs to the one that stands; a number that is no member raises GROUP with DETAIL 0x02, a full group 0x01, and a
record outside die shared memory PERM with DETAIL 0x01 (R219 to R222). When every member has arrived, PHASE rises by one, MEMBERS
becomes NEXTMEM and ARRIVED is empty, after a JOIN, a LEAVE and an arrival alike; a thread that waits in BARG on the phase that stands, or to belong to the next, when the watchdog expires receives TIMEOUT with the lowest member
that has not arrived (R219, R222, R223). At another die's group each of the three stands in the way of the thread's later operations until
the thread's die has applied its write (R249, R251).
Where the manual leaves a point open, the clause is the model's choice (log 32, 75). -/
def Obligations.GroupWordsPhaseAndWatchdog : Prop :=
  (∀ (s : State) (x : Ctx) (o : C3) (pa i : Nat),
     let s' := s.noteUse x.id.asid i (.mem pa)
     let g := s'.group pa
     let own := some (s.cur.core, x.id.serial)
     let back := fun (u : State) (sd : SReg) (v : Word) (held : Bool) =>
       ({ kind := .deliver sd v u.vc[homeDie pa].toList true, loc := .mem pa, size := 1024, held := held, born := u.tick } : Op)
     let free := fun m : Nat => m < 256 ∧ g.members.getLsbD m = false ∧ g.next.getLsbD m = false
     (GroupRuns s o.g [o.sa] o.sa x pa i →
       ((∀ m, ¬ free m) → exec (.join o) s = .next (s'.trapP x .group 0x01)) ∧
       (∀ m u, free m → (∀ n, n < m → ¬ free n) → x.onlyScalars →
         ((s'.putGroup pa g ({ g with
             next := g.next ||| bit256 m
             members := if g.members = 0 then bit256 m else g.members } : Group).check own).bind
           fun s => s.writeMem (homeDie pa) (pa + 256 + 2 * m) (bytesOf 2 s.cur.core.val) own) = some u →
         (homeDie pa = s.myDie → ∃ t, exec (.join o) s = .next t ∧ HeldWord u x o.sd (BitVec.ofNat 64 m) t) ∧
         (homeDie pa ≠ s.myDie → ∃ t, exec (.join o) s = .next t ∧ Waits u { x with
           ops := [back u o.sd (BitVec.ofNat 64 m) true] } .busy t))) ∧
     (GroupRuns s o.g [o.sa, o.sb] o.sa x pa i →
       let m := (x.rd o.sb).toNat
       (255 < m ∨ g.next.getLsbD m = false → exec (.leave o) s = .next (s'.trapP x .group 0x02)) ∧
       (∀ u, m ≤ 255 → g.next.getLsbD m = true → x.onlyScalars →
         s'.putGroup pa g (if g.members.getLsbD m then ({ g with next := g.next &&& ~~~bit256 m } : Group).arrive m
           else ({ g with next := g.next &&& ~~~bit256 m } : Group).check) own = some u →
         (homeDie pa = s.myDie → ∃ t, exec (.leave o) s = .next t ∧ HeldWord u x 0 0 t) ∧
         (homeDie pa ≠ s.myDie → ∃ t, exec (.leave o) s = .next t ∧ Waits u { x with ops := [back u 0 0 true] } .busy t)) ∧
       (x.barg = none → 255 < m ∨ (g.members.getLsbD m = false ∧ g.next.getLsbD m = false) →
         exec (.barg o) s = .next (s'.trapP x .group 0x02)) ∧
       (∀ u, x.barg = none → m ≤ 255 → g.members.getLsbD m = true → g.arrived.getLsbD m = false →
         s'.putGroup pa g (g.arrive m) own = some u →
         ∃ t, exec (.barg o) s = .next t ∧ Waits u { x with
           barg := some (pa, g.phase.toNat), ops := (if homeDie pa = s.myDie then [] else [back u 0 0 false]) } (.wait (.group pa)) t) ∧
       (x.barg = none → m ≤ 255 → g.members.getLsbD m = true → g.arrived.getLsbD m = true →
         ∃ t, exec (.barg o) s = .next t ∧ Waits s' { x with barg := some (pa, g.phase.toNat) } (.wait (.group pa)) t) ∧
       (x.barg = none → m ≤ 255 → g.members.getLsbD m = false → g.next.getLsbD m = true →
         ∃ t, exec (.barg o) s = .next t ∧ Waits s' { x with barg := some (pa, 2 ^ 32 + g.phase.toNat) } (.wait (.group pa)) t) ∧
       (x.barg = some (pa, 2 ^ 32 + g.phase.toNat) →
         ∃ t, exec (.barg o) s = .next t ∧ Waits s' x (.wait (.group pa)) t) ∧
       (∀ p, x.barg = some (pa, p) → 2 ^ 32 ≤ p → p ≠ 2 ^ 32 + g.phase.toNat →
         (g.arrived.getLsbD m = true →
           ∃ t, exec (.barg o) s = .next t ∧ Waits s' { x with barg := some (pa, g.phase.toNat) } (.wait (.group pa)) t) ∧
         (∀ u, g.arrived.getLsbD m = false → s'.putGroup pa g (g.arrive m) own = some u →
           ∃ t, exec (.barg o) s = .next t ∧ Waits u { x with
             barg := some (pa, g.phase.toNat), ops := (if homeDie pa = s.myDie then [] else [back u 0 0 false]) } (.wait (.group pa)) t)) ∧
       (∀ p, x.barg = some (pa, p) → p = g.phase.toNat → ∃ t, exec (.barg o) s = .next t ∧ Waits s' x (.wait (.group pa)) t) ∧
       (∀ p, x.barg = some (pa, p) → p < 2 ^ 32 → p ≠ g.phase.toNat → s.clockReached s.myDie s.vc[homeDie pa].toList = true →
         ∃ t, exec (.barg o) s = .next t ∧ Advances s' { x with barg := none } 1 t)) ∧
     (CtlRuns s o.g [o.sa, o.sb] x → x.ops.any (·.held) = false → pa < dsmBase →
       s.xlat x ((x.rd o.sa).toNat / 1024 * 1024) .write = .ok (.mem pa) i → ∀ w ∈ [Instr.join o, .leave o, .barg o],
         exec w s = .next (s'.trapP x .perm 1 0 ((x.rd o.sa).toNat / 1024 * 1024)))) ∧
  ((∀ (g : Group) (m : Nat), m < 256 → g.members.getLsbD m = true →
     ((∀ n, n < 256 → n ≠ m → g.members.getLsbD n = true → g.arrived.getLsbD n = true) →
       g.arrive m = { g with phase := g.phase + 1, members := g.next, arrived := 0 }) ∧
     (∀ n, n < 256 → n ≠ m → g.members.getLsbD n = true → g.arrived.getLsbD n = false →
       g.arrive m = { g with arrived := g.arrived ||| BitVec.ofNat 256 (2 ^ m) })) ∧
   (∀ g : Group,
     (g.members ≠ 0 → (∀ n, n < 256 → g.members.getLsbD n = true → g.arrived.getLsbD n = true) →
       g.check = { g with phase := g.phase + 1, members := g.next, arrived := 0 }) ∧
     (g.members = 0 ∨ (∃ n, n < 256 ∧ g.members.getLsbD n = true ∧ g.arrived.getLsbD n = false) → g.check = g)) ∧
   (∀ (s : State) (pa : Nat) (w : Watch), s.watches.find? (·.pa == pa) = some w →
     (s.firm.us < w.since + w.us → exec (.watchdogExpiry pa) s = .next s) ∧
     (w.since + w.us ≤ s.firm.us → ∃ t, exec (.watchdogExpiry pa) s = .next t ∧ SameMemory s t ∧
       (∀ c b x, s.ctxAt c b = some x → ∀ p, x.barg = some (pa, p) → p % 2 ^ 32 = (s.group pa).phase.toNat → ∀ m, m < 256 →
         (s.group pa).members.getLsbD m = true → (s.group pa).arrived.getLsbD m = false →
         (∀ n, n < m → (s.group pa).members.getLsbD n = true → (s.group pa).arrived.getLsbD n = true) →
         t.ctxAt c b = some { x with pendE := x.pendE ++ [{ code := .timeout, cls := .e, event := BitVec.ofNat 64 m }] }) ∧
       (∀ c b x, s.ctxAt c b = some x → (∀ p, x.barg = some (pa, p) → p % 2 ^ 32 ≠ (s.group pa).phase.toNat) →
         t.ctxAt c b = some x))))

/-- SPAWN with a record that passes its checks pushes a copy if its JOINCNT is zero and does nothing if not; JDEC holds the control
core for its result, or joins the operations on their way. A failed record raises ILLEGAL 0x06 or ALLOT 0x0B (R224, R225, R283).
At its completion a SPAWN pushes its copy, and a JDEC that leaves a count of zero makes the record ready; from another die's record the
result is then on its way back; a push to a queue without room holds the operation (R286).
Where the manual leaves a point open, the clause is the model's choice (log 75): JDEC's address is aligned down to the record. -/
def Obligations.ContinuationWords : Prop :=
  (∀ (s : State) (x : Ctx) (o : C3) (l : Loc) (i : Nat), CtlRuns s o.g [o.sa] x → x.tokFull o.tok = false →
    let a := (x.rd o.sa).toNat / 32 * 32
    let s' := s.noteUse x.id.asid i l
    let r : Rec := BitVec.ofNat 256 (natOfBytes (s'.readLoc s.myDie s.myCore l 32))
    let q := s'.copyOf x r
    (s.xlat x a .read = .ok l i → x.mustWait l 32 = false →
      (r.fieldsOk = false → exec (.spawn o) s = .next (s'.trapP x .illegal 0x06)) ∧
      (r.fieldsOk = true → s'.recFits s.cur.core q = false → exec (.spawn o) s = .next (s'.trapP x .allot 0x0B)) ∧
      (r.fieldsOk = true → s'.recFits s.cur.core q = true →
        (r.joincnt ≠ 0 → ∃ t, exec (.spawn o) s = .next t ∧ Advances s' x 1 t) ∧
        (r.joincnt = 0 → ∃ t, exec (.spawn o) s = .next t ∧ Advances s' { (x.tokAdd o.tok) with
          ops := x.ops ++ [{ kind := .spawn q none, rel := true, scope := 2, tok := o.tok, born := s.tick }] } 1 t))) ∧
    (∀ pa, l = .mem pa → s.xlat x a .write = .ok (.mem pa) i → x.ops.any (·.held) = false → x.wen = false →
      let op : Op := { kind := .jdec o.sd, loc := .mem (pa + 16), size := 4, rel := true, scope := 2, tok := o.tok, born := s.tick }
      (pa < dsmBase → exec (.jdec o) s = .next (s'.trapP x .perm 1 0 a)) ∧
      (dsmBase ≤ pa → o.tok = none → o.sd ≠ 0 → ∃ t, exec (.jdec o) s = .next t ∧
        Waits s' { x with ops := x.ops ++ [{ op with held := true }] } .busy t) ∧
      (dsmBase ≤ pa → (o.tok ≠ none ∨ o.sd = 0) → ∃ t, exec (.jdec o) s = .next t ∧
        Advances s' { (x.tokAdd o.tok) with ops := x.ops ++ [op] } 1 t))) ∧
  (∀ (s : State) (c : CoreId) (b : BankId) (x : Ctx) (p : Op) (rest : List Op), s.ctxAt c b = some x → x.ops = p :: rest →
    let y := (landBefore .ctl x.cclk (s.core c) x).2
    (∀ q d, p.kind = .spawn q d → s.pushRoom c q = false → exec (.scalarAccessCompletion c b 0) s = .next s) ∧
    (∀ q d, p.kind = .spawn q d → s.pushRoom c q = true → exec (.scalarAccessCompletion c b 0) s =
      .next ((s.setCtxAt c b (some (y.opDone p))).pushRec c q s.vc[dieOf c].toList)) ∧
    (∀ sd pa, p.kind = .jdec sd → p.loc = .mem pa → s.jdecHeld c y pa = true →
      exec (.scalarAccessCompletion c b 0) s = .next s) ∧
    (∀ sd pa old u, p.kind = .jdec sd → p.loc = .mem pa → s.jdecHeld c y pa = false → homeDie pa = dieOf c →
      s.bankOp (dieOf c) pa p.size (some (c, y.id.serial)) (fun old => old - 1) (fun old => old != 0) = some (old, u) →
      exec (.scalarAccessCompletion c b 0) s = .next ((if old = 1 then u.jdecPush c y pa else u).setCtxAt c b
        (some ((y.opDone p).wr sd (BitVec.ofNat 64 old))))) ∧
    (∀ sd pa old u, p.kind = .jdec sd → p.loc = .mem pa → s.jdecHeld c y pa = false → homeDie pa ≠ dieOf c →
      s.bankOp (dieOf c) pa p.size (some (c, y.id.serial)) (fun old => old - 1) (fun old => old != 0) = some (old, u) →
      let v := if old = 1 then u.jdecPush c y pa else u
      exec (.scalarAccessCompletion c b 0) s = .next (v.setCtxAt c b
        (some (y.opReply p sd (BitVec.ofNat 64 old) v.vc[homeDie pa].toList (old != 0))))))

/-! ### Vector words -/

/-- The floating-point words of R122: each rounds its exact result once, with one draw for each element under SR, a latency of 4, 6,
8 or 16 clk, and FPX on the first active invalid element where FXT asks for it (R121, R122, R123).
Where the manual leaves a point open, the clause is the model's choice (log 16). -/
def Obligations.FloatWords : Prop :=
  let two := fun (f : Rnd → FVal → FVal → FVal) (r : Rnd) (l : List FVal) => ((f r (l.getD 0 .nan) (l.getD 1 .nan), false) : Near)
  let three := fun (f : Rnd → FVal → FVal → FVal → FVal) (r : Rnd) (l : List FVal) =>
    ((f r (l.getD 0 .nan) (l.getD 1 .nan) (l.getD 2 .nan), false) : Near)
  let one := fun (f : FVal → Near) (_ : Rnd) (l : List FVal) => f (l.getD 0 .nan)
  FloatWord .vadd (fun o => [o.va, o.vb]) 4 8 (two fun r a b => a.add r b) ∧
  FloatWord .vsub (fun o => [o.va, o.vb]) 4 8 (two fun r a b => a.add r b.negate) ∧
  FloatWord .vmul (fun o => [o.va, o.vb]) 4 8 (two fun _ a b => a.mul b) ∧
  FloatWord .vfma (fun o => [o.va, o.vb, o.vc]) 4 8 (three fun r a b c => (a.mul b).add r c) ∧
  FloatWord .vfms (fun o => [o.va, o.vb, o.vc]) 4 8 (three fun r a b c => (a.mul b).add r c.negate) ∧
  FloatWord .vfnma (fun o => [o.va, o.vb, o.vc]) 4 8 (three fun r a b c => c.add r (a.mul b).negate) ∧
  FloatWord .vmin (fun o => [o.va, o.vb]) 4 8 (two fun _ a b => a.min b) ∧
  FloatWord .vmax (fun o => [o.va, o.vb]) 4 8 (two fun _ a b => a.max b) ∧
  FloatWord .vrcp (fun o => [o.va]) 6 16 (one recip) ∧ FloatWord .vrsq (fun o => [o.va]) 6 16 (one rsqrt) ∧
  FloatWord .vexp2 (fun o => [o.va]) 6 16 (one exp2) ∧ FloatWord .vlog2 (fun o => [o.va]) 6 16 (one log2F)

/-- The integer words: exact results wrapped or clamped, products' high halves, shifts by an immediate or by the low bits of vb's
element, and VISAT's clamp to B bits (R121, R126). -/
def Obligations.IntegerWords : Prop :=
  let two := fun (f : Int → Int → Int) (_ : V4) (l : List Int) => f (l.getD 0 0) (l.getD 1 0)
  let shift := fun o : V4 => if o.mods.getLsbD 1 then [o.va] else [o.va, o.vb]
  let amount := fun (o : V4) (l : List Int) =>
    if o.mods.getLsbD 1 then (o.mods.extractLsb' 2 6).toNat else (l.getD 1 0 % (o.ty.width : Int)).toNat
  let sat := fun o : V4 => o.mods.getLsbD 0
  let top := fun o : V4 => ((o.mods.extractLsb' 2 6).toNat : Nat)
  IntWord .viadd (fun o => [o.va, o.vb]) sat (two fun a b => a + b) ∧
  IntWord .visub (fun o => [o.va, o.vb]) sat (two fun a b => a - b) ∧
  IntWord .vimul (fun o => [o.va, o.vb]) sat (two fun a b => a * b) ∧
  IntWord .vimulh (fun o => [o.va, o.vb]) (fun _ => false) (fun o l => l.getD 0 0 * l.getD 1 0 / 2 ^ o.ty.width) ∧
  IntWord .vimad (fun o => [o.va, o.vb, o.vc]) sat (fun _ l => l.getD 0 0 * l.getD 1 0 + l.getD 2 0) ∧
  IntWord .vimin (fun o => [o.va, o.vb]) (fun _ => false) (two fun a b => min a b) ∧
  IntWord .vimax (fun o => [o.va, o.vb]) (fun _ => false) (two fun a b => max a b) ∧
  IntWord .vishl shift sat (fun o l => l.getD 0 0 * 2 ^ amount o l) ∧
  IntWord .vishr shift (fun _ => false) (fun o l => l.getD 0 0 / 2 ^ amount o l) ∧
  IntWord .viabs (fun o => [o.va]) sat (fun _ l => |l.getD 0 0|) ∧
  IntWord .visat (fun o => [o.va]) (fun _ => false) (fun o l =>
    if o.ty.isSigned then max (-2 ^ top o) (min (2 ^ top o - 1) (l.getD 0 0)) else max 0 (min (2 ^ (top o + 1) - 1) (l.getD 0 0)))

/-- VABS and VNEG change only the sign bit; VSEL takes an element of va or vb by its predicate bit; VLOP3 looks each bit up in its
table; the funnel shifts, VPOPC and VCLZ; VCMP and VICMP write the predicate bits of the lanes whose guard passes, under each
condition of R25, −0.0 equal to +0.0 and a NaN unordered (R25, R122, R124, R125, R127, R128, R129). -/
def Obligations.SelectCompareAndBitWords : Prop :=
  let wide := fun (lat lat64 : Nat) (o : V4) => if o.ty = .f64 then lat64 else lat
  let f64 := fun o : V4 => o.ty == .f64
  let no := fun _ : V4 => ([] : List PReg)
  ElemWord .vabs (fun o => [o.va]) no (fun o => o.ty.width) (wide 4 8) f64
    (fun s x o j => s.elem x o.va o.ty.width j % 2 ^ (o.ty.width - 1)) ∧
  ElemWord .vneg (fun o => [o.va]) no (fun o => o.ty.width) (wide 4 8) f64
    (fun s x o j => s.elem x o.va o.ty.width j ^^^ 2 ^ (o.ty.width - 1)) ∧
  ElemWord .vsel (fun o => [o.va, o.vb]) (fun o => [o.vc.extractLsb' 0 4]) (fun o => o.ty.width) (wide 4 8) f64
    (fun s x o j => s.elem x (if (x.pred (o.vc.extractLsb' 0 4)).getLsbD (laneOf o.ty.width j) then o.va else o.vb) o.ty.width j) ∧
  ElemWord .vlop3 (fun o => [o.va, o.vb, o.vc]) no (fun _ => 32) (fun _ => 1) (fun _ => false)
    (fun s x o j => ofElems 1 ((List.range 32).map fun i => ((o.mods.extractLsb' 15 8).getLsbD
      (4 * ((s.elem x o.va 32 j).testBit i).toNat + 2 * ((s.elem x o.vb 32 j).testBit i).toNat
        + ((s.elem x o.vc 32 j).testBit i).toNat)).toNat)) ∧
  (let srcs := fun o : V4 => if o.mods.getLsbD 1 then [o.va, o.vb] else [o.va, o.vb, o.vc]
   let k := fun (s : State) (x : Ctx) (o : V4) (j : Nat) =>
     if o.mods.getLsbD 1 then (o.mods.extractLsb' 2 5).toNat else s.elem x o.vc 32 j % 32
   let t := fun (s : State) (x : Ctx) (o : V4) (j : Nat) => s.elem x o.va 32 j * 2 ^ 32 + s.elem x o.vb 32 j
   ElemWord .vfshl srcs no (fun _ => 32) (fun _ => 1) (fun _ => false) (fun s x o j => t s x o j * 2 ^ k s x o j / 2 ^ 32) ∧
   ElemWord .vfshr srcs no (fun _ => 32) (fun _ => 1) (fun _ => false) (fun s x o j => t s x o j / 2 ^ k s x o j)) ∧
  ElemWord .vpopc (fun o => [o.va]) no (fun o => o.ty.width) (fun _ => 1) (fun _ => false)
    (fun s x o j => ((List.range o.ty.width).filter fun i => (s.elem x o.va o.ty.width j).testBit i).length) ∧
  ElemWord .vclz (fun o => [o.va]) no (fun o => o.ty.width) (fun _ => 1) (fun _ => false)
    (fun s x o j => if s.elem x o.va o.ty.width j = 0 then o.ty.width
      else o.ty.width - 1 - (s.elem x o.va o.ty.width j).log2) ∧
  (∀ (s : State) (x : Ctx) (q : QWord) (o : V4) (w : Instr) (cond : Nat → Nat → Bool), WellFormed w →
    let cc := (o.mods.extractLsb' 19 4).toNat
    let floats := fun (p r : FVal) =>
      match cc, FVal.cmp p r with
      | 0x0, some c => c == 0
      | 0x1, some c => c != 0
      | 0x2, some c => decide (c < 0)
      | 0x3, some c => decide (c ≤ 0)
      | 0x4, some c => decide (0 < c)
      | 0x5, some c => decide (0 ≤ c)
      | 0xB, some _ => true
      | 0x1, none => true
      | 0xA, none => true
      | _, _ => false
    let ints := fun (a b : Nat) =>
      let p := BitVec.ofNat o.ty.width a
      let r := BitVec.ofNat o.ty.width b
      match cc with
      | 0x0 => p == r | 0x1 => p != r | 0x2 => p.slt r | 0x3 => p.sle r | 0x4 => r.slt p | 0x5 => r.sle p
      | 0x6 => p.ult r | 0x7 => p.ule r | 0x8 => r.ult p | _ => r.ule p
    (w = .vcmp o ∧ (∃ fmt, o.ty.ffmt? = some fmt ∧ cond = fun a b => floats (decodeF fmt a) (decodeF fmt b)) ∨
      w = .vicmp o ∧ cond = ints) →
    XRuns s o.g [o.va, o.vb] [] [] x q → x.room .vec = true →
    let b := o.ty.width
    let elem := fun i : Nat => if b = 64 then i / 2 else i * (32 / b) + (o.mods.extractLsb' 17 2).toNat
    ∃ v, XResult w s x q (if w = .vcmp o then wide 4 8 o else 1) (if w = .vcmp o then o.ty == .f64 else false) v ∧
      WritesPred (o.vd.extractLsb' 0 4) (fun i => x.guardBit o.g (if b = 64 then i / 2 * 2 else i))
        (fun i => cond (s.elem x o.va b (elem i)) (s.elem x o.vb b (elem i))) v) ∧
  (∀ o : V4, (∀ w ∈ [Instr.vlop3 o, .vfshl o, .vfshr o], WellFormed w → o.ty = .f64 ∧ o.rnd = .rne) ∧
    (WellFormed (.vlop3 o) → o.mods.extractLsb' 0 15 = 0) ∧
    (∀ w ∈ [Instr.vfshl o, .vfshr o], WellFormed w → o.mods.getLsbD 1 = true → o.vc = 0) ∧
    (∀ w ∈ [Instr.vpopc o, .vclz o], WellFormed w → o.ty.isInt = true) ∧
    (let cc := (o.mods.extractLsb' 19 4).toNat
     (WellFormed (.vcmp o) → cc < 6 ∨ cc = 0xA ∨ cc = 0xB) ∧ (WellFormed (.vicmp o) → cc < 10))) ∧
  -- the order of values: −1, 0 or 1, and none where a value is a NaN
  (let value := fun (n : Bool) (m : Nat) (e : Int) => (if n then -1 else 1) * (m : ℚ) * (2 : ℚ) ^ e
   (∀ a : FVal, FVal.cmp .nan a = none ∧ FVal.cmp a .nan = none) ∧
   (∀ n m e p k f, FVal.cmp (.fin n m e) (.fin p k f) =
     some (if value n m e < value p k f then -1 else if value p k f < value n m e then 1 else 0)) ∧
   (∀ n p m e, FVal.cmp (.inf n) (.fin p m e) = some (if n then -1 else 1) ∧ FVal.cmp (.fin p m e) (.inf n) = some (if n then 1 else -1) ∧
     FVal.cmp (.inf n) (.inf p) = some (if n = p then 0 else if n then -1 else 1)))

/-- VCVT, VPACK, VUNPK, VQNT and VDQNT: where each converted element is read and written, and its value (R54, R56, R130 to R134).
Where the manual leaves a point open, the clause is the model's choice (log 12, 26). -/
def Obligations.ConversionWords : Prop :=
  ∀ (s : State) (x : Ctx) (q : QWord) (o : V4) (t : ElemType), ElemType.ofCode (o.mods.extractLsb' 17 6).toNat = some t →
    x.room .vec = true →
    let ws := t.width
    let wd := o.ty.width
    let n := 1024 / max ws wd
    let part := (o.mods.extractLsb' 13 4).toNat
    let src0 := if ws < wd then part * n else 0
    let dst0 := if wd < ws then part * n else 0
    let int := fun e : Nat => if t.isSigned then (BitVec.ofNat ws e).toInt else (e : Int)
    (WellFormed (.vcvt o) → XRuns s o.g [o.va] [] [] x q → ∃ v, XResult (.vcvt o) s (x.withDraws q o.rnd n) q 3 false v ∧
      WritesElems x o.vd wd (fun j => decide (dst0 ≤ j) && decide (j < dst0 + n) && x.active o.g wd j)
        (fun j => encodeElem o.ty o.rnd (o.mods.getLsbD 0) (drawn o.rnd (x.vecGen q) (j - dst0 + 1)).toNat t.isAnyInt
          (decodeElem t (q.f4x (o.mods.extractLsb' 8 5).toNat) (s.elem x o.va ws (src0 + (j - dst0))))) v) ∧
    (WellFormed (.vpack o) → XRuns s o.g [o.va, o.vb] [] [] x q → ∃ v, XResult (.vpack o) s x q 3 false v ∧
      WritesElems x o.vd wd (x.active o.g wd) (fun j =>
        encodeInt o.ty (o.mods.getLsbD 0) (int (if j < n then s.elem x o.va ws j else s.elem x o.vb ws (j - n)))) v) ∧
    (WellFormed (.vunpk o) → XRuns s o.g [o.va] [] [] x q → ∃ v, XResult (.vunpk o) s x q 3 false v ∧
      WritesElems x o.vd wd (x.active o.g wd) (fun j => (int (s.elem x o.va ws (src0 + j)) % 2 ^ wd).toNat) v) ∧
    (WellFormed (.vqnt o) → o.ty.isDB = false → XRuns s o.g [o.va, o.vb] [] [] x q →
      let scale := decodeF bf16F ((s.vread x o.vb).extractLsb' 0 16).toNat
      let zp := ((s.vread x o.vb).extractLsb' 16 4).toNat
      ∃ v, XResult (.vqnt o) s (x.withDraws q o.rnd 32) q 3 false v ∧
        WritesElems x o.vd 4 (fun j => decide (32 * part ≤ j) && decide (j < 32 * part + 32) && x.active o.g 4 j)
          (fun j => quantise o.ty o.rnd scale zp (drawn o.rnd (x.vecGen q) (j - 32 * part + 1)).toNat
            (decodeF f32F (s.elem x o.va 32 (j - 32 * part)))) v) ∧
    (WellFormed (.vqnt o) → o.ty.isDB = true → XRuns s none [o.va] [] [] x q →
      let r := encodeDB o.ty o.rnd (o.mods.getLsbD 0) (x.vecGen q) ((List.range 32).map fun k => decodeF f32F (s.elem x o.va 32 k))
      ∃ v, XResult (.vqnt o) s (x.setVecGen q r.2.2) q 3 false v ∧
        WritesBits x o.vd 1024 (ofElems wd r.1 + r.2.1 % 2 ^ 16 * 2 ^ (32 * wd)) v) ∧
    (WellFormed (.vdqnt o) → t.isDB = true → XRuns s o.g [o.va] [] [] x q →
      ∃ v, XResult (.vdqnt o) s x q 3 false v ∧ WritesElems x o.vd 32 (x.active o.g 32) (fun k => encodeF f32F .rne false 0
        (decodeDB t ((s.vread x o.va).toNat / 2 ^ (32 * ws) % 2 ^ 16) (s.elem x o.va ws k))) v) ∧
    (WellFormed (.vdqnt o) → t.isDB = false → XRuns s o.g [o.va, o.vb] [] [] x q →
      let scale := decodeF bf16F ((s.vread x o.vb).extractLsb' 0 16).toNat
      let zp := (((s.vread x o.vb).extractLsb' 16 4).toNat : Int)
      ∃ v, XResult (.vdqnt o) s x q 3 false v ∧ WritesElems x o.vd 32 (x.active o.g 32) (fun k =>
        let e := s.elem x o.va 4 (32 * part + k)
        encodeF f32F .rne false 0 ((FVal.ofInt (if t = .n4 then (e : Int) - zp else (BitVec.ofNat 4 e).toInt)).mul scale)) v)

/-- The permutes and moves: VPERMB, VPERML, VBCAST, VROT, VRMRG, VINSL, VEXTL and VIOTA, with the fields that must be
zero (R135 to R139).
Where the manual leaves a point open, the clause is the model's choice: VIOTA is well-formed whatever its guard (log 65), and a NaN that
VBCAST widens to F64 becomes the canonical NaN (log 74). -/
def Obligations.PermuteWords : Prop :=
  let byte := fun (s : State) (x : Ctx) (a b : VReg) (n : Nat) => if n < 128 then s.elem x a 8 n else s.elem x b 8 (n - 128)
  let lane := fun (s : State) (x : Ctx) (a b : VReg) (n : Nat) => if n < 32 then s.elem x a 32 n else s.elem x b 32 (n - 32)
  (∀ o : V4, (∀ w ∈ [Instr.vpermb o, .vperml o, .vrot o, .vrmrg o], WellFormed w → o.ty = .f64 ∧ o.rnd = .rne) ∧
    (∀ w ∈ [Instr.vrot o, .vrmrg o], WellFormed w → o.mods.getLsbD 1 = true → o.vc = 0) ∧
    (WellFormed (.viota o) ↔ o.va = 0 ∧ o.vb = 0 ∧ o.vc = 0 ∧ o.mods = 0 ∧ o.tok = none ∧ o.rnd = .rne ∧ (o.ty.isInt = true ∨ o.ty = .f32))) ∧
  (∀ o : VS, WellFormed (.vbcast o) → o.va = 0 ∧ o.imm.extractLsb' 33 9 = 0 ∧ (o.imm.getLsbD 32 = true → o.imm.extractLsb' 0 32 = 0) ∧
    (o.imm.getLsbD 32 = false → o.sa = 0) ∧ ∃ t, ElemType.ofCode (o.imm.extractLsb' 42 6).toNat = some t ∧ t.isDB = false) ∧
  (∀ (s : State) (x : Ctx) (q : QWord) (o : V4), x.room .vec = true →
    let amount := if o.mods.getLsbD 1 then (o.mods.extractLsb' 2 7).toNat else ((s.vread x o.vc).extractLsb' 0 7).toNat
    let reg := if o.mods.getLsbD 1 then ([] : List VReg) else [o.vc]
    (XRuns s o.g [o.va, o.vb, o.vc] [] [] x q →
      (∃ v, XResult (.vpermb o) s x q 2 false v ∧
        WritesElems x o.vd 8 (x.active o.g 8) (fun j => byte s x o.va o.vb (s.elem x o.vc 8 j)) v) ∧
      (∃ v, XResult (.vperml o) s x q 2 false v ∧ WritesElems x o.vd 32 (x.active o.g 32)
        (fun j => if (s.elem x o.vc 32 j).testBit 6 then 0 else lane s x o.va o.vb (s.elem x o.vc 32 j % 64)) v)) ∧
    (XRuns s o.g (o.va :: reg) [] [] x q → ∃ v, XResult (.vrot o) s x q 2 false v ∧
      WritesElems x o.vd 8 (x.active o.g 8) (fun j => s.elem x o.va 8 ((j + amount) % 128)) v) ∧
    (XRuns s o.g (o.va :: o.vb :: reg) [] [] x q → ∃ v, XResult (.vrmrg o) s x q 2 false v ∧
      WritesElems x o.vd 8 (x.active o.g 8) (fun j => byte s x o.va o.vb (j + amount)) v) ∧
    (WellFormed (.viota o) → XRuns s o.g [] [] [] x q → ∃ v, XResult (.viota o) s x q 2 false v ∧
      WritesElems x o.vd o.ty.width (x.active o.g o.ty.width)
        (fun j => if o.ty = .f32 then encodeF f32F .rne false 0 (.fin false j 0) else j) v)) ∧
  (∀ (s : State) (x : Ctx) (q : QWord) (o : VS) (t : ElemType), ElemType.ofCode (o.imm.extractLsb' 42 6).toNat = some t →
    x.room .vec = true →
    let b := t.width
    let imm := o.imm.extractLsb' 0 32
    let j := imm.toNat
    (WellFormed (.vbcast o) → XRuns s o.g [] [] [] x q → ∃ v, XResult (.vbcast o) s x q 2 false v ∧
      WritesElems x o.vd b (x.active o.g b) (fun _ =>
        if o.imm.getLsbD 32 then q.cap.sa.toNat
        else if t = .f64 then encodeF f64F .rne false 0 (decodeF f32F imm.toNat)
        else if t = .i64 then (imm.signExtend 64).toNat else imm.toNat) v) ∧
    (WellFormed (.vinsl o) → XRuns s o.g [] [] [] x q → ∃ v, XResult (.vinsl o) s x q 2 false v ∧
      WritesElems x o.vd b (fun k => k == j && x.active o.g b k) (fun _ => q.cap.sa.toNat) v) ∧
    (WellFormed (.vextl o) → XRuns s o.g [o.va] [] [] x q →
      (x.active o.g b j = true → XResult (.vextl o) s x q 2 false (.scalar o.sa
        (if t.isSigned then (BitVec.ofNat b (s.elem x o.va b j)).signExtend 64 else BitVec.ofNat 64 (s.elem x o.va b j)))) ∧
      (x.active o.g b j = false → exec (.vextl o) s = .next (s.putCtx (x.xDone false 0)))))

/-- Reductions over the participating elements (the others stand for the identity), the sorting networks and the set words. VBSTEP
exchanges pairs by R142's rule; VBSORT gives its pairs in the order of their keys; VBMERGE gives the pairs of both, in order where
both are in order; VMERGEK gives the first 16; VISECT and VUNION give the intersection and the union of two sets whose keys rise,
padded (R66, R70, R140 to R144).
Where the manual leaves a point open, the clause is the model's choice (log 31). -/
def Obligations.ReductionAndSortWords : Prop :=
  ∀ (s : State) (x : Ctx) (q : QWord) (o : V4), x.room .vec = true →
    let b := o.ty.width
    let part := fun id : Nat => (List.range (1024 / b)).map fun j => if x.active o.g b j then s.elem x o.va b j else id
    let id0 := if o.ty.ffmt?.isSome then 2 ^ (b - 1) else 0
    let desc := o.mods.getLsbD 0
    let pairs := fun r : VReg => (List.range 16).map fun i => (s.elem x r 32 (2 * i), s.elem x r 32 (2 * i + 1))
    let flat := fun ps : List (Nat × Nat) => ofElems 32 (ps.flatMap fun p => [p.1, p.2])
    let both := fun n : Nat => FlightVal.pair (x.phys o.vd.toNat) (x.phys (o.vd.toNat + 1)) (BitVec.allOnes 64) (BitVec.ofNat 2048 n)
    (WellFormed (.vrsum o) → XRuns s o.g [o.va] [] [] x q → ∃ v, XResult (.vrsum o) s x q 6 false v ∧
      WritesBits x o.vd b (treeSum o.ty (1024 / b).log2 (part id0)) v) ∧
    (WellFormed (.vscan o) → XRuns s o.g [o.va] [] [] x q → ∃ v, XResult (.vscan o) s x q 6 false v ∧
      WritesBits x o.vd 1024 (ofElems b (scanSteps o.ty 1 (1024 / b).log2 (part id0))) v) ∧
    (∀ fmt, o.ty.ffmt? = some fmt → XRuns s o.g [o.va] [] [] x q →
      (∃ v, XResult (.vrmax o) s x q 6 false v ∧ WritesBits x o.vd b (encodeF fmt .rne false 0
        (((part (infBits fmt true)).map (decodeF fmt)).foldl FVal.max (.inf true))) v) ∧
      (∃ v, XResult (.vrmin o) s x q 6 false v ∧ WritesBits x o.vd b (encodeF fmt .rne false 0
        (((part (infBits fmt false)).map (decodeF fmt)).foldl FVal.min (.inf false))) v) ∧
      (∃ v r, XResult (.vrargmax o) s x q 6 false v ∧ WritesBits x o.vd (max b 32 + 32) (r.1 + r.2 * 2 ^ max b 32) v ∧
        r = (argmax fmt (((List.range (1024 / b)).filter (x.active o.g b)).map fun j => (s.elem x o.va b j, j))).getD
          (infBits fmt true, 2 ^ 32 - 1))) ∧
    let key : Nat × Nat → Nat := fun p => match o.ty with
      | .i32 => p.1 ^^^ 2 ^ 31
      | .f32 => if p.1.testBit 31 then 2 ^ 32 - 1 - p.1 else p.1 + 2 ^ 31
      | _ => p.1
    let inOrder := fun ps : List (Nat × Nat) => ps.Pairwise fun p r => if desc then key r ≤ key p else key p ≤ key r
    (XRuns s none [o.va] [] [] x q →
      (let ps := bitonicSort o.ty desc (pairs o.va)
       (∃ v, XResult (.vbsort o) s x q 20 false v ∧ WritesBits x o.vd 1024 (flat ps) v) ∧ ps.Perm (pairs o.va) ∧ inOrder ps) ∧
      (let j := 2 ^ (o.mods.extractLsb' 1 2).toNat
       let k := 2 ^ ((o.mods.extractLsb' 3 2).toNat + 1)
       let at_ := fun i : Nat => (pairs o.va).getD i (0, 0)
       ∃ v ps, XResult (.vbstep o) s x q 2 false v ∧ WritesBits x o.vd 1024 (flat ps) v ∧ ps.length = 16 ∧
         ∀ i, i < 16 → let l := i ^^^ j
           i < l → (ps.getD i (0, 0), ps.getD l (0, 0)) =
             let up : Bool := (i &&& k == 0) != desc
             if (up = true ∧ key (at_ l) < key (at_ i)) ∨ (up = false ∧ key (at_ i) < key (at_ l)) then (at_ l, at_ i)
             else (at_ i, at_ l))) ∧
    (XRuns s none [o.va, o.vb] [] [] x q →
      let merged := bitonicMerge o.ty desc (pairs o.va) (pairs o.vb)
      let set := fun r : VReg => (pairs r).takeWhile fun p => p.1 != 2 ^ 32 - 1
      let comb := (o.mods.extractLsb' 0 2).toNat
      let pad := fun (n : Nat) (ps : List (Nat × Nat)) => (ps ++ List.replicate n (2 ^ 32 - 1, 0)).take n
      let ascends := fun ps : List (Nat × Nat) => ps.Pairwise fun p r => p.1 < r.1
      let joined := fun v w : Nat => match comb with
        | 0 => v
        | 1 => w
        | 2 => (v + w) % 2 ^ 32
        | _ => encodeF f32F .rne false 0 ((decodeF f32F v).add .rne (decodeF f32F w))
      let common := fun p : Nat × Nat => ∃ v w, (p.1, v) ∈ set o.va ∧ (p.1, w) ∈ set o.vb ∧ p.2 = joined v w
      merged.Perm (pairs o.va ++ pairs o.vb) ∧ (inOrder (pairs o.va) → inOrder (pairs o.vb) → inOrder merged) ∧
      (ascends (set o.va) → ascends (set o.vb) →
        (let ps := mergeSets false comb 32 (set o.va) (set o.vb)
         ascends ps ∧ ps.length ≤ 16 ∧ ∀ p, p ∈ ps ↔ common p) ∧
        (let ps := mergeSets true comb 32 (set o.va) (set o.vb)
         ascends ps ∧ ps.length ≤ 32 ∧ ∀ p, p ∈ ps ↔ common p ∨ (p ∈ set o.va ∧ ∀ w, (p.1, w) ∉ set o.vb) ∨
           (p ∈ set o.vb ∧ ∀ v, (p.1, v) ∉ set o.va))) ∧
      XResult (.vbmerge o) s x q 10 false (both (flat merged)) ∧
      (∃ v, XResult (.vmergek o) s x q 10 false v ∧ WritesBits x o.vd 1024 (flat (merged.take 16)) v) ∧
      (∃ v, XResult (.visect o) s x q 10 false v ∧ WritesBits x o.vd 1024
        (flat (pad 16 (mergeSets false comb 32 (set o.va) (set o.vb)))) v) ∧
      XResult (.vunion o) s x q 10 false (both (flat (pad 32 (mergeSets true comb 32 (set o.va) (set o.vb))))))

/-- XCLR, XADD, XACC, XRND and XMOV on the exact accumulators, and what a landing term adds (R67, R145, R146).
Where the manual leaves a point open, the clause is the model's choice: what XCLR drops (log 31), and what XRND gives where the rounded
sum is out of range under RTZ, RDN and RUP (log 71). -/
def Obligations.ExactWords : Prop :=
  (∀ (s : State) (x : Ctx) (q : QWord) (o : V4),
    let d : EReg := o.vd.extractLsb' 0 2
    let a : EReg := o.va.extractLsb' 0 2
    let f := fun (r : VReg) (j : Nat) => decodeF f64F (s.elem x r 64 j)
    let terms := fun v : Nat → FVal => FlightVal.terms d ((List.range 16).map fun j => if x.active o.g 64 j then termOf (v j) else {})
    (XRuns s o.g [] [] [] x q → x.guardOk o.g = true →
      exec (.xclr o) s = .next (s.putCtx ((Ctx.setExact { x with
        flights := x.flights.filter fun f => !f.onExact d (x.xclk + 1) } d 0).xDone false 0))) ∧
    (x.room .vec = true → XRuns s o.g [o.va] [] [] x q → XResult (.xadd o) s x q 2 true (terms (f o.va))) ∧
    (x.room .vec = true → XRuns s o.g [o.va, o.vb] [] [] x q →
      XResult (.xacc o) s x q 2 true (terms fun j => (f o.va j).mul (f o.vb j))) ∧
    (x.room .vec = true → XRuns s o.g [] [] [a] x q →
      (∃ v, XResult (.xrnd o) s (x.withDraws q o.rnd 1) q 8 false v ∧
        WritesElems x o.vd 64 (fun j => j == 0 && x.active o.g 64 0)
          (fun _ => roundExact o.rnd (drawn o.rnd (x.vecGen q) 1).toNat (x.exact a)) v) ∧
      (x.guardOk o.g = true → XResult (.xmov o) s x q 2 false (.exact d (x.exact a))))) ∧
  (∀ (e : BitVec 4352) (t : ETerm), t.cls = 0 → -2148 ≤ t.ex →
    let v := (e.extractLsb' 0 4348).toInt + (if t.neg then -1 else 1) * ((t.mag * 2 ^ (t.ex + 2148).toNat : Nat) : Int)
    (-2 ^ 4347 ≤ v ∧ v < 2 ^ 4347) →
      ((addTerms e [t]).extractLsb' 0 4348).toInt = v ∧ (addTerms e [t]).extractLsb' 4348 4 = e.extractLsb' 4348 4)

/-- VLD, VST, VLDH and VSTH: the row, the lanes and the registers, with the guard on each lane; outside the allotment they raise ALLOT,
past a slot's rows HOVF with DETAIL 1; under PENDS a load of a row with a store in flight raises PEND; one that finds twelve results in
flight waits before all of this, and reads its row in the clock in which it issues (R81); a slot that is not there is
waited for, and the wait delivers the faults of the engines that run a producer into the handle, or a consumer from it (R86). HADVC and HADVP move a handle's ring, or raise
HUND and HOVF, FILLED in its 9 bits; HADVP waits for the rows in flight (R82, R147 to R150, R158, R238).
Where the manual leaves a point open, the clause is the model's choice (log 16, 40, 52); that HADVC and HADVP test bit 0 of their guard is
log 65. -/
def Obligations.VectorMemoryWords : Prop :=
  ∀ (s : State) (x : Ctx) (q : QWord) (o : VM),
    let part := (o.mods.extractLsb' 0 2).toNat
    let step : Word := BitVec.ofNat 64 s.cur.rep * (o.mods.extractLsb' 3 16).signExtend 64
    let row : Word := q.cap.sa >>> 8 + o.off.signExtend 64 + step + (if o.mods.getLsbD 19 then x.nestDisp else 0)
    let regs := if part = 0 then [o.v, o.v + 1] else [o.v]
    let h := x.handle (o.base.extractLsb' 0 4)
    let slot := (o.mods.extractLsb' 24 8).toNat
    let off := (o.off.signExtend 64 + step).toInt
    let hreg : HReg := o.base.extractLsb' 0 4
    let waitsFor := fun (bit lo : Nat) (e : Eng) => x.macros.any fun m =>
      (isEM m.w && m.w.extractLsb' bit 1 == 1 && m.w.extractLsb' lo 4 == hreg) && m.eng == e
    let lane := fun i : Nat => (part = 0 ∨ (part = 2 ∧ i < 32) ∨ (part = 3 ∧ 32 ≤ i)) ∧ x.guardBit o.g (i % 32) = true
    let loads := fun (w : Instr) (n : Option HReg) (r p : Nat) => (p ∉ s.myCore.spadBad → x.pends = true → x.rowPending r = true →
      exec w s = s.trapQ x .pend 0 0 (r * 256)) ∧
      (part ≠ 1 → p ∉ s.myCore.spadBad → (x.pends = true → x.rowPending r = false) →
      ∃ v, exec w s = .next (s.putCtx ((x.withResult q 6 v n).xDone false (p / 256))) ∧
        (part = 0 → ∃ m, v = .pair (x.phys o.v.toNat) (x.phys (o.v.toNat + 1)) m (s.myCore.spad.read p) ∧
          ∀ i, i < 64 → (m.getLsbD i = true ↔ lane i)) ∧
        (part ≠ 0 → WritesElems x o.v 32 (x.active o.g 32)
          (fun j => elemOf 32 (s.myCore.spad.read p) (j + if part = 3 then 32 else 0)) v))
    let stores := fun (w : Instr) (n : Option HReg) (r p : Nat) => part ≠ 1 →
      ∃ m v, exec w s = .next (s.putCtx ((x.withResult q 3 (.row r m v) n).xDone false (p / 256))) ∧
        (∀ i, i < 64 → (m.getLsbD i = true ↔ lane i)) ∧
        ∀ i, i < 64 → lane i → elemOf 32 v i =
          if part = 0 ∧ 32 ≤ i then s.elem x (o.v + 1) 32 (i - 32) else s.elem x o.v 32 (i % 32)
    (s.ctx? = some x → x.room .vec = false → ∀ w ∈ [Instr.vld o, .vst o, .vldh o, .vsth o], exec w s = .next (s.putCtx x.xTick)) ∧
    (XRuns s o.g [] [] [] x q → x.room .vec = true →
      (∀ p, row.toNat < 8192 → x.spadRow row.toNat = some p → x.splitPair (p / 256) = false → loads (.vld o) none row.toNat p) ∧
      (∀ p, row.toNat < 8192 → x.spadRow row.toNat = some p → x.splitPair (p / 256) = true → exec (.vld o) s = .next (s.putCtx x.xTick)) ∧
      (8192 ≤ row.toNat ∨ x.spadRow row.toNat = none → exec (.vld o) s = s.trapQ x .allot 0 0 (row * 256).toNat) ∧
      (off < 0 ∨ (h.rps : Int) ≤ off → exec (.vldh o) s = s.trapQ x .hovf 1) ∧
      (0 ≤ off → off < h.rps → h.filled ≤ slot →
        exec (.vldh o) s = .next (s.putCtx (x.deliverFor (waitsFor 44 49)).xWait)) ∧
      (∀ p, 0 ≤ off → off < h.rps → slot < h.filled →
        let r := h.bank * 256 + h.row + (h.head + slot) % h.slots * h.rps + off.toNat
        r < 8192 → x.spadRow r = some p → x.splitPair (p / 256) = false → loads (.vldh o) (some hreg) r p)) ∧
    (XRuns s o.g regs [] [] x q → x.room .vec = true →
      (∀ p, row.toNat < 8192 → x.spadRow row.toNat = some p → x.splitPair (p / 256) = false → stores (.vst o) none row.toNat p) ∧
      (∀ p, row.toNat < 8192 → x.spadRow row.toNat = some p → x.splitPair (p / 256) = true → exec (.vst o) s = .next (s.putCtx x.xTick)) ∧
      (8192 ≤ row.toNat ∨ x.spadRow row.toNat = none → exec (.vst o) s = s.trapQ x .allot 0 0 (row * 256).toNat) ∧
      (∀ p, 0 ≤ off → off < h.rps → slot < h.slots - h.filled →
        let r := h.bank * 256 + h.row + (h.tail + slot) % h.slots * h.rps + off.toNat
        r < 8192 → x.spadRow r = some p → x.splitPair (p / 256) = false → stores (.vsth o) (some hreg) r p) ∧
      (off < 0 ∨ (h.rps : Int) ≤ off → exec (.vsth o) s = s.trapQ x .hovf 1) ∧
      (0 ≤ off → off < h.rps → h.slots - h.filled ≤ slot →
        exec (.vsth o) s = .next (s.putCtx (x.deliverFor (waitsFor 43 45)).xWait))) ∧
    (XRuns s o.g [] [] [] x q → x.guardOk o.g = true →
      let n := o.off.toNat
      (n ≤ h.filled → exec (.hadvc o) s = .next (s.putCtx ((x.setHandle (o.base.extractLsb' 0 4)
        { h with head := (h.head + n) % h.slots, filled := (h.filled + (512 - n)) % 512 }).xDone false 0))) ∧
      (h.filled < n → exec (.hadvc o) s = s.trapQ x .hund) ∧
      ((∃ f ∈ x.flights, ∃ r l v, f.val = .row r l v) → exec (.hadvp o) s = .next (s.putCtx x.xTick)) ∧
      ((∀ f ∈ x.flights, ∀ r l v, f.val ≠ .row r l v) →
        (n ≤ h.slots - h.filled → exec (.hadvp o) s = .next (s.putCtx ((x.setHandle (o.base.extractLsb' 0 4)
          { h with tail := (h.tail + n) % h.slots, filled := (h.filled + n) % 512 }).xDone false 0))) ∧
        (h.slots - h.filled < n → exec (.hadvp o) s = s.trapQ x .hovf)))

/-- VLOOP opens its loop or skips its body; after the last word of an iteration the loop goes to the next position, IDX0 fastest, with
its rotation of RRB in the same step, or ends; VEXIT leaves it with RRB as the last whole iteration left it, RRBSET and REP set their
state, NOP passes its clks, and the predicate words and PPOPC (R13, R153 to R157, R159).
Where the manual leaves a point open, the clause is the model's choice: a REP prefix takes no clk of the X clock (log 31), and RRBSET,
and a NOP in a queue, test bit 0 of their guard (log 65). -/
def Obligations.LoopAndPredicateWords : Prop :=
  (∀ (s : State) (x : Ctx) (q : QWord) (o : EM), s.ctx? = some x → s.cur.word = some q →
    let empty := ∃ j, j < 6 ∧ (((q.cap.desc.toList[2 * j + 1]?).getD 0).extractLsb' 0 32) = 0
    let y := x.qNext .x
    (empty → exec (.vloop o) s = .next (s.putCtx (({ y with
      qx := { y.qx with cur := { y.qx.cur with skip := o.imm.toNat, uid := q.uid } } } : Ctx).xTick))) ∧
    (¬ empty → exec (.vloop o) s = .next (s.putCtx (({ y with qx := { y.qx with cur := { y.qx.cur with
      loop := some { desc := q.cap.desc, len := o.imm.toNat, rrb := x.sys.rrb, uid := q.uid } } } } : Ctx).xTick)))) ∧
  (∀ (s : State) (x : Ctx) (q : QWord) (o : V4), XRuns s o.g [] [] [] x q → x.guardOk o.g = true →
    ∀ l, x.qx.cur.loop = some l → exec (.vexit o) s = .next (s.putCtx (({ x with
      sys := { x.sys with rrb := l.rrb }
      qx := { x.qx with cur := { skip := l.len - l.body.length, uid := if l.len ≤ l.body.length then 0 else l.uid } } } : Ctx).xTick))) ∧
  (∀ (x : Ctx) (l : LoopSt), x.qx.cur.loop = some l → l.pos.length = 6 →
    let bound := fun j : Nat => (((l.desc.toList[2 * j + 1]?).getD 0).extractLsb' 0 32).toNat
    let y := x.qNext .x
    let same := y.qx.items = x.qx.items ∧ y.regs = x.regs ∧ y.qx.cur.rep = none ∧ y.qx.cur.nop = x.qx.cur.nop ∧ y.qx.cur.skip = x.qx.cur.skip
    (l.idx + 1 < l.len → same ∧ y.qx.cur.loop = some { l with idx := l.idx + 1 } ∧ y.sys = x.sys) ∧
    (l.len ≤ l.idx + 1 → ∀ j, j < 6 → l.pos.getD j 0 + 1 < bound j → (∀ i, i < j → bound i ≤ l.pos.getD i 0 + 1) →
      same ∧ y.qx.cur.loop = some { l with
        idx := 0
        rrb := x.sys.rrb
        pos := (List.range 6).map fun i => if i < j then 0 else if i = j then l.pos.getD j 0 + 1 else l.pos.getD i 0 } ∧
      y.sys = { x.sys with rrb := if x.sys.rotsz = 0 then x.sys.rrb else (x.sys.rrb + x.sys.rotsz - 1) % x.sys.rotsz }) ∧
    (l.len ≤ l.idx + 1 → (∀ i, i < 6 → bound i ≤ l.pos.getD i 0 + 1) → same ∧ y.qx.cur.loop = none ∧ y.sys = x.sys)) ∧
  (∀ (s : State) (x : Ctx) (q : QWord) (o : VS), XRuns s o.g [] [] [] x q → x.guardOk o.g = true →
    exec (.rrbset o) s = .next (s.putCtx (({ x with sys := { x.sys with rrb := (o.imm.extractLsb' 0 12).toNat } } : Ctx).xDone
      false 0))) ∧
  (∀ (s : State) (x : Ctx) (q : QWord) (o : PX), s.ctx? = some x → s.cur.word = some q →
    let y := x.qNext .x
    let z : Ctx := { y with qx := { y.qx with cur := { y.qx.cur with rep := some { px := o }, uid := q.uid } } }
    exec (.rep o) s = .next (s.putCtx (if o.count = 0 then z.xTick else z))) ∧
  (∀ (s : State) (x : Ctx) (o : C3), CtlRuns s o.g [] x → (∀ k, s.cur.unit ≠ .queue k) →
    ∃ t, exec (.nop o) s = .next t ∧ Advances s x ((o.imm.extractLsb' 0 6).toNat + 1) t) ∧
  (∀ (s : State) (x : Ctx) (o : C3) (q : QWord) (k : Kind), SyncRuns s o.g x q k →
    let n := (o.imm.extractLsb' 0 6).toNat
    (n = 0 → exec (.nop o) s = .next (s.putCtx ((x.qNext k).qTick k))) ∧
    (n ≠ 0 → exec (.nop o) s = .next (s.putCtx ((x.setQueue k { (x.queue k) with
      cur := { (x.queue k).cur with nop := n } }).qTick k)))) ∧
  (∀ (s : State) (x : Ctx) (q : QWord) (o : V4), x.room .vec = true →
    let d : PReg := o.vd.extractLsb' 0 4
    let a : PReg := o.va.extractLsb' 0 4
    let b : PReg := o.vb.extractLsb' 0 4
    let writes := fun (w : Instr) (f : Bool → Bool → Bool) => ∃ v, XResult w s x q 1 false v ∧
      WritesPred d (x.guardBit o.g) (fun i => f ((x.pred a).getLsbD i) ((x.pred b).getLsbD i)) v
    (XRuns s o.g [] [a, b] [] x q → writes (.pand o) (fun a b => a && b) ∧ writes (.por o) (fun a b => a || b) ∧
      writes (.pxor o) (fun a b => a != b)) ∧
    (XRuns s o.g [] [a] [] x q → writes (.pnot o) (fun a _ => !a) ∧ writes (.pmov o) (fun a _ => a))) ∧
  (∀ (s : State) (x : Ctx) (q : QWord) (o : VS), x.room .vec = true →
    let a : PReg := o.va.extractLsb' 0 4
    (XRuns s o.g [] [] [] x q → ∃ v, XResult (.pset o) s x q 1 false v ∧ WritesPred (o.vd.extractLsb' 0 4) (x.guardBit o.g)
      (fun i => (if o.imm.getLsbD 32 then q.cap.sa.extractLsb' 0 32 else o.imm.extractLsb' 0 32).getLsbD i) v) ∧
    (XRuns s o.g [] [a] [] x q → XResult (.ppopc o) s x q 2 false (.scalar o.sa (BitVec.ofNat 64
      (Finset.univ.filter fun i : Fin 32 => (x.pred a).getLsbD i = true ∧ x.guardBit o.g i = true).card))))

/-- A vector word issues or waits: where guard bit 0 fails, XCLR, XMOV, HADVC, HADVP, VEXIT and RRBSET, or one repetition of them,
issue and do nothing. Every word with a result, with the sources that `vecReads` gives it, waits a clk where twelve results are in
flight; else, with PENDR set, a source or a guard with a result in flight raises PEND before the word takes effect, and so for VEXTL and
XMOV where their guard passes, and for the words without a result by their guard. The next
repetition of a REP shares its clk with the one before it (R16, R81, R82, R158).
Where the manual leaves a point open, the clause is the model's choice (log 16, 37); that HADVC, HADVP and RRBSET test bit 0 of their
guard is log 65. -/
def Obligations.VectorWordsThatDoNotIssue : Prop :=
  (∀ (s : State) (x : Ctx) (o : V4) (m : VM) (v : VS), s.ctx? = some x → x.pendr = false →
    (x.guardOk o.g = false → ∀ w ∈ [Instr.xclr o, .xmov o, .vexit o], exec w s = .next (s.putCtx (x.xDone false 0))) ∧
    (x.guardOk m.g = false → ∀ w ∈ [Instr.hadvc m, .hadvp m], exec w s = .next (s.putCtx (x.xDone false 0))) ∧
    (x.guardOk v.g = false → exec (.rrbset v) s = .next (s.putCtx (x.xDone false 0)))) ∧
  (∀ (s : State) (x : Ctx) (w : Instr) (r : VecReads), vecReads w = some r → WellFormed w → s.ctx? = some x →
    (x.room .vec = false → exec w s = .next (s.putCtx x.xTick)) ∧
    (x.room .vec = true → s.cur.word.isSome = true → x.pendr = true → r.pending x = true → exec w s = s.trapQ x .pend)) ∧
  (∀ (s : State) (x : Ctx) (w : Instr) (r : VecReads) (passes : Prop),
    ((∃ o, w = .xmov o ∧ r = ⟨o.g, [], [], [o.va.extractLsb' 0 2]⟩ ∧ passes = (x.guardOk o.g = true)) ∨
      (∃ o t, w = .vextl o ∧ ElemType.ofCode (o.imm.extractLsb' 42 6).toNat = some t ∧ r = ⟨o.g, [o.va], [], []⟩ ∧
        passes = (x.active o.g t.width (o.imm.extractLsb' 0 32).toNat = true))) → s.ctx? = some x → passes →
    (x.room .vec = false → exec w s = .next (s.putCtx x.xTick)) ∧
    (x.room .vec = true → s.cur.word.isSome = true → x.pendr = true → r.pending x = true → exec w s = s.trapQ x .pend)) ∧
  (∀ (s : State) (x : Ctx) (o : V4) (m : VM) (v : VS), s.ctx? = some x → x.pendr = true →
    (x.guardPending o.g = true → ∀ w ∈ [Instr.xclr o, .vexit o], exec w s = s.trapQ x .pend) ∧
    (x.guardPending m.g = true → ∀ w ∈ [Instr.hadvc m, .hadvp m], exec w s = s.trapQ x .pend) ∧
    (x.guardPending v.g = true → exec (.rrbset v) s = s.trapQ x .pend)) ∧
  (∀ (x : Ctx) (r : RepSt), x.qx.cur.rep = some r → r.i + 1 < r.px.count.toNat →
    ((x.xDone false 0).qx.cur.rep = some { r with i := r.i + 1, half := if r.half = 0 then 1 else 0, bank := if r.half = 0 then 0 else r.bank } ∧
      (x.xDone false 0).xclk = (if r.half = 0 then x.xclk else x.xclk + 1)) ∧
    (x.xDone true 0).qx.cur.rep = some { r with i := r.i + 1, half := 0 } ∧ (x.xDone true 0).xclk = x.xclk + 1)

/-! ### Macros -/

/-- A macro at the head of its queue goes to its engine with what it captured, its counter and its number, in one clk of the queue; a
stream word takes along the vector registers it reads (R162, R205). The first finished macro of an engine completes: its timeline number is reached, its token
counts down, and what it publishes becomes visible: ACCEPT's out row, ring rows and FRAG, FRAGSET's FRAG, and PCHK's count and flag; a
flag once set stays (R77, R78, R163, R199, R200, R265).
Where the manual leaves a point open, the clause is the model's choice (log 22). -/
def Obligations.MacroHandOverAndCompletion : Prop :=
  (∀ (s : State) (x : Ctx) (k : Kind) (q : QWord) (o : EM), QueueRuns s x k q →
    let e := engOf (opOf q.w) q.kind
    let goes := fun aux : List Nat => Host.Outcome.next (φ := Fault) (ρ := Refusal) (s.putCtx ((Ctx.qNext { x with
      eng := x.eng.set e (x.eng.get e ++ [{ q := q, ctr := (ctrOf (opOf q.w) q.kind).getD .tla, aux := aux }]) } q.kind).qTick q.kind))
    (∀ w ∈ [Instr.ldt o, .stt o, .cpy o, .cpya o, .rowg o, .mcast o, .puth o, .get o, .put o, .collectiveContribution o, .pft o, .ixg o,
        .ixs o, .ixsa o, .mma o, .mmv o, .mmg o, .matt o, .mpbld o, .aclr o, .adrain o, .bset o, .bsamp o, .bread o, .pred o, .pchk o,
        .pstat o, .accept o, .fragset o], exec w s = goes []) ∧
    (∀ z : V4, x.pendr = false →
      (∀ w ∈ [Instr.sand z, .sxnor z, .sor z, .snot z, .smux z, .smaj z, .sregen z, .slen z, .scls z], exec w s = goes []) ∧
      exec (.sgen z) s = goes [(s.vread x z.va).toNat] ∧
      exec (.sclsV z) s = goes ((List.range (2 * 2 ^ (z.mods.extractLsb' 21 2).toNat)).map fun i =>
        (s.vread x (z.va + BitVec.ofNat 11 i)).toNat))) ∧
  (∀ (s : State) (c : CoreId) (b : BankId) (e : Eng) (x : Ctx) (r : Run), s.ctxAt c b = some x →
    (x.eng.get e).find? (·.fin) = some r →
    let op := opOf r.q.w
    let tree := op = 0x2B0 ∨ op = 0x2B1
    ∃ t y, exec (.macroCompletion c b e) s = .next t ∧ t.ctxAt c b = some y ∧ y.eng.get e = (x.eng.get e).eraseP (·.fin) ∧
      (∀ u, u ≠ e → y.eng.get u = x.eng.get u) ∧ y.regs = x.regs ∧ y.ctl = x.ctl ∧ y.flights = x.flights ∧
      (y.tl.get r.ctr) = (x.tl.get r.ctr).complete r.q.num ∧
      (∀ k, k ≠ r.ctr → y.tl.get k = x.tl.get k) ∧
      (∀ k : BitVec 3, y.tokCount k = x.tokCount k - (if r.q.w.getLsbD 79 = true ∧ k = r.q.w.extractLsb' 76 3 then 1 else 0)) ∧
      (tree → y.sys.frag = BitVec.ofNat 64 (r.aux.headD 0)) ∧ (¬ tree → y.sys.frag = x.sys.frag) ∧
      (∀ ps : List (Nat × Nat), tree → Sparse.wf (s.core c).spad = true → r.aux.drop 1 = ps.flatMap (fun p => [p.1, p.2]) →
        ∀ a, (t.core c).spad.read a =
          (match ps.reverse.lookup a with | some v => BitVec.ofNat 2048 v | none => (s.core c).spad.read a)) ∧
      (¬ tree → (t.core c).spad = (s.core c).spad) ∧
      (∀ count flag, op = 0x2A1 → r.aux = [count, flag] → y.sys.misscnt =
        BitVec.ofNat 64 (count % 65536 + max (x.sys.misscnt.extractLsb' 16 1).toNat flag * 65536)) ∧
      (op ≠ 0x2A1 → y.sys.misscnt = x.sys.misscnt) ∧ (∀ d a, t.readView d a 1 = s.readView d a 1)) ∧
  (∀ (t : Timeline) (n : Nat), n = t.value + 1 → t.ahead = [] → (t.complete n).value = n) ∧
  (∀ (t : Timeline) (n : Nat), t.value + 1 < n → t.ahead = [] → (t.complete n).value = t.value)

/-- A progress unit of LDT, STT, CPY, CPYA, ROWG and PFT in every operand form: the row or group it moves, at a handle once the macro has
taken a slot, with its byte credit, and its macro after it; a macro that needs a slot takes the next one, or waits; an LDT or STT whose
row does not translate holds its class-A fault (R164 to R174, R238, R240). A row that lands under a sector mask
writes just the selected sectors.
Where the manual leaves a point open, the clause is the model's choice (log 4, 21, 39, 40, 52). -/
def Obligations.TransferMacros : Prop :=
  (∀ (s : State) (x : Ctx) (e : Eng) (r0 : Run) (o : EM), EngRuns s x e r0 →
    let r : Run := { r0 with started := true }
    let q := r.q
    let total := transferRows o r
    let bar := fun on a => barOf on a
    -- LDT, and the rows of a PROBE fill but its last
    (∀ i row p y r' ls u k, q.fill = none → RowTurn x r total (r.dstSide o) q.cap.sa i row y r' → x.rowAt row = .ok p →
      s.xlatAll x .read (rowSectors o r q.cap.sb i o.smask) = .ok (ls, u) →
      landRow u.myCore x row o.smask (gatherRow u o.smask ls) (bar o.bar q.cap.sc.toNat) = .ok k →
      exec (.ldt o) s = .next ((u.putCore k).putCtx (y.setRun r'))) ∧
    (∀ tag blk row0 rows i row p y r' ls u k, q.fill = some (tag, blk, row0, rows) → r.done + 1 ≠ rows →
      RowTurn x r rows (r.dstSide o) (BitVec.ofNat 64 (row0 * 256)) i row y r' → x.rowAt row = .ok p →
      s.xlatAll x .read (rowSectors o r (BitVec.ofNat 64 blk) i o.smask) = .ok (ls, u) →
      landRow u.myCore x row o.smask (gatherRow u o.smask ls) (bar o.bar q.cap.sc.toNat) = .ok k →
      exec (.ldt o) s = .next ((u.putCore k).putCtx (y.setRun r'))) ∧
    (∀ i row p y r' va, q.fill = none → RowTurn x r total (r.dstSide o) q.cap.sa i row y r' → x.rowAt row = .ok p →
      s.xlatAll x .read (rowSectors o r q.cap.sb i o.smask) = .error (va, .segv) →
      let u := (s.xlatBefore x .read (rowSectors o r q.cap.sb i o.smask)).noteXlat s.myCore x.id.asid va
      exec (.ldt o) s = .next (u.putCtx (x.setRun (Run.faulted { r with aux := [] } .segv 0 0 va)))) ∧
    (∀ d r', q.fill = none → r.dstSide o = some d → SlotTurn x r total d r' → exec (.ldt o) s = .next (s.putCtx (x.setRun r'))) ∧
    -- STT
    (∀ i row v y r' ls u t, RowTurn x r total (r.srcSide o) q.cap.sb i row y r' → readRow s.myCore x row = .ok v →
      s.xlatAll x .write (rowSectors o r q.cap.sa i o.smask) = .ok (ls, u) →
      u.writeSectors (rowCells o.smask ls v) (some (s.cur.core, x.id.serial)) = some t →
      exec (.stt o) s = .next (t.putCtx (y.setRun r'))) ∧
    (∀ i row v y r' va, RowTurn x r total (r.srcSide o) q.cap.sb i row y r' → readRow s.myCore x row = .ok v →
      s.xlatAll x .write (rowSectors o r q.cap.sa i o.smask) = .error (va, .perm) →
      let u := (s.xlatBefore x .write (rowSectors o r q.cap.sa i o.smask)).noteXlat s.myCore x.id.asid va
      exec (.stt o) s = .next (u.putCtx (x.setRun (Run.faulted { r with aux := [] } .perm 0 0 va)))) ∧
    (∀ d r', r.srcSide o = some d → SlotTurn x r total d r' → exec (.stt o) s = .next (s.putCtx (x.setRun r'))) ∧
    -- CPY
    (let sd := r.srcSide o
     let dd := r.dstSide o
     let n := o.nrows
     let rd := r.aux.headD 0
     (∀ d r', rd < n → sd = some d → r.srcRow = none →
       (∀ f, operandFmt x q d.geo.firstRow (d.geo.slots * d.geo.rps) ≠ .ok f) → TakesSlot x r d 1 1 r' →
       exec (.cpy o) s = .next (s.putCtx (x.setRun r'))) ∧
     (∀ f g, rd < n → SideFmt x r sd (rowOf q.cap.sb) f → SideFmt x r dd (rowOf q.cap.sa) g →
       let same := sameBytes f g
       let out := cpyOut same f.cpyBits g.cpyBits n
       let p := cpyPiece out (if same then 1 else max 1 (f.cpyBits / g.cpyBits)) n sd dd rd (r.aux.getD 3 0)
       let whole := p.hi = out (rd + p.m)
       let wo := p.lo - out rd
       let dstSide := if p.lo < p.hi then dd else none
       let rd' := if whole then rd + p.m else rd
       sideFits sd n = true → (∀ d, dd = some d → out n % 256 = 0 ∧ sideFits dd (out n / 256) = true) →
       (sd = none → ∃ h, operandFmt x q (rowOf q.cap.sb) n = .ok h) →
       (dd = none → ∃ h, operandFmt x q (rowOf q.cap.sa) ((out n + 255) / 256) = .ok h) →
       (∀ d r', sd = some d → r.slotAt 1 = none → TakesSlot x r d 1 1 r' → exec (.cpy o) s = .next (s.putCtx (x.setRun r'))) ∧
       (∀ ss d r', SideSlot r sd 1 ss → dstSide = some d → r.slotAt 2 = none → TakesSlot x r d 2 1 r' →
         exec (.cpy o) s = .next (s.putCtx (x.setRun r'))) ∧
       (∀ ss ds srcs k0 gen k, SideSlot r sd 1 ss → SideSlot r dstSide 2 ds →
         let src := (List.range p.m).map fun i => sideRow sd (rowOf q.cap.sb) ss (rd + i)
         let dst := (rowsTouched p.lo p.hi).map fun t => (sideRow dd (rowOf q.cap.sa) ds t.1, t.2)
         let a := (dst.headD (0, 0)).1 * 256 + p.lo % 256
         agreeRows x q f src = .ok () → agreeRows x q g (dst.map (·.1)) = .ok () →
         cpySources s.myCore x q same f src (r.aux.drop 4) = .ok srcs →
         (p.hi ≤ p.lo → k0 = s.myCore ∧ gen = x.sideGen q) →
         (p.lo < p.hi → same = true → gen = x.sideGen q ∧ cpySame s.myCore x q f g s.tick (src.headD 0) ((dst.headD (0, 0)).1) a wo
           (p.hi - p.lo) ((srcs.headD []).headD 0) = .ok k0) →
         (p.lo < p.hi → same = false → cpyConvert s.myCore x q f g src srcs a wo (p.hi - p.lo) = .ok (k0, gen)) →
         dst.foldlM (fun (k : Core) t => k.creditAt x (bar o.bar q.cap.sc.toNat) t.2) k0 = .ok k →
         let srcEnd := decide whole && slotEnds sd rd'
         let dstEnd := decide (p.lo < p.hi) && p.hi % 256 == 0 && slotEnds dd (p.hi / 256)
         ∃ r' : Run, exec (.cpy o) s =
             .next ((s.putCore k).putCtx (((sideEnd dd (sideEnd sd x srcEnd) dstEnd).setSideGen q gen).setRun r')) ∧
           r'.aux.headD 0 = rd' ∧ (r'.fin = true ↔ rd' = n) ∧
           r'.done = r.done + (if sd.isSome then (if srcEnd then 1 else 0) else rd' - rd))) ∧
     (∀ same bs bd i, 0 < bs → cpyOut same bs bd n n = n * 256 * bd / bs ∧ cpyOut same bs bd n i ≤ n * 256 * bd / bs ∧
       (i < n → same = false → cpyOut same bs bd n i = i * 256 * bd / bs) ∧
       (i < n → same = true → 256 * i ≤ n * 256 * bd / bs → cpyOut same bs bd n i = 256 * i))) ∧
    -- CPYA
    (let sd := r.srcSide o
     let i := r.done
     (∀ d r', i < o.n10 → sd = some d → r.srcRow = none →
       (∀ f, operandFmt x q d.geo.firstRow (d.geo.slots * d.geo.rps) ≠ .ok f) → TakesSlot x r d 1 1 r' →
       exec (.cpya o) s = .next (s.putCtx (x.setRun r'))) ∧
     (∀ f t, i < o.n10 → SideFmt x r sd (rowOf q.cap.sb) f → f.code ≠ 1 → f.code ≠ 0x0A → f.code ≠ 0x0B → f.typeRaw32 = some t →
       let per := 2048 / t.width
       let total := (256 * o.n10 + per - 1) / per
       let e := r.aux.headD 0
       let lo := (256 * i + e) / per
       let n := upTo ((256 * (i + 1) + per - 1) / per - lo) (slotRest sd lo)
       let stop := min (256 * (i + 1)) ((lo + n) * per)
       let cnt := stop - (256 * i + e)
       let skip := 256 * i + e - lo * per
       sideFits sd total = true → (sd = none → ∃ h, operandFmt x q (rowOf q.cap.sb) total = .ok h) →
       (∀ d r', sd = some d → r.slotAt 1 = none → TakesSlot x r d 1 1 r' → exec (.cpya o) s = .next (s.putCtx (x.setRun r'))) ∧
       (∀ ss rows, SideSlot r sd 1 ss →
         let src := (List.range n).map fun j => sideRow sd (rowOf q.cap.sb) ss (lo + j)
         let y := sideEnd sd x (decide (stop = 256 * o.n10) || (stop % per == 0 && slotEnds sd (stop / per)))
         agreeRows x q f src = .ok () →
         src.zipIdx.mapM (fun (row, j) =>
           decodePart s.myCore x q t row (spanPart per skip cnt j).1 (spanPart per skip cnt j).2) = .ok rows →
         let new := (rows.flatten.drop skip).take cnt
         (e + cnt < 256 → ∃ r' : Run, exec (.cpya o) s = .next (s.putCtx (y.setRun r')) ∧ r'.done = i ∧ r'.fin = r.fin ∧
           r'.aux.headD 0 = r'.aux.length - 2 ∧ r'.aux.drop 2 = r.aux.drop 2 ++ new.map fun v => (termOf v).bits) ∧
         (256 ≤ e + cnt → ∀ acc k, readAcc s.myCore x (o.acc + i) = .ok acc →
           writeAcc s.myCore x (o.acc + i) (acc.zipWith accAdd ((r.aux.drop 2).map (fun n => (ETerm.ofBits n).val) ++ new)) = .ok k →
           (∃ r' : Run, exec (.cpya o) s = .next ((s.putCore k).putCtx (y.setRun r')) ∧
             r'.done = i + 1 ∧ (r'.fin = true ↔ i + 1 = o.n10)) ∨
           (s.myCore.matrixWrites o.slot = true ∧ exec (.cpya o) s = .next (s.putCtx (x.setRun (r.faulted .slot 0 0 0)))))))) ∧
    -- ROWG: the start, a slot, and a governed row, or the part of it that a slot holds
    (∀ l j ob, s.xlat x q.cap.sb.toNat .read = .ok l j →
      let u := s.noteSeg x.id.asid j
      (u.segEntry u.myCore x.id.asid j q.cap.sb.toNat).tier = 3 →
      u.obj (u.segEntry u.myCore x.id.asid j q.cap.sb.toNat).obj = some ob →
      (∀ c, r.aux = [] → listWord u.myCore x q.cap.sc 0 = .ok c →
        exec (.rowg o) s = .next ((u.setObj (if o.crx then ob else ob.token u.firm.heatcfg)).putCtx
          (x.setRun { r with aux := [c], fin := c == 0 }))) ∧
      (∀ c rest, r.aux = c :: rest → r.done < c → sideFits (r.dstSide o) (c * ob.defn.rowb) = true →
        let dd := r.dstSide o
        let w := r.aux.getD 2 0
        let pos := r.done * ob.defn.rowb + w
        let m := upTo (ob.defn.rowb - w) (slotRest dd pos)
        let whole := w + m = ob.defn.rowb
        (∀ d r', dd = some d → r.slotAt 1 = none → TakesSlot x r d 1 1 r' → exec (.rowg o) s = .next (u.putCtx (x.setRun r'))) ∧
        (∀ ds row k, SideSlot r dd 1 ds → (w = 0 → listWord u.myCore x q.cap.sc (1 + r.done) = .ok row) →
          (w ≠ 0 → row = r.aux.getD 3 0) → row < ob.defn.rows →
          ((List.range m).map fun i => sideRow dd (rowOf q.cap.sa) ds (pos + i)).zipIdx.foldlM
            (fun k (a, i) => landRow k x a 0 (BitVec.ofNat 2048 (natOfBytes
              (u.readView s.myDie (ob.base + row * ob.rowBytes + 256 * (w + i)) 256))) (bar o.bar o.barAddr)) u.myCore = .ok k →
          let u' := { u.putCore k with firm := (u.putCore k).firm.touch (.mem (ob.base + row * ob.rowBytes)) }
          ∃ r' : Run, exec (.rowg o) s =
              .next ((if w = 0 then u'.rowFetch ob row o.crx else u').putCtx ((sideEnd dd x (slotEnds dd (pos + m))).setRun r')) ∧
            r'.done = (if whole then r.done + 1 else r.done) ∧ (whole → (r'.fin = true ↔ r.done + 1 = c))))) ∧
    -- PFT
    (let va := q.cap.sa.toNat
     let units := if o.imm.toNat = 0 then 0 else (va + o.imm.toNat - 1) / 2 ^ 16 - va / 2 ^ 16 + 1
     let st := ((List.range units).map fun i => pftByte s x (max va ((va / 2 ^ 16 + i) * 2 ^ 16))).foldl max 0
     ∀ k, writeBytes s.myCore x (q.cap.sb.toNat / 8 * 8) 8 st = .ok k →
       exec (.pft o) s = .next ((s.putCore k).putCtx (x.setRun (r.did true))))) ∧
  (∀ (k k' : Core) (x : Ctx) (row p : Nat) (mask : BitVec 8) (v : Row), Sparse.wf k.spad = true → x.spadRow row = some p →
    landRow k x row mask v none = .ok k' →
    (∀ y, y < 256 → elemOf 8 (k'.spad.read p) y =
      if mask = 0 ∨ mask.getLsbD (y / 32) = true then elemOf 8 v y else elemOf 8 (k.spad.read p) y) ∧
    (∀ a, a ≠ p → k'.spad.read a = k.spad.read a) ∧ k'.acc = k.acc ∧ k'.vregs = k.vregs)

/-- A progress unit of the fabric macros and of MCAST, and of the index engine. A transaction begins once every die has reached the
clock of the executing one; to another node it is sent once and ends with its answer; to this node it is performed at once, or
faults with REMOTE and the code of its refusal; a NODEID that names no node faults with REMOTE, DETAIL 0x01; a macro that needs a slot of
a handle takes the next one, or waits. An IXSA addition at another
die's bank counts once the thread's die has applied it (R175 to R178, R326 to
R330).
Where the manual leaves a point open, the clause is the model's choice (log 21, 38, 49, 50, 51). -/
def Obligations.FabricAndIndexMacros : Prop :=
  ∀ (s : State) (x : Ctx) (e : Eng) (r0 : Run) (o : EM), EngRuns s x e r0 →
    let r : Run := { r0 with started := true }
    let q := r.q
    let total := transferRows o r
    let tag : Word := BitVec.ofNat 64 s.firm.nextTag
    -- what is sent, and what a transaction to this node carries
    let flit := fun f : Flit => { f with src := s.firm.node, asid := x.id.asid }
    let sent := fun (typ : Nat) (f : Flit) (t : State) => t = { s with
      firm := { s.firm with nextTag := s.firm.nextTag + 1 }
      txns := s.txns ++ [{ flit := { flit f with tag := tag }, typ := typ, core := s.cur.core, bank := s.cur.bank, eng := .store,
                           num := q.num, row := r.done, sent := s.firm.us }]
      outbox := s.outbox ++ [{ typ := typ, flit := { flit f with tag := tag } }] }
    let ready := s.txnOf r ≠ none ∨ s.spread = true
    let unit_ := fun (w : Instr) (typ : Nat) (f : Flit) (here : State → Flit → Recv) (ends : State → List Row → State → Prop) =>
      (s.txnOf r = none → s.spread = false → exec w s = .next s) ∧
      (f.dst ≠ s.firm.node → s.txnOf r = none → s.spread = true → ∃ t, exec w s = .next t ∧ sent typ f t) ∧
      (∀ c, ready → f.dst = s.firm.node → here s (flit f) = .error c → c ≠ 6 →
        exec w s = .next (((s.refused typ (flit f) c).endTxn r).putCtx (x.setRun (r.restart.faulted .remote c 0 0)))) ∧
      (∀ t rows, f.dst ≠ s.firm.node → s.txnOf r = some t → t.reply = some rows → ∀ u, ends (s.endTxn r) rows u → exec w s = .next u) ∧
      (∀ u rows, ready → f.dst = s.firm.node → here s (flit f) = .ok (some (u, rows)) → ∀ v, ends (u.endTxn r) rows v → exec w s = .next v)
    (nodeOk q.cap.sb.toNat = false → exec (.get o) s = .next (s.putCtx (x.setRun (r.faulted .remote 1 0 0)))) ∧
    (nodeOk q.cap.sa.toNat = false → ∀ w ∈ [Instr.put o, .collectiveContribution o],
      exec w s = .next (s.putCtx (x.setRun (r.faulted .remote 1 0 0)))) ∧
    (∀ i row p y r', nodeOk q.cap.sb.toNat = true → RowTurn x r total (r.dstSide o) q.cap.sa i row y r' → x.rowAt row = .ok p →
      unit_ (.get o) 2 { src := 0, dst := BitVec.ofNat 19 q.cap.sb.toNat, asid := 0, addr := remoteRow o r i, tag := 0, mask := o.smask,
                         nrows := 1 } State.recvGet
        fun u rows t => ∃ k, landRow u.myCore x row o.smask (rows.getD 0 0) none = .ok k ∧ t = (u.putCore k).putCtx (y.setRun r')) ∧
    (∀ d r', nodeOk q.cap.sb.toNat = true → r.dstSide o = some d → SlotTurn x r total d r' →
      exec (.get o) s = .next (s.putCtx (x.setRun r'))) ∧
    (∀ d r', nodeOk q.cap.sa.toNat = true → r.srcSide o = some d → SlotTurn x r total d r' →
      ∀ w ∈ [Instr.put o, .collectiveContribution o], exec w s = .next (s.putCtx (x.setRun r'))) ∧
    (∀ i row v y r', nodeOk q.cap.sa.toNat = true → RowTurn x r total (r.srcSide o) q.cap.sb i row y r' →
      readRow s.myCore x row = .ok v →
      let f : Flit := { src := 0, dst := BitVec.ofNat 19 q.cap.sa.toNat, asid := 0, addr := remoteRow o r i, tag := 0, mask := o.smask,
                        nrows := 1, rows := [v] }
      unit_ (.put o) 1 f State.recvPut (fun u _ t => t = u.putCtx (y.setRun r')) ∧
      unit_ (.collectiveContribution o) 5 { f with atype := o.atype } State.recvCollective (fun u _ t => t = u.putCtx (y.setRun r'))) ∧
    (∀ rows, r.done = 0 → nodeOk (q.cap.sa.extractLsb' 45 19).toNat = true →
      readRows s.myCore x (rowOf q.cap.sb) (o.mode.toNat + 1) = .ok rows →
      unit_ (.puth o) 3 { src := 0, dst := BitVec.ofNat 19 (q.cap.sa.extractLsb' 45 19).toNat, asid := 0, addr := q.cap.sa, tag := 0,
                          nrows := o.mode.toNat + 1, prio := o.prio, handler := q.cap.sc, rows := rows } State.recvPuth
        (fun u _ t => t = u.putCtx (x.setRun (r.did true (o.mode.toNat + 1))))) ∧
    -- MCAST: the start reads the group; each row goes to every receiver that accepts it; then the failed members are recorded
    (∀ rows bar, mcastRows x r o = .ok (rows, bar) →
      (∀ pa u, r.aux = [] → s.xlatAll x .read [q.cap.sa.toNat / 1024 * 1024] = .ok ([.mem pa], u) → dsmBase ≤ pa →
        ∃ aux, exec (.mcast o) s = .next (u.putCtx (x.setRun { r with aux := aux }))) ∧
      (∀ ok ms v, r.aux = ok :: 0 :: ms → r.done < o.mode.toNat + 1 → readRow s.myCore x (rowOf q.cap.sb + r.done) = .ok v →
        let go := (bitsBelow 128 ok).filter fun c =>
          (s.core (Fin.ofNat 128 c)).accepts x.id.asid (rows ++ (match bar with | some p => [p / 256] | none => []))
        (∀ p c, bar = some p → c ∈ go → p / 256 ∈ (s.core (Fin.ofNat 128 c)).spadBad →
          exec (.mcast o) s = .next (s.putCtx (x.setRun (r.faulted .poison 0x10 0 (o.barAddr / 256 * 256))))) ∧
        ((∀ p c, bar = some p → c ∈ go → p / 256 ∉ (s.core (Fin.ofNat 128 c)).spadBad) →
        ∃ r' : Run, exec (.mcast o) s = .next ((go.foldl (fun (s : State) c =>
            let k := (s.core (Fin.ofNat 128 c)).putRow (rows.getD r.done 0) v
            s.setCore (Fin.ofNat 128 c) (match bar with | some p => k.credit p 256 | none => k)) s).putCtx (x.setRun r'))
          ∧ r'.done = r.done + 1 ∧ (r'.fin = true ↔ r.done + 1 = o.mode.toNat + 1))) ∧
      (∀ ok bad ms k, r.aux = ok :: bad :: ms → o.mode.toNat + 1 ≤ r.done → bad ≠ 0 →
        let failed := ((List.range (ms.length / 2)).filter fun i => bad.testBit (ms.getD (2 * i + 1) 0)).map fun i => ms.getD (2 * i) 0
        writeBytes s.myCore x (q.cap.sc.toNat / 32 * 32) 32 ((failed.map (2 ^ ·)).foldr (· + ·) 0) = .ok k →
        exec (.mcast o) s = .next ((s.putCore k).putCtx (x.setRun (Run.faulted { r with aux := ok :: 0 :: ms } .remote 4 failed.length 0))))) ∧
    -- the index engine: the start, a skipped entry, and an entry in the scratchpad or in memory
    (∀ (w : Instr) (sa : Bool), (w = .ixg o ∨ w = .ixs o) ∧ sa = false ∨ w = .ixsa o ∧ sa = true →
      (∀ v c, r.aux = [] → readBytes s.myCore x (q.cap.sa.toNat / 64 * 64) 64 = .ok v → (IxBlk.ofNat v sa).ok = true →
        readBytes s.myCore x ((IxBlk.ofNat v sa).idx / 256 * 256) 4 = .ok c →
        exec w s = .next (s.putCtx (x.setRun { r with aux := [v, c], fin := c == 0 }))) ∧
      (∀ v c l i, r.aux = v :: c :: l → r.done < c →
        let b := IxBlk.ofNat v sa
        let n := 2 ^ b.esize
        let d := b.data / 256 * 256 + r.done * n
        let next := fun (u : State) (k : Core) => exec w s = .next ((u.putCore k).putCtx (x.setRun (r.did (r.done + 1 == c))))
        readBytes s.myCore x (b.idx / 256 * 256 + 4 * (1 + r.done)) 4 = .ok i →
        (b.skip = 1 → i = 0xFFFFFFFF → exec w s = .next (s.putCtx (x.setRun (r.did (r.done + 1 == c))))) ∧
        (b.skip = 0 →
          (∀ y k, w = .ixg o → b.space = 1 → readBytes s.myCore x (b.addr i) n = .ok y → writeBytes s.myCore x d n y = .ok k →
            next s k) ∧
          (∀ ls u k, w = .ixg o → b.space = 0 → s.xlatAll x .read (b.sectors (b.addr i)) = .ok (ls, u) →
            writeBytes u.myCore x d n (ofElems (8 * b.part) (ls.map fun l => natOfBytes (u.readLoc u.myDie u.myCore l b.part))) = .ok k →
            next u k) ∧
          (∀ y, readBytes s.myCore x d n = .ok y →
            (∀ k, w = .ixs o → b.space = 1 → writeBytes s.myCore x (b.addr i) n y = .ok k → next s k) ∧
            (∀ ls u t, w = .ixs o → b.space = 0 → s.xlatAll x .write (b.sectors (b.addr i)) = .ok (ls, u) →
              u.writeSectors (elemCells b.part ls y) (some (s.cur.core, x.id.serial)) = some t →
              exec w s = .next (t.putCtx (x.setRun (r.did (r.done + 1 == c))))) ∧
            (∀ old k, w = .ixsa o → b.space = 1 → readBytes s.myCore x (b.addr i) n = .ok old →
              writeBytes s.myCore x (b.addr i) n (addBytes b.atype n old y) = .ok k → next s k) ∧
            (∀ ls u, w = .ixsa o → b.space = 0 → s.xlatAll x .write (b.sectors (b.addr i)) = .ok (ls, u) → ls.all inShared = true →
              (∀ t, l = [] → ls.zipIdx.foldlM (fun (s : State) (l, j) =>
                  s.bankAdd x b.atype b.part (y >>> (8 * b.part * j) % 2 ^ (8 * b.part)) l) u = some t →
                ((∀ pa, Loc.mem pa ∈ ls → homeDie pa = s.myDie) → exec w s = .next (t.putCtx (x.setRun (r.did (r.done + 1 == c))))) ∧
                ((∃ pa, Loc.mem pa ∈ ls ∧ homeDie pa ≠ s.myDie) → ∃ seen, exec w s =
                  .next (t.putCtx (x.setRun { r with aux := r.aux ++ seen })) ∧
                  ∀ pa (d : DieId), Loc.mem pa ∈ ls → (t.vc[homeDie pa].toList).getD d.val 0 ≤ seen.getD d.val 0)) ∧
              (l ≠ [] → s.clockReached s.myDie l = true → exec w s =
                .next (u.putCtx (x.setRun (Run.did { r with aux := [v, c] } (r.done + 1 == c))))) ∧
              (l ≠ [] → s.clockReached s.myDie l = false → exec w s = .next u))))))

/-- A progress unit of the matrix macros and the brim macros: a tile step of K positions adds exact sums of products, rounded once
(R65), to accumulator rows, each operand row decoded with the sidecars, scales and zero points read once before its first product
(R261, R262); MMA, MMG with DIR = 0 and MATT go by activation rows, MMV and MMG with DIR = 1 by weight rows, of which a list count of 0 reads none;
MPBLD loads the mask, ACLR clears a row, ADRAIN drains one through the program's steps, its bytes going to slots as they come free, and
BSET, BSAMP and BREAD set and read the unit. At a handle a tile waits until the slots of all its rows are there (R164, R165, R180 to R193).
Where the manual leaves a point open, the clause is the model's choice (log 21, 52, 53). -/
def Obligations.MatrixAndBrimMacros : Prop :=
  (∀ (s : State) (x : Ctx) (e : Eng) (r0 : Run) (o : EM), EngRuns s x e r0 →
    let r : Run := { r0 with started := true }
    let q := r.q
    let t := r.tstep
    let brim := fun b : Brim => ({ x with brim := b } : Ctx)
    let ends := fun (w : Instr) (k : Core) (y : Ctx) (r' : Run) => exec w s = .next ((s.putCore k).putCtx (y.setRun r'))
    -- the rows of weights of a tile step, and the row m of accumulators after it
    let addRow := fun (a w : MatOp) (slot off m first n : Nat) (sides : List Nat) (k k' : Core) => ∃ av ws old,
      decodeSpanWith k x q a.t (a.at_ 0 (m * a.rows)) first n sides = .ok av ∧
      (List.range n).mapM (fun i => decodeSpan s.myCore x q w.t (w.at_ slot (off + i * w.rows)) 0 256) = .ok ws ∧
      readAcc k x (o.acc + m) = .ok old ∧
      writeAcc k x (o.acc + m) (old.zipWith accAdd (colSums (av.zip ws))) = .ok k'
    let stands := fun (w : Instr) (r' : Run) => exec w s = .next (s.putCtx (x.setRun r'))
    -- a handle side whose slot is not taken, or whose further slots are not there, n being wanted
    let waits := fun (w : Instr) (n : Nat) => ∀ d, r.srcSide o = some d →
      (∀ r', r.slotAt 1 = none → TakesSlot x r d 1 n r' → stands w r') ∧
      (∀ v, r.slotAt 1 = some v → 1 < n → d.ready x < n → stands w { r with wait := some (d.h, d.prod, n) })
    -- one whose format no row has fixed yet
    let starts := fun w : Instr => ∀ d r', r.srcSide o = some d → r.srcRow = none →
      (∀ f, operandFmt x q d.geo.firstRow (d.geo.slots * d.geo.rps) ≠ .ok f) → TakesSlot x r d 1 1 r' → stands w r'
    -- MMA
    (∀ a w sides k, r.done < o.mRows → matScalar x q (rowOf q.cap.sa) o.k o.mRows = .ok a →
      matScalar x q (rowOf q.cap.sb) 256 o.k = .ok w →
      (if t = 0 then spanSides s.myCore x q a.t (a.at_ 0 (r.done * a.rows)) o.k = .ok sides else sides = r.aux) →
      addRow a w 0 (128 * t * w.rows) r.done (128 * t) (min 128 (o.k - 128 * t)) sides s.myCore k →
      let r1 : Run := { r with aux := sides }
      ends (.mma o) k x (if o.k ≤ 128 * (t + 1) then r1.did (r.done + 1 == o.mRows) else { r1 with tstep := t + 1 })) ∧
    -- MMV, and MMG with DIR = 1 over the list's count
    (∀ (i : Instr) (kk : Nat), (i = .mmv o ∧ kk = o.k) ∨ (i = .mmg o ∧ o.dir = true ∧ r.aux.head? = some kk) →
      let sd := r.srcSide o
      let n := min 128 (kk - r.done)
      ∀ a, r.done < kk → matScalar x q (rowOf q.cap.sa) kk o.b6 = .ok a →
        starts i ∧
        ∀ f w, SideFmt x r sd (rowOf q.cap.sb) f → matOp x q sd f (rowOf q.cap.sb) 256 kk = .ok w →
          let off := match sd with | some d => r.done * w.rows % d.geo.rps | none => r.done * w.rows
          let slots := slotsOf sd off (n * w.rows)
          waits i slots ∧
          ∀ (ks : Nat → Core) (sides : List Nat) (slot : Nat), SideSlot r sd 1 slot →
            (∀ d, sd = some d → slots ≤ 1 ∨ slots ≤ d.ready x) → w.agree x q f slot off (n * w.rows) = .ok () → ks 0 = s.myCore →
            (if r.aux.drop 2 = [] then
               ((List.range o.b6).mapM fun m => spanSides s.myCore x q a.t (a.at_ 0 (m * a.rows)) kk).map List.flatten = .ok sides
             else sides = r.aux.drop 2) →
            (∀ m, m < o.b6 → addRow a w slot off m r.done n (sides.drop (3 * a.rows * m)) (ks m) (ks (m + 1))) →
            ends i (ks o.b6) (sideAdvance sd x (slotsDone sd off (n * w.rows)))
              { r.did (r.done + n == kk) n with
                wait := nextNeed sd w.rows (off + n * w.rows) (kk - (r.done + n))
                aux := [r.aux.headD 0, slotAfter sd slot off (n * w.rows)] ++ sides }) ∧
    -- MMG with DIR = 0 over the list's count, and MATT
    (∀ (i : Instr) (kk n : Nat) (on : Nat → Nat → Bool) (fresh : Bool),
      (i = .mmg o ∧ o.dir = false ∧ r.aux.head? = some n ∧ kk = o.k ∧ fresh = false ∧ ∀ m j, on m j = true) ∨
      (i = .matt o ∧ kk = o.kc ∧ n = o.nk ∧ fresh = decide (t = 0) ∧ (o.msk = true → o.b6 ≤ x.brim.mask.length) ∧
        ∀ m j, on m j = (decide (j < o.nk) && (!o.msk || x.brim.visible m ((fieldNat q.cap.sc 0 32 + j) % 2 ^ 32)))) →
      let sd := if n = 0 then none else r.srcSide o
      let m := r.done
      let len := min 128 (kk - 128 * t)
      ∀ a, m < o.b6 → matScalar x q (rowOf q.cap.sa) kk o.b6 = .ok a →
        (n ≠ 0 → starts i) ∧
        ∀ f g, (n ≠ 0 → SideFmt x r sd (rowOf q.cap.sb) f) →
          (if n = 0 then g = ⟨none, 0, .f32, 0⟩ else matOp x q sd f (rowOf q.cap.sb) kk n = .ok g) →
          let slots := slotsOf sd 0 (n * g.rows)
          (n ≠ 0 → waits i slots) ∧
          ∀ av old k (rows : Nat → List FVal) (sides ga : List Nat) (gs : Nat → List Nat) (slot : Nat), SideSlot r sd 1 slot →
            (∀ d, sd = some d → slots ≤ 1 ∨ slots ≤ d.ready x) → g.agree x q f slot 0 (n * g.rows) = .ok () →
            let row := fun j : Nat => g.at_ slot (j * g.rows)
            (if t = 0 then spanSides s.myCore x q a.t (a.at_ 0 (m * a.rows)) kk = .ok ga ∧
                (∀ j, j < n → if on m j then spanSides s.myCore x q g.t (row j) kk = .ok (gs j)
                  else gs j = List.replicate (3 * g.rows) 0) ∧
                sides = ga ++ ((List.range n).map gs).flatten
              else sides = r.aux.drop 2) →
            decodeSpanWith s.myCore x q a.t (a.at_ 0 (m * a.rows)) (128 * t) len sides = .ok av →
            (if fresh then old = (List.range 256).map fun c => if on m c then FVal.fin false 0 0 else .inf true
             else readAcc s.myCore x (o.acc + m) = .ok old) →
            (∀ j, j < n → on m j = true →
              decodeSpanWith s.myCore x q g.t (row j) (128 * t) len (sides.drop (3 * (a.rows + g.rows * j))) = .ok (rows j)) →
            writeAcc s.myCore x (o.acc + m) (old.zipIdx.map fun (v, j) =>
              if j < n ∧ on m j = true then accAdd v (dotProduct av (rows j)) else v) = .ok k →
            let last := kk ≤ 128 * (t + 1)
            ∃ r' : Run, ends i k (sideAdvance sd x (if last ∧ m + 1 = o.b6 then slotsDone sd 0 (n * g.rows) else 0)) r' ∧
              (if last then r'.done = m + 1 ∧ r'.tstep = 0 ∧ (r'.fin = true ↔ m + 1 = o.b6)
               else r' = { r with tstep := t + 1, aux := [r.aux.headD 0, r.aux.getD 1 0] ++ sides })) ∧
    -- MMG's start
    (∀ c, r.aux = [] → listWord s.myCore x q.cap.sc 0 = .ok c →
      exec (.mmg o) s = if o.dir = false ∧ 256 < c then .next (s.putCtx (x.setRun (r.faulted .illegal 6 0 0)))
                        else .next (s.putCtx (x.setRun { r with aux := [c] }))) ∧
    -- MPBLD
    (∀ v, readBytes s.myCore x (q.cap.sa.toNat / 16 * 16) (16 * o.nq) = .ok v →
      ∃ y : Brim, exec (.mpbld o) s = .next (s.putCtx ((brim y).setRun (r.did true))) ∧ y = { x.brim with mask := y.mask } ∧
        y.mask.length = o.nq ∧ ∀ i, i < o.nq → ∃ m, y.mask[i]? = some m ∧ m.anc.toNat = v >>> (128 * i) % 2 ^ 64 ∧
          m.pre.toNat = v >>> (128 * i + 64) % 2 ^ 32 ∧ m.pos.toNat = v >>> (128 * i + 96) % 2 ^ 32) ∧
    -- ACLR
    (∀ p, r.done < o.n10 → x.accAt (o.acc + r.done) = .ok p →
      exec (.aclr o) s = .next ((s.putCore (s.myCore.putAcc p 0)).putCtx (x.setRun (r.did (r.done + 1 == o.n10))))) ∧
    -- ADRAIN: with a program that ends in NOWRITE, into the scratchpad or a handle's slot, and what of a row waits for a slot
    (let dd := r.dstSide o
     let i := r.done
     let si := if o.one then o.state else o.state + i
     let v := fun c : Nat => BitVec.ofNat 32 (q.cap.sc.toNat + (if o.one then 256 * i else 0) + c)
     let slotAfter_ := fun (y : Ctx) (z : BrimSlot) => y.brim.slots[si % 64]'(Nat.mod_lt _ (by decide)) = z
     let z := x.brim.slots[si % 64]'(Nat.mod_lt _ (by decide))
     let drains := fun (ys : List FVal) (p : BrimRows) (k0 : Core) => r.aux.drop 2 = [] ∧
       (x.brim.prog.contains 6 = true → si < x.brim.mask.length) ∧
       readAcc s.myCore x (o.acc + i) = .ok ys ∧ brimRows s.myCore x q i = .ok p ∧
       (if o.clr then writeAcc s.myCore x (o.acc + i) (List.replicate 256 (.fin false 0 0)) = .ok k0 else k0 = s.myCore)
     let out := fun (ys : List FVal) (p : BrimRows) =>
       x.brim.prog.foldl (fun (a : BrimSlot × List FVal) c => brimStep x.brim si v p a.1 a.2 c) (z, ys)
     (∀ ys p k0, i < o.n10 → x.brim.prog.contains 12 = true → drains ys p k0 → ∃ (y : Ctx) (r' : Run), ends (.adrain o) k0 y r' ∧
       r'.done = i + 1 ∧ (r'.fin = true ↔ i + 1 = o.n10) ∧ slotAfter_ y (out ys p).1) ∧
     (i < o.n10 → x.brim.prog.contains 12 = false →
       (∀ d r', dd = some d → r.dstRow = none → (∀ f, operandFmt x q d.geo.firstRow (d.geo.slots * d.geo.rps) ≠ .ok f) →
         TakesSlot x r d 1 1 r' → stands (.adrain o) r') ∧
       ∀ gov ty f, SideFmt x r dd (rowOf q.cap.sa) gov → gov.drain = some (ty, f) →
         let len := 256 * ty.width / 8
         let w := r.aux.headD 0
         let lo := i * len + w
         let hi := match dd with
           | none => (i + 1) * len
           | some d => min ((i + 1) * len) ((lo / (256 * d.geo.rps) + 1) * (256 * d.geo.rps))
         let whole := hi = (i + 1) * len
         let moves := fun (y : Ctx) => sideEnd dd y (hi % 256 == 0 && slotEnds dd (hi / 256))
         let goes := fun (r' : Run) (rest : Nat) => (whole → r'.done = i + 1 ∧ (r'.fin = true ↔ i + 1 = o.n10)) ∧
           (¬ whole → r'.done = i ∧ r'.aux.headD 0 = hi - i * len ∧ r'.aux.drop 2 = [rest])
         (∀ d, dd = some d → o.n10 * len % 256 = 0 ∧ sideFits dd (o.n10 * len / 256) = true) →
         (∀ d r', dd = some d → r.slotAt 1 = none → TakesSlot x r d 1 1 r' → stands (.adrain o) r') ∧
         ∀ ds, SideSlot r dd 1 ds →
           let a := sideRow dd (rowOf q.cap.sa) ds (lo / 256) * 256 + lo % 256
           (dd ≠ none → agreeRows x q gov ((rowsTouched lo hi).map fun p => sideRow dd 0 ds p.1) = .ok ()) →
           (∀ ys p k0 k, drains ys p k0 →
             (dd = none → ∃ h, operandFmt x q (rowOf q.cap.sa) ((o.n10 * len + 255) / 256) = .ok h) →
             let e := encodeSpan ty f false (x.gensAt q.cap.gen).brim (out ys p).2
             let n := 8 * (hi - lo) / ty.width
             writeSpan k0 x q ty a (e.1.take n) e.2.1 = .ok k →
             ∃ (y : Ctx) (r' : Run), ends (.adrain o) k (moves y) r' ∧ goes r' (ofElems ty.width (e.1.drop n)) ∧
               slotAfter_ y (out ys p).1 ∧ y.gensAt q.cap.gen = { x.gensAt q.cap.gen with brim := e.2.2 }) ∧
           (∀ rest more k, r.aux.drop 2 = rest :: more → writeBytes s.myCore x a (hi - lo) rest = .ok k →
             ∃ r' : Run, ends (.adrain o) k (moves x) r' ∧ goes r' (rest / 2 ^ (8 * (hi - lo)))))) ∧
    -- BSET
    ((o.sa = 0 → exec (.bset o) s = .next (s.putCtx ((brim { x.brim with prog := o.brimSteps, param := 0 }).setRun (r.did true)))) ∧
     (∀ p, o.sa ≠ 0 → readRow s.myCore x (rowOf q.cap.sa) = .ok p →
       exec (.bset o) s = if p.extractLsb' 80 1968 = 0 then
           .next (s.putCtx ((brim { x.brim with prog := o.brimSteps, param := p }).setRun (r.did true)))
         else .next (s.putCtx (x.setRun (r.faulted .illegal 6 0 0))))) ∧
    -- BSAMP
    ((o.possrc = true → ∀ i, i < o.slots → o.first + i < x.brim.mask.length) →
      ∃ y : Brim, exec (.bsamp o) s = .next (s.putCtx ((brim y).setRun (r.did true))) ∧ y = { x.brim with slots := y.slots } ∧
        ∀ i : Fin 64, if o.first ≤ i.val ∧ i.val < o.first + o.slots then
            (y.slots[i]).kh = o.kh ∧ (y.slots[i]).heap = [] ∧ (y.slots[i]).candV = 0xFF800000 ∧ (y.slots[i]).candI = 0xFFFFFFFF ∧
            (y.slots[i]).m = 0xFF800000 ∧ (y.slots[i]).l = 0 ∧ (y.slots[i]).invt = inverseTemp q.cap.temp ∧
            (y.slots[i]).seed = fieldOf q.cap.seed 0 32 ∧
            (o.possrc = false → (y.slots[i]).pos = BitVec.ofNat 32 (q.cap.sa.toNat + (i.val - o.first))) ∧
            (o.possrc = true → ∃ m, x.brim.mask[i.val]? = some m ∧ (y.slots[i]).pos = m.pos)
          else y.slots[i] = x.brim.slots[i]) ∧
    -- BREAD
    (∀ k, r.done < o.slots →
      let z := x.brim.slots[(o.first + r.done) % 64]'(Nat.mod_lt _ (by decide))
      writeBytes s.myCore x (rowOf q.cap.sa * 256 + 768 * r.done) 768 z.bytes = .ok k →
      ends (.bread o) k x (r.did (r.done + 1 == o.slots)))) ∧
  -- a row decoded with what was read once is the row; a column's sum; what BREAD writes of a slot
  (∀ (k : Core) (x : Ctx) (q : QWord) (t : ElemType) (row first n kk : Nat) (sides : List Nat) (vs : List FVal),
    first + n ≤ kk → spanSides k x q t row kk = .ok sides → decodeSpan k x q t row first n = .ok vs →
    decodeSpanWith k x q t row first n sides = .ok vs) ∧
  (∀ ps : List (FVal × List FVal), ps ≠ [] → (∀ p ∈ ps, p.2.length = 256) →
    colSums ps = (List.range 256).map fun c => FVal.sum (ps.map fun p => p.1.mul (p.2.getD c .nan))) ∧
  (∀ z : BrimSlot, z.heap.length ≤ 64 →
    let w := fun j : Nat => z.bytes / 2 ^ (32 * j) % 2 ^ 32
    w 0 = z.candV.toNat ∧ w 1 = z.candI.toNat ∧ w 2 = z.m.toNat ∧ w 3 = z.l.toNat ∧ w 4 = bits32 z.lse % 2 ^ 32 ∧ w 5 = z.heap.length ∧
    w 6 = z.pos.toNat ∧ (∀ j, 7 ≤ j → j < 64 → w j = 0) ∧
    ∀ j, j < 64 → w (64 + 2 * j) = (match z.heap[j]? with | some p => p.1.toNat | none => 0xFF800000) ∧
      w (65 + 2 * j) = (match z.heap[j]? with | some p => p.2.toNat | none => 0xFFFFFFFF))

/-- A unit of PRED, PCHK, PSTAT, ACCEPT and FRAGSET, and a stream word at the predictor. A word whose parts hold completes with the
effect of its rule; a stream word whose lengths differ, or whose checked masks meet, holds a class-A fault and writes nothing
(R195 to R199, R204 to R211).
Where the manual leaves a point open, the clause is the model's choice (log 21, 48, 54). -/
def Obligations.PredictorAcceptanceAndStreamMacros : Prop :=
  (∀ (s : State) (x : Ctx) (e : Eng) (r0 : Run) (o : EM), EngRuns s x e r0 → r0.done = 0 →
    let r : Run := { r0 with started := true }
    let q := r.q
    let row := rowOf q.cap.sc
    -- PRED
    (∀ vs k (fs : Nat → Nat),
      let d := fieldNat q.cap.pred 0 16
      let len := 64 * 2 ^ fieldNat q.cap.pred 16 2
      let pol := q.cap.pred.getLsbD 18
      let cx : Fin 16 := Fin.ofNat 16 (fieldNat q.cap.pred 24 4)
      let cf : Fin 16 := Fin.ofNat 16 (fieldNat q.cap.pred 28 4)
      let seeds := rimeSeeds (fieldOf q.cap.seed 32 32)
      -- the comparison value of stream clock u after n draws
      let draw := fun (c : Fin 16) (u : Nat) => ((rimeStep c)^[u + 1] seeds[c]).toNat / 65536
      let xBit := fun i u : Nat => decide (draw cx (i * len + u) < streamOperand pol (vs.getD i .nan))
      let fBit := fun j i u : Nat => decide (draw cf ((j * d + i) * len + u) < fs j / 2 ^ (16 * i) % 2 ^ 16)
      let count := fun j => ((List.range d).flatMap fun i => (List.range len).filter fun u =>
        if pol then xBit i u == fBit j i u else xBit i u && fBit j i u).length
      let score := fun j => if pol then 2 * (count j : Int) - (d * len : Nat) else count j
      let sel := (List.range o.nn).filter fun j => decide (signedOf 32 (fieldNat q.cap.pred 32 32) ≤ score j)
      d ≠ 0 → cx ≠ cf → predElems s.myCore x q (rowOf q.cap.sa) d = .ok vs → vs.length = d →
      (∀ j, j < o.nn → readBytes s.myCore x ((rowOf q.cap.sb + j * ((2 * d + 255) / 256)) * 256) (2 * d) = .ok (fs j)) →
      writeBytes s.myCore x (row * 256) (4 * (o.nn + 1)) (listBytes sel) = .ok k →
      exec (.pred o) s = .next ((s.putCore k).putCtx (((x.count 0 1).count 1 sel.length).setRun (r.did true)))) ∧
    (fieldNat q.cap.pred 0 16 ≠ 0 → fieldNat q.cap.pred 24 4 = fieldNat q.cap.pred 28 4 →
      exec (.pred o) s = .next (s.putCtx (x.setRun (r.faulted .corr 2 0 0)))) ∧
    -- PCHK: it completes, or holds MISSLIM past the limit in trap mode with its list written
    (∀ plist miss k, fieldNat q.cap.pred 0 16 ≠ 0 → readPlist s.myCore x row o.nn = .ok plist →
      missList s.myCore x q o.nn o.rk plist = .ok miss →
      writeBytes s.myCore x ((row + (4 * (o.nn + 1) + 255) / 256) * 256) (4 * (o.nn + 1)) (listBytes miss) = .ok k →
      let n := miss.length
      let past := decide (fieldNat q.cap.lim 0 16 < n)
      ∃ y : Ctx, y = { x with sys := { x.sys with misscnt := y.sys.misscnt }, pstat := y.pstat } ∧
        (∀ i : Fin 6, y.pstat[i] = if i = 4 then max x.pstat[(4 : Fin 6)] n
          else min (x.pstat[i] + (if i = 2 then 1 else if i = 3 then n else if i = 5 then (if past then 1 else 0) else 0))
            (if i = 0 ∨ i = 1 then x.pstat[i] else 2 ^ 64 - 1)) ∧
        if past = true ∧ q.cap.lim.getLsbD 16 = false then
          exec (.pchk o) s = .next ((s.putCore k).putCtx (y.setRun (({ r with done := 1 } : Run).faulted .misslim 0 n 0))) ∧
            fieldNat y.sys.misscnt 0 16 = n % 65536
        else exec (.pchk o) s = .next ((s.putCore k).putCtx (y.setRun { r.did true with aux := [n, if past then 1 else 0] })) ∧
            y.sys = x.sys) ∧
    -- PSTAT
    (∀ k, writeBytes s.myCore x (rowOf q.cap.sa * 256) 48 (ofElems 64 x.pstat.toList) = .ok k →
      exec (.pstat o) s = .next ((s.putCore k).putCtx
        (({ x with pstat := if o.pclr then Vector.replicate 6 0 else x.pstat } : Ctx).setRun (r.did true)))) ∧
    -- ACCEPT: the path, the policy of its last node and the ring go to its completion
    (∀ rows out ring, readRows s.myCore x (rowOf q.cap.sb) 3 = .ok rows →
      let tr := ofElems 2048 (rows.map BitVec.toNat)
      let path := acceptPath tr o.nodes 64 0
      treeOk tr o.nodes = true → x.rowAt (rowOf q.cap.sa) = .ok out →
      (if o.nocommit then ring = [] else commitRows s.myCore x row (0 :: path) = .ok ring) →
      exec (.accept o) s = .next (s.putCtx (x.setRun { r.did true with
        aux := treePolicy tr path.length :: out :: outRow path (treeTarget tr ((0 :: path).getLastD 0)) :: ring }))) ∧
    exec (.fragset o) s = .next (s.putCtx (x.setRun { r.did true with aux := [o.index.toNat] }))) ∧
  -- the path follows drafts that equal what was sampled at their parent; a ring commit exchanges two slots
  (∀ t n a b rest, acceptPath t n 64 a = b :: rest → 0 < b ∧ b < n ∧ treeParent t b = a ∧ treeDraft t b = treeTarget t a) ∧
  (∀ (g : Ring) (node : Nat), g.ents.length = g.w + 64 → 0 < g.w → node < 64 →
    (g.commit node).head = (g.head + 1) % 2 ^ 64 ∧ (g.commit node).ents[g.head % g.w]? = g.ents[g.w + node]? ∧
    (g.commit node).ents[g.w + node]? = g.ents[g.head % g.w]? ∧
    ∀ i, i ≠ g.head % g.w → i ≠ g.w + node → (g.commit node).ents[i]? = g.ents[i]?) ∧
  -- stream words
  (∀ (s : State) (x : Ctx) (e : Eng) (r0 : Run) (o : V4), EngRuns s x e r0 → MemoryOk s →
    let r : Run := { r0 with started := true }
    let a := x.stream o.va
    let b := x.stream o.vb
    let c := x.stream o.vc
    let stream := fun (w : Instr) (y : Ctx) (z : Stream) => exec w s = .next (s.putCtx ((y.setStream o.vd z).setRun (r.did true)))
    let faults := fun (w : Instr) (code : CauseCode) (detail event : Nat) =>
      exec w s = .next (s.putCtx (x.setRun (r.faulted code detail event 0)))
    -- a stream with these lanes
    let is := fun (z : Stream) (lc : BitVec 2) (acm : BitVec 16) (bit : Nat → Nat → Bool) => z.lc = lc ∧ z.acm = acm ∧
      ∀ i u, i < 32 → u < 64 * 2 ^ lc.toNat → z.bits.getLsbD (512 * i + u) = bit i u
    let at_ := fun (z : Stream) (i u : Nat) => z.bits.getLsbD (512 * i + u)
    let cnt := fun i => (List.range a.len).countP fun u => at_ a i u
    -- the words on one, two and three streams
    (∀ w ∈ [Instr.sand o, .sxnor o, .sor o], a.lc ≠ b.lc → faults w .illegal 8 0) ∧
    (∀ w ∈ [Instr.smux o, .smaj o], ¬ (a.lc = b.lc ∧ a.lc = c.lc) → faults w .illegal 8 0) ∧
    (a.lc = b.lc → a.acm &&& b.acm ≠ 0 → ∀ w ∈ [Instr.sand o, .sxnor o], faults w .corr 0 (a.acm &&& b.acm).toNat) ∧
    (a.lc = b.lc → a.acm &&& b.acm = 0 →
      (∃ z, stream (.sand o) x z ∧ is z a.lc (a.acm ||| b.acm) fun i u => at_ a i u && at_ b i u) ∧
      ∃ z, stream (.sxnor o) x z ∧ is z a.lc (a.acm ||| b.acm) fun i u => at_ a i u == at_ b i u) ∧
    (a.lc = b.lc → ∃ z, stream (.sor o) x z ∧ is z a.lc (a.acm ||| b.acm) fun i u => at_ a i u || at_ b i u) ∧
    (∃ z, stream (.snot o) x z ∧ is z a.lc a.acm fun i u => !at_ a i u) ∧
    (a.lc = b.lc → a.lc = c.lc →
      (c.acm &&& (a.acm ||| b.acm) ≠ 0 → faults (.smux o) .corr 1 (c.acm &&& (a.acm ||| b.acm)).toNat) ∧
      (c.acm &&& (a.acm ||| b.acm) = 0 → ∃ z, stream (.smux o) x z ∧
        is z a.lc (a.acm ||| b.acm ||| c.acm) fun i u => if at_ c i u then at_ b i u else at_ a i u) ∧
      ∃ z, stream (.smaj o) x z ∧ is z a.lc (a.acm ||| b.acm ||| c.acm)
        fun i u => (at_ a i u && at_ b i u) || (at_ a i u && at_ c i u) || (at_ b i u && at_ c i u)) ∧
    -- fresh streams: bit u of lane i compares the class's value of that clock, after the word's reset, with operand i
    (let gs := x.rimeAt r.q.cap.rime
     let fresh := fun (w : Instr) (lc : BitVec 2) (operand : Nat → Nat) => ∃ y z, stream w y z ∧
        y = x.setRimeAt r.q.cap.rime (gs.set (V4.cls o) ((rimeStep (V4.cls o))^[64 * 2 ^ lc.toNat] gs[V4.cls o])) ∧
        is z lc (1 <<< (V4.cls o).val) fun i u => decide (((rimeStep (V4.cls o))^[u + 1] gs[V4.cls o]).toNat / 65536 < operand i)
     fresh (.sgen o) o.lenCode (fun i =>
       let v := r.aux.headD 0 / 2 ^ (32 * i) % 2 ^ 32
       if o.ty = .f32 then streamOperand o.bip (decodeF f32F v) else if o.hi then v / 65536 else v % 65536) ∧
     fresh (.sregen o) a.lc fun i => min (cnt i * 65536 / a.len) 65535) ∧
    -- SLEN, SCLS and SCLS.V
    (∃ z, stream (.slen o) x z ∧ is z o.lenCode a.acm fun i u => at_ a i (u % a.len)) ∧
    stream (.scls o) x { a with acm := o.mask } ∧
    (∃ z, stream (.sclsV o) x z ∧ is z o.lenCode o.mask fun i u =>
      (ofElems 1024 r.aux).testBit (64 * 2 ^ o.lenCode.toNat * i + u)) ∧
    -- SCNT and S2B write vector registers, after the vector results that land by then
    (let due := landBefore .vec (if x.xFresh then x.xclk else x.xclk + 1) s.myCore x
     let writes := fun (w : Instr) (p : Nat) (lane : Nat → Nat) => ∃ t : State, exec w s = .next (t.putCtx (due.2.setRun (r.did true))) ∧
        t = s.putCore { due.1 with vregs := t.myCore.vregs } ∧ (∀ i, i < 32 → elemOf 32 (t.myCore.vregs.read p) i = lane i) ∧
        ∀ v, v ≠ p → t.myCore.vregs.read v = due.1.vregs.read v
     (∀ p l, r.aux = p :: l → writes (.scnt o) p cnt) ∧
     (∀ p l, r.aux = p :: l → o.raw = false → o.ty ≠ .f32 → writes (.s2b o) p fun i => min (cnt i * 65536 / a.len) 65535) ∧
     (∀ p l, r.aux = p :: l → o.raw = false → o.ty = .f32 → writes (.s2b o) p fun i =>
       encodeF f32F .rne false 0 (.fin (decide (o.bip = true ∧ 2 * cnt i < a.len))
         (if o.bip then (2 * (cnt i : Int) - a.len).natAbs else cnt i) (-(a.len.log2 : Int))) 0) ∧
     (o.raw = true → r.aux.length < a.len / 32 → faults (.s2b o) .allot 9 0) ∧
     (o.raw = true → a.len / 32 ≤ r.aux.length → ∃ t : State, exec (.s2b o) s = .next (t.putCtx (due.2.setRun (r.did true))) ∧
       ((r.aux.take (a.len / 32)).Nodup → ∀ j i u, i < 32 → u < a.len → (a.len * i + u) / 1024 = j → j < a.len / 32 →
         (t.myCore.vregs.read (r.aux.getD j 0)).getLsbD ((a.len * i + u) % 1024) = at_ a i u))))

/-! ### Sections, contexts, firmware and the host -/

/-- Section dispatch, satisfied back-references, pushes, retirement and landing: a checked header is counted in its kind and mode and
waits for its back-references, a word joins its queue with what it captures, its timeline number and its token, and the oldest
section of a kind retires when its words are pushed and complete (R32 to R43, R60, R73, R77 to R79). The last row of a PROBE fill
clears PENDING (R241).
Where the manual leaves a point open, the clause is the model's choice (log 22, 37). -/
def Obligations.PipelineEvents : Prop :=
  (∀ (s : State) (x : Ctx) (hdr : Word), s.ctx? = some x →
    (∀ h, decodeHeader hdr = some h → h.trapm = x.trapMode →
      let n := x.dispOf h.trapm
      ∃ y sec, exec (.sectionDispatch hdr) s = .next (s.putCtx y) ∧ y.ctl.pc = x.ctl.pc + 8 ∧ y.ctl.sec = some sec ∧
        sec = { hdr := x.ctl.pc, h := h, uid := x.nextUid, deps := headerDeps h n } ∧
        y.ctl.phase = (if h.kind = .c then .waiting else .inside) ∧ y.hold = .none ∧ y.heldClk = 0 ∧ y.stall = none ∧
        y.dispOf h.trapm = n.set h.kind (n.get h.kind + 1) ∧ y.retOf h.trapm = x.retOf h.trapm ∧
        y.secs = x.secs ++ (if h.kind = .c then [] else
          [{ uid := x.nextUid, kind := h.kind, hdr := x.ctl.pc, len := h.len, trapm := h.trapm, deps := headerDeps h n }])) ∧
    ((∀ h, decodeHeader hdr = some h → h.trapm ≠ x.trapMode) → exec (.sectionDispatch hdr) s = .next (s.trapP x .illegal)) ∧
    (s.cur.unit = .ctl → ∃ y, exec .backReferenceSatisfied s = .next (s.putCtx y) ∧
      y = { x with ctl := { x.ctl with phase := .inside }, hold := .none, heldClk := 0, stall := none }) ∧
    (∀ k q, s.cur.unit = .queue k → s.cur.word = some q → ∃ y, exec .backReferenceSatisfied s = .next (s.putCtx y) ∧
      y = { x with secs := x.secs.map fun t => if t.uid = q.uid then { t with open_ := true } else t })) ∧
  (∀ (h : Header) (n : Counts) (p q r : Kind), h.kind.others = (p, q, r) →
    let names := fun (k : Kind) (f : Nat) => if f = 0xFFFF then 0 else n.get k - f
    (headerDeps h n).get p = names p h.depA ∧ (headerDeps h n).get q = names q h.depB ∧ (headerDeps h n).get r = names r h.depC) ∧
  (∀ (s : State) (x : Ctx) (w : IWord) (c : CtlSec), CtlView s x → x.ctl.sec = some c → c.h.kind ≠ .c →
    let k := c.h.kind
    (x.filled k < 128 → x.tokFull (pushTok w) = false →
      (x.pendr = true → isEM w = false → ∀ r ∈ pushReads w, x.scalarPending r = false) →
      (opOf w = 0x341 → (x.capture w).sb.toNat < 2 ^ 46) →
      ∃ t y q, exec (.wordPush w) s = .next t ∧ Advances s y 1 t ∧ (y.queue k).items = (x.queue k).items ++ [q] ∧
        q.w = w ∧ q.kind = k ∧ q.uid = c.uid ∧ q.hdr = c.hdr ∧ q.idx = c.idx ∧ q.trapm = x.trapMode ∧ q.cap = x.capture w ∧
        (∀ m, ctrOf (opOf w) k = some m → q.num = (x.tl.get m).pushed + 1) ∧
        (∀ m, (y.tl.get m).pushed = (x.tl.get m).pushed + (if ctrOf (opOf w) k = some m then 1 else 0)) ∧
        (∀ j, y.tokCount j = x.tokCount j + (if pushTok w = some j then 1 else 0)) ∧
        (∀ j, j ≠ k → j ≠ .c → (y.queue j).items = (x.queue j).items) ∧
        y.secs = (x.secs.map fun t => if t.uid = c.uid then { t with pushed := t.pushed + 1 } else t) ∧
        y.ctl = { x.ctl with sec := some { c with
          body := if opOf w = 0x1F0 then fieldNat w 0 32 else c.body - 1, rep := opOf w == 0x1F3 } }) ∧
    (x.filled k < 128 → x.tokFull (pushTok w) = false → x.pendr = true → isEM w = false →
      (∃ r ∈ pushReads w, x.scalarPending r = true) → exec (.wordPush w) s = .next (s.trapP x .pend)) ∧
    (128 ≤ x.filled k ∨ x.tokFull (pushTok w) = true → ∃ t, exec (.wordPush w) s = .next t ∧
      Waits s x (.wait (.room k (pushTok w))) t)) ∧
  (∀ (s : State) (c : CoreId) (b : BankId) (x : Ctx), s.ctxAt c b = some x →
    (∀ t : Sec, (∃ q ∈ (x.queue t.kind).items, q.uid = t.uid) ∨ (∃ f ∈ x.flights, f.uid = t.uid) ∨
      (∃ r ∈ x.runs, r.q.uid = t.uid) ∨ (∃ l ∈ x.latchUid, l.1 = t.uid) → x.secBusy t = true) ∧
    (∀ k m t, (x.secs.find? fun t => t.kind == k && t.trapm == m) = some t →
      (x.secBusy t = true ∨ (t.pushed ≠ t.len ∧ t.closed = false) → exec (.sectionRetirement c b k m) s = .next s) ∧
      (x.secBusy t = false → t.pushed = t.len ∨ t.closed = true → ∃ y, exec (.sectionRetirement c b k m) s
          = .next (s.setCtxAt c b (some y)) ∧ y.secs = x.secs.filter (·.uid != t.uid) ∧
        y.retOf m = (if t.counted then (x.retOf m).set k ((x.retOf m).get k + 1) else x.retOf m) ∧
        y.retOf (!m) = x.retOf (!m))) ∧
    (∀ u, ∃ t y, exec (.resultLanding c b u) s = .next t ∧ t.ctxAt c b = some y ∧
      y.flights = x.flights.filter fun f => !(f.unit == u && decide (f.land < x.clk u)))) ∧
  (∀ (s : State) (c : CoreId) (b : BankId) (x : Ctx) (r : Run) (tag blk row rows p : Nat) (o : EM), s.ctxAt c b = some x →
    x.engHead .load = some r → r.q.fill = some (tag, blk, row, rows) → r.done + 1 = rows → (s.core c).owners[1] = some b →
    o = ⟨none, 0, 0, 0, 0, 0, 0, false, false, false, 0, 0⟩ →
    let s' := { s with cur := { core := c, bank := b, unit := .eng .load, word := some r.q } }
    let at_ := (BitVec.ofNat 64 (row * 256)).toNat / 256 + r.done
    ((s.core c).spadBad.contains (tag / 256) = true → exec (.probeFillLanding c b) s
      = .next (s'.putCtx (x.setRun (r.faulted .poison 0x10 0 ((tag / 256 - x.id.sbank * 256) * 256))))) ∧
    ∀ ls u k, (s.core c).spadBad.contains (tag / 256) = false → x.rowAt at_ = .ok p →
      s'.xlatAll x .read (rowSectors o r (BitVec.ofNat 64 blk) r.done 0) = .ok (ls, u) →
      landRow u.myCore x at_ 0 (gatherRow u 0 ls) none = .ok k →
      ∃ k', exec (.probeFillLanding c b) s = .next ((u.putCore k').putCtx (x.setRun (r.did true))) ∧
        let t := natOfBytes (k.spadBytes tag 8)
        k' = if tagBlock t = blk / 2 ^ 10 % 2 ^ 42 then k.putSpadBytes tag (bytesOf 8 (putBits t 1 1 0)) else k)

/-- The scheduling of contexts: one clk of a die's idle slots, every one of which looks, with the owners' takes, the queue unit's service
and one victim of each thief; no record is lost or doubled; dispatch with the lowest free allotments and a cleared start; clearing of
freed rows; ageing; switches by priority, before which the control core issues nothing more; the engines' changes of context, between
the progress units of a macro; parking through the staging bank and the way back (R12, R232, R286 to R299).
Where the manual leaves a point open, the clause is the model's choice (log 33, 35, 36, 66, 67). -/
def Obligations.SchedulingEvents : Prop :=
  (∀ (s : State) (c : CoreId), ∃ t, exec (.idleSlotDispatch c) s = .next t ∧
    let d := dieOf c
    let bare := fun q : QRec => ({ q with level := 0 } : QRec)
    let held := fun u : State => (((coresOf d).flatMap fun e => (u.core e).deque ++ (u.core e).spill ++ (u.core e).due.map (·.rec_)
      ++ ((u.core e).banks.toList.filterMap id).map fun x => x.id.copy) ++ (u.dies[d]).ready ++ (u.dies[d]).held).map bare
    let has := fun (e : CoreId) (q : QRec) (level : Nat) => (∃ p, ⟨q, level, p⟩ ∈ (t.core e).due) ∨
      ∃ b x, t.ctxAt e b = some x ∧ x.id.copy = { q with level := level }
    (∀ e, dieOf e ≠ d → t.core e = s.core e) ∧ (held t).Perm (held s) ∧
    -- the owner's take, the queue unit's service, and the first thief of a core
    (∀ e q, dieOf e = d → s.owns e = some q → has e q q.rec_.prio) ∧
    (∀ e q, s.served d = some (e, q) → has e q q.level ∧ (t.dies[d]).lastCore = e.val) ∧
    (s.served d = none → (t.dies[d]).lastCore = (s.dies[d]).lastCore) ∧
    (∀ v e b, dieOf v = d → (s.thieves v).head? = some (e, b) → s.steals e = [b] → s.owns e = none → (∀ q, s.served d ≠ some (e, q)) →
      let work := (s.core v).deque ++ (s.core v).spill
      let left := if (s.owns v).isSome then work.drop 1 else work
      (∀ q, left.getLast? = some q → ((s.core e).fit q).isSome → has e q q.rec_.prio ∧ (t.core e).steal[b] = 0 ∧
        ((s.thieves v).length = 1 → (t.core v).lastThief = e.val ∧ (t.core v).deque ++ (t.core v).spill = left.dropLast)) ∧
      ((∀ q, left.getLast? = some q → (s.core e).fit q = none) → (t.core e).steal[b] = ((s.core e).steal[b] + 1) % 31)) ∧
    -- the first record of a core that has obtained one starts in its lowest idle bank, or waits
    ∀ e r b, dieOf e = d → (s.idleBanks e).head? = some b →
      ((s.core e).due.head? = some r ∨ ((s.core e).due = [] ∧ (s.core e).fit r.rec_ = some r.place ∧
        ((s.owns e = some r.rec_ ∧ r.level = r.rec_.rec_.prio) ∨ (s.served d = some (e, r.rec_) ∧ r.level = r.rec_.level)))) →
      let q := r.rec_
      let p := r.place
      let k := s.core e
      (s.clockReached d q.clock = true → k.beingCleared q p = false →
        ∃ x, t.ctxAt e b = some x ∧ x = { Ctx.start x.id with outSince := s.tick, begun := s.tick } ∧
          x.id.asid = q.asid ∧ x.id.serial = k.serial + 1 ∧ x.id.bank = b ∧
          x.id.pri = r.level ∧ x.id.priv = q.priv ∧ x.id.replay = q.rec_.replay ∧ x.id.copy.rec_ = q.rec_ ∧
          x.id.vbase = 8 * p.vgroup ∧ x.id.vlen = 8 * (if q.puth then 8 else q.rec_.vgroups) ∧ x.id.sbank = p.sbank ∧
          x.id.snb = p.snb ∧ x.id.abase = 8 * p.agroup ∧ x.id.alen = (if q.puth then 0 else 8 * q.rec_.agroups) ∧
          ∀ v, x.id.vbase ≤ v → v < x.id.vbase + x.id.vlen → (t.core e).vregs.read v = 0) ∧
      (s.clockReached d q.clock = false ∨ k.beingCleared q p = true → r ∈ (t.core e).due)) ∧
  (∀ (s : State) (c : CoreId),
    (∀ b, ((s.core c).phys.isSome = true ∧ (s.core c).banks[b] = none ∧ s.gangHeld c b = false ∧ (s.core c).staging = none ↔
      b ∈ s.idleBanks c ∧ (s.core c).staging = none)) ∧ ((s.core c).due = [] → s.lookers c = s.idleBanks c) ∧
    (∀ b q, (s.lookers c).head? = some b → (s.core c).steal[b] = 0 → (s.core c).deque.head? = some q → ((s.core c).fit q).isSome →
      s.owns c = some q) ∧
    (∀ d e q, s.served d = some (e, q) → s.wants e = some q ∧ dieOf e = d ∧
      (∀ e', dieOf e' = d → (s.wants e').isSome →
        (e.val + 31 - (s.dies[d]).lastCore % 32) % 32 ≤ (e'.val + 31 - (s.dies[d]).lastCore % 32) % 32) ∧
      ∀ p ∈ (s.dies[d]).ready, s.eligible e p = true → p.level < q.level ∨
        (p.level = q.level ∧ (q.stamp < p.stamp ∨ (q.stamp = p.stamp ∧ q.order ≤ p.order)))) ∧
    (∀ b, b ∈ s.steals c ↔ b ∈ s.lookers c ∧ (s.core c).parkedFor b = none ∧
      ((s.lookers c).head? ≠ some b ∨ (s.core c).steal[b] ≠ 0 ∨ (s.owns c = none ∧ s.wants c = none))) ∧
    (∀ b, (s.victim c b).val = 32 * (dieOf c).val + (c.val + 1 + (s.core c).steal[b]) % 32)) ∧
  (∀ (k : Core) (q : QRec) (p : Place), k.fit q = some p →
    (∀ i, i < (if q.puth then 8 else q.rec_.vgroups) → p.vgroup + i ∉ k.usedVec ∧ p.vgroup + i < physRegs / 8) ∧
    (∀ g, g < p.vgroup → ∃ i, i < (if q.puth then 8 else q.rec_.vgroups) ∧ (g + i ∈ k.usedVec ∨ physRegs / 8 ≤ g + i)) ∧
    (q.puth = true → p.sbank = 0 ∧ p.snb = k.msgn ∧ k.msgnNew = []) ∧
    (q.share = none → q.puth = false → p.snb = q.rec_.banks ∧ k.msgn ≤ p.sbank ∧ (∀ m ∈ k.msgnNew, m.1 ≤ p.sbank) ∧
      ∀ i, i < q.rec_.banks → p.sbank + i ∉ k.usedBanks)) ∧
  (∀ (s : State) (c : CoreId) (n : Nat) (rest : List (Bool × Nat)),
    ((s.core c).clearing = (false, n) :: rest → ∃ t, exec (.rowClearingDone c) s = .next t ∧ (t.core c).clearing = rest ∧
      ∀ r, (t.core c).spad.read r = (if r / 256 = n then 0 else (s.core c).spad.read r) ∧
        (r ∈ (t.core c).spadBad ↔ r ∈ (s.core c).spadBad ∧ r / 256 ≠ n)) ∧
    ((s.core c).clearing = (true, n) :: rest → ∃ t, exec (.rowClearingDone c) s = .next t ∧ (t.core c).clearing = rest ∧
      ∀ r, (t.core c).acc.read r = (if r / 8 = n then 0 else (s.core c).acc.read r) ∧
        (r ∈ (t.core c).accBad ↔ r ∈ (s.core c).accBad ∧ r / 8 ≠ n))) ∧
  (∀ s : State, ∃ t, exec .ageingTick s = .next t ∧ t.firm = { s.firm with us := s.firm.us + 1 } ∧
    let limit := fun p => (s.firm.ageus.toList[p]?).getD 0
    let due := fun p since : Nat => decide (limit p ≠ 0) && decide (limit p ≤ s.firm.us + 1 - since)
    let leaves := fun d : DieId => (((coresOf d).flatMap fun c => ((s.core c).deque ++ (s.core c).spill).filter fun q =>
      due q.rec_.prio q.stamp).take ((s.dies[d]).region - (s.dies[d]).ready.length))
    (∀ c, (t.core c).deque ++ (t.core c).spill = ((s.core c).deque ++ (s.core c).spill).filter fun q =>
      !(leaves (dieOf c)).contains q) ∧
    ∀ d, (t.dies[d]).ready =
      ((s.dies[d]).ready.map fun q => if q.level < 7 ∧ due q.level q.entered = true then
        { q with level := q.level + 1, entered := s.firm.us + 1 } else q) ++
      (leaves d).map fun q => { q with level := q.rec_.prio, entered := s.firm.us + 1 }) ∧
  (∀ (k : Core) (want : BankId → Ctx → Bool) (b : BankId), k.best want = some b → ∃ x, k.banks[b] = some x ∧ want b x = true ∧
    ∀ (a : BankId) (y : Ctx), k.banks[a] = some y → want a y = true →
      y.id.pri < x.id.pri ∨ (y.id.pri = x.id.pri ∧ x.outSince ≤ y.outSince)) ∧
  (∀ (s : State) (c : CoreId) (x : Ctx), (x.parking = true ∨ x.fatal.isSome = true → s.ready c x = false) ∧
    (x.parking = false → x.fatal = none →
    (x.hold = .none ∨ x.hold = .busy ∨ x.hold = .full ∨ (∃ h, x.hold = .wait (.handle h)) → s.ready c x = true) ∧
    (∀ w, x.hold = .wait w → (∀ h, w ≠ .handle h) → x.wakes = false → s.ready c x = s.waitOver c x w) ∧
    (∀ i va, x.hold = .stall i va → x.wakes = false → (s.ready c x = true ↔ (s.entry x.id.asid i).res = true ∨
      ((s.entry x.id.asid i).stallus ≠ 0 ∧ (s.entry x.id.asid i).stallus ≤ s.firm.us - x.stalledFrom i s.firm.us))) ∧
    (∀ i va, x.hold = .dupw i va → x.wakes = false → (s.ready c x = true ↔ (s.entry x.id.asid i).dup = 0)))) ∧
  (∀ (s : State) (c : CoreId) (b : BankId),
    ((s.core c).active.bind (s.ctxAt c) = none → (s.core c).best (fun _ x => s.ready c x) = some b →
      ∃ t, exec (.contextSwitch c) s = .next t ∧ (t.core c).active = some b ∧ ∀ d a, t.ctxAt d a = s.ctxAt d a) ∧
    (∀ a x, (s.core c).active = some a → s.ctxAt c a = some x →
      let goes := fun (e : BankId) (y : Ctx) => decide (e ≠ a) && s.ready c y && (decide (x.id.pri < y.id.pri) ||
        decide (s.firm.blkthr ≤ x.heldClk) || (match x.hold with | .stall _ _ => true | .dupw _ _ => true | _ => false))
      (x.midWord = false → x.midClk = false → (s.core c).best goes = some b →
        ∃ t, exec (.contextSwitch c) s = .next t ∧ (t.core c).active = some b ∧
          t.ctxAt c a = some { x with outSince := s.tick, heldClk := 0, ctlFresh := true } ∧
          ∀ d e, (d ≠ c ∨ e ≠ a) → t.ctxAt d e = s.ctxAt d e) ∧
      (x.midWord = true ∨ x.midClk = true ∨ (s.core c).best goes = none → exec (.contextSwitch c) s = .next s) ∧
      -- once a switch is decided, the control core issues nothing more
      (s.turn = .control c a → x.fatal = none → x.midWord = false → x.midClk = false → (s.core c).best goes ≠ none →
        step s = .next (turnState s c a .ctl)))) ∧
  (∀ (s : State) (c : CoreId) (b : BankId),
    (∀ e, (s.core c).engineNext (s.core c).owners[Eng.owner e] (·.engWork e) (fun y => s.engReady c y e) = some b →
      (let mid := ((s.core c).owners[Eng.owner e]).any fun a => (s.ctxAt c a).any (·.engMid e)
       (mid = true → exec (.engineContextChange c (some e)) s = .next s) ∧
       (mid = false → ∃ t, exec (.engineContextChange c (some e)) s = .next t ∧ (t.core c).owners[Eng.owner e] = some b ∧
        (∀ i : Fin 6, i ≠ Eng.owner e → (t.core c).owners[i] = (s.core c).owners[i]) ∧ ∀ d a, t.ctxAt d a = s.ctxAt d a)) ∧
      ∃ y, s.ctxAt c b = some y ∧ y.engWork e = true ∧ ∀ a x, s.ctxAt c a = some x → s.engReady c x e = true → a ≠ b →
        x.id.pri ≤ y.id.pri ∧ (x.id.pri = y.id.pri → (s.core c).active ≠ some a)) ∧
    ((s.core c).engineNext (s.core c).owners[0] (·.vecWork) (Ctx.vecReady (s.core c)) = some b → (s.core c).vecMayLeave b = true →
      ∃ t, exec (.engineContextChange c none) s = .next t ∧ (t.core c).owners[0] = some b ∧
        (∀ i : Fin 6, i ≠ 0 → (t.core c).owners[i] = (s.core c).owners[i]) ∧
        ∀ d a, t.ctxAt d a = if d = c ∧ (s.core c).owners[0] = some a then
          (s.ctxAt d a).map fun x => { x with xFresh := true } else s.ctxAt d a)) ∧
  (∀ (s : State) (d : DieId) (c : CoreId) (b : BankId) (x : Ctx),
    (s.parkCore d = some c → ∃ p, (s.core c).lowest = some p ∧ (s.core c).parked.length < 4 ∧
      ∃ q ∈ (s.dies[dieOf c]).ready, s.eligible c q = true ∧ p < q.level) ∧
    ((s.core c).parkBank = some b → ∃ y, s.ctxAt c b = some y ∧ y.fatal = none ∧ ∀ a z, s.ctxAt c a = some z → z.fatal = none →
      y.id.pri ≤ z.id.pri) ∧
    (s.stagedOn d = none → s.parkingOn d = none → s.parkCore d = some c → (s.core c).parkBank = some b → s.ctxAt c b = some x →
      exec (.park d) s = .next (s.setCtxAt c b (some { x with parking := true }))) ∧
    (s.stagedOn d = none → s.parkingOn d = some (c, b, x) → s.parkable c b x = true → (s.core c).staging = none →
      ∃ t, exec (.park d) s = .next t ∧ t.ctxAt c b = none ∧ (t.core c).staging
          = some ({ x with outSince := s.tick, heldClk := 0, ctlFresh := true, xFresh := true }, false) ∧
        (t.core c).parked = (s.core c).parked ∧ (t.core c).active ≠ some b ∧
        (∀ i : Fin 6, (t.core c).owners[i] ≠ some b) ∧ ∀ a, a ≠ b → t.ctxAt c a = s.ctxAt c a) ∧
    (s.stagedOn d = none → s.parkingOn d = some (c, b, x) → s.parkable c b x = false → exec (.park d) s = .next s) ∧
    (s.stagedOn d = some c → (s.core c).staging = some (x, false) → exec (.park d) s = .next (s.setCore c { s.core c with
      staging := none
      parked := (s.core c).parked ++ [x] }))) ∧
  (∀ (s : State) (c : CoreId) (x : Ctx),
    (s.resumable c x = true ↔ (s.core c).banks[x.id.bank] = none ∧ s.gangHeld c x.id.bank = false ∧ s.lookers c ≠ [] ∧
      ∀ q, s.readyFor c = some q → q.level ≤ x.id.pri) ∧
    ((s.core c).staging = none → x ∈ (s.core c).parked → s.resumable c x = true →
      (∀ y ∈ (s.core c).parked, s.resumable c y = true → y ≠ x → y.id.pri < x.id.pri) →
        exec (.parkedResume c) s = .next (s.setCore c { s.core c with
          staging := some (x, true)
          parked := (s.core c).parked.filter fun y => y.id.serial != x.id.serial })) ∧
    ((s.core c).staging = some (x, true) → ∃ t, exec (.parkedResume c) s = .next t ∧ (t.core c).staging = none ∧
      t.ctxAt c x.id.bank = some { x with parking := false } ∧ ∀ a, a ≠ x.id.bank → t.ctxAt c a = s.ctxAt c a))

/-- A stall past STALLUS, counted from the translation that found that segment absent, raises RESID, at the control core of class P at a
boundary of the active context and in an engine of class A; a segment that a parked writer
waits for goes over DUP 0b10 to 0b00, and the engine's write then translates again; the copy that an accretion makes serves fetches
once it has landed (R227, R305, R308, R318).
Where the manual leaves a point open, the clause is the model's choice (log 20). -/
def Obligations.StallDuplicationAndAccretionEvents : Prop :=
  (∀ (s : State) (c : CoreId) (b : BankId) (x : Ctx) (i va since : Nat), s.ctxAt c b = some x →
    let g := s.entry x.id.asid i
    let here := fun u : Unit_ => { s with cur := { core := c, bank := b, unit := u } }
    let spent := fun since : Nat => g.res = false ∧ g.stallus ≠ 0 ∧ g.stallus ≤ s.firm.us - since
    (∀ l, x.hold = .stall i va → x.stall = some (x.ctl.addr, l) → l.lookup i = some since →
      (spent since → x.midClk = false → (s.core c).active = some b → exec (.stallLimitExpiry c b none) s
        = .next (((here .ctl).noteSeg x.id.asid i).trapP x .resid 0 0 va)) ∧
      (¬ spent since ∨ x.midClk = true ∨ (s.core c).active ≠ some b → exec (.stallLimitExpiry c b none) s = .next (here .ctl))) ∧
    (∀ e r, (x.eng.get e).find? (·.stall.isSome) = some r → r.stall = some (i, va, since) →
      (spent since → exec (.stallLimitExpiry c b (some e)) s
        = .next (((here (.eng e)).noteSeg x.id.asid i).putCtx (x.setRun (r.restart.faulted .resid 0 0 va)))) ∧
      (¬ spent since → exec (.stallLimitExpiry c b (some e)) s = .next (here (.eng e)))) ∧
    (∀ t, (g.dup = 0 → t = s) → (g.dup = 1 → t = s.setDup x.id.asid i 2 g.dhold) →
        (2 ≤ g.dup → t = s.setDup x.id.asid i 0 (2 ^ (s.segHome g).val)) →
      (x.hold = .dupw i va → exec (.dupw c b none) s = .next t) ∧
      (∀ e r, (x.eng.get e).find? (·.dupw.isSome) = some r → r.dupw = some (i, va) → exec (.dupw c b (some e)) s
        = .next (if (t.entry x.id.asid i).dup = 0 then t.setCtxAt c b (some (x.setRun { r with dupw := none })) else t))) ∧
    ((∀ i va, x.hold ≠ .dupw i va) → exec (.dupw c b none) s = .next s)) ∧
  (∀ (s : State) (n : Nat) (o : Obj) (row : Nat), s.obj n = some o →
    let r := o.row row
    (r.landed < r.level → exec (.accretionCopyLanded n row) s = .next (s.setObj (o.putRow { r with landed := r.level }))) ∧
    (r.level ≤ r.landed → exec (.accretionCopyLanded n row) s = .next s)) ∧
  (∀ (o : Obj) (r : RowRec), (o.putRow r).row r.row = r ∧ ∀ j, j ≠ r.row → (o.putRow r).row j = o.row j)

/-- Transactions that arrive for a module in service are performed and answered, or refused with R327's DETAIL; each answer to a
transaction of this module gives its rows to its macro, is tried again, or faults it; an event goes to every host; FTOUT and ARMUS
expire (R176, R244, R327 to R330, R336, R338, R339).
Where the manual leaves a point open, the clause is the model's choice (log 7, 34, 51, 62). -/
def Obligations.FabricEvents : Prop :=
  (∀ (s : State) (t : Flit),
    let has := (s.space t.asid).isSome = true
    let armed := s.gangs.any (·.rec_.asid == t.asid) = true
    let ops : List (Instr × Nat × Recv) := [(.receivePut t, 1, s.recvPut t), (.receiveGet t, 2, s.recvGet t),
      (.receivePuth t, 3, s.recvPuth t), (.receiveCollective t, 5, s.recvCollective t)]
    (¬ (s.firm.st = .ready ∧ t.dst = s.firm.node) → (∀ p ∈ ops, exec p.1 s = .next s) ∧ exec (.receiveAtomic t) s = .next s) ∧
    (s.firm.st = .ready → t.dst = s.firm.node →
      (¬ has → (∀ p ∈ ops, exec p.1 s = .next (s.answer (if p.2.1 = 2 then 1 else p.2.1) t (some 3) [])) ∧
        exec (.receiveAtomic t) s = .next (s.answer 4 t (some 3) [])) ∧
      (has → armed → ∀ p ∈ ops, exec p.1 s = .next (s.answer (if p.2.1 = 2 then 1 else p.2.1) t (some 6) [])) ∧
      (∀ p ∈ ops, ∀ u rows, p.2.2 = .ok (some (u, rows)) → exec p.1 s = .next (u.answer (if p.2.1 = 2 then 1 else p.2.1) t none rows)) ∧
      (∀ p ∈ ops, ∀ c, p.2.2 = .error c → exec p.1 s
        = .next ((s.refused p.2.1 t c).answer (if p.2.1 = 2 then 1 else p.2.1) t (some c) [])) ∧
      (∀ p ∈ ops, p.2.2 = .ok none → exec p.1 s = .next s) ∧
      (has → ¬ armed →
        -- a PUT's sectors, a GET's sectors, a PUTH's payload and continuation, a collective's sums
        (∀ ps u v, s.recvPlaces t t.rows.length .write = .ok (ps, u) →
          u.landEverywhere (ps.flatMap fun (i, k, l) => match l with
            | .mem pa => cellsAt pa (sectorBytes (t.rows.getD i 0) k)
            | _ => []) = some v → exec (.receivePut t) s = .next (v.answer 1 t none [])) ∧
        (∀ ps u, s.recvPlaces t t.nrows .read = .ok (ps, u) →
          exec (.receiveGet t) s = .next (u.answer 1 t none ((List.range t.nrows).map fun i =>
            BitVec.ofNat 2048 (((ps.filter (·.1 == i)).map fun (_, k, l) => u.recvRead l <<< (256 * k)).foldr (· + ·) 0)))) ∧
        (let c : CoreId := ⟨fieldNat t.addr 38 7, BitVec.isLt _⟩
         let row := fieldNat t.addr 8 13
         let k := s.core c
         let land := s.setCore c (t.rows.zipIdx.foldl (fun k (v, i) => k.putRow (row + i) v) k)
         let q : QRec := { rec_ := puthRec t.handler (row * 256) c.val t.prio, asid := t.asid, stamp := s.firm.us, priv := false,
                           level := t.prio.toNat, puth := true }
         (k.msgnNew ≠ [] ∨ k.msgn = 0 ∨ k.msgn * 256 < row + t.rows.length →
           exec (.receivePuth t) s = .next (s.answer 3 t (some 2) [])) ∧
         (k.msgnNew = [] → k.msgn ≠ 0 → row + t.rows.length ≤ k.msgn * 256 →
           exec (.receivePuth t) s = .next (if s.pushHeld c q then s
             else (land.pushChecked c q (s.vc[dieOf c]).toList).answer 3 t none []))) ∧
        (∀ ps u v, s.recvPlaces t t.rows.length .write = .ok (ps, u) → ps.all (fun p => inShared p.2.2) = true →
          ps.foldlM (fun (s : State) p => s.addSector t p) u = some v →
            exec (.receiveCollective t) s = .next (v.answer 5 t none []))) ∧
      -- an ATOMIC
      (has → (t.resv = true ∨ 10 ≤ t.aop.toNat ∨ t.size.toNat < 2 ∨ 3 < t.size.toNat ∨ (t.aop ≠ 9 ∧ t.cmp ≠ 0)) →
        exec (.receiveAtomic t) s = .next (s.answer 4 t (some 8) [])) ∧
      (has → t.resv = false → t.aop.toNat < 10 → t.size = 2 ∨ t.size = 3 → t.aop = 9 ∨ t.cmp = 0 →
        let n := 2 ^ t.size.toNat
        (∀ e, s.recvXlat t.asid (t.addr.toNat / n * n) .write = .error e →
          exec (.receiveAtomic t) s = .next ((s.refused 4 t 7).answer 4 t (some 7) [])) ∧
        (∀ pa u, s.recvXlat t.asid (t.addr.toNat / n * n) .write = .ok (.mem pa, u) →
          (pa < dsmBase → exec (.receiveAtomic t) s = .next ((s.refused 4 t 5).answer 4 t (some 5) [])) ∧
          (dsmBase ≤ pa → ∀ old v, u.bankOp (homeDie pa) pa n none (fun old => amoValue t.aop.toNat (8 * n) old
              (t.operand.toNat % 2 ^ (8 * n)) (t.cmp.toNat % 2 ^ (8 * n)))
              (fun old => amoWrites t.aop.toNat old (t.cmp.toNat % 2 ^ (8 * n))) = some (old, v) →
            exec (.receiveAtomic t) s = .next (v.answer 4 t none [] old)))))) ∧
  -- a refusal has no effect but on which segments were last used (R311)
  (∀ (s : State) (typ : Nat) (t : Flit) (c : Nat), ∃ ms, s.refused typ t c = { s with models := ms } ∧
    ms.map (fun m => (m.asid, m.defn, m.swap, m.cmd, m.leaving)) = s.models.map fun m => (m.asid, m.defn, m.swap, m.cmd, m.leaving)) ∧
  (∀ (s : State) (typ : Nat) (t : Flit) (c : Option Nat) (rows : List Row) (old : Nat), ∃ m, s.answer typ t c rows old
    = { s with outbox := s.outbox ++ [m] } ∧ m.typ = typ ∧ m.resp = true ∧ m.refuse = c ∧ m.flit.dst = t.src ∧
      m.flit.src = s.firm.node ∧ m.flit.tag = t.tag ∧ m.flit.rows = rows ∧ m.flit.operand = BitVec.ofNat 64 old) ∧
  -- the bytes of a header flit
  (∀ m : Sent, let field := fun off n => natOfBytes ((m.header.drop off).take n)
    m.header.length = 256 ∧ field 0 1 = m.typ % 256 ∧ field 1 1 = (if m.resp then 1 else 0) + (if m.refuse.isSome then 2 else 0) ∧
      field 2 1 = m.refuse.getD 0 % 256 ∧ field 3 1 = m.flit.prio.toNat ∧ field 4 4 = m.flit.src.toNat ∧
      field 8 4 = m.flit.dst.toNat ∧ field 12 2 = m.flit.asid.toNat ∧ field 14 2 = m.flit.rows.length % 2 ^ 16 ∧
      field 16 8 = m.flit.addr.toNat ∧ field 24 8 = m.flit.tag.toNat ∧
      (m.typ = 3 → field 32 8 = m.flit.handler.toNat) ∧ (m.typ = 4 → field 40 8 = m.flit.operand.toNat) ∧
      (m.typ = 6 → (m.header.drop 32).take m.body.length = m.body.take 224)) ∧
  -- a header that a module reads back gives the transaction that the sender laid out
  (∀ m : Sent, m.resp = false → m.flit.rows.length < 2 ^ 16 → ∃ f : Flit, wireInstr m.header m.flit.rows = (match m.typ with
      | 1 => some (.receivePut f) | 2 => some (.receiveGet f) | 3 => some (.receivePuth f) | 4 => some (.receiveAtomic f)
      | 5 => some (.receiveCollective f) | _ => wireInstr m.header m.flit.rows) ∧
    f.src = m.flit.src ∧ f.dst = m.flit.dst ∧ f.asid = m.flit.asid ∧ f.addr = m.flit.addr ∧ f.tag = m.flit.tag ∧
    f.prio = m.flit.prio ∧ f.rows = m.flit.rows ∧ (m.typ = 3 → f.handler = m.flit.handler) ∧
    (m.typ = 4 → f.aop = m.flit.aop ∧ f.size = m.flit.size ∧ f.operand = m.flit.operand) ∧ (m.typ = 5 → f.atype = m.flit.atype)) ∧
  -- an event goes to every host of a module in service, once
  (∀ (s : State) (code : Nat) (args : List Nat), let t := s.send code args
    t.firm.evCount = s.firm.evCount + 1 ∧ SameMemory s t ∧ t.cores = s.cores ∧ (s.firm.st ≠ .ready → t.outbox = s.outbox) ∧
    (s.firm.st = .ready → ∃ l, t.outbox = s.outbox ++ l ∧ l.map (·.flit.dst) = s.firm.hosts ∧ ∀ m ∈ l, m.typ = 6 ∧ m.resp = false ∧
      m.flit.src = s.firm.node ∧ m.body.length = 224 ∧ m.body.take 4 = [0, BitVec.ofNat 8 code, 2, 0])) ∧
  (∀ (s : State) (src : BitVec 19) (code : Byte), exec (.rxbad src code) s =
    .next (if s.firm.st = .ready ∧ (code = 0 ∨ 7 ≤ code.toNat) then s.send 0x17 [src.toNat, code.toNat] else s)) ∧
  -- answers and their limits
  (∀ (s : State) (tag : Word) (t : Txn), s.txn tag = some t → t.flit.dst ≠ s.firm.node →
    (∀ rows, exec (.receiveAnswer tag none rows) s = .next (s.setTxn { t with reply := some rows })) ∧
    (∀ rows, exec (.receiveAnswer tag (some 6) rows) s = .next (s.resend { t with since := some (t.since.getD s.firm.us) })) ∧
    (∀ (x : Ctx) (r : Run), s.ctxAt t.core t.bank = some x →
      (x.runs.find? fun r => r.ctr == .tlc && r.q.num == t.num) = some r →
      let stopped := fun detail : Byte => x.setRun { r.restart with
        fault := some { code := .remote, cls := .a, detail := detail, eng := some .tlc, num := r.q.num } }
      let faults := fun (detail : Byte) (pend : List Cause) =>
        (s.setCtxAt t.core t.bank (some { stopped detail with pendE := x.pendE ++ pend })).dropTxn t.flit.tag
      (∀ rows c, c ≠ 6 → exec (.receiveAnswer tag (some c) rows) s = .next (faults c [])) ∧
      (s.firm.ftout ≤ s.firm.us - t.sent → exec (.fabricTimeout tag) s = .next (faults 1 [])) ∧
      (∀ u, t.since = some u → s.firm.ftout ≤ s.firm.us - u → exec (.gangRetryTimeout tag) s = .next (faults 6
        [{ code := .timeout, cls := .e, event := BitVec.ofNat 64 t.flit.dst.toNat }]))) ∧
    (s.firm.us - t.sent < s.firm.ftout → exec (.fabricTimeout tag) s = .next s)) ∧
  (∀ (s : State) (n : Nat) (g : Gang), s.gangs.find? (·.num == n) = some g →
    exec (.gangexp n) s = .next (if g.armus ≤ s.firm.us - g.since then (s.disarm g).send 0x18 [n] else s) ∧
    (∀ p ∈ (s.disarm g).gangs, p.num ≠ g.num) ∧ ∀ v ∈ ((s.disarm g).core g.core).reserved, v.gang ≠ g.num)

/-- A host command before READY is kept for the answer BUSY, from a node that is no host it is answered DENIED, with an answered SEQ by
the stored response, after RETIRE BUSY, and with a reserved field BADCMD; it waits behind earlier commands on the same model context,
address space or gang (R331 to R333). Performed, each has its own effect and its response (R286, R303, R309 to R312, R338).
Where the manual leaves a point open, the clause is the model's choice (log 6, 42, 43, 44, 56, 57, 58, 59, 60). -/
def Obligations.HostCommands : Prop :=
  (∀ (s : State) (h : HostCmd) (w : Instr) (opc : Nat) (cls : CmdClass),
    (∃ a, w = .createSpace h a ∧ opc = 1 ∧ cls = .other) ∨ (∃ a n es os ms, w = .loadSegments h a n es os ms ∧ opc = 2 ∧ cls = .other) ∨
      (∃ m, w = .swapin h m ∧ opc = 3 ∧ cls = .other) ∨ (∃ m l, w = .evict h m l ∧ opc = 4 ∧ cls = .other) ∨
      (∃ d a r, w = .launch h d a r ∧ opc = 5 ∧ cls = .launch) ∨ (∃ n a u r, w = .gangArm h n a u r ∧ opc = 6 ∧ cls = .launch) ∨
      (∃ n, w = .gangGo h n ∧ opc = 7 ∧ cls = .other) ∨ (w = .queryEventLog h ∧ opc = 8 ∧ cls = .inquiry) ∨
      (∃ v, w = .setBlkthr h v ∧ opc = 9 ∧ cls = .other) ∨ (∃ n, w = .attest h n ∧ opc = 10 ∧ cls = .inquiry) ∨
      (∃ d, w = .retire h d ∧ opc = 11 ∧ cls = .other) ∨
      (∃ o, w = .unknownCommand ⟨h, o⟩ ∧ opc = o.toNat ∧ cls = (if o = 8 ∨ o = 10 then .inquiry else if o = 5 ∨ o = 6 then .launch else .other)) →
    (s.firm.st = .reset ∨ (∃ r, s.firm.st = .failed r) → exec w s = .next s) ∧
    (∀ n, s.firm.st = .bringup n → exec w s = .next { s with firm := { s.firm with early := s.firm.early ++ [(h, opc)] } }) ∧
    (s.firm.st = .ready → h.src ∉ s.firm.hosts → exec w s = .next (s.transmit { cmd := h, opc := opc, status := 5 })) ∧
    (s.firm.st = .ready → h.src ∈ s.firm.hosts →
      (∀ r, (s.firm.responses.find? (·.cmd.same h)) = some r → exec w s = .next (s.transmit { r with cmd := h })) ∧
      ((s.firm.responses.find? (·.cmd.same h)) = none →
        (s.firm.refuses cls = true → s.accepted h = false → exec w s = .next (s.respond h opc 4)) ∧
        (s.firm.refuses cls = false ∨ s.accepted h = true → h.resv = true → exec w s = .next (s.respond h opc 1))))) ∧
  (∀ (s : State) (h : HostCmd) (w : Instr) (on : CmdOn) (cls : CmdClass),
    (∃ a, w = .createSpace h a ∧ on = .space a ∧ cls = .other) ∨
      (∃ m, m < 256 ∧ w = .swapin h m ∧ on = .model m ∧ cls = .other) ∨ (∃ m l, m < 256 ∧ w = .evict h m l ∧ on = .model m ∧ cls = .other) ∨
      (∃ d a r, w = .launch h d a r ∧ on = .space a ∧ cls = .launch) ∨ (∃ n, w = .gangGo h n ∧ on = .gang n ∧ cls = .other) ∨
      (∃ a i v, w = .setDuplication h a i v ∧ on = .space a ∧ cls = .other) →
    CommandRuns s h cls → ¬ FirstInTurn s h on → exec w s = .next (s.enqueue h on)) ∧
  (∀ (s : State) (h : HostCmd) a n es os (ms : List ModelDef), CommandRuns s h .other →
    let ons := CmdOn.space a :: ms.map (CmdOn.model ·.num)
    (∃ on ∈ ons, ¬ FirstInTurn s h on) → exec (.loadSegments h a n es os ms) s = .next (ons.foldl (·.enqueue h ·) s)) ∧
  (∀ (s : State) (h : HostCmd) n a u r, CommandRuns s h .launch → ¬ FirstInTurn s h (.gang n) ∨ ¬ FirstInTurn s h (.space a) →
    exec (.gangArm h n a u r) s = .next ((s.enqueue h (.gang n)).enqueue h (.space a))) ∧
  (∀ (s : State) (h : HostCmd) (on : CmdOn), ((∃ w ∈ s.firm.waiting, w.1.same h = true ∧ w.2 = on) → s.enqueue h on = s) ∧
    ((∀ w ∈ s.firm.waiting, w.1.same h = false ∨ w.2 ≠ on) →
      s.enqueue h on = { s with firm := { s.firm with waiting := s.firm.waiting ++ [(h, on)] } })) ∧
  (∀ (f : Firm), (f.refuses .launch = true ↔ f.accepting = false ∨ f.drained = true) ∧ f.refuses .inquiry = false ∧
    f.refuses .other = f.drained) ∧
  (∀ (s : State) (h : HostCmd) (opc st : Nat) (args : List Byte) (flits : List Row),
    (s.firm.responses.find? (·.cmd.same h)) = none →
    let r : Response := { cmd := h, opc := opc, status := st, args := args, flits := flits }
    let t := s.respond h opc st args flits
    (t.firm.responses.find? (·.cmd.same h)) = some r ∧ (∀ w ∈ t.firm.waiting, w.1.same h = false) ∧
      (∃ m, t.outbox = s.outbox ++ [m] ∧ m.typ = 6 ∧ m.resp = true ∧ m.flit.dst = h.src ∧ m.flit.tag = h.tag ∧ m.flit.rows = flits ∧
        m.body = [BitVec.ofNat 8 opc, BitVec.ofNat 8 st, 1, 0] ++ bytesOf 4 h.seq.toNat ++ args.take 216) ∧
      ((s.firm.responses.filter (·.cmd.src == h.src)).length ≤ 64 → (t.firm.responses.filter (·.cmd.src == h.src)).length ≤ 64)) ∧
  (∀ (s : State) (h : HostCmd), CommandRuns s h .other →
    -- CREATE_SPACE
    (∀ asid, FirstInTurn s h (.space asid) → exec (.createSpace h asid) s = if (s.space asid).isSome then .next (s.respond h 1 4)
      else if 64 ≤ s.spaces.length then .next (s.respond h 1 6)
      else .next (({ s with spaces := s.spaces ++ [{ asid := asid }] } : State).respond h 1 0)) ∧
    -- LOAD_SEGMENTS
    (∀ asid first es os (ms : List ModelDef), FirstInTurn s h (.space asid) → (∀ m ∈ ms, FirstInTurn s h (.model m.num)) →
      let load : Instr := .loadSegments h asid first es os ms
      let waits := fun u : State => (CmdOn.space asid :: ms.map (CmdOn.model ·.num)).foldl (·.enqueue h ·) u
      (∀ st, s.loaded asid first es os ms = .error st → exec load s = .next (s.respond h 2 st)) ∧
      (∀ t, s.loaded asid first es os ms = .ok t →
        let room := s.makeRooms [] 8 ((allPools.map fun p => (p, t.poolUsed p - s.poolUsed p)).filter (·.2 != 0))
        (∀ u, room = .refused u → exec load s = .next (u.respond h 2 2)) ∧
        (∀ u, room = .draining u → exec load s = .next (waits u)) ∧
        (∀ u v, room = .free u → u.loaded asid first es os ms = .ok v → exec load s
          = .next (if u.asidDrained asid (allCores.map fun c => (c, u.tick)) then (v.wakeNamed.discard asid).settle.respond h 2 0
            else waits u)))) ∧
    -- SWAPIN and EVICT
    (∀ m, 256 ≤ m → exec (.swapin h m) s = .next (s.respond h 3 1) ∧ ∀ l, exec (.evict h m l) s = .next (s.respond h 4 1)) ∧
    (∀ m, m < 256 → FirstInTurn s h (.model m) → let d := s.drainLeaving
      (d.model m = none → exec (.swapin h m) s = .next (d.respond h 3 3) ∧ ∀ l, exec (.evict h m l) s = .next (d.respond h 4 3)) ∧
      (∀ p, d.model m = some p → (p.cmd.isSome = true ∨ p.leaving ≠ []) → exec (.swapin h m) s = .next (d.enqueue h (.model m)) ∧
        ∀ l, exec (.evict h m l) s = .next (d.enqueue h (.model m))) ∧
      (∀ p, d.model m = some p → p.cmd = none → p.leaving = [] →
        exec (.swapin h m) s = (if p.defn.layers.all fun l => (d.entry p.asid l.1).res then .next (d.respond h 3 0)
          else .next ((d.setModel { p with cmd := some h, swap := .swapping }).enqueue h (.model m))) ∧
        (∀ l : BitVec 16, l ≠ 0xFFFF → 256 ≤ l.toNat → exec (.evict h m l) s = .next (d.respond h 4 1)) ∧
        (∀ l : BitVec 16, l.toNat < 256 → p.defn.layers.length ≤ l.toNat → exec (.evict h m l) s = .next (d.respond h 4 3)) ∧
        (∀ (l : BitVec 16) is q, (l = 0xFFFF ∧ is = p.defn.layers.map (·.1)) ∨
            (l.toNat < 256 ∧ ∃ i, (p.defn.layers.map (·.1))[l.toNat]? = some i ∧ is = [i]) →
          let t := ((is.filter fun i => (d.entry p.asid i).res).foldl (fun s i => s.evictLayer p.asid i) d).drainLeaving
          t.model m = some q → exec (.evict h m l) s
            = .next (if q.leaving = [] then t.respond h 4 0 else t.enqueue h (.model m))))) ∧
    -- GANG_GO
    (∀ n, FirstInTurn s h (.gang n) → s.gangs.find? (·.num == n) = none → exec (.gangGo h n) s = .next (s.respond h 7 3)) ∧
    (∀ n g v, FirstInTurn s h (.gang n) → s.gangs.find? (·.num == n) = some g →
      (g.armus ≤ s.firm.us - g.since → exec (.gangGo h n) s = .next (((s.disarm g).send 0x18 [n]).respond h 7 3)) ∧
      (s.firm.us - g.since < g.armus → (s.core g.core).reserved.find? (·.gang == n) = some v →
        exec (.gangGo h n) s = .next (((s.disarm g).dispatch g.core g.bank g.rec_
          { vgroup := v.vgroup, sbank := v.sbank, snb := v.snb, agroup := v.agroup } g.rec_.level).respond h 7 0))) ∧
    -- RETIRE
    exec (.retire h false) s = .next (({ s with firm := { s.firm with accepting := false } } : State).respond h 11 0) ∧
    (let all := if s.firm.draining.any (·.same h) = true then s.firm.draining else s.firm.draining ++ [h]
     ((∀ c : CoreId, (s.core c).residents = [] ∧ (s.core c).due = []) → exec (.retire h true) s
       = .next (all.foldl (fun t g => t.respond g 11 0)
           { s with firm := { s.firm with accepting := false, drained := true, draining := [] } })) ∧
     ∀ c : CoreId, (s.core c).residents ≠ [] ∨ (s.core c).due ≠ [] → exec (.retire h true) s
       = .next { s with firm := { s.firm with accepting := false, draining := all } })) ∧
  -- an unknown command
  (∀ (s : State) (h : HostCmd) (o : Byte),
    CommandRuns s h (if o = 8 ∨ o = 10 then .inquiry else if o = 5 ∨ o = 6 then .launch else .other) →
      exec (.unknownCommand ⟨h, o⟩) s = .next (s.respond h o.toNat 1)) ∧
  (∀ (s : State) (h : HostCmd) (asid : BitVec 12) (r : Rec), CommandRuns s h .launch →
    let q : QRec := { rec_ := r, asid := asid, stamp := s.firm.us, priv := r.priv, level := r.prio, entered := s.firm.us }
    -- LAUNCH
    (∀ d : DieId, FirstInTurn s h (.space asid) → let c : CoreId := Fin.ofNat 128 (32 * d.val)
      ((s.space asid).isNone = true → exec (.launch h d asid r) s = .next (s.respond h 5 3)) ∧
      ((s.space asid).isSome = true → r.share = true ∨ r.fieldsOk = false →
        exec (.launch h d asid r) s = .next (s.respond h 5 1 [6])) ∧
      ((s.space asid).isSome = true → r.share = false → r.fieldsOk = true → s.recFits c q = false →
        exec (.launch h d asid r) s = .next (s.respond h 5 1 [11])) ∧
      ((s.space asid).isSome = true → r.share = false → r.fieldsOk = true → s.recFits c q = true →
        (s.readyRoom ((readyDie c q).getD d) = false → exec (.launch h d asid r) s = .next (s.enqueue h (.space asid))) ∧
        (s.readyRoom ((readyDie c q).getD d) = true → exec (.launch h d asid r) s = .next ((if r.akind = 0 then
            ({ s with firm := { s.firm with order := s.firm.order + 1 } } : State).pushReady d { q with order := s.firm.order }
          else s.pushRec c q []).respond h 5 0)))) ∧
    -- GANG_ARM
    (∀ gang armus, FirstInTurn s h (.gang gang) → FirstInTurn s h (.space asid) → exec (.gangArm h gang asid 0 r) s = .next (s.respond h 6 1) ∧
      (armus ≠ 0 → let arm : Instr := .gangArm h gang asid armus r
        let free := fun (c : CoreId) (b : BankId) (p : Place) => c ∈ gangCores r ∧ (s.lookers c).head? = some b ∧ (s.core c).fit q = some p ∧
          (s.core c).beingCleared q p = false
        ((s.space asid).isNone = true → exec arm s = .next (s.respond h 6 3)) ∧
        ((s.space asid).isSome = true →
          (s.gangs.any (·.num == gang) = true → exec arm s = .next (s.respond h 6 4)) ∧
          (s.gangs.any (·.num == gang) = false → (∀ d, s.recDetail (gangCores r) q = some d →
            exec arm s = .next (s.respond h 6 1 [BitVec.ofNat 8 d])) ∧
          (s.recDetail (gangCores r) q = none →
            ((∀ c b p, ¬ free c b p) → exec arm s = .next ((s.enqueue h (.gang gang)).enqueue h (.space asid))) ∧
            ((∃ c b p, free c b p) → ∃ c b p, free c b p ∧
              exec arm s = .next ((({ s with gangs := s.gangs ++
                [{ num := gang, core := c, bank := b, rec_ := q, since := s.firm.us, armus := armus.toNat }] } : State).setCore c
                  { s.core c with reserved := (s.core c).reserved ++ [p.reserve gang q] }).respond h 6 0)))))))) ∧
  -- the layers of a SWAPIN, one after the other
  (∀ (s : State) (m : Nat) (bytes : List Byte) (p : Model) (h : HostCmd) (i : Nat) (b : Backing), s.model m = some p → p.cmd = some h →
    (p.defn.layers.find? fun l => !(s.entry p.asid l.1).res && !s.isMoving p.asid l.1) = some (i, b) →
    let e := s.entry p.asid i
    let ends := fun t : State =>
      let e := t.entry p.asid i
      let t := (t.setEntry p.asid i (e.noPoison.withRes true)).dropCode p.asid e
      if p.defn.layers.all fun l => (t.entry p.asid l.1).res then t.endSwap m h 0 else t
    (s.placed e = none → exec (.layerResident m bytes) s = .next (ends s)) ∧
    ∀ pool now n, s.placed e = some (pool, now, n) →
      let room := s.makeRooms [m] p.defn.cls ((pool, n) :: if e.repl then [(pool.replica, n)] else [])
      (∀ t, room = .refused t → exec (.layerResident m bytes) s = .next (t.endSwap m h 2)) ∧
      (∀ t, room = .draining t → exec (.layerResident m bytes) s = .next t) ∧
      (∀ t, room = .free t →
        -- a home copy that another entry in use names keeps its place
        let spot := if t.stands p.asid i e then some now else t.choosePlace pool (some now) n []
        (spot = none → exec (.layerResident m bytes) s = .next (match (if pool = .stack then t.firm.dieOff else []) with
          | off :: _ => t.wakeDie off
          | [] => t.endSwap m h 2)) ∧
        (∀ pa, spot = some pa → exec (.layerResident m bytes) s
          = .next (if t.rangeQuiet pa n = false ∨ t.backingQuiet b n = false then t
            else let u := t.bringLayer b bytes pa n
              ends (if pa = now then u else u.replace p.asid i e pool pa))))) ∧
  -- what brings a layer's bytes, in every view: the stack dies that they touch are in use (R323)
  (∀ (s : State) (b : Backing) (bytes : List Byte) (pa n : Nat), let t := s.bringLayer b bytes pa n
    t.cores = s.cores ∧ t.spaces = s.spaces ∧ t.models = s.models ∧
    ∀ stack die, stack < 12 → die < 16 → 0 < n → overlaps (stack * 2 ^ 36 + die * 2 ^ 32) (2 ^ 32) pa n = true →
      t.firm.dieUse.lookup (16 * stack + die) = some s.firm.us) ∧
  -- layers that firmware was moving come back by themselves, and the command then ends (log 60)
  (∀ (s : State) (m : Nat) (bytes : List Byte) (p : Model) (h : HostCmd), s.model m = some p → p.cmd = some h →
    (∀ l ∈ p.defn.layers, (s.entry p.asid l.1).res = true ∨ s.isMoving p.asid l.1 = true) →
    exec (.layerResident m bytes) s = .next (if p.defn.layers.all fun l => (s.entry p.asid l.1).res then s.endSwap m h 0 else s)) ∧
  -- a read-duplicated segment that moves is held by its new home die too (R308)
  (∀ (s : State) (a : BitVec 12) (i : Nat) (e : SegEntry) (p : Pool) (pa : Nat), s.entry a i = e → e.tier ≠ 3 → e.dup ≠ 0 →
    (s.space a).isSome = true → let f := (s.replace a i e p pa).entry a i
    f.dup = e.dup ∧ f.dhold.testBit (homeDie pa).val = true ∧ ∀ d, e.dhold.testBit d = true → f.dhold.testBit d = true) ∧
  -- an eviction
  (∀ (s : State) (a : BitVec 12) (i : Nat), ((s.evictLayer a i).entry a i).res = false)

/-- QUERY's eight pages, SET_POLICY's eight policies with their ranges, and ATTEST (R244, R308, R315, R320, R323, R334, R335, R341,
R354, R356, R357).
Where the manual leaves a point open, the clause is the model's choice (log 4, 5, 41, 57, 61). -/
def Obligations.QueriesPoliciesAndAttest : Prop :=
  (∀ (s : State) (h : HostCmd), CommandRuns s h .inquiry →
    let ok := fun (w : Instr) (args : List Byte) (flits : List Row) => exec w s = .next (s.respond h 8 0 args flits)
    ok (.queryHeatStatistics h) (dwords (allDies.flatMap fun d => (List.range 4).map fun i => (s.dies[d].heatst i).toNat)) [] ∧
    ok (.queryPoolOccupancy h) (dwords ([s.poolSize .stack, s.poolUsed .stack, s.poolSize .cap, s.poolUsed .cap]
      ++ (allDies.flatMap fun d => [dsmBytes, s.sharedUsed d]) ++ allDies.map s.rowStoreHeld)) [] ∧
    (∃ l : List Nat, ok (.queryLoadedSpaces h) (bytesOf 4 s.spaces.length ++ l.flatMap (bytesOf 2)) [] ∧
      l.Perm (s.spaces.map (·.asid.toNat)) ∧ l.Pairwise (· ≤ ·)) ∧
    (∃ l : List Nat, ok (.queryEventLog h) (dwords (s.firm.evCount :: l)) [] ∧ l.length = min 16 s.firm.events.length ∧
      ∀ i e, i < l.length → s.firm.events.length ≤ s.firm.evCount → s.firm.events[s.firm.events.length - l.length + i]? = some e →
        ∃ v, l[i]? = some v ∧ v % 2 ^ 32 = e.code % 256 ∧ v / 2 ^ 32 = (s.firm.evCount - (l.length - 1 - i)) % 2 ^ 32) ∧
    (∃ t : State, exec (.queryErrorCounters h) s = .next (t.respond h 8 0 (dwords t.firm.errs.toList) []) ∧
      t = { s with firm := { s.firm with errs := t.firm.errs } } ∧ ∀ i : Fin 8, s.firm.errs[i] ≤ 2 ^ 64 - 1 →
        s.firm.errs[i] ≤ t.firm.errs[i] ∧ (i ≠ 3 → i ≠ 7 → t.firm.errs[i] = s.firm.errs[i])) ∧
    ok (.queryCertificate h) (bytesOf 4 Config.certificate.length) (flitsOf Config.certificate) ∧
    ok (.querySparingMap h) [] (flitsOf s.sparingMap) ∧
    ok (.queryMemorySpares h) (s.firm.sparePc.toList.flatMap (bytesOf 1) ++ s.firm.softRep.toList.flatMap (bytesOf 4)
      ++ s.firm.badDev.toList.flatMap (bytesOf 1)) [] ∧
    (∀ n, 32 < n.length → exec (.attest h n) s = .next (s.respond h 10 1)) ∧
    (∀ nonce : List Byte, nonce.length ≤ 32 →
      let n := nonce ++ List.replicate (32 - nonce.length) 0
      let meas := s.firm.meas
      let count := bytesOf 8 s.firm.pwrCount
      exec (.attest h nonce) s = .next (s.respond h 10 0 (n ++ digestBytes meas ++ count ++ bytesOf 64
        (Config.sm2Sign s.firm.idKey (digestBytes (Config.sm3 (n ++ digestBytes meas ++ count))) s.tick).toNat)))) ∧
  (∀ (s : State) (h : HostCmd) (v : Word), CommandRuns s h .other →
    let range := fun (w : Instr) (lo hi : Nat) (f : Firm) => exec w s = .next (if lo ≤ v.toNat ∧ v.toNat ≤ hi then
      ({ s with firm := f } : State).respond h 9 0 else s.respond h 9 1)
    range (.setBlkthr h v) 64 65535 { s.firm with blkthr := v.toNat } ∧
    range (.setFtout h v) 1 1048576 { s.firm with ftout := v.toNat } ∧
    (∀ p : BitVec 3, range (.setAgeus h p v) 0 4294967295 { s.firm with ageus := s.firm.ageus.set p.toNat v.toNat p.isLt }) ∧
    (v ≠ 0 → range (.setDeepRetention h v) 0 4294967295 { s.firm with dridle := v.toNat }) ∧
    (v = 0 → ∃ t : State, exec (.setDeepRetention h v) s = .next (t.respond h 9 0) ∧ t.firm.dridle = 0 ∧ (s.firm.dieOff.Nodup → t.firm.dieOff = []) ∧
      t.firm.stackCap = s.firm.stackCap + 2 ^ 32 * s.firm.dieOff.length) ∧
    exec (.setHeatcfg h v) s = .next (if heatOk v = false then s.respond h 9 1
      else if s.rowStoreFits (heatRsMib v) = false then s.respond h 9 2 else (s.setHeat v).respond h 9 0) ∧
    (∀ c : CoreId, (8 < v.toNat → exec (.setMsgn h c v) s = .next (s.respond h 9 1)) ∧
      (v.toNat ≤ 8 → ∀ l, l = (if (s.core c).msgnNew.any (·.2.same h) then (s.core c).msgnNew
          else (s.core c).msgnNew ++ [(v.toNat, h)]) →
        ((∃ p rest, l = p :: rest ∧ p.2.same h = true) → (s.core c).msgnFree v.toNat = true → ∃ k : Core,
          exec (.setMsgn h c v) s = .next ((s.setCore c k).respond h 9 0) ∧ k.msgn = v.toNat ∧ k.msgnNew = l.drop 1 ∧
          (∀ r, k.spad.read r = if r / 256 < max (s.core c).msgn v.toNat then 0 else (s.core c).spad.read r) ∧
          ∀ r, r ∈ k.spadBad ↔ r ∈ (s.core c).spadBad ∧ max (s.core c).msgn v.toNat ≤ r / 256) ∧
        ((∀ p rest, l = p :: rest → p.2.same h = false) ∨ (s.core c).msgnFree v.toNat = false →
          exec (.setMsgn h c v) s = .next (s.setCore c { s.core c with msgnNew := l })))) ∧
    (∀ asid idx (dup : BitVec 2) (dhold : BitVec 4), FirstInTurn s h (.space asid) → let e := s.entry asid idx
      let set : Instr := .setDuplication h asid idx ⟨dup, dhold⟩
      (1024 ≤ idx ∨ 2 ≤ dup.toNat → exec set s = .next (s.respond h 9 1)) ∧
      (idx < 1024 → dup.toNat < 2 →
        ((s.space asid).isNone = true ∨ e.vleng = 0 → exec set s = .next (s.respond h 9 3)) ∧
        ((s.space asid).isSome = true → e.vleng ≠ 0 →
          (dup = 1 → dhold.getLsbD (s.segHome e).val = false → exec set s = .next (s.respond h 9 1)) ∧
          (dup = 0 ∨ dhold.getLsbD (s.segHome e).val = true →
            (e.dup = 2 → exec set s = .next (s.enqueue h (.space asid))) ∧
            (e.dup ≠ 2 → ∃ e' : SegEntry, exec set s = .next ((s.setEntry asid idx e').respond h 9 0) ∧ e' = { e with w3 := e'.w3 } ∧
              e'.dup = dup.toNat ∧ e'.dhold = if dup = 1 then dhold.toNat else 2 ^ (s.segHome e).val))))) ∧
    (∀ n slots, (s.obj n = none → exec (.setRsslots h n slots) s = .next (s.respond h 9 3)) ∧
      ∀ o, s.obj n = some o →
        let t := s.setObj { o with defn := { o.defn with rsslots := slots } }
        exec (.setRsslots h n slots) s = .next (if o.defn.rows < slots then s.respond h 9 1
          else if heatRsMib s.firm.heatcfg * 2 ^ 20 < t.rowStoreBudget o.defn.gdie then s.respond h 9 2
          else (t.calveObj n o.rows.length).respond h 9 0)))

/-- Errors, repair and staying in service: each event's counter, its event and its effect on pools, entries and cores (R323, R341 to
R352).
Where the manual leaves a point open, the clause is the model's choice (log 6, 42, 45, 46, 60, 61, 62, 64). -/
def Obligations.RepairEvents : Prop :=
  ∀ s : State,
    exec (.scrubVisit true) s = .next (s.countErr 0) ∧ exec (.scrubVisit false) s = .next s ∧
    (∀ (c : CoreId) (row : Nat), ∃ t u, exec (.scratchpadRowPoison c false row) s = .next t ∧
      exec (.scratchpadRowPoison c true row) s = .next u ∧ SameMemory s t ∧ SameMemory s u ∧
      (row < spadRows → row ∈ (t.core c).spadBad) ∧ (row < accRows → row ∈ (u.core c).accBad) ∧
      ∀ q, q ≠ row → (q ∈ (t.core c).spadBad ↔ q ∈ (s.core c).spadBad) ∧ (q ∈ (u.core c).accBad ↔ q ∈ (s.core c).accBad)) ∧
    (∀ (c : CoreId) (b : BankId) (x : Ctx), s.ctxAt c b = some x →
      exec (.registerParityReplay c b false) s = .next (s.countErr 1) ∧
      ((∀ u ∈ (s.core c).dupFail, 1000000 < s.firm.us - u) → ∃ t, exec (.registerParityReplay c b true) s = .next t ∧
        (t.core c).dupFail = [s.firm.us] ∧ (match t.ctxAt c b with
          | none => x.spent = true
          | some y => x.spent = false ∧ y.fatal.isSome = true ∧ y.ops = x.ops ∧ y.ql = {} ∧ y.qx = {} ∧ y.qs = {})) ∧
      ((∃ u ∈ (s.core c).dupFail, s.firm.us - u ≤ 1000000) → ∃ t, exec (.registerParityReplay c b true) s = .next t ∧
        (∀ a, t.ctxAt c a = none) ∧ (t.core c).deque = [] ∧ (t.core c).parked = [])) ∧
    (∀ (c : CoreId) (lost : List Nat), (s.core c).phys.isSome = true → ∃ t, exec (.coreFailure c lost) s = .next t ∧
      (∀ b, t.ctxAt c b = none) ∧ (t.core c).parked = [] ∧ (t.core c).staging = none ∧ (t.core c).deque = [] ∧
      (t.core c).spill = [] ∧ (t.core c).due = [] ∧
      (∀ r, (t.core c).spad.read r = 0 ∧ (t.core c).acc.read r = 0 ∧ (t.core c).vregs.read r = 0) ∧
      ((∀ b x, s.ctxAt c b = some x → x.ops = []) → let k := s.core c
        let again := ((k.residents.filter fun x => x.id.replay && x.fatal.isNone).map fun x => { x.id.copy with entered := s.firm.us })
          ++ (((k.deque ++ k.spill).zipIdx.filter fun q => !lost.contains q.2).map fun q =>
            { q.1 with level := q.1.rec_.prio, entered := s.firm.us })
          ++ k.due.map fun r => { r.rec_ with level := r.level, entered := s.firm.us }
        let pushed := (s.dies[dieOf c]).ready ++ (s.dies[dieOf c]).held ++ again
        (∀ x ∈ k.residents, x.id.replay = false ∨ x.fatal.isSome = true →
          ⟨0x11, [x.id.copy.rec_.toNat, (x.fatal.getD x.sys.tcause).toNat]⟩ ∈ t.firm.events) ∧
        (∀ p rest, (s.dies[dieOf c]).spares = p :: rest → (t.core c).phys = some p ∧ (t.dies[dieOf c]).spares = rest ∧
          ⟨0x15, [k.phys.getD 255, c.val]⟩ ∈ t.firm.events ∧ (t.core c).msgn = k.msgn ∧ (t.core c).serial = k.serial ∧
          (t.dies[dieOf c]).ready ++ (t.dies[dieOf c]).held = pushed) ∧
        ((s.dies[dieOf c]).spares = [] → (t.core c).phys = none ∧
          (t.dies[dieOf c]).ready ++ (t.dies[dieOf c]).held = pushed.filter (·.bound != some c) ∧
          ∀ q ∈ pushed, q.bound = some c → ⟨0x10, [q.rec_.toNat]⟩ ∈ t.firm.events))) ∧
    (∀ stack pc row, (h : stack < 12) → let n := s.firm.rowErr stack pc row + 1
      ∃ t, exec (.rowRepair stack ⟨pc, row⟩) s = .next t ∧ t.firm.rowErr stack pc row = n ∧
        (n = 8 → t.firm.softRep = s.firm.softRep.set stack (s.firm.softRep[stack] + 1) ∧
          t.firm.hardRep = s.firm.hardRep ++ [(stack, pc, row)] ∧ t.firm.repaired = s.firm.repaired ++ [(stack, pc)] ∧
          t.firm.errs = ((s.countErr 2).countErr 6).firm.errs) ∧
        (n ≠ 8 → t.firm.softRep = s.firm.softRep ∧ t.firm.hardRep = s.firm.hardRep ∧ t.firm.repaired = s.firm.repaired ∧
          t.firm.errs = (s.countErr 2).firm.errs)) ∧
    -- a migration: RES of the segments is cleared; once what was translated before is done they have moved, and RES is set (log 60)
    (∀ stack pc, (h : stack < 12) → let what := MoveOf.channel stack pc
      (s.firm.pcBad stack pc = false → exec (.pseudoChannelSparing stack pc) s = .next s) ∧
      (s.firm.pcBad stack pc = true ↔ (stack, pc) ∉ s.firm.retired ∧ 32 ≤ s.firm.repaired.count (stack, pc)) ∧
      (s.firm.pcBad stack pc = true → s.firm.movingOf what = none → ∃ segs : List (BitVec 12 × Nat × SegEntry), (∀ g ∈ segs, g ∈ s.segsIn (stack * 2 ^ 36) (2 ^ 36)) ∧
        exec (.pseudoChannelSparing stack pc) s = .next (s.lift what ((segs.filter (·.2.2.res)).map fun g => (g.1, g.2.1)))) ∧
      (∀ l, s.firm.pcBad stack pc = true → s.firm.movingOf what = some l → (∀ g ∈ l, (s.entry g.1 g.2).res = false) →
        (0 < s.firm.sparePc[stack] → exec (.pseudoChannelSparing stack pc) s = .next (if l.all fun g => s.layerQuiet g.1 g.2 then
          (let t := s.setDown what []
           { t with firm := { t.firm with
              retired := t.firm.retired ++ [(stack, pc)]
              sparePc := t.firm.sparePc.set stack (t.firm.sparePc[stack] - 1) } }) else s)) ∧
        (s.firm.sparePc[stack] = 0 → let gs := l.map fun g => (g.1, g.2, s.entry g.1 g.2)
          let r := ({ s := s } : Moved).segs .stack [(stack * 2 ^ 36, 2 ^ 36)] gs
          (r = none → exec (.pseudoChannelSparing stack pc) s = .next s) ∧
          (∀ m, r = some m → ∃ n, 0 < n ∧ exec (.pseudoChannelSparing stack pc) s = .next (
            let t := m.s.setDown what m.left
            { t with firm := { t.firm with retired := t.firm.retired ++ [(stack, pc)], stackCap := t.firm.stackCap - n } }))))) ∧
    (∀ pkg, (h : pkg < 16) → let what := MoveOf.package pkg
      let range := fun t : State => t.segsIn (capacityBase + pkg * 2 ^ 37) (2 ^ 37)
      let counted := ({ s with firm := { s.firm with badDev := s.firm.badDev.set pkg (s.firm.badDev[pkg] + 1) } } : State).countErr 3
      (s.firm.movingOf what = none → exec (.capacityDeviceFailure pkg) s = .next (if s.firm.badDev[pkg] = 1
        then counted.lift what (((range counted).filter (·.2.2.res)).map fun g => (g.1, g.2.1)) else counted)) ∧
      (∀ l, s.firm.movingOf what = some l → (∀ g ∈ range s, g.2.2.res = false) → let r := ({ s := s } : Moved).segs .cap [] (range s)
        (r = none → exec (.capacityDeviceFailure pkg) s = .next s) ∧
        (∀ m, r = some m → exec (.capacityDeviceFailure pkg) s = .next (let t := m.s.setDown what m.left
          ({ t with firm := { t.firm with capCap := t.firm.capCap - 2 ^ 37 } } : State).send 0x13 [pkg, movedBytes m.done])))) ∧
    (∀ what segs, let t := s.lift what segs
      t.firm.movingOf what = some ((s.firm.movingOf what).getD [] ++ segs) ∧ SameMemory s t ∧
      (∀ g ∈ segs, (t.entry g.1 g.2).res = false ∧ t.isMoving g.1 g.2 = true) ∧
      ∀ a i, (a, i) ∉ segs → t.entry a i = s.entry a i) ∧
    (∀ what left, let t := s.setDown what left
      t.firm.movingOf what = none ∧ SameMemory s t ∧
      (∀ g ∈ (s.firm.movingOf what).getD [], g ∉ left → (s.space g.1).isSome = true → (t.entry g.1 g.2).res = true) ∧
      ∀ a i, (a, i) ∈ left ∨ (a, i) ∉ (s.firm.movingOf what).getD [] → t.entry a i = s.entry a i) ∧
    (∀ asid idx, let e := s.entry asid idx
      (e.vleng ≠ 0 → e.tier ≠ 3 → exec (.replicaRead asid idx) s = .next (if e.repl then s.countErr 4 else s)) ∧
      (∀ o, e.vleng ≠ 0 → e.tier = 3 → s.obj e.obj = some o → ∃ j, exec (.replicaRead asid idx) s
        = .next (if o.floor < (o.row j).level then
            ((s.setObj (o.calve (o.row j)).1).countTier o.defn.gdie (o.calve (o.row j)).2).countErr 4
          else if e.repl then s.countErr 4 else s)) ∧
      (e.vleng ≠ 0 → e.pois = false → ∃ e' : SegEntry, exec (.segmentPoisoning asid idx) s = .next ((({ s.setEntry asid idx e' with
          firm := { s.firm with nextEvent := (s.firm.nextEvent + 1) % 2 ^ 32 } } : State).countErr 5).send 0x12
            [s.firm.nextEvent % 2 ^ 32]) ∧ e' = { e with w3 := e'.w3 } ∧ e'.pois = true ∧
          (e'.w3.extractLsb' 32 32).toNat = s.firm.nextEvent % 2 ^ 32) ∧
      (e.vleng = 0 ∨ e.pois = true → exec (.segmentPoisoning asid idx) s = .next s)) ∧
    (∀ port, (h : port < 16) → s.firm.lanes[port] ≠ 0 → ∃ t, exec (.lanedeg port) s = .next t ∧
      t.firm.lanes = s.firm.lanes.set port (s.firm.lanes[port] / 2) ∧ t.firm.evCount = s.firm.evCount + 1) ∧
    (∀ stack die, let lo := stack * 2 ^ 36 + die * 2 ^ 32
      let what := MoveOf.die stack die
      let lone := s.orphans.filter fun o => !o.defn.homeCap && overlaps lo (2 ^ 32) o.base (o.defn.rows * o.rowBytes)
      let skips := s.firm.dridle = 0 ∨ s.firm.us - (s.firm.dieUse.lookup (16 * stack + die)).getD 0 < s.firm.dridle ∨
        12 ≤ stack ∨ 16 ≤ die ∨ (stack, die) ∈ s.firm.dieOff ∨
        s.poolSize .cap < s.poolUsed .cap + sumNat ((s.segsIn lo (2 ^ 32)).map fun p => s.poolBytes .stack p.1 p.2.1 p.2.2)
          + sumNat (lone.map fun o => o.defn.rows * o.rowBytes)
      (s.firm.movingOf what = none →
        (skips → exec (.deepRetentionRetire stack die) s = .next s) ∧
        (¬ skips → ∃ t, exec (.deepRetentionRetire stack die) s = .next t ∧ (t.firm.movingOf what).isSome = true ∧
          t.views = s.views ∧ t.firm.dieOff = s.firm.dieOff ∧ t.firm.stackCap = s.firm.stackCap ∧
          ∀ g ∈ s.segsIn lo (2 ^ 32), (t.entry g.1 g.2.1).res = false)) ∧
      ((s.firm.movingOf what).isSome = true → (∀ g ∈ s.segsIn lo (2 ^ 32), g.2.2.res = false) →
        let r := (({ s := s } : Moved).segs .cap [] (s.segsIn lo (2 ^ 32))).bind fun m => m.orphans lone
        (r = none → exec (.deepRetentionRetire stack die) s = .next s) ∧
        (∀ m, r = some m → let u := m.s.setDown what m.left
          ∃ t, exec (.deepRetentionRetire stack die) s = .next t ∧ t.firm.dieOff = u.firm.dieOff ++ [(stack, die)] ∧ t.firm.stackCap = u.firm.stackCap - 2 ^ 32 ∧
          t.views = u.views ∧ t.spaces = u.spaces ∧ t.firm.moving = u.firm.moving ∧
          t.firm.events = u.firm.events ++ [⟨0x13, [stack, die, movedBytes m.done]⟩]))) ∧
    (∀ (i : Fin 8) (n : Nat), (s.countErr i n).firm.errs = s.firm.errs.set i (min (s.firm.errs[i] + n) (2 ^ 64 - 1)) ∧
      SameMemory s (s.countErr i n))

/-- Power and the side-band: bring-up goes on step by step to READY, or to FAILED with the code of the step that fails; power off drops
the rails in the reverse order; throttling, shutdown at 115 °C, and the side-band's answers, which VAUX feeds (R353 to R360).
Where the manual leaves a point open, the clause is the model's choice (log 2, 3, 5, 47, 56, 60, 61, 63). -/
def Obligations.PowerAndSideBand : Prop :=
  (∀ (s : State) (b : BringUp),
    let banks := fun d : DieId => (sortBy (fun m n : Nat => decide (m ≤ n)) ((b.badBanks.filter fun p => p.1 == d.val).map (·.2))).eraseDups
    let pass := fun d : DieId => ((List.range 34).map (34 * d.val + ·)).filter fun p => !b.badCores.contains p &&
      decide ((((b.sramErrs.filter (·.1 == p)).map (·.2)).eraseDups).length ≤ 1)
    (s.firm.st = .ready ∨ (∃ r, s.firm.st = .failed r) ∨ (s.firm.st = .reset ∧ s.firm.rails ≠ []) → exec (.powerOn b) s = .next s) ∧
    -- step 1; the rails that a reset finds up fall first, the last that rose first
    (∀ n, s.firm.st = .bringup 1 → s.firm.rails.length = n + 2 →
      exec (.powerOn b) s = .next { s with firm := { s.firm with rails := s.firm.rails.dropLast } }) ∧
    ((s.firm.st = .reset ∧ s.firm.rails = []) ∨ (s.firm.st = .bringup 1 ∧ s.firm.rails.length ≤ 1) → ∃ t, exec (.powerOn b) s = .next t ∧ t.firm.st = .bringup 2 ∧ t.firm.rails = [0] ∧
      t.firm.pwrCount = s.firm.pwrCount + 1 ∧ t.spaces = [] ∧ t.views = State.reset.views ∧ t.cores = State.reset.cores ∧
      t.firm.slots = s.firm.slots ∧ t.firm.record = s.firm.record ∧ t.firm.imgFloor = s.firm.imgFloor ∧
      t.firm.recFloor = s.firm.recFloor ∧ t.firm.hardRep = s.firm.hardRep ∧ t.firm.repaired = s.firm.repaired ∧
      t.firm.plim = s.firm.plim ∧ t.firm.throtUs = s.firm.throtUs ∧ t.firm.early = s.firm.early) ∧
    -- from step 4 on a sensor at 115 °C or more shuts the module down
    (∀ n, s.firm.st = .bringup n → 4 ≤ n → tooHot s.firm.sensors = true → ∃ t, exec (.powerOn b) s = .next t ∧
      t.firm.st = .failed 10 ∧ t.firm.rails = s.firm.dropRail ∧ t.cores = State.reset.cores) ∧
    -- steps 2 and 3
    (s.firm.st = .bringup 2 → exec (.powerOn b) s = .next { s with firm := match b.puf with
      | none => { s.firm with st := .failed 2 }
      | some p => { s.firm with idKey := Config.sm3Kdf p, st := .bringup 3 } }) ∧
    (s.firm.st = .bringup 3 → exec (.powerOn b) s = .next { s with firm := match bootImage s.firm.imgFloor s.firm.slots with
      | none => { s.firm with st := .failed 3 }
      | some i => { s.firm with image := some i, st := .bringup 4 } }) ∧
    -- step 4: the rails rise in order, then the PLL locks
    (s.firm.st = .bringup 4 → tooHot s.firm.sensors = false → exec (.powerOn b) s = .next { s with firm :=
      if s.firm.rails.length < 6 then (if b.railOk then { s.firm with rails := allRails.take (s.firm.rails.length + 1) }
        else { s.firm with st := .failed 4 })
      else if b.pllOk then { s.firm with st := .bringup 5 } else { s.firm with st := .failed 4 } }) ∧
    -- step 5
    (s.firm.st = .bringup 5 → tooHot s.firm.sensors = false → ∃ t, exec (.powerOn b) s = .next t ∧
      t.firm.st = (if b.linksOk = true ∧ ∀ d : DieId, (banks d).length ≤ 4 then .bringup 6 else .failed 5) ∧
      (∀ c : CoreId, (t.core c).phys = (pass (dieOf c))[c.val % 32]? ∧ ∀ a, t.ctxAt c a = none) ∧
      (∀ d : DieId, (t.dies[d]).spares = (pass d).drop 32 ∧ (t.dies[d]).badBanks = banks d) ∧ t.firm.rails = allRails ∧
      t.firm.image = s.firm.image ∧ t.firm.idKey = s.firm.idKey ∧ t.firm.early = s.firm.early ∧ t.firm.pwrCount = s.firm.pwrCount ∧
      t.firm.plim = s.firm.plim ∧ t.firm.throtUs = s.firm.throtUs ∧ t.firm.watts = s.firm.watts) ∧
    -- step 6
    (s.firm.st = .bringup 6 → tooHot s.firm.sensors = false → ∃ t, exec (.powerOn b) s = .next t ∧ t.firm.st = .bringup 7 ∧
      t.firm.hardRep = [] ∧ (∀ p ∈ b.badPcs, p.1 < 12 → p ∈ t.firm.retired) ∧
      (∀ stack pc, stack < 12 → s.firm.pcBad stack pc = true → (stack, pc) ∈ t.firm.retired) ∧ t.firm.errs = (s.countErr 6 s.firm.hardRep.length).firm.errs) ∧
    -- step 7
    (s.firm.st = .bringup 7 → tooHot s.firm.sensors = false → let r := s.firm.record
      (r.valid s.firm.recFloor = false → exec (.powerOn b) s = .next { s with firm := { s.firm with st := .failed 7 } }) ∧
      (r.valid s.firm.recFloor = true → exec (.powerOn b) s = .next { s with firm := { s.firm with
        node := BitVec.ofNat 19 r.node
        hosts := (List.range r.nhost).map fun i => BitVec.ofNat 19 (r.host i)
        meas := Config.sm3 (digestBytes (Config.sm3 Config.romBytes)
          ++ digestBytes (Config.sm3 ((s.firm.image.map (·.bytes)).getD [])) ++ digestBytes (Config.sm3 r.bytes) ++ s.sparingMap)
        st := .bringup 8 } })) ∧
    -- step 8
    (s.firm.st = .bringup 8 → tooHot s.firm.sensors = false → ∃ t, exec (.powerOn b) s = .next t ∧ t.firm.st = .ready ∧ t.firm.early = [] ∧
      t.firm.imgFloor = max s.firm.imgFloor ((s.firm.image.map (·.ver.toNat)).getD 0) ∧
      t.firm.recFloor = max s.firm.recFloor s.firm.record.ver ∧ (∀ p, (h : p < 16) → p ∈ b.badPorts → t.firm.lanes[p] = 0) ∧
      (∃ l, t.firm.events = l ++ [⟨0x19, []⟩]) ∧ ∀ c ∈ s.firm.early, ∃ m ∈ t.outbox, m.typ = 6 ∧ m.resp = true ∧
        m.flit.dst = c.1.src ∧ m.flit.tag = c.1.tag ∧ m.body.take 2 = [BitVec.ofNat 8 c.2, if c.1.src ∈ s.firm.hosts then 4 else 5])) ∧
  (∀ (floor : Nat) (l : Vector ImageSlot 2), 
    let good : ImageSlot → Prop := fun i =>
      (Config.sm2Verify Config.signingKeyDigest (Config.sm3 i.bytes) i.sig = true ∧ floor ≤ i.ver.toNat)
    (bootImage floor l = none ↔ ∀ i ∈ l, ¬ good i) ∧
    ∀ i, bootImage floor l = some i → i ∈ l ∧ good i ∧ ∀ j ∈ l, good j → j.ver.toNat ≤ i.ver.toNat) ∧
  (∀ (r : ConfigRecord) (floor : Nat), r.valid floor = true ↔
    Config.sm2Verify Config.signingKeyDigest (Config.sm3 (r.bytes.take 48)) (r.bytes.drop 48) = true ∧ r.bytes.length = 112 ∧
    floor ≤ r.num 0 4 ∧ r.num 4 4 < 400000 ∧ 1 ≤ r.num 8 1 ∧ r.num 8 1 ≤ 8 ∧ r.num 9 7 = 0 ∧
    ∀ i, r.num 8 1 ≤ i → i < 8 → r.num (16 + 4 * i) 4 = 0) ∧
  (∀ s : State, let vaux := 0 ∈ s.firm.rails
    (∃ t, exec .powerOff s = .next t ∧ t.firm.st = .reset ∧ t.firm.rails = s.firm.rails.dropLast ∧ t.spaces = [] ∧ t.objs = [] ∧
      t.models = [] ∧ t.views = State.reset.views ∧ t.cores = State.reset.cores ∧ t.firm.pwrCount = s.firm.pwrCount ∧
      t.firm.slots = s.firm.slots ∧ t.firm.record = s.firm.record) ∧
    (∀ sensor temp, let falls := s.firm.st = .failed 10 ∧ 1 < s.firm.rails.length
      (falls → exec (.thermalShutdown sensor temp) s = .next { s with firm := { s.firm with rails := s.firm.rails.dropLast } }) ∧
      (¬ falls → 460 ≤ temp ∧ sensor < 32 ∧ vaux → ∃ t, exec (.thermalShutdown sensor temp) s = .next t ∧ t.firm.st = .failed 10 ∧
        t.firm.rails = s.firm.dropRail ∧ t.firm.sensors = s.firm.sensors.set sensor temp ∧ t.cores = State.reset.cores) ∧
      (¬ falls → temp < 460 → exec (.thermalShutdown sensor temp) s = .next s)) ∧
    (s.firm.dropRail = if s.firm.rails.length ≤ 1 then s.firm.rails else s.firm.rails.dropLast) ∧
    (∀ watts (temps : List Nat), temps.length = 32 →
      (s.firm.plim < watts ∨ (∃ v ∈ temps, 400 < v) → ∃ t, exec (.thermalThrottle watts temps) s = .next t ∧
        t.firm.watts = watts ∧ t.firm.sensors = temps ∧
        ((∃ v ∈ temps, 460 ≤ v) ∧ vaux → t.firm.st = .failed 10 ∧ t.firm.rails = s.firm.dropRail ∧ t.cores = State.reset.cores) ∧
        (¬ ((∃ v ∈ temps, 460 ≤ v) ∧ vaux) → SameMemory s t ∧ t.cores = s.cores ∧ t.firm.st = s.firm.st ∧
          s.firm.throtUs ≤ t.firm.throtUs ∧ ∀ d : DieId, (t.dies[d]).throttled
            = (decide (s.firm.plim < watts) || ((temps.drop (8 * d.val)).take 8).any (400 < ·)))) ∧
      (watts ≤ s.firm.plim → (∀ v ∈ temps, v ≤ 400) → ∃ t, exec (.thermalThrottleEnd watts temps) s = .next t ∧
        t.firm.watts = watts ∧ t.firm.sensors = temps ∧ SameMemory s t ∧ t.cores = s.cores ∧
        (∀ d : DieId, (t.dies[d]).throttled = false) ∧ s.firm.throtUs ≤ t.firm.throtUs)) ∧
    (¬ vaux → exec .readState s = .next s ∧ exec .readTemperatures s = .next s ∧ (∀ w, exec (.setPlim w) s = .next s) ∧
      ∀ b, exec (.requestReset b) s = .next s) ∧
    (vaux →
      (let answers := fun (w : Instr) (code : Nat) (vals : List Nat) => exec w s
          = .next { s with firm := { s.firm with sideband := code :: vals } }
       answers .readState 1 (match s.firm.st with | .reset => [0, 0] | .bringup _ => [1, 0] | .ready => [2, 0] | .failed r => [3, r]) ∧
       answers .readTemperatures 2 s.firm.sensors) ∧
      (∃ n, exec .readPower s = .next { s with firm := { s.firm with throtUs := n, sideband := [3, s.firm.watts, n] } } ∧
        s.firm.throtUs ≤ n ∧ ((∀ d : DieId, (s.dies[d]).throttled = false) → n = s.firm.throtUs)) ∧
      (∀ w, (1200 ≤ w ∧ w ≤ 2400 → ∃ t, exec (.setPlim w) s = .next t ∧ t.firm.plim = w ∧ t.firm.sideband = [4, w] ∧ SameMemory s t ∧
          t.cores = s.cores ∧ s.firm.throtUs ≤ t.firm.throtUs ∧
          ((∀ d : DieId, (s.dies[d]).throttled = false) → t.firm.throtUs = s.firm.throtUs) ∧ (s.firm.sensors.length = 32 → ∀ d : DieId, (t.dies[d]).throttled
            = (decide (w < s.firm.watts) || ((s.firm.sensors.drop (8 * d.val)).take 8).any (400 < ·)))) ∧
        (¬ (1200 ≤ w ∧ w ≤ 2400) → exec (.setPlim w) s = .next { s with firm := { s.firm with sideband := [4] } })) ∧
      ∀ b, ∃ t, exec (.requestReset b) s = .next t ∧ t.firm.sideband = [5] ∧ t.firm.st = .bringup 1 ∧
        t.firm.rails = s.firm.rails ∧ t.firm.pwrCount = s.firm.pwrCount ∧ t.cores = State.reset.cores))
end

