-- ==== Sys2Proof/Laws/Control.lean ====
section
/-! SUPPORT. What the shared operations of control words can do, said once. -/

namespace Sys2Proof.Machine

/-! ### Putting a context or a core back -/

theorem SameMemory.refl (s : State) : SameMemory s s := ⟨fun _ _ => rfl, fun _ _ => ⟨rfl, rfl, rfl⟩⟩

theorem SameMemory.trans {s t u : State} (h : SameMemory s t) (h' : SameMemory t u) : SameMemory s u :=
  ⟨fun d a => (h'.1 d a).trans (h.1 d a), fun c a =>
    ⟨(h'.2 c a).1.trans (h.2 c a).1, (h'.2 c a).2.1.trans (h.2 c a).2.1, (h'.2 c a).2.2.trans (h.2 c a).2.2⟩⟩

theorem setCore_core (s : State) (c d : CoreId) (k : Core) : (s.setCore c k).core d = if c = d then k else s.core d := by
  simp only [State.setCore, State.core, Fin.getElem_fin, Vector.getElem_set, Fin.ext_iff]

theorem setCore_views (s : State) (c : CoreId) (k : Core) : (s.setCore c k).views = s.views := rfl
theorem setCore_firm (s : State) (c : CoreId) (k : Core) : (s.setCore c k).firm = s.firm := rfl
theorem setCore_cur (s : State) (c : CoreId) (k : Core) : (s.setCore c k).cur = s.cur := rfl
theorem setCore_tick (s : State) (c : CoreId) (k : Core) : (s.setCore c k).tick = s.tick := rfl

/-- A core whose memories are the old ones changes no memory. -/
theorem SameMemory.setCore (s : State) (c : CoreId) (k : Core) (h1 : k.spad = (s.core c).spad) (h2 : k.acc = (s.core c).acc)
    (h3 : k.vregs = (s.core c).vregs) : SameMemory s (s.setCore c k) := by
  refine ⟨fun _ _ => rfl, fun d a => ?_⟩
  rw [setCore_core]
  split
  · subst_vars; simp [h1, h2, h3]
  · exact ⟨rfl, rfl, rfl⟩

theorem SameMemory.setCtxAt (s : State) (c : CoreId) (b : BankId) (x : Option Ctx) : SameMemory s (s.setCtxAt c b x) :=
  SameMemory.setCore s c _ rfl rfl rfl

theorem SameMemory.putCtx (s : State) (x : Ctx) : SameMemory s (s.putCtx x) := SameMemory.setCtxAt s _ _ _

theorem ctxAt_setCtxAt (s : State) (c : CoreId) (b : BankId) (x : Option Ctx) : (s.setCtxAt c b x).ctxAt c b = x := by
  simp [State.setCtxAt, State.ctxAt, setCore_core]

theorem ctx?_putCtx (s : State) (x : Ctx) : (s.putCtx x).ctx? = some x := ctxAt_setCtxAt s _ _ _

/-! ### Control words -/

/-- A control word that runs is its effect on the executing context. -/
theorem ctlWord_runs {s : State} {g : Guard} {reads : List SReg} {x : Ctx} {k : Ctx → Out} (h : CtlRuns s g reads x) :
    ctlWord g reads s k = k x := by
  obtain ⟨hv, hg, hp⟩ := h
  unfold CtlView at hv
  unfold ctlWord
  cases hc : s.ctx? with
  | none => simp [hc] at hv
  | some y =>
    simp only [hc, Option.map_some, Option.some.injEq] at hv
    subst hv
    dsimp only
    split
    · rfl
    simp only [hg, Bool.not_true, Bool.false_eq_true, if_false]
    cases hr : (y.landed s.myCore).pendr with
    | false => simp
    | true =>
      obtain ⟨h1, h2⟩ := hp hr
      have : reads.any (y.landed s.myCore).scalarPending = false := by simpa using h2
      simp [h1, this]

/-- One with a result that has room, or makes none, is its effect too. -/
theorem ctlWordRes_runs {s : State} {g : Guard} {reads : List SReg} {makes : Ctx → Bool} {x : Ctx} {k : Ctx → Out}
    (h : CtlRuns s g reads x) (hr : makes x = false ∨ x.room .ctl = true) : ctlWordRes g reads makes s k = k x := by
  have hv : s.ctx?.map (·.landed s.myCore) = some x := h.1
  cases hc : s.ctx? with
  | none => simp [hc] at hv
  | some y =>
    simp only [hc, Option.map_some, Option.some.injEq] at hv
    simp only [ctlWordRes, hc, hv]
    rw [if_neg (by rcases hr with hr | hr <;> simp [hr]), ctlWord_runs h]

/-- One that would make a thirteenth result waits, whatever it reads. -/
theorem ctlWordRes_waits {s : State} {g : Guard} {reads : List SReg} {makes : Ctx → Bool} {x : Ctx} {k : Ctx → Out}
    (hv : CtlView s x) (hr : x.room .ctl = false) (hm : makes x = true)
    (hg : (x.pendr = true ∧ x.guardPending g = true) ∨ x.guardOk g = true) :
    ctlWordRes g reads makes s k = .next (s.ctlHold x .full) := by
  have hv : s.ctx?.map (·.landed s.myCore) = some x := hv
  cases hc : s.ctx? with
  | none => simp [hc] at hv
  | some y =>
    simp only [hc, Option.map_some, Option.some.injEq] at hv
    simp only [ctlWordRes, hc, hv]
    rw [if_pos (by rcases hg with hg | hg <;> simp [hr, hm, hg])]

/-- A control word whose guard fails only takes its clk; its guard is tested when it issues. -/
theorem ctlWord_guardFails {s : State} {g : Guard} {reads : List SReg} {x : Ctx} {k : Ctx → Out} (hv : CtlView s x)
    (hi : x.issue = none) (hp : x.pendr = true → x.guardPending g = false) (hg : x.guardOk g = false) :
    ctlWord g reads s k = .next (s.ctlDone x) := by
  unfold CtlView at hv
  unfold ctlWord
  cases hc : s.ctx? with
  | none => simp [hc] at hv
  | some y =>
    simp only [hc, Option.map_some, Option.some.injEq] at hv
    subst hv
    cases hr : (y.landed s.myCore).pendr with
    | false => simp [hg, hr, hi]
    | true => simp [hp hr, hg, hi]

/-- A control word that reads a register in flight under PENDR raises PEND. -/
theorem ctlWord_pends {s : State} {g : Guard} {reads : List SReg} {x : Ctx} {k : Ctx → Out} (hv : CtlView s x)
    (hi : x.issue = none) (hr : x.pendr = true) (hp : x.guardPending g = false) (hg : x.guardOk g = true)
    (h : reads.any x.scalarPending = true) : ctlWord g reads s k = .next (s.trapP x .pend) := by
  unfold CtlView at hv
  unfold ctlWord
  cases hc : s.ctx? with
  | none => simp [hc] at hv
  | some y =>
    simp only [hc, Option.map_some, Option.some.injEq] at hv
    subst hv
    simp [hr, hp, hg, h, hi]

/-- Counting TMR down changes TMR and the pending events only. -/
theorem countTmr_frame (x : Ctx) (a : Bool) (n : Nat) :
    x.countTmr a n = { x with sys := { x.sys with tmr := (x.countTmr a n).sys.tmr }, pendE := (x.countTmr a n).pendE } := by
  unfold Ctx.countTmr
  split
  · split <;> rfl
  · rfl

theorem ctlDone_advances (s : State) (y : Ctx) (n : Nat) : Advances s y n (s.ctlDone y n) := by
  refine ⟨⟨_, rfl, ?_⟩, SameMemory.putCtx s _⟩
  rw [countTmr_frame]
  simp [Ctx.issued, Ctx.unheld]

theorem ctlHold_waits (s : State) (y : Ctx) (h : Hold) : Waits s y h (s.ctlHold y h) := by
  refine ⟨⟨_, rfl, ?_⟩, SameMemory.putCtx s _⟩
  rw [countTmr_frame]
  have hn : ∀ h' : Hold, (h' != .busy) = decide (h' ≠ .busy) ∧ (h' != .full) = decide (h' ≠ .full) := fun h' => by
    constructor <;> by_cases hh : h' = .busy <;> by_cases hg : h' = .full <;> simp [hh, hg]
  by_cases hb : h = .busy
  · subst hb
    simp only [if_true, ne_eq, not_true, false_and, and_false, if_false, hn, decide_false, Bool.and_false]
  · simp only [hb, if_false, ne_eq, not_false_eq_true, true_and, hn, decide_true, Bool.and_true]
    by_cases hx : h = .full
    · simp only [hx, not_true, decide_false, Bool.and_false, Bool.false_eq_true, if_false, and_false]
    · simp only [hx, not_false_eq_true, decide_true, Bool.and_true, and_true]
      cases hf : y.ctlFresh <;> simp only [if_true, if_false, Bool.false_eq_true, Ctx.postpone, hf]

/-- Leaving a section keeps the system registers and the pending events. -/
theorem leaveSec_frame (x : Ctx) (p : CtlPos) : (x.leaveSec p).sys = x.sys ∧ (x.leaveSec p).cclk = x.cclk := by
  unfold Ctx.leaveSec
  cases p.sec with
  | none => exact ⟨rfl, rfl⟩
  | some c =>
    dsimp only
    split
    · unfold Ctx.setRet; split <;> exact ⟨rfl, rfl⟩
    · exact ⟨rfl, rfl⟩

theorem ctlBranch_branches (s : State) (x : Ctx) (target : Word) (n : Nat) : Branches s x target n (s.ctlBranch x target n) := by
  refine ⟨⟨_, rfl, ?_⟩, SameMemory.putCtx s _⟩
  rw [countTmr_frame]
  simp [Ctx.goto, Ctx.issued, Ctx.unheld, leaveSec_frame]

theorem ctlResult_advances (s : State) (x : Ctx) (sd : SReg) (v : Word) (lat : Nat) (h : x.hasRoom sd) :
    Advances s (x.withScalar sd v lat) 1 (s.ctlResult x sd v lat) := by
  unfold State.ctlResult Ctx.withScalar
  split
  · exact ctlDone_advances _ _ _
  · rcases h with h | h
    · contradiction
    · rw [if_pos h]
      exact ctlDone_advances _ _ _

/-- A register-to-register word answers with its value on its way. -/
theorem ctlAlu_runs {s : State} {x : Ctx} {o : C3} {lat : Nat} {f : Word → Word → Word → Word}
    (h : CtlRuns s o.g [o.sa, o.sb, o.sc] x) (hr : x.hasRoom o.sd) :
    ∃ t, ctlAlu o lat f s = .next t ∧ Advances s (x.withScalar o.sd (f (x.rd o.sa) (x.rd o.sb) (x.rd o.sc)) lat) 1 t :=
  ⟨_, ctlWordRes_runs h (hr.imp_left fun h => by simp [h]), ctlResult_advances _ _ _ _ _ hr⟩

/-- A branch enters an aligned target and traps at another. -/
theorem branchTo_aligned (s : State) (x : Ctx) (target : Word) (n : Nat) (h : fieldNat target 0 3 = 0) :
    branchTo s x target n = .next (s.ctlBranch x target n) := if_pos h
theorem branchTo_misaligned (s : State) (x : Ctx) (target : Word) (n : Nat) (h : fieldNat target 0 3 ≠ 0) :
    branchTo s x target n = .next (s.trapP x .illegal) := if_neg h
end Sys2Proof.Machine
end

