-- ==== Sys2Proof/Laws/Sparse.lean ====
section
/-! SUPPORT. Memories: reading after writing, and the canonical form, which every operation on a memory keeps. -/

namespace Sys2Proof.Machine

/-! ### Sparse memories -/

theorem Sparse.wf_iff {w : Nat} (m : Sparse w) :
    Sparse.wf m = true ↔ (m.map (·.1)).Pairwise (· < ·) ∧ ∀ c ∈ m, c.2 ≠ 0 := by
  simp [Sparse.wf]

theorem Sparse.wf_nil {w : Nat} : Sparse.wf ([] : Sparse w) = true := by simp [Sparse.wf]

theorem Sparse.wf_cons {w : Nat} (a : Nat) (v : BitVec w) (r : Sparse w) :
    Sparse.wf ((a, v) :: r) = true ↔ (∀ c ∈ r, a < c.1) ∧ v ≠ 0 ∧ Sparse.wf r = true := by
  simp only [Sparse.wf_iff, List.map_cons, List.pairwise_cons, List.mem_map, forall_exists_index, and_imp, List.mem_cons,
    forall_eq_or_imp]
  constructor
  · rintro ⟨⟨h1, h2⟩, h3, h4⟩
    exact ⟨fun c hc => h1 _ c hc rfl, h3, h2, h4⟩
  · rintro ⟨h1, h3, h2, h4⟩
    exact ⟨⟨fun _ c hc he => he ▸ h1 c hc, h2⟩, h3, h4⟩

/-- A cell below every listed address reads zero. -/
theorem Sparse.read_below {w : Nat} (m : Sparse w) (k : Nat) (h : ∀ c ∈ m, k < c.1) : Sparse.read m k = 0 := by
  induction m with
  | nil => rfl
  | cons c r ih =>
    obtain ⟨a, v⟩ := c
    have := h (a, v) (by simp)
    simp only at this
    rw [Sparse.read, if_neg (by omega)]
    exact ih fun c hc => h c (by simp [hc])

theorem Sparse.mem_write {w : Nat} (m : Sparse w) (k : Nat) (v : BitVec w) {c : Nat × BitVec w} (h : c ∈ Sparse.write m k v) :
    c ∈ m ∨ c = (k, v) := by
  induction m with
  | nil =>
    unfold Sparse.write at h
    split at h <;> simp_all
  | cons d r ih =>
    obtain ⟨a, u⟩ := d
    unfold Sparse.write at h
    split at h
    · split at h <;> simp_all
      tauto
    · split at h
      · split at h <;> simp_all
        tauto
      · rcases List.mem_cons.mp h with h | h
        · simp [h]
        · rcases ih h with h | h <;> simp [h]

/-- A write keeps the canonical form. -/
theorem Sparse.write_wf {w : Nat} (m : Sparse w) (k : Nat) (v : BitVec w) (h : Sparse.wf m = true) :
    Sparse.wf (Sparse.write m k v) = true := by
  induction m with
  | nil =>
    unfold Sparse.write
    split
    · exact h
    · exact (Sparse.wf_cons _ _ _).mpr ⟨by simp, by assumption, Sparse.wf_nil⟩
  | cons d r ih =>
    obtain ⟨a, u⟩ := d
    obtain ⟨h1, h2, h3⟩ := (Sparse.wf_cons _ _ _).mp h
    unfold Sparse.write
    split
    · split
      · exact h
      · refine (Sparse.wf_cons _ _ _).mpr ⟨fun c hc => ?_, by assumption, h⟩
        rcases List.mem_cons.mp hc with rfl | hc
        · assumption
        · have := h1 c hc; omega
    · split
      · split
        · exact h3
        · exact (Sparse.wf_cons _ _ _).mpr ⟨by subst_vars; exact h1, by assumption, h3⟩
      · refine (Sparse.wf_cons _ _ _).mpr ⟨fun c hc => ?_, h2, ih h3⟩
        rcases Sparse.mem_write _ _ _ hc with hc | rfl
        · exact h1 c hc
        · simp only; omega

/-- A write leaves every other cell alone. -/
theorem Sparse.read_write_ne {w : Nat} (m : Sparse w) (k a : Nat) (v : BitVec w) (h : a ≠ k) :
    Sparse.read (Sparse.write m k v) a = Sparse.read m a := by
  induction m with
  | nil =>
    unfold Sparse.write
    split
    · rfl
    · simp [Sparse.read, Ne.symm h]
  | cons d r ih =>
    obtain ⟨b, u⟩ := d
    unfold Sparse.write
    split
    · split
      · rfl
      · simp [Sparse.read, Ne.symm h]
    · split
      · subst_vars
        split <;> simp [Sparse.read, Ne.symm h]
      · simp only [Sparse.read, ih]

/-- A read after a write to the same cell gives the value written. -/
theorem Sparse.read_write_eq {w : Nat} (m : Sparse w) (k : Nat) (v : BitVec w) (h : Sparse.wf m = true) :
    Sparse.read (Sparse.write m k v) k = v := by
  induction m with
  | nil =>
    unfold Sparse.write
    split
    · subst_vars; rfl
    · simp [Sparse.read]
  | cons d r ih =>
    obtain ⟨a, u⟩ := d
    obtain ⟨h1, h2, h3⟩ := (Sparse.wf_cons _ _ _).mp h
    unfold Sparse.write
    split
    · split
      · subst_vars
        refine Sparse.read_below _ _ fun c hc => ?_
        rcases List.mem_cons.mp hc with rfl | hc
        · assumption
        · have := h1 c hc; omega
      · simp [Sparse.read]
    · split
      · subst_vars
        split
        · subst_vars
          exact Sparse.read_below _ _ h1
        · simp [Sparse.read]
      · rw [Sparse.read, if_neg (by omega)]
        exact ih h3

theorem Sparse.read_write {w : Nat} (m : Sparse w) (k a : Nat) (v : BitVec w) (h : Sparse.wf m = true) :
    Sparse.read (Sparse.write m k v) a = if a = k then v else Sparse.read m a := by
  split
  · subst_vars; exact Sparse.read_write_eq m _ v h
  · exact Sparse.read_write_ne m k a v ‹_›

theorem Sparse.writeAll_wf {w : Nat} (m : Sparse w) (a : Nat) (vs : List (BitVec w)) (h : Sparse.wf m = true) :
    Sparse.wf (Sparse.writeAll m a vs) = true := by
  induction vs generalizing m a with
  | nil => exact h
  | cons v vs ih => exact ih _ _ (Sparse.write_wf m a v h)

theorem Sparse.read_writeAll {w : Nat} (m : Sparse w) (a b : Nat) (vs : List (BitVec w)) (h : Sparse.wf m = true) :
    Sparse.read (Sparse.writeAll m a vs) b = if a ≤ b ∧ b < a + vs.length then vs.getD (b - a) 0 else Sparse.read m b := by
  induction vs generalizing m a with
  | nil => rw [Sparse.writeAll, if_neg]; simp
  | cons v vs ih =>
    rw [Sparse.writeAll, ih _ _ (Sparse.write_wf m a v h), Sparse.read_write m a b v h]
    simp only [List.length_cons]
    by_cases hb : b = a
    · subst hb; rw [if_neg (by omega), if_pos rfl, if_pos (by simp)]; simp
    · by_cases h2 : a + 1 ≤ b ∧ b < a + 1 + vs.length
      · rw [if_pos h2, if_pos (by omega)]
        obtain ⟨n, rfl⟩ : ∃ n, b = a + 1 + n := ⟨b - (a + 1), by omega⟩
        simp [show a + 1 + n - (a + 1) = n by omega, show a + 1 + n - a = n + 1 by omega]
      · rw [if_neg h2, if_neg hb, if_neg (by omega)]

theorem Sparse.filter_wf {w : Nat} (m : Sparse w) (p : Nat × BitVec w → Bool) (h : Sparse.wf m = true) :
    Sparse.wf (m.filter p) = true := by
  obtain ⟨h1, h2⟩ := (Sparse.wf_iff m).mp h
  refine (Sparse.wf_iff _).mpr ⟨?_, fun c hc => h2 c (List.mem_filter.mp hc).1⟩
  exact h1.sublist (List.Sublist.map _ List.filter_sublist)

theorem Sparse.read_filter {w : Nat} (m : Sparse w) (p : Nat → Bool) (a : Nat) :
    Sparse.read (m.filter fun c => p c.1) a = if p a then Sparse.read m a else 0 := by
  induction m with
  | nil => simp [Sparse.read]
  | cons c r ih =>
    obtain ⟨b, v⟩ := c
    by_cases hb : b = a
    · subst hb
      by_cases hp : p b = true
      · simp [hp, Sparse.read]
      · simp [hp, ih]
    · by_cases hp : p b = true
      · simp only [List.filter_cons, hp, if_true, Sparse.read, if_neg hb, ih]
      · simp only [List.filter_cons, hp, Sparse.read, if_neg hb]
        simpa using ih

/-- Writes at addresses that are not this one leave its cell alone. -/
theorem Sparse.read_foldl_ne {w : Nat} {α : Type} (l : List α) (f : α → Nat × BitVec w) (m : Sparse w) (a : Nat)
    (h : ∀ x ∈ l, (f x).1 ≠ a) :
    Sparse.read (l.foldl (fun m x => Sparse.write m (f x).1 (f x).2) m) a = Sparse.read m a := by
  induction l generalizing m with
  | nil => rfl
  | cons x l ih =>
    rw [List.foldl_cons, ih _ fun y hy => h y (by simp [hy]), Sparse.read_write_ne _ _ _ _ (Ne.symm (h x (by simp)))]

theorem Sparse.foldl_wf {w : Nat} {α : Type} (l : List α) (f : α → Nat × BitVec w) (m : Sparse w) (h : Sparse.wf m = true) :
    Sparse.wf (l.foldl (fun m x => Sparse.write m (f x).1 (f x).2) m) = true := by
  induction l generalizing m with
  | nil => exact h
  | cons x l ih => exact ih _ (Sparse.write_wf _ _ _ h)

/-! ### Cores -/

/-- A core's memories are canonical. -/
def Core.MemOk (k : Core) : Prop := Sparse.wf k.spad = true ∧ Sparse.wf k.acc = true ∧ Sparse.wf k.vregs = true

theorem Core.reset_memOk (c : Nat) : (Core.reset c).MemOk := ⟨Sparse.wf_nil, Sparse.wf_nil, Sparse.wf_nil⟩

theorem Core.MemOk.putRow {k : Core} (h : k.MemOk) (r : Nat) (v : Row) : (k.putRow r v).MemOk :=
  ⟨Sparse.write_wf _ _ _ h.1, h.2⟩

theorem Core.MemOk.putRowBytes {k : Core} (h : k.MemOk) (r : Nat) (en : BitVec 256) (v : Row) : (k.putRowBytes r en v).MemOk := by
  unfold Core.putRowBytes
  split
  · exact h.putRow r v
  · exact ⟨Sparse.write_wf _ _ _ h.1, h.2⟩

theorem Core.MemOk.putAcc {k : Core} (h : k.MemOk) (r : Nat) (v : BitVec 8192) : (k.putAcc r v).MemOk :=
  ⟨h.1, Sparse.write_wf _ _ _ h.2.1, h.2.2⟩

theorem Core.MemOk.putSpadBytes {k : Core} (h : k.MemOk) (a : Nat) (bs : List Byte) : (k.putSpadBytes a bs).MemOk :=
  h.putRowBytes _ _ _

theorem Core.MemOk.putBarrier {k : Core} (h : k.MemOk) (a : Nat) (v : BitVec 128) : (k.putBarrier a v).MemOk := h.putSpadBytes _ _

theorem Core.MemOk.updBarrier {k : Core} (h : k.MemOk) (a : Nat) (n : BitVec 28) (b : BitVec 48) : (k.updBarrier a n b).MemOk :=
  h.putBarrier _ _

theorem Core.MemOk.credit {k : Core} (h : k.MemOk) (a n : Nat) : (k.credit a n).MemOk := h.updBarrier _ _ _

theorem Core.MemOk.initBarrier {k : Core} (h : k.MemOk) (a : Nat) (v : BitVec 128) : (k.initBarrier a v).MemOk :=
  h.putSpadBytes a (bytesOf 16 v.toNat)

theorem Core.MemOk.putPairs {k : Core} (h : k.MemOk) (l : List Nat) : (k.putPairs l).MemOk := by
  fun_induction Core.putPairs k l with
  | case1 k r v rest ih => exact ih (h.putRow r _)
  | case2 => exact h

/-- A result that lands keeps the memories canonical. -/
theorem land_memOk (v : FlightVal) {k : Core} (h : k.MemOk) (x : Ctx) : (land v k x).1.MemOk := by
  unfold land
  split
  · exact h
  · exact ⟨h.1, h.2.1, Sparse.write_wf _ _ _ h.2.2⟩
  · exact ⟨h.1, h.2.1, Sparse.write_wf _ _ _ (Sparse.write_wf _ _ _ h.2.2)⟩
  · exact h
  · exact h
  · exact h
  · split
    · exact h.putRowBytes _ _ _
    · exact h

theorem landBefore_memOk (u : FixUnit) (n : Nat) {k : Core} (h : k.MemOk) (x : Ctx) : (landBefore u n k x).1.MemOk := by
  have go : ∀ (l : List Flight) (a : Core × Ctx), a.1.MemOk → (l.foldl (fun a f => land f.val a.1 a.2) a).1.MemOk := by
    intro l
    induction l with
    | nil => exact fun _ h => h
    | cons f l ih => exact fun a ha => ih _ (land_memOk _ ha _)
  exact go _ _ h

theorem creditAt_memOk {k k' : Core} (h : k.MemOk) (x : Ctx) (bar : Option Nat) (n : Nat) (e : k.creditAt x bar n = .ok k') :
    k'.MemOk := by
  unfold Core.creditAt at e
  split at e
  · cases e; exact h
  · split at e
    · split at e
      · simp [mfault] at e
      · cases e; exact h.credit _ _
    · cases e

theorem landRow_memOk {k k' : Core} (h : k.MemOk) (x : Ctx) (row : Nat) (mask : BitVec 8) (v : Row) (bar : Option Nat)
    (e : landRow k x row mask v bar = .ok k') : k'.MemOk := by
  unfold landRow at e
  cases hp : x.rowAt row with
  | error _ => simp [hp, bind, Except.bind] at e
  | ok p =>
    cases hk : k.creditAt x bar (maskCount mask) with
    | error _ => simp [hp, hk, bind, Except.bind] at e
    | ok j =>
      simp only [hp, hk, bind, Except.bind, pure, Except.pure, Except.ok.injEq] at e
      subst e
      exact (creditAt_memOk h x bar _ hk).putRowBytes _ _ _

theorem foldlM_memOk {α : Type} (l : List α) (f : Core → α → Mac Core)
    (hf : ∀ k a k', k.MemOk → f k a = .ok k' → k'.MemOk) {k k' : Core} (h : k.MemOk) (e : l.foldlM f k = .ok k') : k'.MemOk := by
  induction l generalizing k with
  | nil => cases e; exact h
  | cons a l ih =>
    rw [List.foldlM_cons] at e
    cases hk : f k a with
    | error _ => simp [hk, bind, Except.bind] at e
    | ok j => rw [hk] at e; exact ih (hf _ _ _ h hk) e

theorem writeBytes_memOk {k k' : Core} (h : k.MemOk) (x : Ctx) (a n v : Nat) (e : writeBytes k x a n v = .ok k') : k'.MemOk := by
  refine foldlM_memOk _ _ (fun k i k' hk he => ?_) h e
  cases hp : x.rowAt (a / 256 + i) with
  | error _ => simp [hp, Except.map] at he
  | ok p => simp only [hp, Except.map, Except.ok.injEq] at he; subst he; exact hk.putRowBytes _ _ _

theorem writeAcc_memOk {k k' : Core} (h : k.MemOk) (x : Ctx) (a : Nat) (vs : List FVal) (e : writeAcc k x a vs = .ok k') :
    k'.MemOk := by
  unfold writeAcc at e
  cases hp : x.accAt a with
  | error _ => simp [hp, Except.map] at e
  | ok p => simp only [hp, Except.map, Except.ok.injEq] at e; subst e; exact h.putAcc _ _

theorem writeSpan_memOk {k k' : Core} (h : k.MemOk) (x : Ctx) (q : QWord) (t : ElemType) (a : Nat) (codes sides : List Nat)
    (e : writeSpan k x q t a codes sides = .ok k') : k'.MemOk := by
  unfold writeSpan at e
  cases hk : writeBytes k x a (codes.length * t.width / 8) (ofElems t.width codes) with
  | error _ => simp [hk, bind, Except.bind] at e
  | ok j =>
    simp only [hk, bind, Except.bind] at e
    exact foldlM_memOk _ _ (fun _ _ _ hk he => writeBytes_memOk hk x _ _ _ he) (writeBytes_memOk h x _ _ _ hk) e

theorem Core.MemOk.applyMsgn {k : Core} (h : k.MemOk) (n : Nat) : (k.applyMsgn n).MemOk := ⟨Sparse.filter_wf _ _ h.1, h.2⟩

theorem Core.renew_memOk (k : Core) (p : Option Nat) : (k.renew p).MemOk := ⟨Sparse.wf_nil, Sparse.wf_nil, Sparse.wf_nil⟩

theorem Core.MemOk.dispatch {s : State} {c : CoreId} (h : (s.core c).MemOk) (b : BankId) (q : QRec) (p : Place) (l : Nat) :
    ((s.dispatch c b q p l).core c).MemOk := by
  unfold State.dispatch
  rw [setCore_core, if_pos rfl]
  exact ⟨h.1, h.2.1, Sparse.filter_wf _ _ h.2.2⟩

end Sys2Proof.Machine

namespace Sys2Proof

open Sys2Proof.Machine

/-! ### The module -/

theorem MemoryOk.view {s : State} (h : MemoryOk s) (d : DieId) : Memory.wf s.views[d] = true := h.1 d
theorem MemoryOk.core {s : State} (h : MemoryOk s) (c : CoreId) : (s.core c).MemOk := h.2 c

theorem MemoryOk.setCore {s : State} (h : MemoryOk s) (c : CoreId) {k : Core} (hk : k.MemOk) : MemoryOk (s.setCore c k) := by
  refine ⟨h.1, fun d => ?_⟩
  have : ((s.setCore c k).core d).MemOk := by
    rw [setCore_core]
    split
    · exact hk
    · exact h.core d
  exact this

theorem MemoryOk.putCore {s : State} (h : MemoryOk s) {k : Core} (hk : k.MemOk) : MemoryOk (s.putCore k) := h.setCore _ hk

theorem MemoryOk.setCtxAt {s : State} (h : MemoryOk s) (c : CoreId) (b : BankId) (x : Option Ctx) : MemoryOk (s.setCtxAt c b x) :=
  h.setCore c (k := { s.core c with banks := (s.core c).banks.set b x }) (h.core c)

theorem MemoryOk.putCtx {s : State} (h : MemoryOk s) (x : Ctx) : MemoryOk (s.putCtx x) := h.setCtxAt _ _ _

/-- A state with the memories of a canonical one is canonical. -/
theorem MemoryOk.congr {s t : State} (h : MemoryOk s) (hv : t.views = s.views) (hc : t.cores = s.cores) : MemoryOk t := by
  obtain ⟨h1, h2⟩ := h
  exact ⟨by rw [hv]; exact h1, by rw [hc]; exact h2⟩

/-- A view set to a canonical memory. -/
theorem MemoryOk.setView {s t : State} (h : MemoryOk s) (d : DieId) (m : Memory) (hm : Memory.wf m = true)
    (hv : t.views = s.views.set d m) (hc : t.cores = s.cores) : MemoryOk t := by
  refine ⟨fun e => ?_, by rw [hc]; exact h.2⟩
  rw [hv]
  simp only [Fin.getElem_fin, Vector.getElem_set]
  split
  · exact hm
  · exact h.1 e

theorem MemoryOk.applyView {s : State} (h : MemoryOk s) (d : DieId) (a : Nat) (bs : List Byte) : MemoryOk (s.applyView d a bs) :=
  h.setView d _ (Sparse.writeAll_wf (w := 8) _ _ _ (h.1 d)) rfl rfl

theorem MemoryOk.applyCells {s : State} (h : MemoryOk s) (d : DieId) (cs : List Host.Cell) : MemoryOk (s.applyCells d cs) :=
  h.setView d _ (Sparse.foldl_wf (w := 8) cs (fun c => c) _ (h.1 d)) rfl rfl

theorem MemoryOk.writeAllViews {s : State} (h : MemoryOk s) (a : Nat) (bs : List Byte) : MemoryOk (s.writeAllViews a bs) :=
  (((h.applyView 0 a bs).applyView 1 a bs).applyView 2 a bs).applyView 3 a bs

theorem MemoryOk.writeCells {s t : State} (h : MemoryOk s) (d : DieId) (key : Nat) (cs : List Host.Cell)
    (own : Option (CoreId × BitVec 32)) (e : s.writeCells d key cs own = some t) : MemoryOk t := by
  unfold State.writeCells at e
  dsimp only at e
  split at e
  · cases e
    exact ((h.congr (t := { s with vc := _, homeSeq := _ }) rfl rfl).applyCells d cs).congr rfl rfl
  · cases e

theorem MemoryOk.writeMem {s t : State} (h : MemoryOk s) (d : DieId) (a : Nat) (bs : List Byte) (own : Option (CoreId × BitVec 32))
    (e : s.writeMem d a bs own = some t) : MemoryOk t := h.writeCells d _ _ own e

theorem MemoryOk.bankOp {s t : State} (h : MemoryOk s) (d : DieId) (a n : Nat) (own : Option (CoreId × BitVec 32)) (f : Nat → Nat)
    (old : Nat) (e : s.bankOp d a n own f = some (old, t)) : MemoryOk t := by
  unfold State.bankOp at e
  dsimp only at e
  split at e
  · split at e
    · cases e; exact h
    · split at e
      · rename_i hw; cases e; exact h.writeMem _ _ _ _ hw
      · cases e
  · cases e

theorem MemoryOk.applyTransit {s : State} (h : MemoryOk s) (w : Transit) : MemoryOk (s.applyTransit w) :=
  (h.applyCells w.dst w.cells).congr rfl rfl

theorem Memory.copy_wf (m : Memory) (a b n : Nat) (h : Memory.wf m = true) : Memory.wf (Memory.copy m a b n) = true :=
  Sparse.foldl_wf (w := 8) _ (fun c : Host.Cell => (b + (c.1 - a), c.2)) _ (Sparse.filter_wf (w := 8) _ _ h)

theorem MemoryOk.copyBytes {s : State} (h : MemoryOk s) (a b n : Nat) : MemoryOk (s.copyBytes a b n) := by
  refine ⟨fun d => ?_, h.2⟩
  have : (s.copyBytes a b n).views[d] = Memory.copy s.views[d] a b n := by simp [State.copyBytes]
  rw [this]
  exact Memory.copy_wf _ _ _ _ (h.1 d)

theorem MemoryOk.bringLayer {s : State} (h : MemoryOk s) (b : Backing) (bs : List Byte) (a n : Nat) :
    MemoryOk (s.bringLayer b bs a n) := by
  unfold State.bringLayer
  split
  · exact h.copyBytes _ _ _
  · exact h.writeAllViews _ _

theorem MemoryOk.foldlM {α : Type} (l : List α) (f : State → α → Option State)
    (hf : ∀ s a t, MemoryOk s → f s a = some t → MemoryOk t) {s t : State} (h : MemoryOk s) (e : l.foldlM f s = some t) :
    MemoryOk t := by
  induction l generalizing s with
  | nil => cases e; exact h
  | cons a l ih =>
    rw [List.foldlM_cons] at e
    cases hk : f s a with
    | none => simp [hk] at e
    | some u => rw [hk] at e; exact ih (hf _ _ _ h hk) e

theorem MemoryOk.landEverywhere {s t : State} (h : MemoryOk s) (cs : List Host.Cell) (e : s.landEverywhere cs = some t) :
    MemoryOk t := by
  refine MemoryOk.foldlM _ _ (fun s key t hs he => ?_) h e
  dsimp only at he
  split at he
  · cases he; exact hs
  · rename_i c l hc
    cases hw : s.writeCells (homeDie c.1) key (cs.filter fun c => orderKey c.1 == key) none with
    | none => rw [hw] at he; cases he
    | some u =>
      rw [hw] at he
      refine MemoryOk.foldlM _ _ (fun s w t hs he => ?_) ?_ he
      · split at he
        · cases he; exact hs.applyTransit w
        · cases he
      · exact (hs.writeCells _ _ _ _ hw).congr rfl rfl

theorem MemoryOk.writeSectors {s t : State} (h : MemoryOk s) (cs : List Host.Cell) (own : Option (CoreId × BitVec 32))
    (e : s.writeSectors cs own = some t) : MemoryOk t :=
  MemoryOk.foldlM _ _ (fun _ _ _ hs he => hs.writeCells _ _ _ own he) h e

theorem MemoryOk.putVregs {s : State} (h : MemoryOk s) (x : Ctx) (vs : List (Nat × Nat)) : MemoryOk (s.putVregs x vs).1 := by
  have hk := landBefore_memOk .vec (if x.xFresh then x.xclk else x.xclk + 1) (h.core s.cur.core) x
  exact h.putCore ⟨hk.1, hk.2.1, Sparse.foldl_wf vs (fun p => (p.1, BitVec.ofNat 1024 p.2)) _ hk.2.2⟩

/-- Memory at reset is canonical. -/
theorem reset_view_wf (d : DieId) : Memory.wf State.reset.views[d] = true := by
  have : State.reset.views = Vector.replicate 4 [] := rfl
  simp [this, Memory.wf, Sparse.wf]

end Sys2Proof
end

