-- ==== Sys2Proof/Laws/State.lean ====
section
/-! SUPPORT. The fields of a state, a context and a core after each update: one lemma per field per update. -/

namespace Sys2Proof.Machine

/-! ### `State.setCore` -/

@[simp] theorem State.setCore_firm (s : State) (c : CoreId) (k : Core) : (s.setCore c k).firm = s.firm := rfl
@[simp] theorem State.setCore_dies (s : State) (c : CoreId) (k : Core) : (s.setCore c k).dies = s.dies := rfl
@[simp] theorem State.setCore_spaces (s : State) (c : CoreId) (k : Core) : (s.setCore c k).spaces = s.spaces := rfl
@[simp] theorem State.setCore_segOld (s : State) (c : CoreId) (k : Core) : (s.setCore c k).segOld = s.segOld := rfl
@[simp] theorem State.setCore_objs (s : State) (c : CoreId) (k : Core) : (s.setCore c k).objs = s.objs := rfl
@[simp] theorem State.setCore_models (s : State) (c : CoreId) (k : Core) : (s.setCore c k).models = s.models := rfl
@[simp] theorem State.setCore_gangs (s : State) (c : CoreId) (k : Core) : (s.setCore c k).gangs = s.gangs := rfl
@[simp] theorem State.setCore_txns (s : State) (c : CoreId) (k : Core) : (s.setCore c k).txns = s.txns := rfl
@[simp] theorem State.setCore_outbox (s : State) (c : CoreId) (k : Core) : (s.setCore c k).outbox = s.outbox := rfl
@[simp] theorem State.setCore_views (s : State) (c : CoreId) (k : Core) : (s.setCore c k).views = s.views := rfl
@[simp] theorem State.setCore_vc (s : State) (c : CoreId) (k : Core) : (s.setCore c k).vc = s.vc := rfl
@[simp] theorem State.setCore_transit (s : State) (c : CoreId) (k : Core) : (s.setCore c k).transit = s.transit := rfl
@[simp] theorem State.setCore_homeSeq (s : State) (c : CoreId) (k : Core) : (s.setCore c k).homeSeq = s.homeSeq := rfl
@[simp] theorem State.setCore_applied (s : State) (c : CoreId) (k : Core) : (s.setCore c k).applied = s.applied := rfl
@[simp] theorem State.setCore_watches (s : State) (c : CoreId) (k : Core) : (s.setCore c k).watches = s.watches := rfl
@[simp] theorem State.setCore_turn (s : State) (c : CoreId) (k : Core) : (s.setCore c k).turn = s.turn := rfl
@[simp] theorem State.setCore_tick (s : State) (c : CoreId) (k : Core) : (s.setCore c k).tick = s.tick := rfl
@[simp] theorem State.setCore_cur (s : State) (c : CoreId) (k : Core) : (s.setCore c k).cur = s.cur := rfl

/-! ### `State.setCtxAt` -/

@[simp] theorem State.setCtxAt_firm (s : State) (c : CoreId) (b : BankId) (x : Option Ctx) : (s.setCtxAt c b x).firm = s.firm := rfl
@[simp] theorem State.setCtxAt_dies (s : State) (c : CoreId) (b : BankId) (x : Option Ctx) : (s.setCtxAt c b x).dies = s.dies := rfl
@[simp] theorem State.setCtxAt_spaces (s : State) (c : CoreId) (b : BankId) (x : Option Ctx) : (s.setCtxAt c b x).spaces = s.spaces := rfl
@[simp] theorem State.setCtxAt_segOld (s : State) (c : CoreId) (b : BankId) (x : Option Ctx) : (s.setCtxAt c b x).segOld = s.segOld := rfl
@[simp] theorem State.setCtxAt_objs (s : State) (c : CoreId) (b : BankId) (x : Option Ctx) : (s.setCtxAt c b x).objs = s.objs := rfl
@[simp] theorem State.setCtxAt_models (s : State) (c : CoreId) (b : BankId) (x : Option Ctx) : (s.setCtxAt c b x).models = s.models := rfl
@[simp] theorem State.setCtxAt_gangs (s : State) (c : CoreId) (b : BankId) (x : Option Ctx) : (s.setCtxAt c b x).gangs = s.gangs := rfl
@[simp] theorem State.setCtxAt_txns (s : State) (c : CoreId) (b : BankId) (x : Option Ctx) : (s.setCtxAt c b x).txns = s.txns := rfl
@[simp] theorem State.setCtxAt_outbox (s : State) (c : CoreId) (b : BankId) (x : Option Ctx) : (s.setCtxAt c b x).outbox = s.outbox := rfl
@[simp] theorem State.setCtxAt_views (s : State) (c : CoreId) (b : BankId) (x : Option Ctx) : (s.setCtxAt c b x).views = s.views := rfl
@[simp] theorem State.setCtxAt_vc (s : State) (c : CoreId) (b : BankId) (x : Option Ctx) : (s.setCtxAt c b x).vc = s.vc := rfl
@[simp] theorem State.setCtxAt_transit (s : State) (c : CoreId) (b : BankId) (x : Option Ctx) : (s.setCtxAt c b x).transit = s.transit := rfl
@[simp] theorem State.setCtxAt_homeSeq (s : State) (c : CoreId) (b : BankId) (x : Option Ctx) : (s.setCtxAt c b x).homeSeq = s.homeSeq := rfl
@[simp] theorem State.setCtxAt_applied (s : State) (c : CoreId) (b : BankId) (x : Option Ctx) : (s.setCtxAt c b x).applied = s.applied := rfl
@[simp] theorem State.setCtxAt_watches (s : State) (c : CoreId) (b : BankId) (x : Option Ctx) : (s.setCtxAt c b x).watches = s.watches := rfl
@[simp] theorem State.setCtxAt_turn (s : State) (c : CoreId) (b : BankId) (x : Option Ctx) : (s.setCtxAt c b x).turn = s.turn := rfl
@[simp] theorem State.setCtxAt_tick (s : State) (c : CoreId) (b : BankId) (x : Option Ctx) : (s.setCtxAt c b x).tick = s.tick := rfl
@[simp] theorem State.setCtxAt_cur (s : State) (c : CoreId) (b : BankId) (x : Option Ctx) : (s.setCtxAt c b x).cur = s.cur := rfl

/-! ### `State.putCtx` -/

@[simp] theorem State.putCtx_firm (s : State) (x : Ctx) : (s.putCtx x).firm = s.firm := rfl
@[simp] theorem State.putCtx_dies (s : State) (x : Ctx) : (s.putCtx x).dies = s.dies := rfl
@[simp] theorem State.putCtx_spaces (s : State) (x : Ctx) : (s.putCtx x).spaces = s.spaces := rfl
@[simp] theorem State.putCtx_segOld (s : State) (x : Ctx) : (s.putCtx x).segOld = s.segOld := rfl
@[simp] theorem State.putCtx_objs (s : State) (x : Ctx) : (s.putCtx x).objs = s.objs := rfl
@[simp] theorem State.putCtx_models (s : State) (x : Ctx) : (s.putCtx x).models = s.models := rfl
@[simp] theorem State.putCtx_gangs (s : State) (x : Ctx) : (s.putCtx x).gangs = s.gangs := rfl
@[simp] theorem State.putCtx_txns (s : State) (x : Ctx) : (s.putCtx x).txns = s.txns := rfl
@[simp] theorem State.putCtx_outbox (s : State) (x : Ctx) : (s.putCtx x).outbox = s.outbox := rfl
@[simp] theorem State.putCtx_views (s : State) (x : Ctx) : (s.putCtx x).views = s.views := rfl
@[simp] theorem State.putCtx_vc (s : State) (x : Ctx) : (s.putCtx x).vc = s.vc := rfl
@[simp] theorem State.putCtx_transit (s : State) (x : Ctx) : (s.putCtx x).transit = s.transit := rfl
@[simp] theorem State.putCtx_homeSeq (s : State) (x : Ctx) : (s.putCtx x).homeSeq = s.homeSeq := rfl
@[simp] theorem State.putCtx_applied (s : State) (x : Ctx) : (s.putCtx x).applied = s.applied := rfl
@[simp] theorem State.putCtx_watches (s : State) (x : Ctx) : (s.putCtx x).watches = s.watches := rfl
@[simp] theorem State.putCtx_turn (s : State) (x : Ctx) : (s.putCtx x).turn = s.turn := rfl
@[simp] theorem State.putCtx_tick (s : State) (x : Ctx) : (s.putCtx x).tick = s.tick := rfl
@[simp] theorem State.putCtx_cur (s : State) (x : Ctx) : (s.putCtx x).cur = s.cur := rfl

/-! ### `State.putCore` -/

@[simp] theorem State.putCore_firm (s : State) (k : Core) : (s.putCore k).firm = s.firm := rfl
@[simp] theorem State.putCore_dies (s : State) (k : Core) : (s.putCore k).dies = s.dies := rfl
@[simp] theorem State.putCore_spaces (s : State) (k : Core) : (s.putCore k).spaces = s.spaces := rfl
@[simp] theorem State.putCore_segOld (s : State) (k : Core) : (s.putCore k).segOld = s.segOld := rfl
@[simp] theorem State.putCore_objs (s : State) (k : Core) : (s.putCore k).objs = s.objs := rfl
@[simp] theorem State.putCore_models (s : State) (k : Core) : (s.putCore k).models = s.models := rfl
@[simp] theorem State.putCore_gangs (s : State) (k : Core) : (s.putCore k).gangs = s.gangs := rfl
@[simp] theorem State.putCore_txns (s : State) (k : Core) : (s.putCore k).txns = s.txns := rfl
@[simp] theorem State.putCore_outbox (s : State) (k : Core) : (s.putCore k).outbox = s.outbox := rfl
@[simp] theorem State.putCore_views (s : State) (k : Core) : (s.putCore k).views = s.views := rfl
@[simp] theorem State.putCore_vc (s : State) (k : Core) : (s.putCore k).vc = s.vc := rfl
@[simp] theorem State.putCore_transit (s : State) (k : Core) : (s.putCore k).transit = s.transit := rfl
@[simp] theorem State.putCore_homeSeq (s : State) (k : Core) : (s.putCore k).homeSeq = s.homeSeq := rfl
@[simp] theorem State.putCore_applied (s : State) (k : Core) : (s.putCore k).applied = s.applied := rfl
@[simp] theorem State.putCore_watches (s : State) (k : Core) : (s.putCore k).watches = s.watches := rfl
@[simp] theorem State.putCore_turn (s : State) (k : Core) : (s.putCore k).turn = s.turn := rfl
@[simp] theorem State.putCore_tick (s : State) (k : Core) : (s.putCore k).tick = s.tick := rfl
@[simp] theorem State.putCore_cur (s : State) (k : Core) : (s.putCore k).cur = s.cur := rfl

/-! ### `State.setDie` -/

@[simp] theorem State.setDie_firm (s : State) (d : DieId) (x : Die) : (s.setDie d x).firm = s.firm := rfl
@[simp] theorem State.setDie_cores (s : State) (d : DieId) (x : Die) : (s.setDie d x).cores = s.cores := rfl
@[simp] theorem State.setDie_spaces (s : State) (d : DieId) (x : Die) : (s.setDie d x).spaces = s.spaces := rfl
@[simp] theorem State.setDie_segOld (s : State) (d : DieId) (x : Die) : (s.setDie d x).segOld = s.segOld := rfl
@[simp] theorem State.setDie_objs (s : State) (d : DieId) (x : Die) : (s.setDie d x).objs = s.objs := rfl
@[simp] theorem State.setDie_models (s : State) (d : DieId) (x : Die) : (s.setDie d x).models = s.models := rfl
@[simp] theorem State.setDie_gangs (s : State) (d : DieId) (x : Die) : (s.setDie d x).gangs = s.gangs := rfl
@[simp] theorem State.setDie_txns (s : State) (d : DieId) (x : Die) : (s.setDie d x).txns = s.txns := rfl
@[simp] theorem State.setDie_outbox (s : State) (d : DieId) (x : Die) : (s.setDie d x).outbox = s.outbox := rfl
@[simp] theorem State.setDie_views (s : State) (d : DieId) (x : Die) : (s.setDie d x).views = s.views := rfl
@[simp] theorem State.setDie_vc (s : State) (d : DieId) (x : Die) : (s.setDie d x).vc = s.vc := rfl
@[simp] theorem State.setDie_transit (s : State) (d : DieId) (x : Die) : (s.setDie d x).transit = s.transit := rfl
@[simp] theorem State.setDie_homeSeq (s : State) (d : DieId) (x : Die) : (s.setDie d x).homeSeq = s.homeSeq := rfl
@[simp] theorem State.setDie_applied (s : State) (d : DieId) (x : Die) : (s.setDie d x).applied = s.applied := rfl
@[simp] theorem State.setDie_watches (s : State) (d : DieId) (x : Die) : (s.setDie d x).watches = s.watches := rfl
@[simp] theorem State.setDie_turn (s : State) (d : DieId) (x : Die) : (s.setDie d x).turn = s.turn := rfl
@[simp] theorem State.setDie_tick (s : State) (d : DieId) (x : Die) : (s.setDie d x).tick = s.tick := rfl
@[simp] theorem State.setDie_cur (s : State) (d : DieId) (x : Die) : (s.setDie d x).cur = s.cur := rfl

/-! ### `State.pushReady` -/

@[simp] theorem State.pushReady_firm (s : State) (d : DieId) (q : QRec) : (s.pushReady d q).firm = s.firm := rfl
@[simp] theorem State.pushReady_cores (s : State) (d : DieId) (q : QRec) : (s.pushReady d q).cores = s.cores := rfl
@[simp] theorem State.pushReady_spaces (s : State) (d : DieId) (q : QRec) : (s.pushReady d q).spaces = s.spaces := rfl
@[simp] theorem State.pushReady_segOld (s : State) (d : DieId) (q : QRec) : (s.pushReady d q).segOld = s.segOld := rfl
@[simp] theorem State.pushReady_objs (s : State) (d : DieId) (q : QRec) : (s.pushReady d q).objs = s.objs := rfl
@[simp] theorem State.pushReady_models (s : State) (d : DieId) (q : QRec) : (s.pushReady d q).models = s.models := rfl
@[simp] theorem State.pushReady_gangs (s : State) (d : DieId) (q : QRec) : (s.pushReady d q).gangs = s.gangs := rfl
@[simp] theorem State.pushReady_txns (s : State) (d : DieId) (q : QRec) : (s.pushReady d q).txns = s.txns := rfl
@[simp] theorem State.pushReady_outbox (s : State) (d : DieId) (q : QRec) : (s.pushReady d q).outbox = s.outbox := rfl
@[simp] theorem State.pushReady_views (s : State) (d : DieId) (q : QRec) : (s.pushReady d q).views = s.views := rfl
@[simp] theorem State.pushReady_vc (s : State) (d : DieId) (q : QRec) : (s.pushReady d q).vc = s.vc := rfl
@[simp] theorem State.pushReady_transit (s : State) (d : DieId) (q : QRec) : (s.pushReady d q).transit = s.transit := rfl
@[simp] theorem State.pushReady_homeSeq (s : State) (d : DieId) (q : QRec) : (s.pushReady d q).homeSeq = s.homeSeq := rfl
@[simp] theorem State.pushReady_applied (s : State) (d : DieId) (q : QRec) : (s.pushReady d q).applied = s.applied := rfl
@[simp] theorem State.pushReady_watches (s : State) (d : DieId) (q : QRec) : (s.pushReady d q).watches = s.watches := rfl
@[simp] theorem State.pushReady_turn (s : State) (d : DieId) (q : QRec) : (s.pushReady d q).turn = s.turn := rfl
@[simp] theorem State.pushReady_tick (s : State) (d : DieId) (q : QRec) : (s.pushReady d q).tick = s.tick := rfl
@[simp] theorem State.pushReady_cur (s : State) (d : DieId) (q : QRec) : (s.pushReady d q).cur = s.cur := rfl

/-! ### `State.setEntry` -/

@[simp] theorem State.setEntry_firm (s : State) (a : BitVec 12) (i : Nat) (e : SegEntry) : (s.setEntry a i e).firm = s.firm := rfl
@[simp] theorem State.setEntry_dies (s : State) (a : BitVec 12) (i : Nat) (e : SegEntry) : (s.setEntry a i e).dies = s.dies := rfl
@[simp] theorem State.setEntry_cores (s : State) (a : BitVec 12) (i : Nat) (e : SegEntry) : (s.setEntry a i e).cores = s.cores := rfl
@[simp] theorem State.setEntry_segOld (s : State) (a : BitVec 12) (i : Nat) (e : SegEntry) : (s.setEntry a i e).segOld = s.segOld := rfl
@[simp] theorem State.setEntry_objs (s : State) (a : BitVec 12) (i : Nat) (e : SegEntry) : (s.setEntry a i e).objs = s.objs := rfl
@[simp] theorem State.setEntry_models (s : State) (a : BitVec 12) (i : Nat) (e : SegEntry) : (s.setEntry a i e).models = s.models := rfl
@[simp] theorem State.setEntry_gangs (s : State) (a : BitVec 12) (i : Nat) (e : SegEntry) : (s.setEntry a i e).gangs = s.gangs := rfl
@[simp] theorem State.setEntry_txns (s : State) (a : BitVec 12) (i : Nat) (e : SegEntry) : (s.setEntry a i e).txns = s.txns := rfl
@[simp] theorem State.setEntry_outbox (s : State) (a : BitVec 12) (i : Nat) (e : SegEntry) : (s.setEntry a i e).outbox = s.outbox := rfl
@[simp] theorem State.setEntry_views (s : State) (a : BitVec 12) (i : Nat) (e : SegEntry) : (s.setEntry a i e).views = s.views := rfl
@[simp] theorem State.setEntry_vc (s : State) (a : BitVec 12) (i : Nat) (e : SegEntry) : (s.setEntry a i e).vc = s.vc := rfl
@[simp] theorem State.setEntry_transit (s : State) (a : BitVec 12) (i : Nat) (e : SegEntry) : (s.setEntry a i e).transit = s.transit := rfl
@[simp] theorem State.setEntry_homeSeq (s : State) (a : BitVec 12) (i : Nat) (e : SegEntry) : (s.setEntry a i e).homeSeq = s.homeSeq := rfl
@[simp] theorem State.setEntry_applied (s : State) (a : BitVec 12) (i : Nat) (e : SegEntry) : (s.setEntry a i e).applied = s.applied := rfl
@[simp] theorem State.setEntry_watches (s : State) (a : BitVec 12) (i : Nat) (e : SegEntry) : (s.setEntry a i e).watches = s.watches := rfl
@[simp] theorem State.setEntry_turn (s : State) (a : BitVec 12) (i : Nat) (e : SegEntry) : (s.setEntry a i e).turn = s.turn := rfl
@[simp] theorem State.setEntry_tick (s : State) (a : BitVec 12) (i : Nat) (e : SegEntry) : (s.setEntry a i e).tick = s.tick := rfl
@[simp] theorem State.setEntry_cur (s : State) (a : BitVec 12) (i : Nat) (e : SegEntry) : (s.setEntry a i e).cur = s.cur := rfl

/-! ### `State.setObj` -/

@[simp] theorem State.setObj_firm (s : State) (o : Obj) : (s.setObj o).firm = s.firm := rfl
@[simp] theorem State.setObj_dies (s : State) (o : Obj) : (s.setObj o).dies = s.dies := rfl
@[simp] theorem State.setObj_cores (s : State) (o : Obj) : (s.setObj o).cores = s.cores := rfl
@[simp] theorem State.setObj_spaces (s : State) (o : Obj) : (s.setObj o).spaces = s.spaces := rfl
@[simp] theorem State.setObj_segOld (s : State) (o : Obj) : (s.setObj o).segOld = s.segOld := rfl
@[simp] theorem State.setObj_models (s : State) (o : Obj) : (s.setObj o).models = s.models := rfl
@[simp] theorem State.setObj_gangs (s : State) (o : Obj) : (s.setObj o).gangs = s.gangs := rfl
@[simp] theorem State.setObj_txns (s : State) (o : Obj) : (s.setObj o).txns = s.txns := rfl
@[simp] theorem State.setObj_outbox (s : State) (o : Obj) : (s.setObj o).outbox = s.outbox := rfl
@[simp] theorem State.setObj_views (s : State) (o : Obj) : (s.setObj o).views = s.views := rfl
@[simp] theorem State.setObj_vc (s : State) (o : Obj) : (s.setObj o).vc = s.vc := rfl
@[simp] theorem State.setObj_transit (s : State) (o : Obj) : (s.setObj o).transit = s.transit := rfl
@[simp] theorem State.setObj_homeSeq (s : State) (o : Obj) : (s.setObj o).homeSeq = s.homeSeq := rfl
@[simp] theorem State.setObj_applied (s : State) (o : Obj) : (s.setObj o).applied = s.applied := rfl
@[simp] theorem State.setObj_watches (s : State) (o : Obj) : (s.setObj o).watches = s.watches := rfl
@[simp] theorem State.setObj_turn (s : State) (o : Obj) : (s.setObj o).turn = s.turn := rfl
@[simp] theorem State.setObj_tick (s : State) (o : Obj) : (s.setObj o).tick = s.tick := rfl
@[simp] theorem State.setObj_cur (s : State) (o : Obj) : (s.setObj o).cur = s.cur := rfl

/-! ### `State.setModel` -/

@[simp] theorem State.setModel_firm (s : State) (m : Model) : (s.setModel m).firm = s.firm := rfl
@[simp] theorem State.setModel_dies (s : State) (m : Model) : (s.setModel m).dies = s.dies := rfl
@[simp] theorem State.setModel_cores (s : State) (m : Model) : (s.setModel m).cores = s.cores := rfl
@[simp] theorem State.setModel_spaces (s : State) (m : Model) : (s.setModel m).spaces = s.spaces := rfl
@[simp] theorem State.setModel_segOld (s : State) (m : Model) : (s.setModel m).segOld = s.segOld := rfl
@[simp] theorem State.setModel_objs (s : State) (m : Model) : (s.setModel m).objs = s.objs := rfl
@[simp] theorem State.setModel_gangs (s : State) (m : Model) : (s.setModel m).gangs = s.gangs := rfl
@[simp] theorem State.setModel_txns (s : State) (m : Model) : (s.setModel m).txns = s.txns := rfl
@[simp] theorem State.setModel_outbox (s : State) (m : Model) : (s.setModel m).outbox = s.outbox := rfl
@[simp] theorem State.setModel_views (s : State) (m : Model) : (s.setModel m).views = s.views := rfl
@[simp] theorem State.setModel_vc (s : State) (m : Model) : (s.setModel m).vc = s.vc := rfl
@[simp] theorem State.setModel_transit (s : State) (m : Model) : (s.setModel m).transit = s.transit := rfl
@[simp] theorem State.setModel_homeSeq (s : State) (m : Model) : (s.setModel m).homeSeq = s.homeSeq := rfl
@[simp] theorem State.setModel_applied (s : State) (m : Model) : (s.setModel m).applied = s.applied := rfl
@[simp] theorem State.setModel_watches (s : State) (m : Model) : (s.setModel m).watches = s.watches := rfl
@[simp] theorem State.setModel_turn (s : State) (m : Model) : (s.setModel m).turn = s.turn := rfl
@[simp] theorem State.setModel_tick (s : State) (m : Model) : (s.setModel m).tick = s.tick := rfl
@[simp] theorem State.setModel_cur (s : State) (m : Model) : (s.setModel m).cur = s.cur := rfl

/-! ### `State.noteUse` -/

@[simp] theorem State.noteUse_dies (s : State) (a : BitVec 12) (i : Nat) (l : Loc) : (s.noteUse a i l).dies = s.dies := rfl
@[simp] theorem State.noteUse_cores (s : State) (a : BitVec 12) (i : Nat) (l : Loc) : (s.noteUse a i l).cores = s.cores := rfl
@[simp] theorem State.noteUse_spaces (s : State) (a : BitVec 12) (i : Nat) (l : Loc) : (s.noteUse a i l).spaces = s.spaces := rfl
@[simp] theorem State.noteUse_segOld (s : State) (a : BitVec 12) (i : Nat) (l : Loc) : (s.noteUse a i l).segOld = s.segOld := rfl
@[simp] theorem State.noteUse_objs (s : State) (a : BitVec 12) (i : Nat) (l : Loc) : (s.noteUse a i l).objs = s.objs := rfl
@[simp] theorem State.noteUse_gangs (s : State) (a : BitVec 12) (i : Nat) (l : Loc) : (s.noteUse a i l).gangs = s.gangs := rfl
@[simp] theorem State.noteUse_txns (s : State) (a : BitVec 12) (i : Nat) (l : Loc) : (s.noteUse a i l).txns = s.txns := rfl
@[simp] theorem State.noteUse_outbox (s : State) (a : BitVec 12) (i : Nat) (l : Loc) : (s.noteUse a i l).outbox = s.outbox := rfl
@[simp] theorem State.noteUse_views (s : State) (a : BitVec 12) (i : Nat) (l : Loc) : (s.noteUse a i l).views = s.views := rfl
@[simp] theorem State.noteUse_vc (s : State) (a : BitVec 12) (i : Nat) (l : Loc) : (s.noteUse a i l).vc = s.vc := rfl
@[simp] theorem State.noteUse_transit (s : State) (a : BitVec 12) (i : Nat) (l : Loc) : (s.noteUse a i l).transit = s.transit := rfl
@[simp] theorem State.noteUse_homeSeq (s : State) (a : BitVec 12) (i : Nat) (l : Loc) : (s.noteUse a i l).homeSeq = s.homeSeq := rfl
@[simp] theorem State.noteUse_applied (s : State) (a : BitVec 12) (i : Nat) (l : Loc) : (s.noteUse a i l).applied = s.applied := rfl
@[simp] theorem State.noteUse_watches (s : State) (a : BitVec 12) (i : Nat) (l : Loc) : (s.noteUse a i l).watches = s.watches := rfl
@[simp] theorem State.noteUse_turn (s : State) (a : BitVec 12) (i : Nat) (l : Loc) : (s.noteUse a i l).turn = s.turn := rfl
@[simp] theorem State.noteUse_tick (s : State) (a : BitVec 12) (i : Nat) (l : Loc) : (s.noteUse a i l).tick = s.tick := rfl
@[simp] theorem State.noteUse_cur (s : State) (a : BitVec 12) (i : Nat) (l : Loc) : (s.noteUse a i l).cur = s.cur := rfl

/-! ### `State.settle` -/

@[simp] theorem State.settle_firm (s : State) : (s.settle).firm = s.firm := rfl
@[simp] theorem State.settle_dies (s : State) : (s.settle).dies = s.dies := rfl
@[simp] theorem State.settle_cores (s : State) : (s.settle).cores = s.cores := rfl
@[simp] theorem State.settle_spaces (s : State) : (s.settle).spaces = s.spaces := rfl
@[simp] theorem State.settle_segOld (s : State) : (s.settle).segOld = s.segOld := rfl
@[simp] theorem State.settle_objs (s : State) : (s.settle).objs = s.objs := rfl
@[simp] theorem State.settle_gangs (s : State) : (s.settle).gangs = s.gangs := rfl
@[simp] theorem State.settle_txns (s : State) : (s.settle).txns = s.txns := rfl
@[simp] theorem State.settle_outbox (s : State) : (s.settle).outbox = s.outbox := rfl
@[simp] theorem State.settle_views (s : State) : (s.settle).views = s.views := rfl
@[simp] theorem State.settle_vc (s : State) : (s.settle).vc = s.vc := rfl
@[simp] theorem State.settle_transit (s : State) : (s.settle).transit = s.transit := rfl
@[simp] theorem State.settle_homeSeq (s : State) : (s.settle).homeSeq = s.homeSeq := rfl
@[simp] theorem State.settle_applied (s : State) : (s.settle).applied = s.applied := rfl
@[simp] theorem State.settle_watches (s : State) : (s.settle).watches = s.watches := rfl
@[simp] theorem State.settle_turn (s : State) : (s.settle).turn = s.turn := rfl
@[simp] theorem State.settle_tick (s : State) : (s.settle).tick = s.tick := rfl
@[simp] theorem State.settle_cur (s : State) : (s.settle).cur = s.cur := rfl

/-! ### `State.send` -/

@[simp] theorem State.send_dies (s : State) (n : Nat) (l : List Nat) : (s.send n l).dies = s.dies := rfl
@[simp] theorem State.send_cores (s : State) (n : Nat) (l : List Nat) : (s.send n l).cores = s.cores := rfl
@[simp] theorem State.send_spaces (s : State) (n : Nat) (l : List Nat) : (s.send n l).spaces = s.spaces := rfl
@[simp] theorem State.send_segOld (s : State) (n : Nat) (l : List Nat) : (s.send n l).segOld = s.segOld := rfl
@[simp] theorem State.send_objs (s : State) (n : Nat) (l : List Nat) : (s.send n l).objs = s.objs := rfl
@[simp] theorem State.send_models (s : State) (n : Nat) (l : List Nat) : (s.send n l).models = s.models := rfl
@[simp] theorem State.send_gangs (s : State) (n : Nat) (l : List Nat) : (s.send n l).gangs = s.gangs := rfl
@[simp] theorem State.send_txns (s : State) (n : Nat) (l : List Nat) : (s.send n l).txns = s.txns := rfl
@[simp] theorem State.send_views (s : State) (n : Nat) (l : List Nat) : (s.send n l).views = s.views := rfl
@[simp] theorem State.send_vc (s : State) (n : Nat) (l : List Nat) : (s.send n l).vc = s.vc := rfl
@[simp] theorem State.send_transit (s : State) (n : Nat) (l : List Nat) : (s.send n l).transit = s.transit := rfl
@[simp] theorem State.send_homeSeq (s : State) (n : Nat) (l : List Nat) : (s.send n l).homeSeq = s.homeSeq := rfl
@[simp] theorem State.send_applied (s : State) (n : Nat) (l : List Nat) : (s.send n l).applied = s.applied := rfl
@[simp] theorem State.send_watches (s : State) (n : Nat) (l : List Nat) : (s.send n l).watches = s.watches := rfl
@[simp] theorem State.send_turn (s : State) (n : Nat) (l : List Nat) : (s.send n l).turn = s.turn := rfl
@[simp] theorem State.send_tick (s : State) (n : Nat) (l : List Nat) : (s.send n l).tick = s.tick := rfl
@[simp] theorem State.send_cur (s : State) (n : Nat) (l : List Nat) : (s.send n l).cur = s.cur := rfl

/-! ### `State.transmit` -/

@[simp] theorem State.transmit_firm (s : State) (r : Response) : (s.transmit r).firm = s.firm := rfl
@[simp] theorem State.transmit_dies (s : State) (r : Response) : (s.transmit r).dies = s.dies := rfl
@[simp] theorem State.transmit_cores (s : State) (r : Response) : (s.transmit r).cores = s.cores := rfl
@[simp] theorem State.transmit_spaces (s : State) (r : Response) : (s.transmit r).spaces = s.spaces := rfl
@[simp] theorem State.transmit_segOld (s : State) (r : Response) : (s.transmit r).segOld = s.segOld := rfl
@[simp] theorem State.transmit_objs (s : State) (r : Response) : (s.transmit r).objs = s.objs := rfl
@[simp] theorem State.transmit_models (s : State) (r : Response) : (s.transmit r).models = s.models := rfl
@[simp] theorem State.transmit_gangs (s : State) (r : Response) : (s.transmit r).gangs = s.gangs := rfl
@[simp] theorem State.transmit_txns (s : State) (r : Response) : (s.transmit r).txns = s.txns := rfl
@[simp] theorem State.transmit_views (s : State) (r : Response) : (s.transmit r).views = s.views := rfl
@[simp] theorem State.transmit_vc (s : State) (r : Response) : (s.transmit r).vc = s.vc := rfl
@[simp] theorem State.transmit_transit (s : State) (r : Response) : (s.transmit r).transit = s.transit := rfl
@[simp] theorem State.transmit_homeSeq (s : State) (r : Response) : (s.transmit r).homeSeq = s.homeSeq := rfl
@[simp] theorem State.transmit_applied (s : State) (r : Response) : (s.transmit r).applied = s.applied := rfl
@[simp] theorem State.transmit_watches (s : State) (r : Response) : (s.transmit r).watches = s.watches := rfl
@[simp] theorem State.transmit_turn (s : State) (r : Response) : (s.transmit r).turn = s.turn := rfl
@[simp] theorem State.transmit_tick (s : State) (r : Response) : (s.transmit r).tick = s.tick := rfl
@[simp] theorem State.transmit_cur (s : State) (r : Response) : (s.transmit r).cur = s.cur := rfl

/-! ### `State.respond` -/

@[simp] theorem State.respond_dies (s : State) (h : HostCmd) (n m : Nat) (l : List Byte) (v : List Row) : (s.respond h n m l v).dies = s.dies := rfl
@[simp] theorem State.respond_cores (s : State) (h : HostCmd) (n m : Nat) (l : List Byte) (v : List Row) : (s.respond h n m l v).cores = s.cores := rfl
@[simp] theorem State.respond_spaces (s : State) (h : HostCmd) (n m : Nat) (l : List Byte) (v : List Row) : (s.respond h n m l v).spaces = s.spaces := rfl
@[simp] theorem State.respond_segOld (s : State) (h : HostCmd) (n m : Nat) (l : List Byte) (v : List Row) : (s.respond h n m l v).segOld = s.segOld := rfl
@[simp] theorem State.respond_objs (s : State) (h : HostCmd) (n m : Nat) (l : List Byte) (v : List Row) : (s.respond h n m l v).objs = s.objs := rfl
@[simp] theorem State.respond_models (s : State) (h : HostCmd) (n m : Nat) (l : List Byte) (v : List Row) : (s.respond h n m l v).models = s.models := rfl
@[simp] theorem State.respond_gangs (s : State) (h : HostCmd) (n m : Nat) (l : List Byte) (v : List Row) : (s.respond h n m l v).gangs = s.gangs := rfl
@[simp] theorem State.respond_txns (s : State) (h : HostCmd) (n m : Nat) (l : List Byte) (v : List Row) : (s.respond h n m l v).txns = s.txns := rfl
@[simp] theorem State.respond_views (s : State) (h : HostCmd) (n m : Nat) (l : List Byte) (v : List Row) : (s.respond h n m l v).views = s.views := rfl
@[simp] theorem State.respond_vc (s : State) (h : HostCmd) (n m : Nat) (l : List Byte) (v : List Row) : (s.respond h n m l v).vc = s.vc := rfl
@[simp] theorem State.respond_transit (s : State) (h : HostCmd) (n m : Nat) (l : List Byte) (v : List Row) : (s.respond h n m l v).transit = s.transit := rfl
@[simp] theorem State.respond_homeSeq (s : State) (h : HostCmd) (n m : Nat) (l : List Byte) (v : List Row) : (s.respond h n m l v).homeSeq = s.homeSeq := rfl
@[simp] theorem State.respond_applied (s : State) (h : HostCmd) (n m : Nat) (l : List Byte) (v : List Row) : (s.respond h n m l v).applied = s.applied := rfl
@[simp] theorem State.respond_watches (s : State) (h : HostCmd) (n m : Nat) (l : List Byte) (v : List Row) : (s.respond h n m l v).watches = s.watches := rfl
@[simp] theorem State.respond_turn (s : State) (h : HostCmd) (n m : Nat) (l : List Byte) (v : List Row) : (s.respond h n m l v).turn = s.turn := rfl
@[simp] theorem State.respond_tick (s : State) (h : HostCmd) (n m : Nat) (l : List Byte) (v : List Row) : (s.respond h n m l v).tick = s.tick := rfl
@[simp] theorem State.respond_cur (s : State) (h : HostCmd) (n m : Nat) (l : List Byte) (v : List Row) : (s.respond h n m l v).cur = s.cur := rfl

/-! ### `State.answer` -/

@[simp] theorem State.answer_firm (s : State) (n : Nat) (t : Flit) (c : Option Nat) (l : List Row) (m : Nat) : (s.answer n t c l m).firm = s.firm := rfl
@[simp] theorem State.answer_dies (s : State) (n : Nat) (t : Flit) (c : Option Nat) (l : List Row) (m : Nat) : (s.answer n t c l m).dies = s.dies := rfl
@[simp] theorem State.answer_cores (s : State) (n : Nat) (t : Flit) (c : Option Nat) (l : List Row) (m : Nat) : (s.answer n t c l m).cores = s.cores := rfl
@[simp] theorem State.answer_spaces (s : State) (n : Nat) (t : Flit) (c : Option Nat) (l : List Row) (m : Nat) : (s.answer n t c l m).spaces = s.spaces := rfl
@[simp] theorem State.answer_segOld (s : State) (n : Nat) (t : Flit) (c : Option Nat) (l : List Row) (m : Nat) : (s.answer n t c l m).segOld = s.segOld := rfl
@[simp] theorem State.answer_objs (s : State) (n : Nat) (t : Flit) (c : Option Nat) (l : List Row) (m : Nat) : (s.answer n t c l m).objs = s.objs := rfl
@[simp] theorem State.answer_models (s : State) (n : Nat) (t : Flit) (c : Option Nat) (l : List Row) (m : Nat) : (s.answer n t c l m).models = s.models := rfl
@[simp] theorem State.answer_gangs (s : State) (n : Nat) (t : Flit) (c : Option Nat) (l : List Row) (m : Nat) : (s.answer n t c l m).gangs = s.gangs := rfl
@[simp] theorem State.answer_txns (s : State) (n : Nat) (t : Flit) (c : Option Nat) (l : List Row) (m : Nat) : (s.answer n t c l m).txns = s.txns := rfl
@[simp] theorem State.answer_views (s : State) (n : Nat) (t : Flit) (c : Option Nat) (l : List Row) (m : Nat) : (s.answer n t c l m).views = s.views := rfl
@[simp] theorem State.answer_vc (s : State) (n : Nat) (t : Flit) (c : Option Nat) (l : List Row) (m : Nat) : (s.answer n t c l m).vc = s.vc := rfl
@[simp] theorem State.answer_transit (s : State) (n : Nat) (t : Flit) (c : Option Nat) (l : List Row) (m : Nat) : (s.answer n t c l m).transit = s.transit := rfl
@[simp] theorem State.answer_homeSeq (s : State) (n : Nat) (t : Flit) (c : Option Nat) (l : List Row) (m : Nat) : (s.answer n t c l m).homeSeq = s.homeSeq := rfl
@[simp] theorem State.answer_applied (s : State) (n : Nat) (t : Flit) (c : Option Nat) (l : List Row) (m : Nat) : (s.answer n t c l m).applied = s.applied := rfl
@[simp] theorem State.answer_watches (s : State) (n : Nat) (t : Flit) (c : Option Nat) (l : List Row) (m : Nat) : (s.answer n t c l m).watches = s.watches := rfl
@[simp] theorem State.answer_turn (s : State) (n : Nat) (t : Flit) (c : Option Nat) (l : List Row) (m : Nat) : (s.answer n t c l m).turn = s.turn := rfl
@[simp] theorem State.answer_tick (s : State) (n : Nat) (t : Flit) (c : Option Nat) (l : List Row) (m : Nat) : (s.answer n t c l m).tick = s.tick := rfl
@[simp] theorem State.answer_cur (s : State) (n : Nat) (t : Flit) (c : Option Nat) (l : List Row) (m : Nat) : (s.answer n t c l m).cur = s.cur := rfl

/-! ### `State.setDup` -/

@[simp] theorem State.setDup_firm (s : State) (a : BitVec 12) (i m n : Nat) : (s.setDup a i m n).firm = s.firm := rfl
@[simp] theorem State.setDup_dies (s : State) (a : BitVec 12) (i m n : Nat) : (s.setDup a i m n).dies = s.dies := rfl
@[simp] theorem State.setDup_cores (s : State) (a : BitVec 12) (i m n : Nat) : (s.setDup a i m n).cores = s.cores := rfl
@[simp] theorem State.setDup_segOld (s : State) (a : BitVec 12) (i m n : Nat) : (s.setDup a i m n).segOld = s.segOld := rfl
@[simp] theorem State.setDup_objs (s : State) (a : BitVec 12) (i m n : Nat) : (s.setDup a i m n).objs = s.objs := rfl
@[simp] theorem State.setDup_models (s : State) (a : BitVec 12) (i m n : Nat) : (s.setDup a i m n).models = s.models := rfl
@[simp] theorem State.setDup_gangs (s : State) (a : BitVec 12) (i m n : Nat) : (s.setDup a i m n).gangs = s.gangs := rfl
@[simp] theorem State.setDup_txns (s : State) (a : BitVec 12) (i m n : Nat) : (s.setDup a i m n).txns = s.txns := rfl
@[simp] theorem State.setDup_outbox (s : State) (a : BitVec 12) (i m n : Nat) : (s.setDup a i m n).outbox = s.outbox := rfl
@[simp] theorem State.setDup_views (s : State) (a : BitVec 12) (i m n : Nat) : (s.setDup a i m n).views = s.views := rfl
@[simp] theorem State.setDup_vc (s : State) (a : BitVec 12) (i m n : Nat) : (s.setDup a i m n).vc = s.vc := rfl
@[simp] theorem State.setDup_transit (s : State) (a : BitVec 12) (i m n : Nat) : (s.setDup a i m n).transit = s.transit := rfl
@[simp] theorem State.setDup_homeSeq (s : State) (a : BitVec 12) (i m n : Nat) : (s.setDup a i m n).homeSeq = s.homeSeq := rfl
@[simp] theorem State.setDup_applied (s : State) (a : BitVec 12) (i m n : Nat) : (s.setDup a i m n).applied = s.applied := rfl
@[simp] theorem State.setDup_watches (s : State) (a : BitVec 12) (i m n : Nat) : (s.setDup a i m n).watches = s.watches := rfl
@[simp] theorem State.setDup_turn (s : State) (a : BitVec 12) (i m n : Nat) : (s.setDup a i m n).turn = s.turn := rfl
@[simp] theorem State.setDup_tick (s : State) (a : BitVec 12) (i m n : Nat) : (s.setDup a i m n).tick = s.tick := rfl
@[simp] theorem State.setDup_cur (s : State) (a : BitVec 12) (i m n : Nat) : (s.setDup a i m n).cur = s.cur := rfl

/-! ### `State.dropCode` -/

@[simp] theorem State.dropCode_firm (s : State) (a : BitVec 12) (e : SegEntry) : (s.dropCode a e).firm = s.firm := rfl
@[simp] theorem State.dropCode_dies (s : State) (a : BitVec 12) (e : SegEntry) : (s.dropCode a e).dies = s.dies := rfl
@[simp] theorem State.dropCode_spaces (s : State) (a : BitVec 12) (e : SegEntry) : (s.dropCode a e).spaces = s.spaces := rfl
@[simp] theorem State.dropCode_segOld (s : State) (a : BitVec 12) (e : SegEntry) : (s.dropCode a e).segOld = s.segOld := rfl
@[simp] theorem State.dropCode_objs (s : State) (a : BitVec 12) (e : SegEntry) : (s.dropCode a e).objs = s.objs := rfl
@[simp] theorem State.dropCode_models (s : State) (a : BitVec 12) (e : SegEntry) : (s.dropCode a e).models = s.models := rfl
@[simp] theorem State.dropCode_gangs (s : State) (a : BitVec 12) (e : SegEntry) : (s.dropCode a e).gangs = s.gangs := rfl
@[simp] theorem State.dropCode_txns (s : State) (a : BitVec 12) (e : SegEntry) : (s.dropCode a e).txns = s.txns := rfl
@[simp] theorem State.dropCode_outbox (s : State) (a : BitVec 12) (e : SegEntry) : (s.dropCode a e).outbox = s.outbox := rfl
@[simp] theorem State.dropCode_views (s : State) (a : BitVec 12) (e : SegEntry) : (s.dropCode a e).views = s.views := rfl
@[simp] theorem State.dropCode_vc (s : State) (a : BitVec 12) (e : SegEntry) : (s.dropCode a e).vc = s.vc := rfl
@[simp] theorem State.dropCode_transit (s : State) (a : BitVec 12) (e : SegEntry) : (s.dropCode a e).transit = s.transit := rfl
@[simp] theorem State.dropCode_homeSeq (s : State) (a : BitVec 12) (e : SegEntry) : (s.dropCode a e).homeSeq = s.homeSeq := rfl
@[simp] theorem State.dropCode_applied (s : State) (a : BitVec 12) (e : SegEntry) : (s.dropCode a e).applied = s.applied := rfl
@[simp] theorem State.dropCode_watches (s : State) (a : BitVec 12) (e : SegEntry) : (s.dropCode a e).watches = s.watches := rfl
@[simp] theorem State.dropCode_turn (s : State) (a : BitVec 12) (e : SegEntry) : (s.dropCode a e).turn = s.turn := rfl
@[simp] theorem State.dropCode_tick (s : State) (a : BitVec 12) (e : SegEntry) : (s.dropCode a e).tick = s.tick := rfl
@[simp] theorem State.dropCode_cur (s : State) (a : BitVec 12) (e : SegEntry) : (s.dropCode a e).cur = s.cur := rfl

/-! ### `State.setTxn` -/

@[simp] theorem State.setTxn_firm (s : State) (t : Txn) : (s.setTxn t).firm = s.firm := rfl
@[simp] theorem State.setTxn_dies (s : State) (t : Txn) : (s.setTxn t).dies = s.dies := rfl
@[simp] theorem State.setTxn_cores (s : State) (t : Txn) : (s.setTxn t).cores = s.cores := rfl
@[simp] theorem State.setTxn_spaces (s : State) (t : Txn) : (s.setTxn t).spaces = s.spaces := rfl
@[simp] theorem State.setTxn_segOld (s : State) (t : Txn) : (s.setTxn t).segOld = s.segOld := rfl
@[simp] theorem State.setTxn_objs (s : State) (t : Txn) : (s.setTxn t).objs = s.objs := rfl
@[simp] theorem State.setTxn_models (s : State) (t : Txn) : (s.setTxn t).models = s.models := rfl
@[simp] theorem State.setTxn_gangs (s : State) (t : Txn) : (s.setTxn t).gangs = s.gangs := rfl
@[simp] theorem State.setTxn_outbox (s : State) (t : Txn) : (s.setTxn t).outbox = s.outbox := rfl
@[simp] theorem State.setTxn_views (s : State) (t : Txn) : (s.setTxn t).views = s.views := rfl
@[simp] theorem State.setTxn_vc (s : State) (t : Txn) : (s.setTxn t).vc = s.vc := rfl
@[simp] theorem State.setTxn_transit (s : State) (t : Txn) : (s.setTxn t).transit = s.transit := rfl
@[simp] theorem State.setTxn_homeSeq (s : State) (t : Txn) : (s.setTxn t).homeSeq = s.homeSeq := rfl
@[simp] theorem State.setTxn_applied (s : State) (t : Txn) : (s.setTxn t).applied = s.applied := rfl
@[simp] theorem State.setTxn_watches (s : State) (t : Txn) : (s.setTxn t).watches = s.watches := rfl
@[simp] theorem State.setTxn_turn (s : State) (t : Txn) : (s.setTxn t).turn = s.turn := rfl
@[simp] theorem State.setTxn_tick (s : State) (t : Txn) : (s.setTxn t).tick = s.tick := rfl
@[simp] theorem State.setTxn_cur (s : State) (t : Txn) : (s.setTxn t).cur = s.cur := rfl

/-! ### `State.dropTxn` -/

@[simp] theorem State.dropTxn_firm (s : State) (t : Word) : (s.dropTxn t).firm = s.firm := rfl
@[simp] theorem State.dropTxn_dies (s : State) (t : Word) : (s.dropTxn t).dies = s.dies := rfl
@[simp] theorem State.dropTxn_cores (s : State) (t : Word) : (s.dropTxn t).cores = s.cores := rfl
@[simp] theorem State.dropTxn_spaces (s : State) (t : Word) : (s.dropTxn t).spaces = s.spaces := rfl
@[simp] theorem State.dropTxn_segOld (s : State) (t : Word) : (s.dropTxn t).segOld = s.segOld := rfl
@[simp] theorem State.dropTxn_objs (s : State) (t : Word) : (s.dropTxn t).objs = s.objs := rfl
@[simp] theorem State.dropTxn_models (s : State) (t : Word) : (s.dropTxn t).models = s.models := rfl
@[simp] theorem State.dropTxn_gangs (s : State) (t : Word) : (s.dropTxn t).gangs = s.gangs := rfl
@[simp] theorem State.dropTxn_outbox (s : State) (t : Word) : (s.dropTxn t).outbox = s.outbox := rfl
@[simp] theorem State.dropTxn_views (s : State) (t : Word) : (s.dropTxn t).views = s.views := rfl
@[simp] theorem State.dropTxn_vc (s : State) (t : Word) : (s.dropTxn t).vc = s.vc := rfl
@[simp] theorem State.dropTxn_transit (s : State) (t : Word) : (s.dropTxn t).transit = s.transit := rfl
@[simp] theorem State.dropTxn_homeSeq (s : State) (t : Word) : (s.dropTxn t).homeSeq = s.homeSeq := rfl
@[simp] theorem State.dropTxn_applied (s : State) (t : Word) : (s.dropTxn t).applied = s.applied := rfl
@[simp] theorem State.dropTxn_watches (s : State) (t : Word) : (s.dropTxn t).watches = s.watches := rfl
@[simp] theorem State.dropTxn_turn (s : State) (t : Word) : (s.dropTxn t).turn = s.turn := rfl
@[simp] theorem State.dropTxn_tick (s : State) (t : Word) : (s.dropTxn t).tick = s.tick := rfl
@[simp] theorem State.dropTxn_cur (s : State) (t : Word) : (s.dropTxn t).cur = s.cur := rfl

/-! ### `State.discard` -/

@[simp] theorem State.discard_firm (s : State) (a : BitVec 12) : (s.discard a).firm = s.firm := rfl
@[simp] theorem State.discard_dies (s : State) (a : BitVec 12) : (s.discard a).dies = s.dies := rfl
@[simp] theorem State.discard_spaces (s : State) (a : BitVec 12) : (s.discard a).spaces = s.spaces := rfl
@[simp] theorem State.discard_objs (s : State) (a : BitVec 12) : (s.discard a).objs = s.objs := rfl
@[simp] theorem State.discard_models (s : State) (a : BitVec 12) : (s.discard a).models = s.models := rfl
@[simp] theorem State.discard_gangs (s : State) (a : BitVec 12) : (s.discard a).gangs = s.gangs := rfl
@[simp] theorem State.discard_txns (s : State) (a : BitVec 12) : (s.discard a).txns = s.txns := rfl
@[simp] theorem State.discard_outbox (s : State) (a : BitVec 12) : (s.discard a).outbox = s.outbox := rfl
@[simp] theorem State.discard_views (s : State) (a : BitVec 12) : (s.discard a).views = s.views := rfl
@[simp] theorem State.discard_vc (s : State) (a : BitVec 12) : (s.discard a).vc = s.vc := rfl
@[simp] theorem State.discard_transit (s : State) (a : BitVec 12) : (s.discard a).transit = s.transit := rfl
@[simp] theorem State.discard_homeSeq (s : State) (a : BitVec 12) : (s.discard a).homeSeq = s.homeSeq := rfl
@[simp] theorem State.discard_applied (s : State) (a : BitVec 12) : (s.discard a).applied = s.applied := rfl
@[simp] theorem State.discard_watches (s : State) (a : BitVec 12) : (s.discard a).watches = s.watches := rfl
@[simp] theorem State.discard_turn (s : State) (a : BitVec 12) : (s.discard a).turn = s.turn := rfl
@[simp] theorem State.discard_tick (s : State) (a : BitVec 12) : (s.discard a).tick = s.tick := rfl
@[simp] theorem State.discard_cur (s : State) (a : BitVec 12) : (s.discard a).cur = s.cur := rfl

/-! ### `State.copyBytes` -/

@[simp] theorem State.copyBytes_dies (s : State) (a b n : Nat) : (s.copyBytes a b n).dies = s.dies := rfl
@[simp] theorem State.copyBytes_cores (s : State) (a b n : Nat) : (s.copyBytes a b n).cores = s.cores := rfl
@[simp] theorem State.copyBytes_spaces (s : State) (a b n : Nat) : (s.copyBytes a b n).spaces = s.spaces := rfl
@[simp] theorem State.copyBytes_segOld (s : State) (a b n : Nat) : (s.copyBytes a b n).segOld = s.segOld := rfl
@[simp] theorem State.copyBytes_objs (s : State) (a b n : Nat) : (s.copyBytes a b n).objs = s.objs := rfl
@[simp] theorem State.copyBytes_models (s : State) (a b n : Nat) : (s.copyBytes a b n).models = s.models := rfl
@[simp] theorem State.copyBytes_gangs (s : State) (a b n : Nat) : (s.copyBytes a b n).gangs = s.gangs := rfl
@[simp] theorem State.copyBytes_txns (s : State) (a b n : Nat) : (s.copyBytes a b n).txns = s.txns := rfl
@[simp] theorem State.copyBytes_outbox (s : State) (a b n : Nat) : (s.copyBytes a b n).outbox = s.outbox := rfl
@[simp] theorem State.copyBytes_vc (s : State) (a b n : Nat) : (s.copyBytes a b n).vc = s.vc := rfl
@[simp] theorem State.copyBytes_transit (s : State) (a b n : Nat) : (s.copyBytes a b n).transit = s.transit := rfl
@[simp] theorem State.copyBytes_homeSeq (s : State) (a b n : Nat) : (s.copyBytes a b n).homeSeq = s.homeSeq := rfl
@[simp] theorem State.copyBytes_applied (s : State) (a b n : Nat) : (s.copyBytes a b n).applied = s.applied := rfl
@[simp] theorem State.copyBytes_watches (s : State) (a b n : Nat) : (s.copyBytes a b n).watches = s.watches := rfl
@[simp] theorem State.copyBytes_turn (s : State) (a b n : Nat) : (s.copyBytes a b n).turn = s.turn := rfl
@[simp] theorem State.copyBytes_tick (s : State) (a b n : Nat) : (s.copyBytes a b n).tick = s.tick := rfl
@[simp] theorem State.copyBytes_cur (s : State) (a b n : Nat) : (s.copyBytes a b n).cur = s.cur := rfl

/-! ### `State.applyView` -/

@[simp] theorem State.applyView_firm (s : State) (d : DieId) (a : Nat) (l : List Byte) : (s.applyView d a l).firm = s.firm := rfl
@[simp] theorem State.applyView_dies (s : State) (d : DieId) (a : Nat) (l : List Byte) : (s.applyView d a l).dies = s.dies := rfl
@[simp] theorem State.applyView_cores (s : State) (d : DieId) (a : Nat) (l : List Byte) : (s.applyView d a l).cores = s.cores := rfl
@[simp] theorem State.applyView_spaces (s : State) (d : DieId) (a : Nat) (l : List Byte) : (s.applyView d a l).spaces = s.spaces := rfl
@[simp] theorem State.applyView_segOld (s : State) (d : DieId) (a : Nat) (l : List Byte) : (s.applyView d a l).segOld = s.segOld := rfl
@[simp] theorem State.applyView_objs (s : State) (d : DieId) (a : Nat) (l : List Byte) : (s.applyView d a l).objs = s.objs := rfl
@[simp] theorem State.applyView_models (s : State) (d : DieId) (a : Nat) (l : List Byte) : (s.applyView d a l).models = s.models := rfl
@[simp] theorem State.applyView_gangs (s : State) (d : DieId) (a : Nat) (l : List Byte) : (s.applyView d a l).gangs = s.gangs := rfl
@[simp] theorem State.applyView_txns (s : State) (d : DieId) (a : Nat) (l : List Byte) : (s.applyView d a l).txns = s.txns := rfl
@[simp] theorem State.applyView_outbox (s : State) (d : DieId) (a : Nat) (l : List Byte) : (s.applyView d a l).outbox = s.outbox := rfl
@[simp] theorem State.applyView_vc (s : State) (d : DieId) (a : Nat) (l : List Byte) : (s.applyView d a l).vc = s.vc := rfl
@[simp] theorem State.applyView_transit (s : State) (d : DieId) (a : Nat) (l : List Byte) : (s.applyView d a l).transit = s.transit := rfl
@[simp] theorem State.applyView_homeSeq (s : State) (d : DieId) (a : Nat) (l : List Byte) : (s.applyView d a l).homeSeq = s.homeSeq := rfl
@[simp] theorem State.applyView_applied (s : State) (d : DieId) (a : Nat) (l : List Byte) : (s.applyView d a l).applied = s.applied := rfl
@[simp] theorem State.applyView_watches (s : State) (d : DieId) (a : Nat) (l : List Byte) : (s.applyView d a l).watches = s.watches := rfl
@[simp] theorem State.applyView_turn (s : State) (d : DieId) (a : Nat) (l : List Byte) : (s.applyView d a l).turn = s.turn := rfl
@[simp] theorem State.applyView_tick (s : State) (d : DieId) (a : Nat) (l : List Byte) : (s.applyView d a l).tick = s.tick := rfl
@[simp] theorem State.applyView_cur (s : State) (d : DieId) (a : Nat) (l : List Byte) : (s.applyView d a l).cur = s.cur := rfl

@[simp] theorem State.copyBytes_firm (s : State) (a b n : Nat) :
    (s.copyBytes a b n).firm = (s.firm.touchRange a n).touchRange b n := rfl

/-! ### `Ctx.setRun` -/

@[simp] theorem Ctx.setRun_id (x : Ctx) (r : Run) : (x.setRun r).id = x.id := rfl
@[simp] theorem Ctx.setRun_regs (x : Ctx) (r : Run) : (x.setRun r).regs = x.regs := rfl
@[simp] theorem Ctx.setRun_sys (x : Ctx) (r : Run) : (x.setRun r).sys = x.sys := rfl
@[simp] theorem Ctx.setRun_gens (x : Ctx) (r : Run) : (x.setRun r).gens = x.gens := rfl
@[simp] theorem Ctx.setRun_genNum (x : Ctx) (r : Run) : (x.setRun r).genNum = x.genNum := rfl
@[simp] theorem Ctx.setRun_oldGens (x : Ctx) (r : Run) : (x.setRun r).oldGens = x.oldGens := rfl
@[simp] theorem Ctx.setRun_rime (x : Ctx) (r : Run) : (x.setRun r).rime = x.rime := rfl
@[simp] theorem Ctx.setRun_rimeNum (x : Ctx) (r : Run) : (x.setRun r).rimeNum = x.rimeNum := rfl
@[simp] theorem Ctx.setRun_oldRime (x : Ctx) (r : Run) : (x.setRun r).oldRime = x.oldRime := rfl
@[simp] theorem Ctx.setRun_tl (x : Ctx) (r : Run) : (x.setRun r).tl = x.tl := rfl
@[simp] theorem Ctx.setRun_pstat (x : Ctx) (r : Run) : (x.setRun r).pstat = x.pstat := rfl
@[simp] theorem Ctx.setRun_brim (x : Ctx) (r : Run) : (x.setRun r).brim = x.brim := rfl
@[simp] theorem Ctx.setRun_ctl (x : Ctx) (r : Run) : (x.setRun r).ctl = x.ctl := rfl
@[simp] theorem Ctx.setRun_saved (x : Ctx) (r : Run) : (x.setRun r).saved = x.saved := rfl
@[simp] theorem Ctx.setRun_trapMode (x : Ctx) (r : Run) : (x.setRun r).trapMode = x.trapMode := rfl
@[simp] theorem Ctx.setRun_trapPc (x : Ctx) (r : Run) : (x.setRun r).trapPc = x.trapPc := rfl
@[simp] theorem Ctx.setRun_latchRec (x : Ctx) (r : Run) : (x.setRun r).latchRec = x.latchRec := rfl
@[simp] theorem Ctx.setRun_heldMov (x : Ctx) (r : Run) : (x.setRun r).heldMov = x.heldMov := rfl
@[simp] theorem Ctx.setRun_latchUid (x : Ctx) (r : Run) : (x.setRun r).latchUid = x.latchUid := rfl
@[simp] theorem Ctx.setRun_flights (x : Ctx) (r : Run) : (x.setRun r).flights = x.flights := rfl
@[simp] theorem Ctx.setRun_cclk (x : Ctx) (r : Run) : (x.setRun r).cclk = x.cclk := rfl
@[simp] theorem Ctx.setRun_xclk (x : Ctx) (r : Run) : (x.setRun r).xclk = x.xclk := rfl
@[simp] theorem Ctx.setRun_ql (x : Ctx) (r : Run) : (x.setRun r).ql = x.ql := rfl
@[simp] theorem Ctx.setRun_qx (x : Ctx) (r : Run) : (x.setRun r).qx = x.qx := rfl
@[simp] theorem Ctx.setRun_qs (x : Ctx) (r : Run) : (x.setRun r).qs = x.qs := rfl
@[simp] theorem Ctx.setRun_secs (x : Ctx) (r : Run) : (x.setRun r).secs = x.secs := rfl
@[simp] theorem Ctx.setRun_nextUid (x : Ctx) (r : Run) : (x.setRun r).nextUid = x.nextUid := rfl
@[simp] theorem Ctx.setRun_disp (x : Ctx) (r : Run) : (x.setRun r).disp = x.disp := rfl
@[simp] theorem Ctx.setRun_retired (x : Ctx) (r : Run) : (x.setRun r).retired = x.retired := rfl
@[simp] theorem Ctx.setRun_trapDisp (x : Ctx) (r : Run) : (x.setRun r).trapDisp = x.trapDisp := rfl
@[simp] theorem Ctx.setRun_trapRet (x : Ctx) (r : Run) : (x.setRun r).trapRet = x.trapRet := rfl
@[simp] theorem Ctx.setRun_ops (x : Ctx) (r : Run) : (x.setRun r).ops = x.ops := rfl
@[simp] theorem Ctx.setRun_pendQ (x : Ctx) (r : Run) : (x.setRun r).pendQ = x.pendQ := rfl
@[simp] theorem Ctx.setRun_pendE (x : Ctx) (r : Run) : (x.setRun r).pendE = x.pendE := rfl
@[simp] theorem Ctx.setRun_deliver (x : Ctx) (r : Run) : (x.setRun r).deliver = x.deliver := rfl
@[simp] theorem Ctx.setRun_hold (x : Ctx) (r : Run) : (x.setRun r).hold = x.hold := rfl
@[simp] theorem Ctx.setRun_heldClk (x : Ctx) (r : Run) : (x.setRun r).heldClk = x.heldClk := rfl
@[simp] theorem Ctx.setRun_issue (x : Ctx) (r : Run) : (x.setRun r).issue = x.issue := rfl
@[simp] theorem Ctx.setRun_stall (x : Ctx) (r : Run) : (x.setRun r).stall = x.stall := rfl
@[simp] theorem Ctx.setRun_stallSave (x : Ctx) (r : Run) : (x.setRun r).stallSave = x.stallSave := rfl
@[simp] theorem Ctx.setRun_ctlFresh (x : Ctx) (r : Run) : (x.setRun r).ctlFresh = x.ctlFresh := rfl
@[simp] theorem Ctx.setRun_xFresh (x : Ctx) (r : Run) : (x.setRun r).xFresh = x.xFresh := rfl
@[simp] theorem Ctx.setRun_parking (x : Ctx) (r : Run) : (x.setRun r).parking = x.parking := rfl
@[simp] theorem Ctx.setRun_barg (x : Ctx) (r : Run) : (x.setRun r).barg = x.barg := rfl
@[simp] theorem Ctx.setRun_ending (x : Ctx) (r : Run) : (x.setRun r).ending = x.ending := rfl
@[simp] theorem Ctx.setRun_fatal (x : Ctx) (r : Run) : (x.setRun r).fatal = x.fatal := rfl
@[simp] theorem Ctx.setRun_outSince (x : Ctx) (r : Run) : (x.setRun r).outSince = x.outSince := rfl
@[simp] theorem Ctx.setRun_begun (x : Ctx) (r : Run) : (x.setRun r).begun = x.begun := rfl

/-! ### `Ctx.setPred` -/

@[simp] theorem Ctx.setPred_id (x : Ctx) (p : PReg) (v : BitVec 32) : (x.setPred p v).id = x.id := rfl
@[simp] theorem Ctx.setPred_sys (x : Ctx) (p : PReg) (v : BitVec 32) : (x.setPred p v).sys = x.sys := rfl
@[simp] theorem Ctx.setPred_gens (x : Ctx) (p : PReg) (v : BitVec 32) : (x.setPred p v).gens = x.gens := rfl
@[simp] theorem Ctx.setPred_genNum (x : Ctx) (p : PReg) (v : BitVec 32) : (x.setPred p v).genNum = x.genNum := rfl
@[simp] theorem Ctx.setPred_oldGens (x : Ctx) (p : PReg) (v : BitVec 32) : (x.setPred p v).oldGens = x.oldGens := rfl
@[simp] theorem Ctx.setPred_rime (x : Ctx) (p : PReg) (v : BitVec 32) : (x.setPred p v).rime = x.rime := rfl
@[simp] theorem Ctx.setPred_rimeNum (x : Ctx) (p : PReg) (v : BitVec 32) : (x.setPred p v).rimeNum = x.rimeNum := rfl
@[simp] theorem Ctx.setPred_oldRime (x : Ctx) (p : PReg) (v : BitVec 32) : (x.setPred p v).oldRime = x.oldRime := rfl
@[simp] theorem Ctx.setPred_tl (x : Ctx) (p : PReg) (v : BitVec 32) : (x.setPred p v).tl = x.tl := rfl
@[simp] theorem Ctx.setPred_pstat (x : Ctx) (p : PReg) (v : BitVec 32) : (x.setPred p v).pstat = x.pstat := rfl
@[simp] theorem Ctx.setPred_brim (x : Ctx) (p : PReg) (v : BitVec 32) : (x.setPred p v).brim = x.brim := rfl
@[simp] theorem Ctx.setPred_ctl (x : Ctx) (p : PReg) (v : BitVec 32) : (x.setPred p v).ctl = x.ctl := rfl
@[simp] theorem Ctx.setPred_saved (x : Ctx) (p : PReg) (v : BitVec 32) : (x.setPred p v).saved = x.saved := rfl
@[simp] theorem Ctx.setPred_trapMode (x : Ctx) (p : PReg) (v : BitVec 32) : (x.setPred p v).trapMode = x.trapMode := rfl
@[simp] theorem Ctx.setPred_trapPc (x : Ctx) (p : PReg) (v : BitVec 32) : (x.setPred p v).trapPc = x.trapPc := rfl
@[simp] theorem Ctx.setPred_latchRec (x : Ctx) (p : PReg) (v : BitVec 32) : (x.setPred p v).latchRec = x.latchRec := rfl
@[simp] theorem Ctx.setPred_heldMov (x : Ctx) (p : PReg) (v : BitVec 32) : (x.setPred p v).heldMov = x.heldMov := rfl
@[simp] theorem Ctx.setPred_latchUid (x : Ctx) (p : PReg) (v : BitVec 32) : (x.setPred p v).latchUid = x.latchUid := rfl
@[simp] theorem Ctx.setPred_flights (x : Ctx) (p : PReg) (v : BitVec 32) : (x.setPred p v).flights = x.flights := rfl
@[simp] theorem Ctx.setPred_cclk (x : Ctx) (p : PReg) (v : BitVec 32) : (x.setPred p v).cclk = x.cclk := rfl
@[simp] theorem Ctx.setPred_xclk (x : Ctx) (p : PReg) (v : BitVec 32) : (x.setPred p v).xclk = x.xclk := rfl
@[simp] theorem Ctx.setPred_ql (x : Ctx) (p : PReg) (v : BitVec 32) : (x.setPred p v).ql = x.ql := rfl
@[simp] theorem Ctx.setPred_qx (x : Ctx) (p : PReg) (v : BitVec 32) : (x.setPred p v).qx = x.qx := rfl
@[simp] theorem Ctx.setPred_qs (x : Ctx) (p : PReg) (v : BitVec 32) : (x.setPred p v).qs = x.qs := rfl
@[simp] theorem Ctx.setPred_eng (x : Ctx) (p : PReg) (v : BitVec 32) : (x.setPred p v).eng = x.eng := rfl
@[simp] theorem Ctx.setPred_secs (x : Ctx) (p : PReg) (v : BitVec 32) : (x.setPred p v).secs = x.secs := rfl
@[simp] theorem Ctx.setPred_nextUid (x : Ctx) (p : PReg) (v : BitVec 32) : (x.setPred p v).nextUid = x.nextUid := rfl
@[simp] theorem Ctx.setPred_disp (x : Ctx) (p : PReg) (v : BitVec 32) : (x.setPred p v).disp = x.disp := rfl
@[simp] theorem Ctx.setPred_retired (x : Ctx) (p : PReg) (v : BitVec 32) : (x.setPred p v).retired = x.retired := rfl
@[simp] theorem Ctx.setPred_trapDisp (x : Ctx) (p : PReg) (v : BitVec 32) : (x.setPred p v).trapDisp = x.trapDisp := rfl
@[simp] theorem Ctx.setPred_trapRet (x : Ctx) (p : PReg) (v : BitVec 32) : (x.setPred p v).trapRet = x.trapRet := rfl
@[simp] theorem Ctx.setPred_ops (x : Ctx) (p : PReg) (v : BitVec 32) : (x.setPred p v).ops = x.ops := rfl
@[simp] theorem Ctx.setPred_pendQ (x : Ctx) (p : PReg) (v : BitVec 32) : (x.setPred p v).pendQ = x.pendQ := rfl
@[simp] theorem Ctx.setPred_pendE (x : Ctx) (p : PReg) (v : BitVec 32) : (x.setPred p v).pendE = x.pendE := rfl
@[simp] theorem Ctx.setPred_deliver (x : Ctx) (p : PReg) (v : BitVec 32) : (x.setPred p v).deliver = x.deliver := rfl
@[simp] theorem Ctx.setPred_hold (x : Ctx) (p : PReg) (v : BitVec 32) : (x.setPred p v).hold = x.hold := rfl
@[simp] theorem Ctx.setPred_heldClk (x : Ctx) (p : PReg) (v : BitVec 32) : (x.setPred p v).heldClk = x.heldClk := rfl
@[simp] theorem Ctx.setPred_issue (x : Ctx) (p : PReg) (v : BitVec 32) : (x.setPred p v).issue = x.issue := rfl
@[simp] theorem Ctx.setPred_stall (x : Ctx) (p : PReg) (v : BitVec 32) : (x.setPred p v).stall = x.stall := rfl
@[simp] theorem Ctx.setPred_stallSave (x : Ctx) (p : PReg) (v : BitVec 32) : (x.setPred p v).stallSave = x.stallSave := rfl
@[simp] theorem Ctx.setPred_ctlFresh (x : Ctx) (p : PReg) (v : BitVec 32) : (x.setPred p v).ctlFresh = x.ctlFresh := rfl
@[simp] theorem Ctx.setPred_xFresh (x : Ctx) (p : PReg) (v : BitVec 32) : (x.setPred p v).xFresh = x.xFresh := rfl
@[simp] theorem Ctx.setPred_parking (x : Ctx) (p : PReg) (v : BitVec 32) : (x.setPred p v).parking = x.parking := rfl
@[simp] theorem Ctx.setPred_barg (x : Ctx) (p : PReg) (v : BitVec 32) : (x.setPred p v).barg = x.barg := rfl
@[simp] theorem Ctx.setPred_ending (x : Ctx) (p : PReg) (v : BitVec 32) : (x.setPred p v).ending = x.ending := rfl
@[simp] theorem Ctx.setPred_fatal (x : Ctx) (p : PReg) (v : BitVec 32) : (x.setPred p v).fatal = x.fatal := rfl
@[simp] theorem Ctx.setPred_outSince (x : Ctx) (p : PReg) (v : BitVec 32) : (x.setPred p v).outSince = x.outSince := rfl
@[simp] theorem Ctx.setPred_begun (x : Ctx) (p : PReg) (v : BitVec 32) : (x.setPred p v).begun = x.begun := rfl

/-! ### `Ctx.numbered` -/

@[simp] theorem Ctx.numbered_id (x : Ctx) (k : Ctr) : (x.numbered k).id = x.id := rfl
@[simp] theorem Ctx.numbered_regs (x : Ctx) (k : Ctr) : (x.numbered k).regs = x.regs := rfl
@[simp] theorem Ctx.numbered_sys (x : Ctx) (k : Ctr) : (x.numbered k).sys = x.sys := rfl
@[simp] theorem Ctx.numbered_gens (x : Ctx) (k : Ctr) : (x.numbered k).gens = x.gens := rfl
@[simp] theorem Ctx.numbered_genNum (x : Ctx) (k : Ctr) : (x.numbered k).genNum = x.genNum := rfl
@[simp] theorem Ctx.numbered_oldGens (x : Ctx) (k : Ctr) : (x.numbered k).oldGens = x.oldGens := rfl
@[simp] theorem Ctx.numbered_rime (x : Ctx) (k : Ctr) : (x.numbered k).rime = x.rime := rfl
@[simp] theorem Ctx.numbered_rimeNum (x : Ctx) (k : Ctr) : (x.numbered k).rimeNum = x.rimeNum := rfl
@[simp] theorem Ctx.numbered_oldRime (x : Ctx) (k : Ctr) : (x.numbered k).oldRime = x.oldRime := rfl
@[simp] theorem Ctx.numbered_pstat (x : Ctx) (k : Ctr) : (x.numbered k).pstat = x.pstat := rfl
@[simp] theorem Ctx.numbered_brim (x : Ctx) (k : Ctr) : (x.numbered k).brim = x.brim := rfl
@[simp] theorem Ctx.numbered_ctl (x : Ctx) (k : Ctr) : (x.numbered k).ctl = x.ctl := rfl
@[simp] theorem Ctx.numbered_saved (x : Ctx) (k : Ctr) : (x.numbered k).saved = x.saved := rfl
@[simp] theorem Ctx.numbered_trapMode (x : Ctx) (k : Ctr) : (x.numbered k).trapMode = x.trapMode := rfl
@[simp] theorem Ctx.numbered_trapPc (x : Ctx) (k : Ctr) : (x.numbered k).trapPc = x.trapPc := rfl
@[simp] theorem Ctx.numbered_latchRec (x : Ctx) (k : Ctr) : (x.numbered k).latchRec = x.latchRec := rfl
@[simp] theorem Ctx.numbered_heldMov (x : Ctx) (k : Ctr) : (x.numbered k).heldMov = x.heldMov := rfl
@[simp] theorem Ctx.numbered_latchUid (x : Ctx) (k : Ctr) : (x.numbered k).latchUid = x.latchUid := rfl
@[simp] theorem Ctx.numbered_flights (x : Ctx) (k : Ctr) : (x.numbered k).flights = x.flights := rfl
@[simp] theorem Ctx.numbered_cclk (x : Ctx) (k : Ctr) : (x.numbered k).cclk = x.cclk := rfl
@[simp] theorem Ctx.numbered_xclk (x : Ctx) (k : Ctr) : (x.numbered k).xclk = x.xclk := rfl
@[simp] theorem Ctx.numbered_ql (x : Ctx) (k : Ctr) : (x.numbered k).ql = x.ql := rfl
@[simp] theorem Ctx.numbered_qx (x : Ctx) (k : Ctr) : (x.numbered k).qx = x.qx := rfl
@[simp] theorem Ctx.numbered_qs (x : Ctx) (k : Ctr) : (x.numbered k).qs = x.qs := rfl
@[simp] theorem Ctx.numbered_eng (x : Ctx) (k : Ctr) : (x.numbered k).eng = x.eng := rfl
@[simp] theorem Ctx.numbered_secs (x : Ctx) (k : Ctr) : (x.numbered k).secs = x.secs := rfl
@[simp] theorem Ctx.numbered_nextUid (x : Ctx) (k : Ctr) : (x.numbered k).nextUid = x.nextUid := rfl
@[simp] theorem Ctx.numbered_disp (x : Ctx) (k : Ctr) : (x.numbered k).disp = x.disp := rfl
@[simp] theorem Ctx.numbered_retired (x : Ctx) (k : Ctr) : (x.numbered k).retired = x.retired := rfl
@[simp] theorem Ctx.numbered_trapDisp (x : Ctx) (k : Ctr) : (x.numbered k).trapDisp = x.trapDisp := rfl
@[simp] theorem Ctx.numbered_trapRet (x : Ctx) (k : Ctr) : (x.numbered k).trapRet = x.trapRet := rfl
@[simp] theorem Ctx.numbered_ops (x : Ctx) (k : Ctr) : (x.numbered k).ops = x.ops := rfl
@[simp] theorem Ctx.numbered_pendQ (x : Ctx) (k : Ctr) : (x.numbered k).pendQ = x.pendQ := rfl
@[simp] theorem Ctx.numbered_pendE (x : Ctx) (k : Ctr) : (x.numbered k).pendE = x.pendE := rfl
@[simp] theorem Ctx.numbered_deliver (x : Ctx) (k : Ctr) : (x.numbered k).deliver = x.deliver := rfl
@[simp] theorem Ctx.numbered_hold (x : Ctx) (k : Ctr) : (x.numbered k).hold = x.hold := rfl
@[simp] theorem Ctx.numbered_heldClk (x : Ctx) (k : Ctr) : (x.numbered k).heldClk = x.heldClk := rfl
@[simp] theorem Ctx.numbered_issue (x : Ctx) (k : Ctr) : (x.numbered k).issue = x.issue := rfl
@[simp] theorem Ctx.numbered_stall (x : Ctx) (k : Ctr) : (x.numbered k).stall = x.stall := rfl
@[simp] theorem Ctx.numbered_stallSave (x : Ctx) (k : Ctr) : (x.numbered k).stallSave = x.stallSave := rfl
@[simp] theorem Ctx.numbered_ctlFresh (x : Ctx) (k : Ctr) : (x.numbered k).ctlFresh = x.ctlFresh := rfl
@[simp] theorem Ctx.numbered_xFresh (x : Ctx) (k : Ctr) : (x.numbered k).xFresh = x.xFresh := rfl
@[simp] theorem Ctx.numbered_parking (x : Ctx) (k : Ctr) : (x.numbered k).parking = x.parking := rfl
@[simp] theorem Ctx.numbered_barg (x : Ctx) (k : Ctr) : (x.numbered k).barg = x.barg := rfl
@[simp] theorem Ctx.numbered_ending (x : Ctx) (k : Ctr) : (x.numbered k).ending = x.ending := rfl
@[simp] theorem Ctx.numbered_fatal (x : Ctx) (k : Ctr) : (x.numbered k).fatal = x.fatal := rfl
@[simp] theorem Ctx.numbered_outSince (x : Ctx) (k : Ctr) : (x.numbered k).outSince = x.outSince := rfl
@[simp] theorem Ctx.numbered_begun (x : Ctx) (k : Ctr) : (x.numbered k).begun = x.begun := rfl

/-! ### `Ctx.unheld` -/

@[simp] theorem Ctx.unheld_id (x : Ctx) : (x.unheld).id = x.id := rfl
@[simp] theorem Ctx.unheld_regs (x : Ctx) : (x.unheld).regs = x.regs := rfl
@[simp] theorem Ctx.unheld_sys (x : Ctx) : (x.unheld).sys = x.sys := rfl
@[simp] theorem Ctx.unheld_gens (x : Ctx) : (x.unheld).gens = x.gens := rfl
@[simp] theorem Ctx.unheld_genNum (x : Ctx) : (x.unheld).genNum = x.genNum := rfl
@[simp] theorem Ctx.unheld_oldGens (x : Ctx) : (x.unheld).oldGens = x.oldGens := rfl
@[simp] theorem Ctx.unheld_rime (x : Ctx) : (x.unheld).rime = x.rime := rfl
@[simp] theorem Ctx.unheld_rimeNum (x : Ctx) : (x.unheld).rimeNum = x.rimeNum := rfl
@[simp] theorem Ctx.unheld_oldRime (x : Ctx) : (x.unheld).oldRime = x.oldRime := rfl
@[simp] theorem Ctx.unheld_tl (x : Ctx) : (x.unheld).tl = x.tl := rfl
@[simp] theorem Ctx.unheld_pstat (x : Ctx) : (x.unheld).pstat = x.pstat := rfl
@[simp] theorem Ctx.unheld_brim (x : Ctx) : (x.unheld).brim = x.brim := rfl
@[simp] theorem Ctx.unheld_ctl (x : Ctx) : (x.unheld).ctl = x.ctl := rfl
@[simp] theorem Ctx.unheld_saved (x : Ctx) : (x.unheld).saved = x.saved := rfl
@[simp] theorem Ctx.unheld_trapMode (x : Ctx) : (x.unheld).trapMode = x.trapMode := rfl
@[simp] theorem Ctx.unheld_trapPc (x : Ctx) : (x.unheld).trapPc = x.trapPc := rfl
@[simp] theorem Ctx.unheld_latchRec (x : Ctx) : (x.unheld).latchRec = x.latchRec := rfl
@[simp] theorem Ctx.unheld_heldMov (x : Ctx) : (x.unheld).heldMov = x.heldMov := rfl
@[simp] theorem Ctx.unheld_latchUid (x : Ctx) : (x.unheld).latchUid = x.latchUid := rfl
@[simp] theorem Ctx.unheld_flights (x : Ctx) : (x.unheld).flights = x.flights := rfl
@[simp] theorem Ctx.unheld_cclk (x : Ctx) : (x.unheld).cclk = x.cclk := rfl
@[simp] theorem Ctx.unheld_xclk (x : Ctx) : (x.unheld).xclk = x.xclk := rfl
@[simp] theorem Ctx.unheld_ql (x : Ctx) : (x.unheld).ql = x.ql := rfl
@[simp] theorem Ctx.unheld_qx (x : Ctx) : (x.unheld).qx = x.qx := rfl
@[simp] theorem Ctx.unheld_qs (x : Ctx) : (x.unheld).qs = x.qs := rfl
@[simp] theorem Ctx.unheld_eng (x : Ctx) : (x.unheld).eng = x.eng := rfl
@[simp] theorem Ctx.unheld_secs (x : Ctx) : (x.unheld).secs = x.secs := rfl
@[simp] theorem Ctx.unheld_nextUid (x : Ctx) : (x.unheld).nextUid = x.nextUid := rfl
@[simp] theorem Ctx.unheld_disp (x : Ctx) : (x.unheld).disp = x.disp := rfl
@[simp] theorem Ctx.unheld_retired (x : Ctx) : (x.unheld).retired = x.retired := rfl
@[simp] theorem Ctx.unheld_trapDisp (x : Ctx) : (x.unheld).trapDisp = x.trapDisp := rfl
@[simp] theorem Ctx.unheld_trapRet (x : Ctx) : (x.unheld).trapRet = x.trapRet := rfl
@[simp] theorem Ctx.unheld_ops (x : Ctx) : (x.unheld).ops = x.ops := rfl
@[simp] theorem Ctx.unheld_pendQ (x : Ctx) : (x.unheld).pendQ = x.pendQ := rfl
@[simp] theorem Ctx.unheld_pendE (x : Ctx) : (x.unheld).pendE = x.pendE := rfl
@[simp] theorem Ctx.unheld_deliver (x : Ctx) : (x.unheld).deliver = x.deliver := rfl
@[simp] theorem Ctx.unheld_stallSave (x : Ctx) : (x.unheld).stallSave = x.stallSave := rfl
@[simp] theorem Ctx.unheld_ctlFresh (x : Ctx) : (x.unheld).ctlFresh = x.ctlFresh := rfl
@[simp] theorem Ctx.unheld_xFresh (x : Ctx) : (x.unheld).xFresh = x.xFresh := rfl
@[simp] theorem Ctx.unheld_parking (x : Ctx) : (x.unheld).parking = x.parking := rfl
@[simp] theorem Ctx.unheld_barg (x : Ctx) : (x.unheld).barg = x.barg := rfl
@[simp] theorem Ctx.unheld_ending (x : Ctx) : (x.unheld).ending = x.ending := rfl
@[simp] theorem Ctx.unheld_fatal (x : Ctx) : (x.unheld).fatal = x.fatal := rfl
@[simp] theorem Ctx.unheld_outSince (x : Ctx) : (x.unheld).outSince = x.outSince := rfl
@[simp] theorem Ctx.unheld_begun (x : Ctx) : (x.unheld).begun = x.begun := rfl

/-! ### `Ctx.postpone` -/

@[simp] theorem Ctx.postpone_id (x : Ctx) (u : FixUnit) (n : Nat) : (x.postpone u n).id = x.id := rfl
@[simp] theorem Ctx.postpone_regs (x : Ctx) (u : FixUnit) (n : Nat) : (x.postpone u n).regs = x.regs := rfl
@[simp] theorem Ctx.postpone_sys (x : Ctx) (u : FixUnit) (n : Nat) : (x.postpone u n).sys = x.sys := rfl
@[simp] theorem Ctx.postpone_gens (x : Ctx) (u : FixUnit) (n : Nat) : (x.postpone u n).gens = x.gens := rfl
@[simp] theorem Ctx.postpone_genNum (x : Ctx) (u : FixUnit) (n : Nat) : (x.postpone u n).genNum = x.genNum := rfl
@[simp] theorem Ctx.postpone_oldGens (x : Ctx) (u : FixUnit) (n : Nat) : (x.postpone u n).oldGens = x.oldGens := rfl
@[simp] theorem Ctx.postpone_rime (x : Ctx) (u : FixUnit) (n : Nat) : (x.postpone u n).rime = x.rime := rfl
@[simp] theorem Ctx.postpone_rimeNum (x : Ctx) (u : FixUnit) (n : Nat) : (x.postpone u n).rimeNum = x.rimeNum := rfl
@[simp] theorem Ctx.postpone_oldRime (x : Ctx) (u : FixUnit) (n : Nat) : (x.postpone u n).oldRime = x.oldRime := rfl
@[simp] theorem Ctx.postpone_tl (x : Ctx) (u : FixUnit) (n : Nat) : (x.postpone u n).tl = x.tl := rfl
@[simp] theorem Ctx.postpone_pstat (x : Ctx) (u : FixUnit) (n : Nat) : (x.postpone u n).pstat = x.pstat := rfl
@[simp] theorem Ctx.postpone_brim (x : Ctx) (u : FixUnit) (n : Nat) : (x.postpone u n).brim = x.brim := rfl
@[simp] theorem Ctx.postpone_ctl (x : Ctx) (u : FixUnit) (n : Nat) : (x.postpone u n).ctl = x.ctl := rfl
@[simp] theorem Ctx.postpone_saved (x : Ctx) (u : FixUnit) (n : Nat) : (x.postpone u n).saved = x.saved := rfl
@[simp] theorem Ctx.postpone_trapMode (x : Ctx) (u : FixUnit) (n : Nat) : (x.postpone u n).trapMode = x.trapMode := rfl
@[simp] theorem Ctx.postpone_trapPc (x : Ctx) (u : FixUnit) (n : Nat) : (x.postpone u n).trapPc = x.trapPc := rfl
@[simp] theorem Ctx.postpone_latchRec (x : Ctx) (u : FixUnit) (n : Nat) : (x.postpone u n).latchRec = x.latchRec := rfl
@[simp] theorem Ctx.postpone_heldMov (x : Ctx) (u : FixUnit) (n : Nat) : (x.postpone u n).heldMov = x.heldMov := rfl
@[simp] theorem Ctx.postpone_latchUid (x : Ctx) (u : FixUnit) (n : Nat) : (x.postpone u n).latchUid = x.latchUid := rfl
@[simp] theorem Ctx.postpone_cclk (x : Ctx) (u : FixUnit) (n : Nat) : (x.postpone u n).cclk = x.cclk := rfl
@[simp] theorem Ctx.postpone_xclk (x : Ctx) (u : FixUnit) (n : Nat) : (x.postpone u n).xclk = x.xclk := rfl
@[simp] theorem Ctx.postpone_ql (x : Ctx) (u : FixUnit) (n : Nat) : (x.postpone u n).ql = x.ql := rfl
@[simp] theorem Ctx.postpone_qx (x : Ctx) (u : FixUnit) (n : Nat) : (x.postpone u n).qx = x.qx := rfl
@[simp] theorem Ctx.postpone_qs (x : Ctx) (u : FixUnit) (n : Nat) : (x.postpone u n).qs = x.qs := rfl
@[simp] theorem Ctx.postpone_eng (x : Ctx) (u : FixUnit) (n : Nat) : (x.postpone u n).eng = x.eng := rfl
@[simp] theorem Ctx.postpone_secs (x : Ctx) (u : FixUnit) (n : Nat) : (x.postpone u n).secs = x.secs := rfl
@[simp] theorem Ctx.postpone_nextUid (x : Ctx) (u : FixUnit) (n : Nat) : (x.postpone u n).nextUid = x.nextUid := rfl
@[simp] theorem Ctx.postpone_disp (x : Ctx) (u : FixUnit) (n : Nat) : (x.postpone u n).disp = x.disp := rfl
@[simp] theorem Ctx.postpone_retired (x : Ctx) (u : FixUnit) (n : Nat) : (x.postpone u n).retired = x.retired := rfl
@[simp] theorem Ctx.postpone_trapDisp (x : Ctx) (u : FixUnit) (n : Nat) : (x.postpone u n).trapDisp = x.trapDisp := rfl
@[simp] theorem Ctx.postpone_trapRet (x : Ctx) (u : FixUnit) (n : Nat) : (x.postpone u n).trapRet = x.trapRet := rfl
@[simp] theorem Ctx.postpone_ops (x : Ctx) (u : FixUnit) (n : Nat) : (x.postpone u n).ops = x.ops := rfl
@[simp] theorem Ctx.postpone_pendQ (x : Ctx) (u : FixUnit) (n : Nat) : (x.postpone u n).pendQ = x.pendQ := rfl
@[simp] theorem Ctx.postpone_pendE (x : Ctx) (u : FixUnit) (n : Nat) : (x.postpone u n).pendE = x.pendE := rfl
@[simp] theorem Ctx.postpone_deliver (x : Ctx) (u : FixUnit) (n : Nat) : (x.postpone u n).deliver = x.deliver := rfl
@[simp] theorem Ctx.postpone_hold (x : Ctx) (u : FixUnit) (n : Nat) : (x.postpone u n).hold = x.hold := rfl
@[simp] theorem Ctx.postpone_heldClk (x : Ctx) (u : FixUnit) (n : Nat) : (x.postpone u n).heldClk = x.heldClk := rfl
@[simp] theorem Ctx.postpone_issue (x : Ctx) (u : FixUnit) (n : Nat) : (x.postpone u n).issue = x.issue := rfl
@[simp] theorem Ctx.postpone_stall (x : Ctx) (u : FixUnit) (n : Nat) : (x.postpone u n).stall = x.stall := rfl
@[simp] theorem Ctx.postpone_stallSave (x : Ctx) (u : FixUnit) (n : Nat) : (x.postpone u n).stallSave = x.stallSave := rfl
@[simp] theorem Ctx.postpone_ctlFresh (x : Ctx) (u : FixUnit) (n : Nat) : (x.postpone u n).ctlFresh = x.ctlFresh := rfl
@[simp] theorem Ctx.postpone_xFresh (x : Ctx) (u : FixUnit) (n : Nat) : (x.postpone u n).xFresh = x.xFresh := rfl
@[simp] theorem Ctx.postpone_parking (x : Ctx) (u : FixUnit) (n : Nat) : (x.postpone u n).parking = x.parking := rfl
@[simp] theorem Ctx.postpone_barg (x : Ctx) (u : FixUnit) (n : Nat) : (x.postpone u n).barg = x.barg := rfl
@[simp] theorem Ctx.postpone_ending (x : Ctx) (u : FixUnit) (n : Nat) : (x.postpone u n).ending = x.ending := rfl
@[simp] theorem Ctx.postpone_fatal (x : Ctx) (u : FixUnit) (n : Nat) : (x.postpone u n).fatal = x.fatal := rfl
@[simp] theorem Ctx.postpone_outSince (x : Ctx) (u : FixUnit) (n : Nat) : (x.postpone u n).outSince = x.outSince := rfl
@[simp] theorem Ctx.postpone_begun (x : Ctx) (u : FixUnit) (n : Nat) : (x.postpone u n).begun = x.begun := rfl

/-! ### `Ctx.closeSec` -/

@[simp] theorem Ctx.closeSec_id (x : Ctx) (n : Nat) : (x.closeSec n).id = x.id := rfl
@[simp] theorem Ctx.closeSec_regs (x : Ctx) (n : Nat) : (x.closeSec n).regs = x.regs := rfl
@[simp] theorem Ctx.closeSec_sys (x : Ctx) (n : Nat) : (x.closeSec n).sys = x.sys := rfl
@[simp] theorem Ctx.closeSec_gens (x : Ctx) (n : Nat) : (x.closeSec n).gens = x.gens := rfl
@[simp] theorem Ctx.closeSec_genNum (x : Ctx) (n : Nat) : (x.closeSec n).genNum = x.genNum := rfl
@[simp] theorem Ctx.closeSec_oldGens (x : Ctx) (n : Nat) : (x.closeSec n).oldGens = x.oldGens := rfl
@[simp] theorem Ctx.closeSec_rime (x : Ctx) (n : Nat) : (x.closeSec n).rime = x.rime := rfl
@[simp] theorem Ctx.closeSec_rimeNum (x : Ctx) (n : Nat) : (x.closeSec n).rimeNum = x.rimeNum := rfl
@[simp] theorem Ctx.closeSec_oldRime (x : Ctx) (n : Nat) : (x.closeSec n).oldRime = x.oldRime := rfl
@[simp] theorem Ctx.closeSec_tl (x : Ctx) (n : Nat) : (x.closeSec n).tl = x.tl := rfl
@[simp] theorem Ctx.closeSec_pstat (x : Ctx) (n : Nat) : (x.closeSec n).pstat = x.pstat := rfl
@[simp] theorem Ctx.closeSec_brim (x : Ctx) (n : Nat) : (x.closeSec n).brim = x.brim := rfl
@[simp] theorem Ctx.closeSec_ctl (x : Ctx) (n : Nat) : (x.closeSec n).ctl = x.ctl := rfl
@[simp] theorem Ctx.closeSec_saved (x : Ctx) (n : Nat) : (x.closeSec n).saved = x.saved := rfl
@[simp] theorem Ctx.closeSec_trapMode (x : Ctx) (n : Nat) : (x.closeSec n).trapMode = x.trapMode := rfl
@[simp] theorem Ctx.closeSec_trapPc (x : Ctx) (n : Nat) : (x.closeSec n).trapPc = x.trapPc := rfl
@[simp] theorem Ctx.closeSec_latchRec (x : Ctx) (n : Nat) : (x.closeSec n).latchRec = x.latchRec := rfl
@[simp] theorem Ctx.closeSec_heldMov (x : Ctx) (n : Nat) : (x.closeSec n).heldMov = x.heldMov := rfl
@[simp] theorem Ctx.closeSec_latchUid (x : Ctx) (n : Nat) : (x.closeSec n).latchUid = x.latchUid := rfl
@[simp] theorem Ctx.closeSec_flights (x : Ctx) (n : Nat) : (x.closeSec n).flights = x.flights := rfl
@[simp] theorem Ctx.closeSec_cclk (x : Ctx) (n : Nat) : (x.closeSec n).cclk = x.cclk := rfl
@[simp] theorem Ctx.closeSec_xclk (x : Ctx) (n : Nat) : (x.closeSec n).xclk = x.xclk := rfl
@[simp] theorem Ctx.closeSec_ql (x : Ctx) (n : Nat) : (x.closeSec n).ql = x.ql := rfl
@[simp] theorem Ctx.closeSec_qx (x : Ctx) (n : Nat) : (x.closeSec n).qx = x.qx := rfl
@[simp] theorem Ctx.closeSec_qs (x : Ctx) (n : Nat) : (x.closeSec n).qs = x.qs := rfl
@[simp] theorem Ctx.closeSec_eng (x : Ctx) (n : Nat) : (x.closeSec n).eng = x.eng := rfl
@[simp] theorem Ctx.closeSec_nextUid (x : Ctx) (n : Nat) : (x.closeSec n).nextUid = x.nextUid := rfl
@[simp] theorem Ctx.closeSec_disp (x : Ctx) (n : Nat) : (x.closeSec n).disp = x.disp := rfl
@[simp] theorem Ctx.closeSec_retired (x : Ctx) (n : Nat) : (x.closeSec n).retired = x.retired := rfl
@[simp] theorem Ctx.closeSec_trapDisp (x : Ctx) (n : Nat) : (x.closeSec n).trapDisp = x.trapDisp := rfl
@[simp] theorem Ctx.closeSec_trapRet (x : Ctx) (n : Nat) : (x.closeSec n).trapRet = x.trapRet := rfl
@[simp] theorem Ctx.closeSec_ops (x : Ctx) (n : Nat) : (x.closeSec n).ops = x.ops := rfl
@[simp] theorem Ctx.closeSec_pendQ (x : Ctx) (n : Nat) : (x.closeSec n).pendQ = x.pendQ := rfl
@[simp] theorem Ctx.closeSec_pendE (x : Ctx) (n : Nat) : (x.closeSec n).pendE = x.pendE := rfl
@[simp] theorem Ctx.closeSec_deliver (x : Ctx) (n : Nat) : (x.closeSec n).deliver = x.deliver := rfl
@[simp] theorem Ctx.closeSec_hold (x : Ctx) (n : Nat) : (x.closeSec n).hold = x.hold := rfl
@[simp] theorem Ctx.closeSec_heldClk (x : Ctx) (n : Nat) : (x.closeSec n).heldClk = x.heldClk := rfl
@[simp] theorem Ctx.closeSec_issue (x : Ctx) (n : Nat) : (x.closeSec n).issue = x.issue := rfl
@[simp] theorem Ctx.closeSec_stall (x : Ctx) (n : Nat) : (x.closeSec n).stall = x.stall := rfl
@[simp] theorem Ctx.closeSec_stallSave (x : Ctx) (n : Nat) : (x.closeSec n).stallSave = x.stallSave := rfl
@[simp] theorem Ctx.closeSec_ctlFresh (x : Ctx) (n : Nat) : (x.closeSec n).ctlFresh = x.ctlFresh := rfl
@[simp] theorem Ctx.closeSec_xFresh (x : Ctx) (n : Nat) : (x.closeSec n).xFresh = x.xFresh := rfl
@[simp] theorem Ctx.closeSec_parking (x : Ctx) (n : Nat) : (x.closeSec n).parking = x.parking := rfl
@[simp] theorem Ctx.closeSec_barg (x : Ctx) (n : Nat) : (x.closeSec n).barg = x.barg := rfl
@[simp] theorem Ctx.closeSec_ending (x : Ctx) (n : Nat) : (x.closeSec n).ending = x.ending := rfl
@[simp] theorem Ctx.closeSec_fatal (x : Ctx) (n : Nat) : (x.closeSec n).fatal = x.fatal := rfl
@[simp] theorem Ctx.closeSec_outSince (x : Ctx) (n : Nat) : (x.closeSec n).outSince = x.outSince := rfl
@[simp] theorem Ctx.closeSec_begun (x : Ctx) (n : Nat) : (x.closeSec n).begun = x.begun := rfl

/-! ### `Ctx.withResult` -/

@[simp] theorem Ctx.withResult_id (x : Ctx) (q : QWord) (n : Nat) (v : FlightVal) : (x.withResult q n v).id = x.id := rfl
@[simp] theorem Ctx.withResult_regs (x : Ctx) (q : QWord) (n : Nat) (v : FlightVal) : (x.withResult q n v).regs = x.regs := rfl
@[simp] theorem Ctx.withResult_sys (x : Ctx) (q : QWord) (n : Nat) (v : FlightVal) : (x.withResult q n v).sys = x.sys := rfl
@[simp] theorem Ctx.withResult_gens (x : Ctx) (q : QWord) (n : Nat) (v : FlightVal) : (x.withResult q n v).gens = x.gens := rfl
@[simp] theorem Ctx.withResult_genNum (x : Ctx) (q : QWord) (n : Nat) (v : FlightVal) : (x.withResult q n v).genNum = x.genNum := rfl
@[simp] theorem Ctx.withResult_oldGens (x : Ctx) (q : QWord) (n : Nat) (v : FlightVal) : (x.withResult q n v).oldGens = x.oldGens := rfl
@[simp] theorem Ctx.withResult_rime (x : Ctx) (q : QWord) (n : Nat) (v : FlightVal) : (x.withResult q n v).rime = x.rime := rfl
@[simp] theorem Ctx.withResult_rimeNum (x : Ctx) (q : QWord) (n : Nat) (v : FlightVal) : (x.withResult q n v).rimeNum = x.rimeNum := rfl
@[simp] theorem Ctx.withResult_oldRime (x : Ctx) (q : QWord) (n : Nat) (v : FlightVal) : (x.withResult q n v).oldRime = x.oldRime := rfl
@[simp] theorem Ctx.withResult_tl (x : Ctx) (q : QWord) (n : Nat) (v : FlightVal) : (x.withResult q n v).tl = x.tl := rfl
@[simp] theorem Ctx.withResult_pstat (x : Ctx) (q : QWord) (n : Nat) (v : FlightVal) : (x.withResult q n v).pstat = x.pstat := rfl
@[simp] theorem Ctx.withResult_brim (x : Ctx) (q : QWord) (n : Nat) (v : FlightVal) : (x.withResult q n v).brim = x.brim := rfl
@[simp] theorem Ctx.withResult_ctl (x : Ctx) (q : QWord) (n : Nat) (v : FlightVal) : (x.withResult q n v).ctl = x.ctl := rfl
@[simp] theorem Ctx.withResult_saved (x : Ctx) (q : QWord) (n : Nat) (v : FlightVal) : (x.withResult q n v).saved = x.saved := rfl
@[simp] theorem Ctx.withResult_trapMode (x : Ctx) (q : QWord) (n : Nat) (v : FlightVal) : (x.withResult q n v).trapMode = x.trapMode := rfl
@[simp] theorem Ctx.withResult_trapPc (x : Ctx) (q : QWord) (n : Nat) (v : FlightVal) : (x.withResult q n v).trapPc = x.trapPc := rfl
@[simp] theorem Ctx.withResult_latchRec (x : Ctx) (q : QWord) (n : Nat) (v : FlightVal) : (x.withResult q n v).latchRec = x.latchRec := rfl
@[simp] theorem Ctx.withResult_heldMov (x : Ctx) (q : QWord) (n : Nat) (v : FlightVal) : (x.withResult q n v).heldMov = x.heldMov := rfl
@[simp] theorem Ctx.withResult_latchUid (x : Ctx) (q : QWord) (n : Nat) (v : FlightVal) : (x.withResult q n v).latchUid = x.latchUid := rfl
@[simp] theorem Ctx.withResult_cclk (x : Ctx) (q : QWord) (n : Nat) (v : FlightVal) : (x.withResult q n v).cclk = x.cclk := rfl
@[simp] theorem Ctx.withResult_xclk (x : Ctx) (q : QWord) (n : Nat) (v : FlightVal) : (x.withResult q n v).xclk = x.xclk := rfl
@[simp] theorem Ctx.withResult_ql (x : Ctx) (q : QWord) (n : Nat) (v : FlightVal) : (x.withResult q n v).ql = x.ql := rfl
@[simp] theorem Ctx.withResult_qx (x : Ctx) (q : QWord) (n : Nat) (v : FlightVal) : (x.withResult q n v).qx = x.qx := rfl
@[simp] theorem Ctx.withResult_qs (x : Ctx) (q : QWord) (n : Nat) (v : FlightVal) : (x.withResult q n v).qs = x.qs := rfl
@[simp] theorem Ctx.withResult_eng (x : Ctx) (q : QWord) (n : Nat) (v : FlightVal) : (x.withResult q n v).eng = x.eng := rfl
@[simp] theorem Ctx.withResult_secs (x : Ctx) (q : QWord) (n : Nat) (v : FlightVal) : (x.withResult q n v).secs = x.secs := rfl
@[simp] theorem Ctx.withResult_nextUid (x : Ctx) (q : QWord) (n : Nat) (v : FlightVal) : (x.withResult q n v).nextUid = x.nextUid := rfl
@[simp] theorem Ctx.withResult_disp (x : Ctx) (q : QWord) (n : Nat) (v : FlightVal) : (x.withResult q n v).disp = x.disp := rfl
@[simp] theorem Ctx.withResult_retired (x : Ctx) (q : QWord) (n : Nat) (v : FlightVal) : (x.withResult q n v).retired = x.retired := rfl
@[simp] theorem Ctx.withResult_trapDisp (x : Ctx) (q : QWord) (n : Nat) (v : FlightVal) : (x.withResult q n v).trapDisp = x.trapDisp := rfl
@[simp] theorem Ctx.withResult_trapRet (x : Ctx) (q : QWord) (n : Nat) (v : FlightVal) : (x.withResult q n v).trapRet = x.trapRet := rfl
@[simp] theorem Ctx.withResult_ops (x : Ctx) (q : QWord) (n : Nat) (v : FlightVal) : (x.withResult q n v).ops = x.ops := rfl
@[simp] theorem Ctx.withResult_pendQ (x : Ctx) (q : QWord) (n : Nat) (v : FlightVal) : (x.withResult q n v).pendQ = x.pendQ := rfl
@[simp] theorem Ctx.withResult_pendE (x : Ctx) (q : QWord) (n : Nat) (v : FlightVal) : (x.withResult q n v).pendE = x.pendE := rfl
@[simp] theorem Ctx.withResult_deliver (x : Ctx) (q : QWord) (n : Nat) (v : FlightVal) : (x.withResult q n v).deliver = x.deliver := rfl
@[simp] theorem Ctx.withResult_hold (x : Ctx) (q : QWord) (n : Nat) (v : FlightVal) : (x.withResult q n v).hold = x.hold := rfl
@[simp] theorem Ctx.withResult_heldClk (x : Ctx) (q : QWord) (n : Nat) (v : FlightVal) : (x.withResult q n v).heldClk = x.heldClk := rfl
@[simp] theorem Ctx.withResult_issue (x : Ctx) (q : QWord) (n : Nat) (v : FlightVal) : (x.withResult q n v).issue = x.issue := rfl
@[simp] theorem Ctx.withResult_stall (x : Ctx) (q : QWord) (n : Nat) (v : FlightVal) : (x.withResult q n v).stall = x.stall := rfl
@[simp] theorem Ctx.withResult_stallSave (x : Ctx) (q : QWord) (n : Nat) (v : FlightVal) : (x.withResult q n v).stallSave = x.stallSave := rfl
@[simp] theorem Ctx.withResult_ctlFresh (x : Ctx) (q : QWord) (n : Nat) (v : FlightVal) : (x.withResult q n v).ctlFresh = x.ctlFresh := rfl
@[simp] theorem Ctx.withResult_xFresh (x : Ctx) (q : QWord) (n : Nat) (v : FlightVal) : (x.withResult q n v).xFresh = x.xFresh := rfl
@[simp] theorem Ctx.withResult_parking (x : Ctx) (q : QWord) (n : Nat) (v : FlightVal) : (x.withResult q n v).parking = x.parking := rfl
@[simp] theorem Ctx.withResult_barg (x : Ctx) (q : QWord) (n : Nat) (v : FlightVal) : (x.withResult q n v).barg = x.barg := rfl
@[simp] theorem Ctx.withResult_ending (x : Ctx) (q : QWord) (n : Nat) (v : FlightVal) : (x.withResult q n v).ending = x.ending := rfl
@[simp] theorem Ctx.withResult_fatal (x : Ctx) (q : QWord) (n : Nat) (v : FlightVal) : (x.withResult q n v).fatal = x.fatal := rfl
@[simp] theorem Ctx.withResult_outSince (x : Ctx) (q : QWord) (n : Nat) (v : FlightVal) : (x.withResult q n v).outSince = x.outSince := rfl
@[simp] theorem Ctx.withResult_begun (x : Ctx) (q : QWord) (n : Nat) (v : FlightVal) : (x.withResult q n v).begun = x.begun := rfl

/-! ### `Core.putRow` -/

@[simp] theorem Core.putRow_phys (k : Core) (r : Nat) (v : Row) : (k.putRow r v).phys = k.phys := rfl
@[simp] theorem Core.putRow_banks (k : Core) (r : Nat) (v : Row) : (k.putRow r v).banks = k.banks := rfl
@[simp] theorem Core.putRow_active (k : Core) (r : Nat) (v : Row) : (k.putRow r v).active = k.active := rfl
@[simp] theorem Core.putRow_staging (k : Core) (r : Nat) (v : Row) : (k.putRow r v).staging = k.staging := rfl
@[simp] theorem Core.putRow_parked (k : Core) (r : Nat) (v : Row) : (k.putRow r v).parked = k.parked := rfl
@[simp] theorem Core.putRow_serial (k : Core) (r : Nat) (v : Row) : (k.putRow r v).serial = k.serial := rfl
@[simp] theorem Core.putRow_msgn (k : Core) (r : Nat) (v : Row) : (k.putRow r v).msgn = k.msgn := rfl
@[simp] theorem Core.putRow_msgnNew (k : Core) (r : Nat) (v : Row) : (k.putRow r v).msgnNew = k.msgnNew := rfl
@[simp] theorem Core.putRow_acc (k : Core) (r : Nat) (v : Row) : (k.putRow r v).acc = k.acc := rfl
@[simp] theorem Core.putRow_vregs (k : Core) (r : Nat) (v : Row) : (k.putRow r v).vregs = k.vregs := rfl
@[simp] theorem Core.putRow_accBad (k : Core) (r : Nat) (v : Row) : (k.putRow r v).accBad = k.accBad := rfl
@[simp] theorem Core.putRow_clearing (k : Core) (r : Nat) (v : Row) : (k.putRow r v).clearing = k.clearing := rfl
@[simp] theorem Core.putRow_barriers (k : Core) (r : Nat) (v : Row) : (k.putRow r v).barriers = k.barriers := rfl
@[simp] theorem Core.putRow_deque (k : Core) (r : Nat) (v : Row) : (k.putRow r v).deque = k.deque := rfl
@[simp] theorem Core.putRow_spill (k : Core) (r : Nat) (v : Row) : (k.putRow r v).spill = k.spill := rfl
@[simp] theorem Core.putRow_lastThief (k : Core) (r : Nat) (v : Row) : (k.putRow r v).lastThief = k.lastThief := rfl
@[simp] theorem Core.putRow_steal (k : Core) (r : Nat) (v : Row) : (k.putRow r v).steal = k.steal := rfl
@[simp] theorem Core.putRow_due (k : Core) (r : Nat) (v : Row) : (k.putRow r v).due = k.due := rfl
@[simp] theorem Core.putRow_shares (k : Core) (r : Nat) (v : Row) : (k.putRow r v).shares = k.shares := rfl
@[simp] theorem Core.putRow_reserved (k : Core) (r : Nat) (v : Row) : (k.putRow r v).reserved = k.reserved := rfl
@[simp] theorem Core.putRow_icache (k : Core) (r : Nat) (v : Row) : (k.putRow r v).icache = k.icache := rfl
@[simp] theorem Core.putRow_discards (k : Core) (r : Nat) (v : Row) : (k.putRow r v).discards = k.discards := rfl
@[simp] theorem Core.putRow_owners (k : Core) (r : Nat) (v : Row) : (k.putRow r v).owners = k.owners := rfl
@[simp] theorem Core.putRow_dupFail (k : Core) (r : Nat) (v : Row) : (k.putRow r v).dupFail = k.dupFail := rfl

/-! ### `Core.putAcc` -/

@[simp] theorem Core.putAcc_phys (k : Core) (r : Nat) (v : BitVec 8192) : (k.putAcc r v).phys = k.phys := rfl
@[simp] theorem Core.putAcc_banks (k : Core) (r : Nat) (v : BitVec 8192) : (k.putAcc r v).banks = k.banks := rfl
@[simp] theorem Core.putAcc_active (k : Core) (r : Nat) (v : BitVec 8192) : (k.putAcc r v).active = k.active := rfl
@[simp] theorem Core.putAcc_staging (k : Core) (r : Nat) (v : BitVec 8192) : (k.putAcc r v).staging = k.staging := rfl
@[simp] theorem Core.putAcc_parked (k : Core) (r : Nat) (v : BitVec 8192) : (k.putAcc r v).parked = k.parked := rfl
@[simp] theorem Core.putAcc_serial (k : Core) (r : Nat) (v : BitVec 8192) : (k.putAcc r v).serial = k.serial := rfl
@[simp] theorem Core.putAcc_msgn (k : Core) (r : Nat) (v : BitVec 8192) : (k.putAcc r v).msgn = k.msgn := rfl
@[simp] theorem Core.putAcc_msgnNew (k : Core) (r : Nat) (v : BitVec 8192) : (k.putAcc r v).msgnNew = k.msgnNew := rfl
@[simp] theorem Core.putAcc_spad (k : Core) (r : Nat) (v : BitVec 8192) : (k.putAcc r v).spad = k.spad := rfl
@[simp] theorem Core.putAcc_vregs (k : Core) (r : Nat) (v : BitVec 8192) : (k.putAcc r v).vregs = k.vregs := rfl
@[simp] theorem Core.putAcc_spadBad (k : Core) (r : Nat) (v : BitVec 8192) : (k.putAcc r v).spadBad = k.spadBad := rfl
@[simp] theorem Core.putAcc_clearing (k : Core) (r : Nat) (v : BitVec 8192) : (k.putAcc r v).clearing = k.clearing := rfl
@[simp] theorem Core.putAcc_barriers (k : Core) (r : Nat) (v : BitVec 8192) : (k.putAcc r v).barriers = k.barriers := rfl
@[simp] theorem Core.putAcc_deque (k : Core) (r : Nat) (v : BitVec 8192) : (k.putAcc r v).deque = k.deque := rfl
@[simp] theorem Core.putAcc_spill (k : Core) (r : Nat) (v : BitVec 8192) : (k.putAcc r v).spill = k.spill := rfl
@[simp] theorem Core.putAcc_lastThief (k : Core) (r : Nat) (v : BitVec 8192) : (k.putAcc r v).lastThief = k.lastThief := rfl
@[simp] theorem Core.putAcc_steal (k : Core) (r : Nat) (v : BitVec 8192) : (k.putAcc r v).steal = k.steal := rfl
@[simp] theorem Core.putAcc_due (k : Core) (r : Nat) (v : BitVec 8192) : (k.putAcc r v).due = k.due := rfl
@[simp] theorem Core.putAcc_shares (k : Core) (r : Nat) (v : BitVec 8192) : (k.putAcc r v).shares = k.shares := rfl
@[simp] theorem Core.putAcc_reserved (k : Core) (r : Nat) (v : BitVec 8192) : (k.putAcc r v).reserved = k.reserved := rfl
@[simp] theorem Core.putAcc_icache (k : Core) (r : Nat) (v : BitVec 8192) : (k.putAcc r v).icache = k.icache := rfl
@[simp] theorem Core.putAcc_discards (k : Core) (r : Nat) (v : BitVec 8192) : (k.putAcc r v).discards = k.discards := rfl
@[simp] theorem Core.putAcc_owners (k : Core) (r : Nat) (v : BitVec 8192) : (k.putAcc r v).owners = k.owners := rfl
@[simp] theorem Core.putAcc_dupFail (k : Core) (r : Nat) (v : BitVec 8192) : (k.putAcc r v).dupFail = k.dupFail := rfl

end Sys2Proof.Machine
end

