-- ==== Sys2Proof/Laws/Words.lean ====
section
/-! SUPPORT. What the shared operations of queue words, macros, receivers and host commands answer, said once. -/

namespace Sys2Proof.Machine

/-! ### Words of the X queue -/

/-- A word of the X queue whose registers are not pending is its effect. -/
theorem xReads_runs {s : State} {g : Guard} {vs : List VReg} {ps : List PReg} {es : List EReg} {x : Ctx} {q : QWord}
    {k : Ctx → QWord → Out} (h : XRuns s g vs ps es x q) : xReads s g vs ps es k = k x q := by
  obtain ⟨hx, hq, hp⟩ := h
  unfold xReads
  rw [hx, hq]
  cases hr : x.pendr with
  | false => simp [hr]
  | true =>
    obtain ⟨h1, h2, h3, h4⟩ := hp hr
    have e1 : vs.any (fun r => x.vecPending (x.phys r.toNat)) = false := by simpa using h2
    have e2 : ps.any x.predPending = false := by simpa using h3
    have e3 : es.any x.exactPending = false := by simpa using h4
    simp [h1, e1, e2, e3]

/-- A vector word with room for its result and no pending register is its effect. -/
theorem xWord_runs {s : State} {g : Guard} {vs : List VReg} {ps : List PReg} {es : List EReg} {x : Ctx} {q : QWord}
    {k : Ctx → QWord → Out} (h : XRuns s g vs ps es x q) (hr : x.room .vec = true) : xWord s g vs ps es k = k x q := by
  unfold xWord
  rw [h.1]
  simp only [hr, if_true]
  exact xReads_runs h

/-- Without room for a result the queue passes one clk, whatever the word. -/
theorem xWord_waits {s : State} {g : Guard} {vs : List VReg} {ps : List PReg} {es : List EReg} {x : Ctx} {k : Ctx → QWord → Out}
    (h : s.ctx? = some x) (hr : x.room .vec = false) : xWord s g vs ps es k = .next (s.putCtx x.xTick) := by
  unfold xWord
  rw [h]
  simp [hr]

/-- A word issues its result. -/
theorem xIssue_result (s : State) (x : Ctx) (q : QWord) (lat : Nat) (v : FlightVal) (solo : Bool) (bank : Nat) :
    s.xIssue x q lat v solo bank = .next (s.putCtx ((x.withResult q lat v).xDone solo bank)) := rfl

/-- A word of a queue whose guard passes is its effect on the context, issued by its queue. -/
theorem queueWord_macro {s : State} {x : Ctx} {k : Kind} {q : QWord} {f : Ctx → Run → Out} (h : QueueRuns s x k q) :
    macroWord s f = s.handOver x q := by
  obtain ⟨hx, hu, hq⟩ := h
  simp only [macroWord, hx, hu, hq]

/-! ### Macros at their engines -/

/-- An engine's word performs its progress unit on the macro, which has then started. -/
theorem macroWord_runs {s : State} {x : Ctx} {e : Eng} {r : Run} {f : Ctx → Run → Out} (h : EngRuns s x e r) :
    macroWord s f = f x { r with started := true } := by
  obtain ⟨hx, hu, hr⟩ := h
  simp only [macroWord, hx, hu, hr]

theorem orFault_ok {α : Type} (s : State) (x : Ctx) (r : Run) (a : α) (k : α → Out) : orFault s x r (.ok a) k = k a := rfl

/-- A part that faults leaves its fault with the macro. -/
theorem orFault_error {α : Type} (s : State) (x : Ctx) (r : Run) (f : MFault) (k : α → Out) :
    orFault s x r (.error f) k = .next (s.putCtx (x.setRun (r.faulted f.code f.detail f.event f.addr))) := rfl

theorem runFault_faulted (s : State) (x : Ctx) (r : Run) (code : CauseCode) (detail event addr : Nat) :
    s.runFault x r code detail event addr = .next (s.putCtx (x.setRun (r.faulted code detail event addr))) := rfl

/-- The next row of a transfer goes to its continuation with what follows. -/
theorem nextRow_turn {s : State} {x : Ctx} {r : Run} {total : Nat} {side : Option Side} {base : Word} {i row : Nat} {y : Ctx} {r' : Run}
    {k : Nat → Nat → (Ctx → Ctx × Run) → Out} (h : RowTurn x r total side base i row y r') :
    ∃ after, nextRow s x r total side base k = k i row after ∧ after x = (y, r') := by
  unfold nextRow
  cases side with
  | none =>
    obtain ⟨h1, rfl, rfl, rfl, rfl⟩ := h
    simp only [sideFits, Bool.not_true, Bool.false_eq_true, if_false, if_neg (Nat.not_le.mpr h1)]
    exact ⟨_, rfl, rfl⟩
  | some d =>
    obtain ⟨h1, h2, h3, ⟨slot, h4, h5⟩, h6⟩ := h
    subst h2 h5
    simp only [sideFits, h1, beq_self_eq_true, Bool.not_true, Bool.false_eq_true, if_false, if_neg (Nat.not_le.mpr h3), withSlot, h4,
      Nat.lt_irrefl, decide_false, Bool.false_and]
    refine ⟨_, rfl, ?_⟩
    split at h6
    · obtain ⟨rfl, rfl⟩ := h6; rw [if_pos (by assumption)]
    · obtain ⟨rfl, rfl⟩ := h6; rw [if_neg (by assumption)]

/-- A transfer that has no slot yet takes one or waits, whatever follows. -/
theorem nextRow_slot {s : State} {x : Ctx} {r : Run} {total : Nat} {d : Side} {base : Word} {r' : Run}
    {k : Nat → Nat → (Ctx → Ctx × Run) → Out} (h : SlotTurn x r total d r') :
    nextRow s x r total (some d) base k = .next (s.putCtx (x.setRun r')) := by
  obtain ⟨h1, h2, h3, rfl⟩ := h
  unfold nextRow
  simp only [sideFits, h1, beq_self_eq_true, Bool.not_true, Bool.false_eq_true, if_false, if_neg (Nat.not_le.mpr h2), withSlot, h3,
    takeSlot, Nat.lt_one_iff, State.putRun]
  split <;> rfl

/-- Translations that all give places go on with them. -/
theorem withPlaces_ok {s u : State} {x : Ctx} {r rf : Run} {acc : AccKind} {vas : List Nat} {k : List Loc → State → Out} {ls : List Loc}
    (h : s.xlatAll x acc vas = .ok (ls, u)) : withPlaces s x r rf acc vas k = k ls u := by
  unfold withPlaces; rw [h]

/-! ### Receivers and host commands -/

theorem receive_done {s u : State} {typ : Nat} {t : Flit} {rows : List Row} (h1 : s.firm.st = .ready) (h2 : t.dst = s.firm.node) :
    receive s typ t (.ok (some (u, rows))) = .next (u.answer (answerType typ) t none rows) := by
  simp [receive, State.arrives, h1, h2]

theorem receive_refused {s : State} {typ : Nat} {t : Flit} {c : Nat} (h1 : s.firm.st = .ready) (h2 : t.dst = s.firm.node) :
    receive s typ t (.error c) = .next ((s.refused typ t c).answer (answerType typ) t (some c) []) := by
  simp [receive, State.arrives, h1, h2]

/-- A command that reaches firmware in order is performed. -/
theorem hostCommand_runs {s : State} {h : HostCmd} {opc : Nat} {cls : CmdClass} {k : Out} (hr : CommandRuns s h cls) :
    hostCommand h opc cls s k = k := by
  obtain ⟨h1, h2, h3, h4, h5⟩ := hr
  have h6 : (s.firm.refuses cls && !s.accepted h) = false := by rcases h4 with h4 | h4 <;> simp [h4]
  simp [hostCommand, h1, h2, h3, h5, h6]

theorem isFirst_of {s : State} {h : HostCmd} {on : CmdOn} (hr : FirstInTurn s h on) : s.isFirst h on = true := by
  unfold State.isFirst
  split
  · exact hr.1 _ (by assumption)
  · rfl

/-- A command that is first in every turn that it takes is performed. -/
theorem inTurns_runs {s : State} {h : HostCmd} {ons : List CmdOn} {k : Out} (hr : ∀ on ∈ ons, FirstInTurn s h on) :
    inTurns h ons s k = k :=
  if_pos (List.all_eq_true.mpr fun on m => by rw [isFirst_of (hr on m), (hr on m).2]; rfl)

theorem inTurn_runs {s : State} {h : HostCmd} {on : CmdOn} {k : Out} (hr : FirstInTurn s h on) : inTurn h on s k = k :=
  inTurns_runs fun _ m => by rw [List.mem_singleton.mp m]; exact hr

/-- A command with an answered SEQ is answered by the stored response. -/
theorem hostCommand_again {s : State} {h : HostCmd} {opc : Nat} {cls : CmdClass} {k : Out} {r : Response} (h1 : s.firm.st = .ready)
    (h2 : h.src ∈ s.firm.hosts) (h3 : (s.firm.responses.find? (·.cmd.same h)) = some r) :
    hostCommand h opc cls s k = .next (s.transmit { r with cmd := h }) := by
  simp [hostCommand, h1, h2, h3]
end Sys2Proof.Machine
end

