-- ==== Sys2Proof/Tests/Slice0.lean ====
section
/-! SUPPORT. Tests: words that the manual prints decode to what it says they are, ill-formed words are refused, one step of some
instructions on small states, and a witness for the hypotheses of each statement. -/

open Sys2Proof Sys2Proof.Machine

set_option Elab.async false

/-! ### Words printed in the manual, or written out from its formats -/

/-- Control integer words (R91, R97: the worked loop and the table program). -/
theorem test_decode_control :
    decode 0x000001040C00000000000000 = some (.add ⟨none, none, 4, 4, 3, 0, 0⟩) ∧
    decode 0x080000C3FFFFFFFFFFFFFFFF = some (.addi ⟨none, 3, 3, -1⟩) ∧
    decode 0x064001430004000000000000 = some (.cmp ⟨none, none, 5, 3, 0, 0, 0x4000000000000⟩) ∧
    decode 0x084000C00000000000000001 = some (.li ⟨none, 3, 0, 1⟩) ∧
    decode 0x084001000000000000000007 = some (.li ⟨none, 4, 0, 7⟩) := by decide

/-- Flow (R98 to R103). -/
theorem test_decode_flow :
    decode 0x10400140FFFFFFFFFFFFFFD4 = some (.bc ⟨none, 5, -44⟩) ∧
    decode 0x110000C00000000001000000 = some (.jtab ⟨none, 3, 0x1000000⟩) ∧
    decode 0x118000000000000000000000 = some (.done ⟨none, none, 0, 0, 0, 0, 0⟩) ∧
    decode 0x114000000000000000000000 = some (.jfrag ⟨none, none, 0, 0, 0, 0, 0⟩) := by decide

/-- Scalar memory and system (R107, R108, R112, R113: MTS is one opcode, read by its register). -/
theorem test_decode_memory :
    decode 0x200080C10000000300000000 = some (.sld ⟨none, some 0, 3, 1, 0, 0, 0x300000000⟩) ∧
    decode 0x204000011000000300000000 = some (.sst ⟨none, none, 0, 1, 4, 0, 0x300000000⟩) ∧
    decode 0x208000000000000000000001 = some (.await ⟨none, none, 0, 0, 0, 0, 1⟩) ∧
    decode (0x0A1#10 ++ 0#10 ++ 0#6 ++ 5#6 ++ 0#12 ++ 0#40 ++ 0x013#12) = some (.mtsTmr ⟨none, none, 0, 5, 0, 0, 0x013⟩) ∧
    decode (0x0A1#10 ++ 0#10 ++ 0#6 ++ 5#6 ++ 0#12 ++ 0#40 ++ 0x103#12)
      = some (.mtsHandleHigh ⟨none, none, 0, 5, 0, 0, 0x103⟩) := by decide

/-- Floating-point words, the guarded one of R121 among them, and REP (R157). -/
theorem test_decode_float :
    decode 0x40C000280001401404000000 = some (.vfma ⟨none, none, 20, 0, 40, 20, .f32, .rne, 0⟩) ∧
    decode 0x40C000500F41903304000000 = some (.vfma ⟨none, none, 40, 61, 50, 51, .f32, .rne, 0⟩) ∧
    decode 0x40A200080100300004000000 = some (.vmul ⟨some ⟨1, false⟩, none, 4, 4, 6, 0, .f32, .rne, 0⟩) ∧
    decode 0x400000040000000004000000 = some (.vadd ⟨none, none, 2, 0, 0, 0, .f32, .rne, 0⟩) ∧
    decode 0x4140000C0040100004000000 = some (.vfnma ⟨none, none, 6, 1, 2, 0, .f32, .rne, 0⟩) ∧
    decode 0x7CC000004041001000000000 = some (.rep ⟨4, 1, 1, 0, 1⟩) ∧
    decode 0x7CC000004040001000000000 = some (.rep ⟨4, 1, 0, 0, 1⟩) := by decide

/-- Permutes, bits, conversions, integers and the exact words (R126 to R146). -/
theorem test_decode_vector :
    decode 0x6C0000140001F81400000000 = some (.vpermb ⟨none, none, 10, 0, 63, 20, .f64, .rne, 0⟩) ∧
    decode 0x640000140280F83F00600000 = some (.vlop3 ⟨none, none, 10, 10, 31, 63, .f64, .rne, 0x600000⟩) ∧
    decode 0x6800000A0080000004042000 = some (.vcvt ⟨none, none, 5, 2, 0, 0, .f32, .rne, 0x042000⟩) ∧
    decode 0x6800001802C0000000020000 = some (.vcvt ⟨none, none, 12, 11, 0, 0, .f64, .rne, 0x020000⟩) ∧
    decode 0x610000160100480A68000000 = some (.vimad ⟨none, none, 11, 4, 9, 10, .n16, .rne, 0⟩) ∧
    decode 0x6C800000000A040100000000 = some (.vbcast ⟨none, 0, 0, 10, 0x40100000000⟩) ∧
    decode 0x6D800000020D040000000000 = some (.vextl ⟨none, 0, 8, 13, 0x40000000000⟩) ∧
    decode 0x748000000280600000000000 = some (.xacc ⟨none, none, 0, 10, 12, 0, .f64, .rne, 0⟩) ∧
    decode 0x74C0001C0000000000000000 = some (.xrnd ⟨none, none, 14, 0, 0, 0, .f64, .rne, 0⟩) := by decide

/-- Rows, handles and loops (R147 to R154). -/
theorem test_decode_rows :
    decode 0x788000790000000000000002 = some (.vldh ⟨none, 60, true, 0, 0, 2⟩) ∧
    decode 0x790000010000040000000000 = some (.hadvc ⟨none, 0, true, 0, 1, 0⟩) ∧
    decode 0x784000502000000000080002 = some (.vst ⟨none, 40, false, 8, 0, 0x80002⟩) ∧
    decode 0x7C000000000004000000000A
      = some (.vloop ⟨none, 0, 0, 0, 0, 0, 0, false, false, true, 0, 10⟩) := by decide

/-- Transfers (R160, R165 to R178). -/
theorem test_decode_transfers :
    decode 0x800000001800100000000001 = some (.ldt ⟨none, 0, 0, 3, 0, 0, 0, true, false, false, 0, 1⟩) ∧
    decode 0x800000801800140F00000000 = some (.ldt ⟨none, 1, 0, 3, 0, 0, 0, true, false, true, 0x00F, 0⟩) ∧
    decode 0x800000208A80010F00000006 = some (.ldt ⟨none, 0, 16, 17, 20, 0, 0, false, false, false, 0x10F, 6⟩) ∧
    decode 0x810000221920010000000100 = some (.rowg ⟨none, 0, 17, 3, 9, 0, 0, false, false, false, 0x100, 0x100⟩) ∧
    decode 0x8100002419C0010100000100 = some (.rowg ⟨none, 0, 18, 3, 14, 0, 0, false, false, false, 0x101, 0x100⟩) ∧
    decode 0x820000123840010000000001
      = some (.collectiveContribution ⟨none, 0, 9, 7, 2, 0, 0, false, false, false, 0x100, 1⟩) := by decide

/-- Matrix, brim, predictor and acceptance words (R180 to R200). -/
theorem test_decode_units :
    decode 0xA040000A3000000000800000 = some (.mmv ⟨none, 0, 5, 6, 0, 0, 0, false, false, false, 0, 0x800000⟩) ∧
    decode 0xA08000268920000000008000 = some (.mmg ⟨none, 0, 19, 17, 9, 0, 0, false, false, false, 0, 0x8000⟩) ∧
    decode 0xA0C0000C3800000000879800 = some (.matt ⟨none, 0, 6, 7, 0, 0, 0, false, false, false, 0, 0x879800⟩) ∧
    decode 0xA1000012000000000000000C = some (.mpbld ⟨none, 0, 9, 0, 0, 0, 0, false, false, false, 0, 0xC⟩) ∧
    decode 0xA14000000000000000000200 = some (.aclr ⟨none, 0, 0, 0, 0, 0, 0, false, false, false, 0, 0x200⟩) ∧
    decode 0xA180000E0000000000000200 = some (.adrain ⟨none, 0, 7, 0, 0, 0, 0, false, false, false, 0, 0x200⟩) ∧
    decode 0xA40000000000000000000003 = some (.bset ⟨none, 0, 0, 0, 0, 0, 0, false, false, false, 0, 3⟩) ∧
    decode 0xA44000280000000000008000 = some (.bsamp ⟨none, 0, 20, 0, 0, 0, 0, false, false, false, 0, 0x8000⟩) ∧
    decode 0xA800000C412000000000000C = some (.pred ⟨none, 0, 6, 8, 9, 0, 0, false, false, false, 0, 12⟩) ∧
    decode 0xA840000C512000000007000C = some (.pchk ⟨none, 0, 6, 10, 9, 0, 0, false, false, false, 0, 0x7000C⟩) ∧
    decode 0xA880002C0000000000000000 = some (.pstat ⟨none, 0, 22, 0, 0, 0, 0, false, false, false, 0, 0⟩) ∧
    decode 0xAC00000E28C0000000000005 = some (.accept ⟨none, 0, 7, 5, 6, 0, 0, false, false, false, 0, 5⟩) := by decide

/-- Stream, barrier, timeline and continuation words (R201 to R225). -/
theorem test_decode_sync :
    decode 0xC00000020200000004000000 = some (.sgen ⟨none, none, 1, 8, 0, 0, .f32, .rne, 0⟩) ∧
    decode 0xC00000020200000004060000 = some (.sgen ⟨none, none, 1, 8, 0, 0, .f32, .rne, 0x60000⟩) ∧
    decode 0xD10001800000000000000001 = some (.tread ⟨none, none, 6, 0, 0, 0, 1⟩) ∧
    decode 0xD0C000060000000000000001 = some (.twait ⟨none, none, 0, 6, 0, 0, 1⟩) ∧
    decode 0xD300000E0000000000000000 = some (.jdec ⟨none, none, 0, 14, 0, 0, 0⟩) ∧
    decode 0xD2C000030000000000000000 = some (.spawn ⟨none, none, 0, 3, 0, 0, 0⟩) ∧
    decode 0xD04000092800000000000000 = some (.arrive ⟨none, none, 0, 9, 10, 0, 0⟩) ∧
    decode 0xD00000090000000000000002 = some (.binit ⟨none, none, 0, 9, 0, 0, 2⟩) ∧
    decode 0xD08000180000000000000010 = some (.bwait ⟨none, none, 0, 24, 0, 0, 0x10⟩) ∧
    decode 0xD08000101400000000000000 = some (.bwait ⟨none, none, 0, 16, 5, 0, 0⟩) := by decide

/-! ### What step 3 of R43 refuses -/

abbrev c3 : C3 := ⟨none, none, 0, 0, 0, 0, 0⟩
abbrev v4 : V4 := ⟨none, none, 0, 0, 0, 0, .f64, .rne, 0⟩
abbrev vs : VS := ⟨none, 0, 0, 0, 0⟩
abbrev vm : VM := ⟨none, 0, false, 0, 0, 0⟩
abbrev mz : EM := ⟨none, 0, 0, 0, 0, 0, 0, false, false, false, 0, 0⟩

/-- The word of each instruction of the list passes the checks, or each fails them. -/
abbrev allPass (l : List Instr) : Prop := l.all Instr.fieldsOk = true
abbrev nonePass (l : List Instr) : Prop := l.all (fun i => !i.fieldsOk) = true

/-- Unused registers, tokens, immediate bits, both shift amounts, a condition and fields past bit 63. -/
theorem test_refuses_control_words :
    nonePass [.add { c3 with tok := some 0 }, .add { c3 with sc := 1 }, .add { c3 with imm := 1 }, .clz { c3 with sb := 1 },
      .shl { c3 with sb := 1, imm := 0x41 }, .shl { c3 with imm := 1 }, .rol { c3 with imm := 0x80 }, .cmp { c3 with imm := 0xA000000000000 },
      .extr { c3 with imm := 0xFC1 }, .extr { c3 with imm := 0x2000 }, .ins { c3 with imm := 0xFC1 }, .ins { c3 with imm := 0x1000 },
      .li ⟨none, 0, 1, 0⟩, .lea ⟨none, 0, 1, 0⟩, .lih ⟨none, 0, 0, 0x100000000⟩, .br ⟨none, 1, 0⟩, .ret { c3 with sd := 1 },
      .jtab ⟨none, 0, 4⟩, .done { c3 with sa := 1 }] ∧
    allPass [.shl { c3 with sb := 1 }, .shl { c3 with imm := 0x7F }, .cmp { c3 with imm := 0x9000000000000 }, .extr { c3 with imm := 0x1FC0 },
      .ins { c3 with imm := 0xF03 }, .sel { c3 with sc := 1 }, .jtab ⟨none, 0, 8⟩] := by decide

/-- Scalar memory: REL on a load, ACQ and MSX on a store, scopes without an order, ACQ with a token, AOP 10, an AMO of one byte, sc
without CMPSWAP, SP on an atomic; the masks of AWAIT, FENCE, NOP; TRAP 0xFF; a register of another form of MTS; FILL. -/
theorem test_refuses_memory_words :
    nonePass [.sld { c3 with imm := 0x1000000000 }, .sld { c3 with imm := 0x6800000000 }, .sld { c3 with imm := 0x2000000000 },
      .sld { c3 with tok := some 0, imm := 0x800000000 }, .sst { c3 with imm := 0x800000000 }, .sst { c3 with imm := 0x400000000 },
      .sst { c3 with imm := 0x2000000000 }, .amo { c3 with imm := 0xA0200000000 }, .amo { c3 with imm := 0x100000000 },
      .amo { c3 with sc := 1, imm := 0x200000000 }, .amo { c3 with imm := 0x8200000000 }, .amof { c3 with imm := 0x20000000000 },
      .await c3, .await { c3 with imm := 0x100 }, .trap { c3 with imm := 0xFF }, .brkpt c3, .fence { c3 with imm := 3 },
      .mts { c3 with imm := 0x013 }, .mtsTmr { c3 with imm := 0x010 }, .mfs { c3 with imm := 0x1000 }, .mfs { c3 with sa := 1 },
      .sflush { c3 with sd := 1 }, .probe { c3 with imm := 0x100000000 }, .probe { c3 with tok := some 0 }, .probeF c3,
      .nop { c3 with imm := 0x40 }, .rtt { c3 with imm := 1 }] ∧
    allPass [.sld { c3 with imm := 0x800000000 }, .sld { c3 with imm := 0x4800000000 }, .sst { c3 with imm := 0x1000000000 },
      .amo { c3 with sc := 1, imm := 0x90200000000 }, .mts { c3 with imm := 0x010 }, .brkpt { c3 with imm := 0xFF },
      .probeF { c3 with tok := some 0, imm := 0x100000000 }] := by decide

/-- Vector words: an integer type in a float word, a rounding mode or token where none is, a predicate, accumulator or part out of
range, both shift amounts, ELT on a wide type, unequal widths, block formats. -/
theorem test_refuses_vector_words :
    nonePass [.vadd { v4 with ty := .i32 }, .vadd { v4 with vc := 1 }, .vadd { v4 with tok := some 0 }, .vadd { v4 with mods := 2 },
      .vmin { v4 with rnd := .rtz }, .vcmp { v4 with vd := 16 }, .vcmp { v4 with ty := .f32, mods := 0x20000 },
      .vcmp { v4 with mods := 0x300000 }, .vsel { v4 with vc := 16 }, .viadd { v4 with ty := .f32 }, .viadd { v4 with ty := .i32, rnd := .sr },
      .vishl { v4 with ty := .i32, vb := 1, mods := 2 }, .vishl { v4 with ty := .i32, mods := 4 }, .vishr { v4 with ty := .i32, mods := 1 },
      .vishl { v4 with ty := .i8, mods := 0x22 }, .viabs { v4 with ty := .n32 }, .visat { v4 with ty := .i8, mods := 0x20 },
      .vicmp { v4 with ty := .i32, mods := 0x500000 }, .vlop3 { v4 with ty := .f32 }, .vfshl { v4 with vc := 1, mods := 2 },
      .vfshl { v4 with mods := 4 }, .vpopc { v4 with ty := .f32 }] ∧
    nonePass [.vcvt { v4 with ty := .db8 }, .vcvt { v4 with mods := 0x0E0000 }, .vcvt { v4 with ty := .f32, mods := 0x044000 },
      .vcvt { v4 with mods := 0x100 }, .vcvt { v4 with mods := 0x7E0000 }, .vpack { v4 with ty := .i32, mods := 0x220000 },
      .vunpk { v4 with ty := .i16, mods := 0x220000 }, .vqnt { v4 with ty := .f32, mods := 0x020000 },
      .vqnt { v4 with ty := .db8, vb := 1, mods := 0x020000 }, .vqnt { v4 with g := some ⟨0, false⟩, ty := .db8, mods := 0x020000 },
      .vqnt { v4 with ty := .i4, mods := 0x030000 }, .vdqnt { v4 with mods := 0x0E0000 }, .vdqnt { v4 with ty := .f32, mods := 0x020000 },
      .vpermb { v4 with ty := .f32 }, .vrot { v4 with vc := 1, mods := 2 }, .vrmrg { v4 with mods := 4 }, .vbcast { vs with va := 1 },
      .vbcast { vs with sa := 1 }, .vbcast { vs with imm := 0x100000001 }, .vbcast { vs with imm := 0x200000000 },
      .vbcast { vs with imm := 0x1C0000000000 }, .vbcast { vs with imm := 0xA40000000000 }, .vinsl { vs with imm := 16 },
      .vinsl { vs with va := 1 }, .vextl { vs with vd := 1 }, .vextl { vs with imm := 0x180000000000 }, .viota { v4 with ty := .f16 }] ∧
    nonePass [.vrsum { v4 with ty := .i16 }, .vrmax { v4 with ty := .i32 }, .vbsort { v4 with ty := .f64 },
      .vbsort { v4 with g := some ⟨0, false⟩, ty := .n32 }, .vbstep { v4 with ty := .n32, mods := 2 }, .visect { v4 with ty := .i32 },
      .xclr { v4 with vd := 4 }, .xrnd { v4 with va := 4 }, .xmov { v4 with ty := .f32 }, .vld { vm with h := true }, .vldh vm,
      .vld { vm with mods := 1 }, .vld { vm with mods := 4 }, .vld { vm with mods := 0x1000000 }, .vldh { vm with h := true, base := 16 },
      .hadvc { vm with h := true }, .hadvc { vm with h := true, off := 257 }, .hadvp { vm with off := 1 }, .vexit { v4 with vd := 1 },
      .rrbset { vs with imm := 0x1000 }, .pand { v4 with vb := 16 }, .pnot { v4 with vb := 1 }, .pset { vs with vd := 16 },
      .pset { vs with sa := 1 }, .ppopc { vs with va := 16 }] ∧
    allPass [.vqnt { v4 with ty := .db8, mods := 0x020000 }, .vcvt { v4 with mods := 0x0C0100 }, .vinsl { vs with imm := 15 },
      .vbstep { v4 with ty := .n32, mods := 8 }, .hadvc { vm with h := true, off := 256 }, .vrsum { v4 with ty := .i32 },
      .visat { v4 with ty := .i8, mods := 0x1C }] := by decide

/-- Macros: a handle beside a scalar, a field of another form, a row count with a descriptor, accumulator rows past the last, a tile of no
rows, a brim program that repeats a step, names two ends or reads a parameter it has not. -/
theorem test_refuses_macros :
    nonePass [.vloop { mz with du := true }, .vloop { mz with imm := 1 }, .vloop { mz with du := true, imm := 129 },
      .ldt { mz with ha := 1, imm := 1 }, .ldt { mz with hau := true, sa := 1, imm := 1 }, .ldt mz, .ldt { mz with imm := 8193 },
      .ldt { mz with du := true, imm := 1 }, .ldt { mz with d := 1, imm := 1 }, .ldt { mz with sc := 1, imm := 1 },
      .ldt { mz with mode := 0x200, imm := 1 }, .ldt { mz with hbu := true, imm := 1 }, .stt { mz with mode := 0x100, imm := 1 },
      .cpy { mz with du := true, imm := 1 }, .cpya { mz with imm := 0x80001 }, .cpya { mz with imm := 0x5FF }, .rowg { mz with imm := 0x10 },
      .mcast { mz with imm := 0x10 }, .puth { mz with imm := 8 }, .get { mz with mode := 0x100, imm := 1 }, .put { mz with mode := 0x100, imm := 1 },
      .collectiveContribution { mz with imm := 1 }, .pft { mz with sc := 1 }, .ixg { mz with imm := 1 }] ∧
    nonePass [.mma mz, .mma { mz with imm := 0x1FF + 0x10200 }, .mmv { mz with imm := 0x18000 }, .mmg mz, .mmg { mz with imm := 0x18000 },
      .matt { mz with imm := 0x4000000 }, .matt { mz with imm := 0x3FF }, .mpbld { mz with imm := 0x40 }, .aclr mz, .aclr { mz with imm := 0x5FF },
      .adrain mz, .adrain { mz with imm := 0x1F80400 }, .bset { mz with imm := 0x33 }, .bset { mz with imm := 0x87 }, .bset { mz with imm := 0x3C },
      .bset { mz with imm := 0x303 }, .bset { mz with imm := 1 }, .bset { mz with imm := 0xD }, .bsamp { mz with imm := 0x41000 },
      .bsamp { mz with imm := 0x7F }, .bread { mz with imm := 0x7F }, .pred mz, .pchk mz, .pstat { mz with sb := 1 }, .accept mz,
      .accept { mz with imm := 65 }, .fragset { mz with imm := 0x40 }] ∧
    allPass [.ldt { mz with imm := 8192 }, .ldt { mz with mode := 0x100, sc := 1, imm := 1 }, .mmg { mz with imm := 0x8000 },
      .bset { mz with imm := 0xC3 }, .accept { mz with imm := 64 }, .adrain { mz with imm := 0x5F80400 }] := by decide

/-- Stream, barrier and timeline words: registers past z63, a type of another form, HI with F32, BIP with N16, a guard; a reload of 0 or of
2^27, a phase beside a register, a counter past TLC. -/
theorem test_refuses_sync_words :
    nonePass [.sgen { v4 with vd := 64, ty := .f32 }, .sgen { v4 with ty := .i32 }, .sgen { v4 with ty := .f32, mods := 0x8000 },
      .sgen { v4 with ty := .n16, mods := 0x10000 }, .sgen { v4 with g := some ⟨0, false⟩, ty := .f32 }, .sand { v4 with va := 64 },
      .sand { v4 with vc := 1 }, .snot { v4 with vb := 1 }, .scnt { v4 with ty := .f32 }, .scnt { v4 with va := 64, ty := .n32 }, .s2b { v4 with ty := .f64 },
      .sregen { v4 with ty := .f32 }, .slen { v4 with mods := 1 }, .scls { v4 with mods := 0x100000 }, .sclsV v4,
      .binit c3, .binit { c3 with imm := 0x8000000 }, .arrive { c3 with sd := 1 }, .bwait { c3 with sb := 1, imm := 0x10 },
      .bwait { c3 with imm := 1 }, .twait { c3 with imm := 6 }, .tread { c3 with imm := 6 }, .tread { c3 with sa := 1 }, .join { c3 with sb := 1 },
      .spawn { c3 with sd := 1 }, .jdec { c3 with imm := 1 }] ∧
    allPass [.sgen { v4 with tok := some 0, ty := .f32 }, .s2b { v4 with mods := 0x8000 }, .sclsV { v4 with mods := 0x100000 },
      .binit { c3 with imm := 0x7FFFFFF }, .bwait { c3 with imm := 0x1F }, .twait { c3 with imm := 5 }] := by decide

/-- Malformed words: G without E, TOK without T, an unassigned opcode, TYPE or RND code, reserved bits of CB and PX, a token where the
format has none. -/
theorem test_refuses_malformed_words :
    [(0x000#10 ++ 0#1 ++ 1#4 ++ 0#81 : IWord), 0x080#10 ++ 0#6 ++ 0#1 ++ 1#3 ++ 0#42 ++ 3#2 ++ 0#32, 0x01C#10 ++ 0#86,
      0x100#10 ++ 0#54 ++ 0x3F#6 ++ 0#26, 0x100#10 ++ 0#54 ++ 1#6 ++ 6#3 ++ 0#23, 0x040#10 ++ 0#16 ++ 1#6 ++ 0#64, 0x1F3#10 ++ 0#85 ++ 1#1,
      0x020#10 ++ 0#6 ++ 1#1 ++ 0#79].all (fun w => (decode w).isNone) = true := by decide

/-- A word outside its kinds raises SECT, and the exceptions of R41 stand. -/
theorem test_section_kinds :
    decodeIn .x 0x000001040C00000000000000 = .error .sect ∧ decodeIn .c 0x400000040000000004000000 = .error .sect ∧
    decodeIn .x (0x3FF#10 ++ 0#86) = .error .illegal ∧ (opKinds 0x202 == [.l, .s] && opKinds 0x201 == [.s] && opKinds 0x341 == [.c, .l, .x, .s]
      && opKinds 0x340 == [.c] && opKinds 0x204 == [.l] && opKinds 0x281 == [.x]) = true := by decide

/-! ### One step on small states -/

/-- A context of core 0 that stands at its second word of a C section of two words. -/
def testCtx : Ctx :=
  { placeCtx with ctl := { pc := 8, phase := .inside,
                           sec := some { hdr := 0, h := { kind := .c, len := 2, depA := 0xFFFF, depB := 0xFFFF, depC := 0xFFFF,
                                                          trapm := false } } } }

/-- Segments of 64 KiB of address space 1, in order: the stack tier, die shared memory, one that may only be read, a poisoned one, one
that is absent in mode RESID, one with duplicates, and the next die's shared memory. -/
def testSpace : Space :=
  { asid := 1, entries := [(0, { w1 := 0x1000E, w3 := 0x80 }), (1, { w0 := 0x10000, w1 := 0x1000E, w2 := 0x2000000000000000, w3 := 0x80 }),
      (2, { w0 := 0x20000, w1 := 0x10002, w3 := 0x80 }), (3, { w0 := 0x30000, w1 := 0x1000E, w3 := 0x700000088 }),
      (4, { w0 := 0x40000, w1 := 0x1000E, w3 := 0x40 }), (5, { w0 := 0x50000, w1 := 0x1000E, w3 := 0x90 }),
      (6, { w0 := 0x60000, w1 := 0x1000E, w2 := 0x2100000000000000, w3 := 0x80 })] }

/-- Its core executes a control word, or its X queue a word, or an engine its macro. -/
def testState (x : Ctx) (u : Unit_) (q : Option QWord) : State :=
  { State.reset.setCtxAt 0 0 (some x) with spaces := [testSpace], cur := { core := 0, bank := 0, unit := u, word := q } }
def ctlState (x : Ctx) : State := testState x .ctl none

/-- The executing context after a step. -/
def ctxOf : Out → Option Ctx
  | .next s => s.ctx?
  | _ => none

/-- The values that stand in flight after a step. -/
def valsOf (o : Out) : Option (List FlightVal) := (ctxOf o).map fun x => x.flights.map (·.val)

def with2 (a b : Word) : State := ctlState ((testCtx.wr 1 a).wr 2 b)
abbrev o312 : C3 := ⟨none, none, 3, 1, 2, 0, 0⟩

/-- The worked values of R92, and wraps at bit 63. -/
theorem test_add_wraps : valsOf (exec (.add o312) (with2 (-1) 3)) = some [.scalar 3 2] := by decide

/-- The corners of R92 for DIV and REM (the table of R92), a zero divisor and the class of its trap. -/
theorem test_div_corner :
    valsOf (exec (.div o312) (with2 0x8000000000000000 (-1))) = some [.scalar 3 0x8000000000000000] ∧
    valsOf (exec (.rem o312) (with2 0x8000000000000000 (-1))) = some [.scalar 3 0] ∧
    valsOf (exec (.div o312) (with2 (-7) 2)) = some [.scalar 3 (-3)] ∧ valsOf (exec (.rem o312) (with2 (-7) 2)) = some [.scalar 3 (-1)] := by
  decide
theorem test_mulh_signs :
    valsOf (exec (.mulh o312) (with2 (-1) (-1))) = some [.scalar 3 0] ∧
    valsOf (exec (.mulhn o312) (with2 (-1) (-1))) = some [.scalar 3 (-2)] ∧ valsOf (exec (.mul o312) (with2 (-3) 5)) = some [.scalar 3 (-15)] ∧
    valsOf (exec (.sub o312) (with2 0 1)) = some [.scalar 3 (-1)] := by decide
theorem test_shift_amounts :
    valsOf (exec (.shl o312) (with2 3 65)) = some [.scalar 3 6] ∧
    valsOf (exec (.shra { o312 with sb := 0, imm := 0x7F }) (with2 (-2) 0)) = some [.scalar 3 (-1)] ∧
    valsOf (exec (.shrl o312) (with2 (-1) 63)) = some [.scalar 3 1] ∧
    valsOf (exec (.rol o312) (with2 0x8000000000000001 1)) = some [.scalar 3 3] := by decide
theorem test_counts :
    valsOf (exec (.clz o312) (with2 0 0)) = some [.scalar 3 64] ∧ valsOf (exec (.ctz o312) (with2 0x30 0)) = some [.scalar 3 4] ∧
    valsOf (exec (.ctz o312) (with2 0 0)) = some [.scalar 3 64] ∧ valsOf (exec (.popc o312) (with2 (-1) 0)) = some [.scalar 3 64] := by decide
theorem test_select_and_compare :
    valsOf (exec (.sel { o312 with sc := 0 }) (with2 7 9)) = some [.scalar 3 9] ∧ valsOf (exec (.sel { o312 with sc := 1 }) (with2 7 9)) = some [.scalar 3 7] ∧
    valsOf (exec (.cmp { o312 with imm := 0x4000000000000 }) (with2 1 (-1))) = some [.scalar 3 1] ∧
    valsOf (exec (.cmp { o312 with imm := 0x8000000000000 }) (with2 1 (-1))) = some [.scalar 3 0] ∧
    valsOf (exec (.min o312) (with2 1 (-1))) = some [.scalar 3 (-1)] ∧ valsOf (exec (.minn o312) (with2 1 (-1))) = some [.scalar 3 1] := by decide
/-- Bits [7:4] of 0xF5 with their sign, and 0xF5's low byte in bits [15:8] of −1 (R94). -/
theorem test_bit_fields :
    valsOf (exec (.extr { o312 with imm := 0x10C4 }) (with2 0xA5 0)) = some [.scalar 3 (-6)] ∧
    valsOf (exec (.ins { o312 with imm := 0x1C8 }) (with2 0xAF5 (-1))) = some [.scalar 3 0xFFFFFFFFFFFFF5FF] := by decide
theorem test_immediates :
    valsOf (exec (.lih ⟨none, 3, 1, 0x12345678⟩) (with2 0xAAAAAAAABBBBBBBB 0)) = some [.scalar 3 0x12345678BBBBBBBB] ∧
    valsOf (exec (.lea ⟨none, 3, 0, -12⟩) (with2 0 0)) = some [.scalar 3 (-4)] ∧
    valsOf (exec (.addi ⟨none, 0, 1, 1⟩) (with2 5 0)) = some [] := by decide
/-- A guard that fails only takes the clk; a branch leaves the section and its target opens 3 clk later (R16, R98, R99). -/
theorem test_guard_and_branch :
    (ctxOf (exec (.add { o312 with g := some ⟨1, false⟩ }) (with2 1 2))).map (fun x => (x.ctl.pc, x.cclk, x.flights)) = some (20, 1, []) ∧
    (ctxOf (exec (.bc ⟨none, 1, 80⟩) (with2 1 0))).map (fun x => (x.ctl.pc, x.ctl.phase, x.cclk)) = some (88, .header, 3) ∧
    (ctxOf (exec (.bc ⟨none, 1, 80⟩) (with2 0 0))).map (fun x => (x.ctl.pc, x.ctl.phase, x.cclk)) = some (20, .inside, 1) ∧
    (ctxOf (exec (.ret ⟨none, none, 0, 1, 0, 0, 0⟩) (with2 256 0))).map (fun x => (x.ctl.pc, x.ctl.phase)) = some (256, .header) ∧
    (ctxOf (exec (.call ⟨none, 5, 80⟩) (with2 0 0))).map (fun x => (x.ctl.pc, x.flights.map (·.val))) = some (88, [.scalar 5 32]) := by decide
/-- A scratchpad store joins the operations, a load from there reads it, and BINIT prepares the barrier that the manual prints. -/
theorem test_scalar_operations :
    (ctxOf (exec (.sst ⟨none, some 2, 0, 1, 2, 0, 0x8300000008⟩) (with2 0x100 0x1122))).map (fun x => (x.ops.map (fun p => (p.kind, p.loc, p.size)),
      x.tokCount 2)) = some ([(.store 0x1122, .spad 0x108, 8)], 1) ∧
    (ctxOf (exec (.binit ⟨none, none, 0, 1, 0, 0, 2⟩) (with2 0x47 0))).map (fun x => x.ops.map (fun p => (p.kind, p.loc)))
      = some [(.binit 0x00000000000200000000000000000020, .spad 0x40)] := by decide
theorem test_system_registers :
    valsOf (exec (.mfs ⟨none, none, 3, 0, 0, 0, 0x02A⟩) (with2 0 0)) = some [.scalar 3 0x3F800000] ∧
    (ctxOf (exec (.mtsRotsz ⟨none, none, 0, 1, 0, 0, 0x021⟩) (with2 64 0))).map (fun x => (x.sys.rotsz, x.sys.rrb)) = some (64, 0) ∧
    (ctxOf (exec (.mtsHandleLow ⟨none, none, 0, 1, 0, 0, 0x100⟩) (with2 0x0000000100200200 0))).map (fun x =>
      let h := x.handle 0; (h.bank, h.row, h.slots, h.rps)) = some (2, 0, 2, 1) ∧
    (ctxOf (exec (.nop ⟨none, none, 0, 0, 0, 0, 5⟩) (with2 0 0))).map (·.cclk) = some 6 := by decide
/-- The order at the bank that the manual follows for one barrier (R212). -/
theorem test_barrier_phase :
    let b0 := (State.reset.core 0).putBarrier 64 0x00000000000200000000000000000020
    let b4 := (((b0.credit 64 256).updBarrier 64 1 512).updBarrier 64 1 0)
    (barPhase (b4.barrier 64), barArrivals (b4.barrier 64), barBytes (b4.barrier 64)) = (0, 0, 256) ∧
    (b4.credit 64 256).barrier 64 = 0x00000000000200000000000000000021 := by decide +kernel
/-- The group that the manual follows: member 2 joins in phase 5, then member 1 arrives (R219 to R222). -/
theorem test_group_phase :
    let g : Group := { phase := 5, wdogus := 0, members := 0b011, arrived := 0b001, next := 0b111 }
    g.arrive 1 = { g with phase := 6, members := 0b111, arrived := 0 } := by decide

/-- A word of the X queue, and core 0 with these registers issuing it. -/
def testWord : QWord :=
  { w := 0, uid := 0, hdr := 0, idx := 0, kind := .x, trapm := false, cap := { desc := Vector.replicate 13 0, bfmt := Vector.replicate 32 0 } }
def vecState (l : List (Nat × Nat)) : State :=
  let s := testState testCtx (.queue .x) (some testWord)
  s.putCore { s.myCore with vregs := l.map fun p => (p.1, BitVec.ofNat 1024 p.2) }

/-- Element j of what a word writes, where it writes it. -/
def elemOut (o : Out) (b j : Nat) : Option Nat :=
  match (ctxOf o).map (·.flights) with
  | some [f] => match f.val with
    | .vec _ en w => if en.getLsbD (j * b / 8) then some (elemOf b w j) else none
    | _ => none
  | _ => none
/-- The bits of a predicate that a word writes, and their values. -/
def predOut (o : Out) : Option (BitVec 32 × BitVec 32) :=
  match (ctxOf o).map (·.flights) with
  | some [f] => match f.val with
    | .pred _ m w => some (m, w &&& m)
    | _ => none
  | _ => none
abbrev v312 : V4 := ⟨none, none, 3, 1, 2, 0, .f32, .rne, 0⟩

/-- 1.5 × 37.0 + 0.25 = 55.75, the product that the manual follows, and 2^24 + 1 rounded to even and up (R63, R122). -/
theorem test_float_words :
    elemOut (exec (.vfma { v312 with vc := 4 }) (vecState [(1, 0x42140000), (2, 0x3FC00000), (4, 0x3E800000)])) 32 0 = some 0x425F0000 ∧
    elemOut (exec (.vadd v312) (vecState [(1, 0x4B800000), (2, 0x3F800000)])) 32 0 = some 0x4B800000 ∧
    elemOut (exec (.vadd { v312 with rnd := .rup }) (vecState [(1, 0x4B800000), (2, 0x3F800000)])) 32 0 = some 0x4B800001 ∧
    elemOut (exec (.vmax v312) (vecState [(1, 0x80000000), (2, 0)])) 32 0 = some 0 ∧
    elemOut (exec (.vrcp v312) (vecState [(1, 0x40000000)])) 32 0 = some 0x3F000000 := by decide +kernel
theorem test_integer_words :
    elemOut (exec (.viadd { v312 with ty := .i8, mods := 1 }) (vecState [(1, 0x7F), (2, 1)])) 8 0 = some 0x7F ∧
    elemOut (exec (.viadd { v312 with ty := .i8 }) (vecState [(1, 0x7F), (2, 1)])) 8 0 = some 0x80 ∧
    elemOut (exec (.vimulh { v312 with ty := .i16 }) (vecState [(1, 0xFFFF), (2, 2)])) 16 0 = some 0xFFFF ∧
    elemOut (exec (.vishr { v312 with ty := .i32, vb := 0, mods := 0x7E }) (vecState [(1, 0x80000000)])) 32 0 = some 0xFFFFFFFF := by decide +kernel
/-- The AND with 0x007F of the manual's jump vector, a byte past the first register, and a guard that holds on lane 0 only. -/
theorem test_bit_and_permute_words :
    elemOut (exec (.vlop3 { v312 with vc := 63, ty := .f64, mods := 0x600000 }) (vecState [(1, 0x00FF), (2, 0x007F)])) 32 0 = some 0x7F ∧
    elemOut (exec (.vpermb { v312 with vc := 4, ty := .f64 }) (vecState [(1, 0x11), (2, 0x22), (4, 0x80)])) 8 0 = some 0x22 ∧
    elemOut (exec (.vlop3 { v312 with g := some ⟨1, false⟩, ty := .f64 }) (vecState [(1, 1)])) 32 0 = none ∧
    (ctxOf (exec (.vcmp { v312 with vd := 5, mods := 0x200000 }) (vecState [(1, 0x3F800000), (2, 0x40000000)]))).isSome = true ∧
    predOut (exec (.vicmp { v312 with vd := 5, ty := .i32, mods := 0x100000 }) (vecState [(1, 0xFFFFFFFF), (2, 0)])) = some (0xFFFFFFFF, 1) := by
  decide +kernel
theorem test_conversions :
    elemOut (exec (.vunpk { v312 with vb := 0, ty := .n16, mods := 0x360000 }) (vecState [(1, 0x0AFF)])) 16 0 = some 0x00FF ∧
    elemOut (exec (.vunpk { v312 with vb := 0, ty := .n16, mods := 0x360000 }) (vecState [(1, 0x0AFF)])) 16 1 = some 0x000A ∧
    elemOut (exec (.vcvt { v312 with vb := 0, ty := .bf16, mods := 0x020000 }) (vecState [(1, 0x3F000000)])) 16 0 = some 0x3F00 := by decide +kernel
/-- 500.0 into E4M3, the DB4 block and the grouped weight that the manual works out (R52, R56, R62). -/
theorem test_formats :
    encodeF e4m3F .rne false 0 (.fin false 500 0) = 0x7F ∧ encodeF e4m3F .rne true 0 (.fin false 500 0) = 0x7E ∧
    (let r := encodeDB .db4 .rne false 1 ([.fin false 3 0, .fin false 1 (-2), .fin true 1 0] ++ List.replicate 29 (.fin false 0 0))
     (ofElems 4 r.1, r.2.1) = (0x0D1B, 0x817F)) ∧
    encodeF bf16F .rne false 0 (groupWeight false 3 8 0x3E00) = 0xBF20 := by decide +kernel
/-- A tile step rounds its sum once (R65); a score's exact sum keeps what three additions lose (R146). -/
theorem test_exact_sums :
    encodeF f32F .rne false 0 (accAdd (.fin false 1 0) (FVal.sum [.fin false 1 (-24), .fin false 1 (-24)])) = 0x3F800001 ∧
    roundExact .rne 0 (addTerms 0 [termOf (.fin false 1 53), termOf (.fin false 1 0), termOf (.fin true 1 53)]) = 0x3FF0000000000000 := by
  decide +kernel
/-- The path, the bonus and the policy of the tree that the manual works out (R198, R199). -/
theorem test_accept_path :
    let t := ofElems 8 [0xFF, 0, 0, 1, 1] + 2 ^ 512 * ofElems 32 [500, 17, 23, 9, 41] + 2 ^ 2560 * ofElems 32 [17, 41, 5, 2, 88]
      + 2 ^ 4608 * ofElems 8 [0, 1, 1, 2, 2]
    treeOk t 5 = true ∧ acceptPath t 5 64 0 = [1, 4] ∧ treeTarget t 4 = 88 ∧ treePolicy t 2 = 1 := by decide +kernel
/-- Atomics on 32 bits: signed and unsigned minimum, and a compare that fails (R110). -/
theorem test_atomic_values :
    amoValue 4 32 0xFFFFFFFF 1 0 = 0xFFFFFFFF ∧ amoValue 6 32 0xFFFFFFFF 1 0 = 1 ∧ amoValue 0 32 0xFFFFFFFF 1 0 = 0 ∧
    amoValue 9 32 5 7 6 = 5 ∧ amoValue 9 32 5 7 5 = 7 := by decide
/-- The generators at a thread's start, and one step of the rounding generator (R64). -/
theorem test_generators :
    ({} : RndGens).load = 1 ^^^ 0x55555555 ∧ ({} : RndGens).store = 1 ^^^ 0xAAAAAAAA ∧ ({} : RndGens).brim = 1 ^^^ 0xFFFFFFFF ∧
    srNext 1 = 0x80200003 ∧ srNext 2 = 1 := by decide

/-- A macro at its engine, and the context after its progress unit. -/
def runOf (a b c : Word) : Run :=
  { q := { testWord with cap := { testWord.cap with sa := a, sb := b, sc := c, seed := 0 } }, ctr := .tlm, fault := none }
def macState (e : Eng) (r : Run) : State := testState { testCtx with eng := (testCtx.eng.set e [r]) } (.eng e) (some r.q)
def runAfter (e : Eng) (o : Out) : Option Run := (ctxOf o).bind fun x => ((x.eng.get e)).head?

/-- ACLR clears a row and goes on; FRAGSET ends with its index; a NODEID outside the module's map faults with REMOTE (R186, R199, R326). -/
theorem test_macro_units :
    (runAfter .matrix (exec (.aclr { mz with imm := 0x400 }) (macState .matrix (runOf 0 0 0)))).map (fun r => (r.done, r.fin)) = some (1, false) ∧
    (runAfter .pred (exec (.fragset { mz with imm := 5 }) (macState .pred (runOf 0 0 0)))).map (fun r => (r.aux, r.fin)) = some ([5], true) ∧
    (runAfter .store (exec (.put { mz with imm := 1 }) (macState .store (runOf (-1) 0 0)))).map (fun r => r.fault.map (fun f => (f.code, f.cls, f.detail)))
      = some (some (.remote, .a, 1)) := by decide +kernel
/-- The program of the manual's decode path: LSE, GUMBEL, ARGMAX, TOPK, NOWRITE (R187). -/
theorem test_brim_program :
    (ctxOf (exec (.bset { mz with imm := 0xCBA98 }) (macState .matrix (runOf 0 0 0)))).map (·.brim.prog) = some [8, 9, 10, 11, 12] := by
  decide +kernel
/-- Streams of different lengths fault, and the complement of an empty stream is full (R206). -/
theorem test_stream_units :
    (ctxOf (exec (.snot { v4 with vd := 1, va := 2 }) (macState .pred (runOf 0 0 0)))).map (fun x => (x.stream 1).bits.getLsbD 63) = some true ∧
    (runAfter .pred (exec (.sor { v4 with vd := 1, va := 2, vb := 3 })
      (testState (({ testCtx with eng := testCtx.eng.set .pred [(runOf 0 0 0)] } : Ctx).setStream 3 { bits := 0, acm := 0, lc := 1 })
        (.eng .pred) (some testWord)))).map
      (fun r => r.fault.map (fun f => (f.code, f.detail))) = some (some (.illegal, 8)) := by decide +kernel
/-- The miss of the manual: set 6, way 0, so slot 24, and a branch to the target (R118). -/
theorem test_probe_miss :
    (ctxOf (exec (.probe { o312 with imm := 80 }) (with2 0x41A30 (BitVec.ofNat 64 (5 * 2 ^ 28 + 200 * 2 ^ 13 + 100))))).map
      (fun x => (x.rd 3, x.ctl.pc, x.ctl.phase)) = some (24, 88, .header) := by decide +kernel

/-- After `withFetchWord` the next step runs the word: of a C section, of an X queue, and of a macro. -/
theorem test_step_add : (ctxOf (step (State.reset.withFetchWord 96 0x000001040C00000000000000))).map (fun x => (x.ctl.pc, x.flights.map (·.val)))
    = some (20, [.scalar 4 0]) := by decide +kernel
theorem test_step_vadd :
    (ctxOf (step (State.reset.withFetchWord 96 0x400000040000000004000000))).map (fun x => (x.qx.items.length, x.flights.length)) = some (0, 1) := by
  decide +kernel
theorem test_step_aclr : (ctxOf (step (State.reset.withFetchWord 96 0xA14000000000000000000200))).map (fun x => (x.eng.matrix).map (·.ctr))
    = some [.tlm] := by decide +kernel

/-- What bring-up finds where the PUF cannot be read. -/
def noPuf : BringUp :=
  { puf := none, railOk := true, pllOk := true, badCores := [], sramErrs := [], badBanks := [], linksOk := true, badPcs := [], badPorts := [] }

/-- A scrub visit counts, a PLIM of 1,199 watts is refused, and a PUF that cannot be read ends bring-up in FAILED with code 2 (R341, R353,
R360). -/
theorem test_events :
    (match exec (.scrubVisit true) State.reset with | .next s => s.firm.errs[0] | _ => 9) = 1 ∧
    (match exec (.setPlim 1199) { State.reset with firm := { State.reset.firm with rails := [0] } } with
      | .next s => s.firm.sideband | _ => []) = [4] ∧
    (match exec (.powerOn noPuf) { State.reset with firm := { State.reset.firm with st := .bringup 2 } } with
      | .next s => s.firm.st | _ => .reset) = .failed 2 := by decide +kernel
/-- The encoder writes the words that the manual prints. -/
theorem test_encode :
    encode (.vpermb ⟨none, none, 10, 0, 63, 20, .f64, .rne, 0⟩) = some 0x6C0000140001F81400000000 ∧
    encode (.ldt ⟨none, 1, 0, 3, 0, 0, 0, true, false, true, 0x00F, 0⟩) = some 0x800000801800140F00000000 ∧
    encode (.bc ⟨none, 5, -44⟩) = some 0x10400140FFFFFFFFFFFFFFD4 ∧ encode (.rep ⟨4, 1, 1, 0, 1⟩) = some 0x7CC000004041001000000000 := by decide

/-! ### Witnesses: states and operands that meet the hypotheses of the statements, clause by clause -/

theorem test_ctx (x : Ctx) (u : Unit_) (q : Option QWord) : (testState x u q).ctx? = some x := ctxAt_setCtxAt _ 0 0 _

/-- A context with nothing due sees itself. -/
theorem landed_late (x : Ctx) (k : Core) (h : ∀ f ∈ x.flights, x.cclk < f.land) : x.landed k = x := by
  have h1 : x.flights.filter (fun f => f.unit == FixUnit.ctl && decide (f.land < x.clk .ctl + 1)) = [] := by
    rw [List.filter_eq_nil_iff]; intro f hf
    have := h f hf
    simp only [Ctx.clk]; simp; omega
  have h2 : x.flights.filter (fun f => !(f.unit == FixUnit.ctl && decide (f.land < x.clk .ctl + 1))) = x.flights := by
    rw [List.filter_eq_self]; intro f hf
    have := h f hf
    simp only [Ctx.clk]; simp; omega
  unfold Ctx.landed landDue landBefore
  dsimp only
  rw [h1, h2]
  rfl

theorem runs_view {s : State} {x : Ctx} (hs : s.ctx? = some x) (h : x.flights.all (fun f => decide (x.cclk < f.land)) = true) : CtlView s x := by
  unfold CtlView
  rw [hs, Option.map_some, landed_late]
  simpa using h
theorem runs_of {s : State} {x : Ctx} (hs : s.ctx? = some x) (g : Guard) (reads : List SReg)
    (h : x.flights.all (fun f => decide (x.cclk < f.land)) = true) (hg : x.guardOk g = true) (hp : x.pendr = false) : CtlRuns s g reads x :=
  ⟨runs_view hs h, hg, by simp [hp]⟩
theorem ctl_view (x : Ctx) (h : x.flights.all (fun f => decide (x.cclk < f.land)) = true) : CtlView (ctlState x) x :=
  runs_view (test_ctx _ _ _) h
theorem ctl_runs (x : Ctx) (g : Guard) (reads : List SReg) (h : x.flights.all (fun f => decide (x.cclk < f.land)) = true)
    (hg : x.guardOk g = true) (hp : x.pendr = false) : CtlRuns (ctlState x) g reads x := runs_of (test_ctx _ _ _) g reads h hg hp

/-- The context of the tests with these values in s1 and s2. -/
def ctx2 (a b : Word) : Ctx := (testCtx.wr 1 a).wr 2 b
theorem wr_rest (x : Ctx) (r : SReg) (v : Word) :
    (x.wr r v).flights = x.flights ∧ (x.wr r v).cclk = x.cclk ∧ (x.wr r v).sys = x.sys ∧ (x.wr r v).regs.p = x.regs.p := by
  unfold Ctx.wr; split <;> exact ⟨rfl, rfl, rfl, rfl⟩
theorem ctx2_runs (a b : Word) (reads : List SReg) : CtlRuns (ctlState (ctx2 a b)) none reads (ctx2 a b) := by
  refine ctl_runs _ _ _ ?_ ?_ ?_
  · rw [ctx2, (wr_rest _ _ _).1, (wr_rest _ _ _).1]; rfl
  · rfl
  · unfold Ctx.pendr; rw [ctx2, (wr_rest _ _ _).2.2.1, (wr_rest _ _ _).2.2.1]; decide

abbrev oMax : C3 := ⟨some ⟨15, true⟩, none, 63, 63, 63, 0, 0⟩

theorem witness_DecodeOfEncode : Instr.fieldsOk (.add oMax) = true ∧ encode (.add oMax) = some 0x003F0FFFFC00000000000000 ∧
    Instr.fieldsOk (.ldt ⟨some 7, 31, 63, 63, 63, 0, 0, false, false, true, 0x1FF, 0⟩) = true ∧
    encode (.ldt ⟨some 7, 31, 63, 63, 63, 0, 0, false, false, true, 0x1FF, 0⟩) = some 0x8000FFFFFFE005FF00000000 := by decide
theorem witness_EncodeOfDecode : decode 0x003F0FFFFC00000000000000 = some (.add oMax) := by decide

theorem witness_StepRunsControlWord :
    let s := State.reset.withFetchWord 96 0x000001040C00000000000000
    let x := (s.ctxAt 0 0).getD placeCtx
    s.turn = .control 0 0 ∧ (s.core 0).active = some 0 ∧ (s.ctxAt 0 0).isSome = true ∧ x.fatal.isNone = true ∧ x.midClk = false ∧ x.parking = false ∧
    (s.switchTarget 0).isNone = true ∧ x.boundary.isNone = true ∧
    x.ending = false ∧ x.ctl.phase = .inside ∧ x.ctl.sec.map (fun k => (k.idx, k.h.len)) = some (0, 1) ∧
    ((turnState s 0 0 .ctl).fetch 0 x.id.asid x.begun x.ctl.pc 12).toOption.map (·.1) = some 0x000001040C00000000000000 ∧
    x.ctl.sec.map (fun k => (checkWord x k 0x000001040C00000000000000 none).toOption) = some (some (.add ⟨none, none, 4, 4, 3, 0, 0⟩)) := by
  decide +kernel

/-- The head of an X queue, and the second repetition of a REP. -/
theorem witness_StepRunsQueueWord :
    let s := State.reset.withFetchWord 96 0x400000040000000004000000
    let x := (s.ctxAt 0 0).getD placeCtx
    s.turn = .queue 0 0 .x ∧ (s.core 0).owners[0] = some 0 ∧ ((turnState s 0 0 (.queue .x)).landAt 0 0 .vec).ctx?.isSome = true ∧
    x.midClk = false ∧ x.parkStop = false ∧ x.fatal.isNone = true ∧ (s.core 0).engineMust 0 x true (Ctx.vecReady (s.core 0)) = false ∧
    x.queueStopped .x = false ∧ x.pendQ.isNone = true ∧ x.qx.cur = {} ∧ (x.qx.head x.trapMode).isSome = true ∧ x.secs.isEmpty = true ∧
    decode 0x400000040000000004000000 = some (.vadd ⟨none, none, 2, 0, 0, 0, .f32, .rne, 0⟩) ∧
    repTarget 0x400000040000000004000000 = true ∧
    decode (strideWord 0x400000040000000004000000 ⟨4, 1, 1, 0, 0⟩ 3) = some (.vadd ⟨none, none, 5, 3, 0, 0, .f32, .rne, 0⟩) ∧
    inAllot x (.vadd ⟨none, none, 2, 0, 0, 0, .f32, .rne, 0⟩) ⟨4, 1, 1, 0, 0⟩ 3 = true := by decide +kernel

theorem witness_StepRunsEngineAndEvent :
    let r : Run := { runOf 0 0 0 with q := { testWord with w := 0xA14000000000000000000200 } }
    let s : State := { macState .matrix r with turn := .engine 0 0 .matrix }
    let s := s.setCore 0 { s.core 0 with owners := Vector.replicate 6 (some 0) }
    s.turn = .engine 0 0 .matrix ∧ (s.core 0).owners[1 + (Eng.num .matrix).val] = some 0 ∧
    (s.ctxAt 0 0).map (fun x => (x.parkStop, (s.core 0).engineMust 0 x false (fun y => s.engReady 0 y .matrix))) = some (false, false) ∧
    (s.ctxAt 0 0).map (fun x => (x.eng.get .matrix)) = some [r] ∧ r.fin = false ∧ r.fault.isNone = true ∧ r.held = false ∧
    (decode r.q.w).isSome = true ∧ isOwnEvent (.scrubVisit true) = true ∧ isOwnEvent .ageingTick = true ∧
    State.reset.wireHere (List.replicate 256 0) = true ∧ wireInstr (List.replicate 256 0) [] = some (.rxbad 0 0) := by decide +kernel

theorem witness_StepKeepsMemoryForm :
    (∀ d : DieId, Machine.Memory.wf (State.reset.withFetchWord 96 0x000001040C00000000000000).views[d] = true) ∧
    (∀ c : CoreId, Sparse.wf ((State.reset.withFetchWord 96 0x000001040C00000000000000).cores[c]).spad = true ∧
      Sparse.wf ((State.reset.withFetchWord 96 0x000001040C00000000000000).cores[c]).acc = true ∧
      Sparse.wf ((State.reset.withFetchWord 96 0x000001040C00000000000000).cores[c]).vregs = true) ∧
    (ctxOf (step (State.reset.withFetchWord 96 0x000001040C00000000000000))).isSome = true := by decide +kernel

abbrev oShift : C3 := { o312 with sb := 0, imm := 0x7F }

theorem witness_AddMultiplyAndLogicWords : CtlRuns (ctlState (ctx2 (-1) 3)) none [1, 2, 0] (ctx2 (-1) 3) ∧
    [Instr.add o312, .sub o312, .mul o312, .mulh o312, .mulhn o312, .and o312, .or o312, .xor o312, .andn o312].all Instr.fieldsOk = true ∧
    (ctx2 (-1) 3).room .ctl = true ∧ ({ o312 with sd := 0 } : C3).sd = 0 := ⟨ctx2_runs _ _ _, by decide, by decide +kernel, rfl⟩
/-- Amounts from the register and from the immediate, 63 among them. -/
theorem witness_ShiftWords : CtlRuns (ctlState (ctx2 3 63)) none [1, 2, 0] (ctx2 3 63) ∧ CtlRuns (ctlState (ctx2 3 63)) none [1, 0, 0] (ctx2 3 63) ∧
    [Instr.shl o312, .shra o312, .shrl o312, .rol o312, .shl oShift, .shra oShift, .shrl oShift, .rol oShift].all Instr.fieldsOk = true ∧
    (ctx2 3 63).room .ctl = true := ⟨ctx2_runs _ _ _, ctx2_runs _ _ _, by decide, by decide +kernel⟩
theorem witness_CountSelectCompareAndFieldWords : CtlRuns (ctlState (ctx2 0 (-1))) none [1, 2, 0] (ctx2 0 (-1)) ∧
    [Instr.clz { o312 with sb := 0 }, .ctz { o312 with sb := 0 }, .popc { o312 with sb := 0 }, .min o312, .max o312, .minn o312, .maxn o312,
      .sel { o312 with sc := 2 }, .cmp o312, .cmp { o312 with imm := 0x9000000000000 }, .extr { o312 with sb := 0, imm := 0x1FC0 },
      .extr { o312 with sb := 0, imm := 0x3F }, .ins { o312 with imm := 0xFC0 }].all Instr.fieldsOk = true ∧ (ctx2 0 (-1)).room .ctl = true :=
  ⟨ctx2_runs _ _ _, by decide, by decide +kernel⟩
/-- A divisor that is not zero, at the corner of R92, and one that is. -/
theorem witness_DivideWords :
    (CtlRuns (ctlState (ctx2 0x8000000000000000 (-1))) none [1, 2] (ctx2 0x8000000000000000 (-1)) ∧
      (ctx2 0x8000000000000000 (-1)).rd 2 ≠ 0 ∧ (ctx2 0x8000000000000000 (-1)).room .ctl = true) ∧
    CtlRuns (ctlState (ctx2 7 0)) none [1, 2] (ctx2 7 0) ∧ (ctx2 7 0).rd 2 = 0 :=
  ⟨⟨ctx2_runs _ _ _, by decide +kernel, by decide +kernel⟩, ctx2_runs _ _ _, by decide +kernel⟩
theorem witness_ImmediateWords : CtlRuns (ctlState (ctx2 (-1) 0)) none [1] (ctx2 (-1) 0) ∧ (ctx2 (-1) 0).room .ctl = true :=
  ⟨ctx2_runs _ _ _, by decide +kernel⟩

/-- A guard that fails; twelve results in flight; a source in flight under PENDR. -/
def fullCtx : Ctx := { ctx2 1 2 with flights := List.replicate 12 { unit := .ctl, land := 30, val := .scalar 9 0 } }
def pendCtx : Ctx := { testCtx with sys := { testCtx.sys with dbgctl := 2 }, flights := [{ unit := .ctl, land := 30, val := .scalar 1 0 }] }
theorem witness_ControlWordsThatDoNotExecute :
    (CtlView (ctlState testCtx) testCtx ∧ testCtx.pendr = false ∧ testCtx.guardOk (some ⟨1, false⟩) = false) ∧
    ((∀ reads, CtlRuns (ctlState fullCtx) none reads fullCtx) ∧ fullCtx.room .ctl = false ∧ fullCtx.rd 2 ≠ 0 ∧
      (sysAccess (C3.sysNum { o312 with imm := 0x02A })).any (·.ur) = true) ∧
    (CtlView (ctlState pendCtx) pendCtx ∧ pendCtx.pendr = true ∧ pendCtx.guardPending none = false ∧ pendCtx.guardOk none = true ∧
      pendCtx.scalarPending 1 = true) :=
  ⟨⟨ctl_view _ rfl, by decide +kernel, by decide +kernel⟩, ⟨fun _ => ctl_runs _ _ _ (by decide +kernel) rfl (by decide +kernel), by decide +kernel⟩,
    ctl_view _ (by decide +kernel), by decide +kernel⟩

/-- A result in its landing clock and in the clock before it. -/
theorem witness_FixedLatencyLanding :
    let x : Ctx := { testCtx with cclk := 5, flights := [{ unit := .ctl, land := 9, val := .scalar 4 1 }] ++ [{ unit := .ctl, land := 2 + 3, val := .scalar 3 7 }] }
    (∀ f ∈ [({ unit := .ctl, land := 9, val := .scalar 4 1 } : Flight)], ∀ w, f.val ≠ .scalar 3 w) ∧ (2 + 3 ≤ x.cclk) ∧ ¬ (3 + 3 ≤ x.cclk) ∧
    ((x.landed (State.reset.core 0)).rd 3 = 7 ∧ x.rd 3 = 0) := ⟨by simp, by decide, by decide, by decide +kernel⟩

/-- A frame table and a jump table in memory: FTABB at 0x800, a table with bound 2 at 0x400. -/
def flowState (x : Ctx) : State :=
  { ctlState x with views := Vector.replicate 4 [(0x400, 2), (0x411, 1), (0x801, 2)] }
def flowCtx : Ctx := { ctx2 1 2 with sys := { testCtx.sys with ftabb := 0x800 } }
theorem flow_runs (reads : List SReg) : CtlRuns (flowState flowCtx) none reads flowCtx :=
  runs_of (test_ctx flowCtx _ _) _ _ (by decide +kernel) rfl (by decide +kernel)
/-- Targets 88 and 92; BC on 1 and on 0; the register of JTAB below its bound 2 and at it; entry 0x100 of the tables. -/
theorem witness_BranchAndTableWords :
    (∀ reads, CtlRuns (flowState flowCtx) none reads flowCtx) ∧ flowCtx.ops = [] ∧ (flowCtx.ctl.pc + 80).toNat % 8 = 0 ∧ (flowCtx.ctl.pc + 84).toNat % 8 ≠ 0 ∧
    flowCtx.rd 1 ≠ 0 ∧ flowCtx.rd 5 = 0 ∧ (flowCtx.rd 2).toNat % 8 ≠ 0 ∧ (flowCtx.rd 5).toNat % 8 = 0 ∧ flowCtx.ctl.sec.isSome = true ∧
    flowCtx.room .ctl = true ∧ (flowState flowCtx).xlatTable flowCtx 0x400 = .ok (.mem 0x400) 0 ∧
    natOfBytes ((flowState flowCtx).readView 0 0x400 8) = 2 ∧ (flowCtx.rd 1).toNat < 2 ∧ 2 ≤ (flowCtx.rd 2).toNat ∧
    ((flowState flowCtx).noteUse 1 0 (.mem 0x400)).xlatTable flowCtx 0x410 = .ok (.mem 0x410) 0 ∧ natOfBytes ((flowState flowCtx).readView 0 0x410 8) = 0x100 ∧
    (flowState flowCtx).xlat flowCtx 0x800 .fetch = .ok (.mem 0x800) 0 ∧ natOfBytes ((flowState flowCtx).readView 0 0x800 8) = 0x200 :=
  ⟨flow_runs, by decide +kernel⟩

/-- A quiet context; one with an operation on its way; a held fault; another context that may run, and none. -/
def faultCtx (code : CauseCode) : Ctx :=
  { testCtx with eng := testCtx.eng.set .load [{ runOf 0 0 0 with ctr := .tla, fault := some { code := code, cls := .a } }] }
theorem witness_DoneAndYield :
    (CtlRuns (ctlState testCtx) none [] testCtx ∧ (testCtx.faultOn fun _ => true).isNone = true ∧ testCtx.trapMode = false ∧ testCtx.quiet = true ∧
      (ctlState testCtx).drained (0, 0) = true) ∧
    (let x : Ctx := { testCtx with ops := [{ kind := .store 0 }] }
     CtlRuns (ctlState x) none [] x ∧ (x.faultOn fun _ => true).isNone = true ∧ x.quiet = false) ∧
    (CtlRuns (ctlState (faultCtx .segv)) none [] (faultCtx .segv) ∧ ((faultCtx .segv).faultOn fun _ => true).map (fun r => r.fault.isSome) = some true) ∧
    (let x : Ctx := { testCtx with trapMode := true }
     CtlRuns (ctlState x) none [] x ∧ x.trapMode = true) ∧
    ((ctlState testCtx).myCore.best fun b y => decide (b ≠ 0) && (ctlState testCtx).ready 0 y && decide (0 ≤ y.id.pri)) = none ∧
    (let s := (ctlState testCtx).setCtxAt 0 1 (some { testCtx with id := { testCtx.id with bank := 1 } })
     (s.ctx?.map (fun x => x.cclk)) = some 0 ∧ (s.myCore.best fun b y => decide (b ≠ 0) && s.ready 0 y && decide (0 ≤ y.id.pri)) = some 1) :=
  ⟨⟨ctl_runs _ _ _ rfl rfl (by decide +kernel), by decide +kernel⟩, ⟨ctl_runs _ _ _ rfl rfl (by decide +kernel), by decide +kernel⟩,
    ⟨ctl_runs _ _ _ rfl rfl (by decide +kernel), by decide +kernel⟩, ⟨ctl_runs _ _ _ rfl rfl (by decide +kernel), rfl⟩, by decide +kernel, by decide +kernel⟩

theorem onlyScalars_nil {x : Ctx} (h : x.flights = []) : x.onlyScalars := fun f hf => by rw [h] at hf; exact absurd hf List.not_mem_nil
theorem ctx2_flights (a b : Word) : (ctx2 a b).flights = [] := by rw [ctx2, (wr_rest _ _ _).1, (wr_rest _ _ _).1]; rfl

abbrev oLoad : C3 := ⟨none, none, 3, 1, 2, 0, 0x300000000⟩
/-- A load from memory and from the scratchpad, with and without a token, and one that an earlier store holds. -/
theorem witness_LoadWord :
    (CtlRuns (ctlState (ctx2 0x107 0)) none [1] (ctx2 0x107 0) ∧ (ctx2 0x107 0).onlyScalars) ∧
    ((ctx2 0x107 0).watched oLoad = false ∧ (ctx2 0x107 0).tokFull none = false ∧ (ctx2 0x107 0).tokFull (some 7) = false ∧ oLoad.sp = false ∧
      scalarAddr (ctx2 0x107 0) oLoad = 0x100 ∧ (ctlState (ctx2 0x107 0)).xlat (ctx2 0x107 0) 0x100 .read = .ok (.mem 0x100) 0 ∧
      (ctx2 0x107 0).mustWait (.mem 0x100) 8 = false) ∧
    (let o := { oLoad with imm := 0x8300000000 }
     o.sp = true ∧ (ctx2 0x107 0).spadAddr (scalarAddr (ctx2 0x107 0) o) = some 0x100 ∧ (ctlState (ctx2 0x107 0)).myCore.spadBad = []) ∧
    (({ ctx2 0x107 0 with ops := [{ kind := .store 0, loc := .mem 0x104, size := 4 }] } : Ctx).mustWait (.mem 0x100) 8 = true) :=
  ⟨⟨ctx2_runs _ _ _, onlyScalars_nil (ctx2_flights _ _)⟩, by decide +kernel, by decide +kernel, by decide +kernel⟩
/-- A macro of token 7 at the load engine that holds a fault, or has none. -/
def tokRun (f : Option Cause) : Run := { runOf 0 0 0 with q := { (runOf 0 0 0).q with w := 0x8000F0000000000000000001 }, ctr := .tla, fault := f }
def tokCtx (f : Option Cause) : Ctx := { (testCtx.tokAdd (some 7)) with eng := testCtx.eng.set .load [(tokRun f)] }
theorem witness_StoreAndAwaitWords :
    (let f : Cause := { code := .segv, cls := .a }
     let uses := fun (x : Ctx) (e : Eng) => x.macros.any fun q => q.w.getLsbD 79 && q.w.extractLsb' 76 3 == 7 && q.eng == e
     CtlRuns (ctlState (tokCtx (some f))) none [] (tokCtx (some f)) ∧ (tokCtx none).tokCount 7 = 1 ∧
     ((tokCtx none).faultOn (uses (tokCtx none))).isNone = true ∧
     ((tokCtx (some f)).faultOn (uses (tokCtx (some f)))).map (·.fault) = some (some f) ∧
     ({ tokCtx (some f) with trapMode := true } : Ctx).tokCount 7 - ((tokCtx (some f)).runs.filter (·.fault.isSome)).length = 0) ∧
    (CtlRuns (ctlState (ctx2 0x10 7)) none [1, 2] (ctx2 0x10 7) ∧ CtlRuns (ctlState (ctx2 0x10 7)) none [] (ctx2 0x10 7)) ∧
    ((ctx2 0x10 7).watched oLoad = false ∧ (ctlState (ctx2 0x10 7)).xlat (ctx2 0x10 7) 0x10 .write = .ok (.mem 0x10) 0 ∧ (ctx2 0x10 7).trapMode = false ∧
      (ctx2 0x10 7).tokCount 0 = 0 ∧ ((ctx2 0x10 7).tokAdd (some 7)).tokCount 7 ≠ 0 ∧ (0x80 : BitVec 52).getLsbD 7 = true ∧
      ((ctx2 0x10 7).faultOn fun _ => true).isNone = true) :=
  ⟨⟨ctl_runs _ _ _ rfl rfl (by decide +kernel), by decide +kernel⟩, ⟨ctx2_runs _ _ _, ctx2_runs _ _ _⟩, by decide +kernel⟩
def watchCtx : Ctx := { ctx2 0x100 0 with sys := { testCtx.sys with dbgctl := 8, watcha := 0x100 } }
def narrowCtx : Ctx := { ctx2 0x100 0 with id := { testCtx.id with snb := 1 } }
theorem witness_ScalarAccessTraps :
    (CtlRuns (ctlState watchCtx) none [1, 2] watchCtx ∧ watchCtx.watched oLoad = true) ∧
    (∀ a, CtlRuns (ctlState (ctx2 a 0)) none [1, 2] (ctx2 a 0)) ∧
    ((ctlState (ctx2 0x90000 0)).xlat (ctx2 0x90000 0) 0x90000 .read = .segv ∧ (ctlState (ctx2 0x20000 0)).xlat (ctx2 0x20000 0) 0x20000 .write = .perm ∧
      (ctlState (ctx2 0x30000 0)).xlat (ctx2 0x30000 0) 0x30000 .read = .poison 7 ∧ (ctlState (ctx2 0x40000 0)).xlat (ctx2 0x40000 0) 0x40000 .read = .resid ∧
      (ctlState (ctx2 0x50000 0)).xlat (ctx2 0x50000 0) 0x50000 .write = .dup 5 ∧ (ctx2 0x90000 0).watched oLoad = false) ∧
    (CtlRuns (ctlState narrowCtx) none [1, 2] narrowCtx ∧ narrowCtx.spadAddr 0x10000 = none ∧ narrowCtx.spadAddr 0xFFF8 = some 0xFFF8) :=
  ⟨⟨ctl_runs _ _ _ (by decide +kernel) rfl (by decide +kernel), by decide +kernel⟩, fun _ => ctx2_runs _ _ _, by decide +kernel,
    ctl_runs _ _ _ (by decide +kernel) rfl (by decide +kernel), by decide +kernel, by decide +kernel⟩
/-- An atomic at the stack tier, at this die's shared memory and at another's. -/
theorem witness_AtomicWords :
    (∀ a, CtlRuns (ctlState (ctx2 a 5)) none [1, 2, 0] (ctx2 a 5) ∧ (ctx2 a 5).onlyScalars) ∧
    ((ctx2 0x10004 5).wen = false ∧ (ctx2 0x10004 5).ops = [] ∧ (ctlState (ctx2 0x10004 5)).xlat (ctx2 0x10004 5) 0x10004 .write = .ok (.mem (dsmBase + 4)) 1 ∧
      homeDie (dsmBase + 4) = 0 ∧ (ctlState (ctx2 0x10004 5)).myDie = 0 ∧
      (((ctlState (ctx2 0x10004 5)).noteUse 1 1 (.mem (dsmBase + 4))).bankOp 0 (dsmBase + 4) 4 (some (0, 0))
        (fun old => amoValue 0 32 old 5 0) (fun old => decide (0 < 9) || old == 0)).map (·.1) = some 0 ∧
      (ctlState (ctx2 0x60000 5)).xlat (ctx2 0x60000 5) 0x60000 .write = .ok (.mem (dsmBase + dsmBytes)) 6 ∧ homeDie (dsmBase + dsmBytes) = 1 ∧
      (ctlState (ctx2 0x100 5)).xlat (ctx2 0x100 5) 0x100 .write = .ok (.mem 0x100) 0) :=
  ⟨fun _ => ⟨ctx2_runs _ _ _, onlyScalars_nil (ctx2_flights _ _)⟩, by decide +kernel⟩

/-- A context with an operation at its head. -/
def opState (p : Op) : State := testState { testCtx with ops := [p] } .none none
theorem memoryOk_test (x : Ctx) (u : Unit_) (q : Option QWord) : MemoryOk (testState x u q) := by
  have h : MemoryOk State.reset := by constructor <;> decide +kernel
  refine ⟨h.1, fun c => ?_⟩
  have hs : (testState x u q).core c = (State.reset.setCtxAt 0 0 (some x)).core c := rfl
  have hc : ((State.reset.setCtxAt 0 0 (some x)).core c).spad = (State.reset.core c).spad ∧ ((State.reset.setCtxAt 0 0 (some x)).core c).acc
      = (State.reset.core c).acc ∧ ((State.reset.setCtxAt 0 0 (some x)).core c).vregs = (State.reset.core c).vregs := by
    unfold State.setCtxAt; rw [setCore_core]; split
    · subst_vars; exact ⟨rfl, rfl, rfl⟩
    · exact ⟨rfl, rfl, rfl⟩
  have := h.2 c
  change Sparse.wf ((testState x u q).core c).spad = true ∧ Sparse.wf ((testState x u q).core c).acc = true ∧ Sparse.wf ((testState x u q).core c).vregs = true
  rw [hs, hc.1, hc.2.1, hc.2.2]; exact this
/-- A load, a store and a BINIT that complete; a write that its die takes and one that it does not take yet. -/
theorem witness_ScalarCompletionAndPropagation :
    (∀ p, MemoryOk (opState p)) ∧
    ((opState { kind := .load 3 true, loc := .mem 0x100, size := 4 }).ctxAt 0 0).map (fun x => x.ops[0]?.isSome && opFree [] (x.ops.headD ⟨.load 0 false, .mem 0, 0, false, false, 0, none, false, 0⟩))
      = some true ∧
    ((opState { kind := .store 7, loc := .mem 0x100, size := 4 }).writeMem 0 0x100 (bytesOf 4 7) (some (0, 0))).isSome = true ∧
    opFree [] { kind := .binit 2, loc := .spad 0x40, size := 16 } = true ∧
    (let w : Transit := { src := 1, dst := 0, stamp := [0, 1, 0, 0], key := 8, cells := [(0x100, 1)], seq := 1 }
     let s := { State.reset with transit := [w] }
     s.transit[0]? = some w ∧ s.applicable w = true ∧ s.applicable { w with stamp := [0, 2, 0, 0] } = false ∧ ∀ e ∈ w.cells, e.1 ≠ 0x101) :=
  ⟨fun _ => memoryOk_test _ _ _, by decide +kernel⟩

def privCtx (a : Word) (n : Word) : Ctx := { ctx2 a 0 with id := { testCtx.id with priv := true }, sys := { testCtx.sys with stasid := n } }
theorem priv_runs (a n : Word) (reads : List SReg) : CtlRuns (ctlState (privCtx a n)) none reads (privCtx a n) := by
  refine ctl_runs _ _ _ ?_ rfl ?_
  · unfold privCtx; dsimp only; rw [ctx2_flights]; rfl
  · show testCtx.sys.dbgctl.getLsbD 1 = false; decide
/-- The numbers at the edges of each range of R72, in both views, and the loaded space of STASID. -/
theorem witness_SystemRegisterReads :
    (∀ a, CtlRuns (ctlState (ctx2 a 0)) none [1] (ctx2 a 0)) ∧ (∀ a n, CtlRuns (ctlState (privCtx a n)) none [1] (privCtx a n)) ∧
    (ctx2 0 0).id.priv = false ∧ (privCtx 0 1).id.priv = true ∧ (ctx2 0 0).room .ctl = true ∧
    (let privileged := fun n : Nat => decide ((0x070 ≤ n ∧ n ≤ 0x077) ∨ (0x080 ≤ n ∧ n ≤ 0x08F))
     let readOnly := fun n : Nat => decide (n ≤ 0x004 ∨ n = 0x008 ∨ n = 0x009 ∨ (0x039 ≤ n ∧ n ≤ 0x03C) ∨ (0x060 ≤ n ∧ n ≤ 0x065))
     let readWrite := fun n : Nat => decide ((0x010 ≤ n ∧ n ≤ 0x013) ∨ n = 0x018 ∨ n = 0x019 ∨ (0x020 ≤ n ∧ n ≤ 0x023) ∨ (0x028 ≤ n ∧ n ≤ 0x02A)
       ∨ (0x030 ≤ n ∧ n ≤ 0x033) ∨ (0x040 ≤ n ∧ n ≤ 0x05F) ∨ (0x100 ≤ n ∧ n ≤ 0x11F) ∨ (0x200 ≤ n ∧ n ≤ 0x3FF ∧ n % 16 ≤ 12))
     -- the ranges do not meet, and the first and last of each lie in one of them
     (List.range 4096).all (fun n => !(privileged n && readOnly n) && !(privileged n && readWrite n) && !(readOnly n && readWrite n)) = true ∧
     [0x070, 0x077, 0x080, 0x08F].all privileged = true ∧ [0x000, 0x004, 0x008, 0x009, 0x039, 0x03C, 0x060, 0x065].all readOnly = true ∧
     [0x010, 0x013, 0x05F, 0x100, 0x11F, 0x200, 0x20C, 0x3FC].all readWrite = true ∧
     [0x005, 0x014, 0x066, 0x078, 0x090, 0x120, 0x20D, 0xFFF].all (fun n => !(privileged n || readOnly n || readWrite n || n == 0x038)) = true) ∧
    (ctx2 0 0).id.pri < 8 ∧ (ctx2 0 0).id.vlen ≤ 2048 ∧ (ctx2 0 0).id.vbase < 4096 ∧ ((ctlState (privCtx 0 1)).space 1).isSome = true :=
  ⟨fun _ => ctx2_runs _ _ _, fun _ _ => priv_runs _ _ _, by decide +kernel⟩
/-- Values on both sides of each limit. -/
theorem witness_MtsRegisters :
    (∀ a, CtlRuns (ctlState (ctx2 a 0)) none [1] (ctx2 a 0)) ∧ (∀ a n, CtlRuns (ctlState (privCtx a n)) none [1] (privCtx a n)) ∧
    ((ctx2 0x1FFF 0).rd 1).toNat < 2 ^ 13 ∧ ¬ ((ctx2 0x2000 0).rd 1).toNat < 2 ^ 13 ∧ ((ctx2 (2 ^ 32 - 1) 0).rd 1).toNat < 2 ^ 32 ∧
    2 ^ 32 ≤ ((ctx2 (2 ^ 32) 0).rd 1).toNat ∧ ((ctx2 2048 0).rd 1).toNat ≤ testCtx.vlen ∧ testCtx.vlen < ((ctx2 2049 0).rd 1).toNat ∧
    bfmtOk 0x23009800_0000000F = true ∧ bfmtOk (-1) = false ∧ ((ctx2 0 0).rd 1) = 0 ∧ ¬ ((ctx2 1 0).rd 1).toNat < (ctx2 1 0).sys.rotsz ∧
    ((ctx2 63 0).rd 1).toNat < 2 ^ 6 ∧ 2 ^ 6 ≤ ((ctx2 64 0).rd 1).toNat :=
  ⟨fun _ => ctx2_runs _ _ _, fun _ _ => priv_runs _ _ _, by decide +kernel⟩
/-- An LDT into h0 at the load engine. -/
def handleCtx (f : Option Cause) : Ctx :=
  { testCtx with eng := testCtx.eng.set .load [{ tokRun f with q := { testWord with w := 0x800000001800100000000001, kind := .l } }] }
theorem witness_MtsHandles :
    (∀ a, CtlRuns (ctlState (ctx2 a 0)) none [1] (ctx2 a 0)) ∧ handleLowOk 0x0000000100200200 = true ∧ handleLowOk 0 = false ∧
    handleHighOk { slots := 2, rps := 1 } 0x200000000 = true ∧ handleHighOk { slots := 2, rps := 1 } 0x300000000 = false ∧ testCtx.usesHandle 0 = false ∧
    (testCtx.faultOn fun _ => true).isNone = true ∧
    ({ testCtx with ql := { items := [{ testWord with w := 0x800000001800100000000001 }] } } : Ctx).usesHandle 0 = true ∧
    (let f : Cause := { code := .segv, cls := .a }
     let x := handleCtx (some f)
     let uses := fun (x : Ctx) (e : Eng) => x.macros.any fun q => q.names 0 && q.eng == e
     CtlRuns (ctlState x) none [1] x ∧ x.usesHandle 0 = true ∧ (x.faultOn (uses x)).map (·.fault) = some (some f) ∧
     (handleCtx none).usesHandle 0 = true ∧ ((handleCtx none).faultOn (uses (handleCtx none))).isNone = true) :=
  ⟨fun _ => ctx2_runs _ _ _, by decide +kernel, by decide +kernel, by decide +kernel, by decide +kernel, by decide +kernel, by decide +kernel,
    by decide +kernel, ctl_runs _ _ _ rfl rfl (by decide +kernel), by decide +kernel⟩
/-- A row store of no bytes fits whatever the deque spill regions and park areas take. -/
theorem rowStore_reset : ({ ctlState (privCtx 0x1008040000 0) with spaces := [] } : State).rowStoreFits (heatRsMib 0x0000001008040000) = true := by
  have h0 : heatRsMib 0x0000001008040000 = 0 := by decide +kernel
  have h1 : ∀ d, ({ ctlState (privCtx 0x1008040000 0) with spaces := [] } : State).sharedUsed d = 0 := by decide +kernel
  unfold State.rowStoreFits
  rw [h0, List.all_eq_true]
  intro d _
  rw [h1]
  simp [dsmTaken]
theorem witness_MtsSegmentTableAndHeatcfg :
    (∀ a n, CtlRuns (ctlState (privCtx a n)) none [1] (privCtx a n)) ∧ (∀ a, CtlRuns (ctlState (ctx2 a 0)) none [1] (ctx2 a 0)) ∧
    (let s := ctlState (privCtx 0x70000 1)
     (s.space 1).isSome = true ∧ s.entryOk ((s.entry 1 0).setWord 0 0x70000) = true ∧ s.entryOk ((s.entry 1 0).setWord 0 0x70001) = false ∧
     s.entryOk ((s.entry 1 0).setWord 3 0x80) = true ∧ s.drained (0, 0) = true ∧ (privCtx 0 1).ops = [] ∧ (ctx2 0 0).id.priv = false ∧
     heatOk 0x0000001008040000 = true ∧ heatOk 0 = false) ∧
    (let s : State := { ctlState (privCtx 0x1008040000 0) with spaces := [] }
     CtlRuns s none [1] (privCtx 0x1008040000 0) ∧ s.rowStoreFits (heatRsMib 0x0000001008040000) = true) :=
  ⟨fun _ _ => priv_runs _ _ _, fun _ => ctx2_runs _ _ _, by decide +kernel,
    runs_of (test_ctx _ _ _) _ _ (by decide +kernel) rfl (by decide +kernel), rowStore_reset⟩
theorem witness_FenceAndFlushWords :
    (∀ a, CtlRuns (ctlState (ctx2 a 0)) none [1] (ctx2 a 0) ∧ CtlRuns (ctlState (ctx2 a 0)) none [] (ctx2 a 0)) ∧
    (∀ a n, CtlRuns (ctlState (privCtx a n)) none [1] (privCtx a n)) ∧ (ctx2 0 0).ops = [] ∧ (ctlState (ctx2 0 0)).drained (0, 0) = true ∧
    (ctx2 0 0).tokFull none = false ∧ 2 ^ 12 ≤ ((privCtx 4096 0).rd 1).toNat ∧ ((privCtx 4095 0).rd 1).toNat < 2 ^ 12 ∧
    (let flush := fun left => opState { kind := .sflush 1 left [(0, 0)] [0, 0, 0, 0], held := true, born := 0 }
     ((flush [0]).ctxAt 0 0).map (fun x => x.ops.map (·.kind)) = some [.sflush 1 [0] [(0, 0)] [0, 0, 0, 0]] ∧
     ((flush []).ctxAt 0 0).map (fun x => x.ops.map (·.kind)) = some [.sflush 1 [] [(0, 0)] [0, 0, 0, 0]] ∧ ((flush []).core 0).residents.length = 1) ∧
    (let y : Ctx := { testCtx with ops := [{ kind := .sflush 1 [] [(0, 5)] [0, 0, 0, 0], held := true, born := 6 }, { kind := .store 1, loc := .mem 0x100, size := 1, born := 2 }] }
     ((ctlState y).core 0).residents = [y] ∧ y.id.asid = 1 ∧ 2 < 5) :=
  ⟨fun _ => ⟨ctx2_runs _ _ _, ctx2_runs _ _ _⟩, fun _ _ => priv_runs _ _ _, by decide +kernel⟩
/-- The control word of the manual's PROBE; a hit, a miss with a bad and a good target; a word that is malformed and one past the allotment. -/
theorem witness_ProbeWords :
    (∀ a b, CtlRuns (ctlState (ctx2 a b)) none [1, 2] (ctx2 a b)) ∧
    (let v : Word := BitVec.ofNat 64 (5 * 2 ^ 28 + 200 * 2 ^ 13 + 100)
     probeOk v = true ∧ probeFits (ctx2 0x41A30 v) v = true ∧ probeOk 0 = false ∧ probeFits narrowCtx v = false ∧
     probeHit [0, 0, 0, 0] 0x41800 = none ∧ (probeHit [0x106 * 2 ^ 10 + 1, 0, 0, 0] 0x41800) = some 0 ∧ ((ctx2 0 0).ctl.pc + 80).toNat % 8 = 0 ∧
     ((ctx2 0 0).ctl.pc + 81).toNat % 8 ≠ 0 ∧ (ctx2 0 0).filled .l < 128 ∧ (ctx2 0 0).tokFull (some 7) = false ∧
     (ctx2 0x41A30 v).mustWait (.spad (100 * 256 + 32 * 6)) 32 = false ∧
     ({ ctx2 0x41A30 v with ops := [{ kind := .store 0, loc := .spad (100 * 256 + 32 * 6 + 4), size := 4 }] } : Ctx).mustWait (.spad (100 * 256 + 32 * 6)) 32
       = true ∧
     ({ ctx2 0 0 with ql := { items := List.replicate 128 (testWord) } } : Ctx).filled .l = 128 ∧
     (List.range 4).all (fun j => ([1, 1, 1, 1].getD j 0).testBit 0) = true) :=
  ⟨fun _ _ => ctx2_runs _ _ _, by decide +kernel⟩
theorem witness_SoftwareTraps : CtlRuns (ctlState testCtx) none [] testCtx ∧ testCtx.ctl.sec.isSome = true :=
  ⟨ctl_runs _ _ _ rfl rfl (by decide +kernel), by decide +kernel⟩

/-- A trap-mode header at 0x200, TVEC there, and a frame of 15 rows at the end of the allotment. -/
def trapState (x : Ctx) : State :=
  { ctlState x with views := Vector.replicate 4 (Sparse.writeAll (w := 8) [] 0x200 (bytesOf 8
      (encodeHeader { kind := .c, len := 1, depA := 0xFFFF, depB := 0xFFFF, depC := 0xFFFF, trapm := true }).toNat)) }
def trapCtx : Ctx := { testCtx with sys := { testCtx.sys with tvec := 0x200, tframe := 8177 } }
theorem witness_TrapEntryEffect :
    (trapState trapCtx).ctx? = some trapCtx ∧ (trapCtx.trapMode = false ∧ 8177 + 15 ≤ trapCtx.id.snb * 256 ∧ (trapState trapCtx).tvecOk trapCtx = true ∧
      trapCtx.flights = []) ∧ (trapState testCtx).tvecOk testCtx = false ∧ testCtx.id.snb * 256 < 8178 + 15 ∧
    -- results of both units in flight, a class-Q trap that waits, a macro of the cause, and a class-P trap in trap mode
    (let fl : List Flight := [{ unit := .vec, land := 4, val := .pred 1 1 1 }, { unit := .ctl, land := 2, val := .scalar 3 7 }]
     let x : Ctx := { trapCtx with flights := fl, pendQ := some { cause := { code := .fpx, cls := .q }, hdr := 0, idx := 0, kind := .x } }
     (trapState x).tvecOk x = true ∧ (∀ f ∈ x.flights, x.clk f.unit ≤ f.land) ∧ x.flights.length ≤ 12 ∧ x.pendQ.isSome = true ∧
     (x.flights.filter (·.unit == .ctl)).length = 1) ∧
    (let x : Ctx := { trapCtx with eng := trapCtx.eng.set .load [(tokRun (some { code := .segv, cls := .a, eng := some .tla }))] }
     (trapState x).tvecOk x = true ∧ (x.runs.find? fun r => some Ctr.tla == some r.ctr && r.q.num == 0).isSome = true) ∧
    ({ trapCtx with trapMode := true } : Ctx).trapMode = true := ⟨test_ctx _ _ _, by decide +kernel⟩
/-- In trap mode with an empty frame row, back to the trapped word or elsewhere; a timer that runs out within its clks and one that does not. -/
def inTrap (pc : Word) : Ctx := { testCtx with trapMode := true, saved := some testCtx.ctl, trapPc := pc }
theorem witness_ReturnFromTrapAndTimer :
    (∀ pc, CtlRuns (ctlState (inTrap pc)) none [] (inTrap pc)) ∧ ((inTrap 0).flights = [] ∧ (∀ q ∈ [(inTrap 0).ql, (inTrap 0).qx, (inTrap 0).qs],
      (q.head true).isNone = true ∧ q.cur = {}) ∧ ((inTrap 0).faultOn fun _ => true).isNone = true ∧ (ctlState (inTrap 0)).myCore.frame 0 = 0 ∧
      (inTrap 0).saved.isSome = true ∧ (inTrap 0).trapPc = 0 ∧ (inTrap 8).trapPc ≠ 0) ∧
    (let k := (ctlState (inTrap 8)).myCore.putSpadBytes 8 (bytesOf 8 12)
     BitVec.ofNat 64 (k.frame 0 / 2 ^ 64) = (12 : Word) ∧ (12 : Word).toNat % 8 ≠ 0 ∧ k.frame 0 / 2 ^ 384 % 2 ^ 12 = 0) ∧
    -- a frame with slot 0 valid: scalar s3, REMAIN 2, value 7; one whose KIND is 0
    (let k := (((ctlState (inTrap 0)).myCore.putSpadBytes 48 [1]).putSpadBytes 512 (bytesOf 8 (1 + 3 * 2 ^ 16 + 2 * 2 ^ 32))).putSpadBytes 768 [7]
     let e : Flight := { unit := .ctl, land := (inTrap 0).cclk + 1 + 2, val := .scalar 3 7 }
     ((List.range 12).filter fun j => (k.frame 0 / 2 ^ 384 % 2 ^ 12).testBit j) = [0] ∧ k.frame 0 / 2 ^ 4096 % 2 ^ 8 = 1 ∧
     k.frame 0 / 2 ^ (4096 + 16) % 2 ^ 16 = 3 ∧ k.frame 0 / 2 ^ (4096 + 32) % 2 ^ 16 = 2 ∧ k.frame 0 / 2 ^ 6144 % 2 ^ 64 = 7 ∧ e.uid = 0 ∧
     ((ctlState (inTrap 0)).myCore.putSpadBytes 48 [1]).frame 0 / 2 ^ 384 % 2 ^ 12 = 1 ∧
     ((ctlState (inTrap 0)).myCore.putSpadBytes 48 [1]).frame 0 / 2 ^ 4096 % 2 ^ 8 = 0) ∧
    -- a held fault, which chains
    (let x : Ctx := { inTrap 0 with eng := testCtx.eng.set .load [(tokRun (some { code := .segv, cls := .a }))] }
     (x.faultOn fun _ => true).map (·.fault.isSome) = some true) ∧
    CtlRuns (ctlState testCtx) none [] testCtx ∧
    (let s := (ctlState testCtx).setCore 0 { (ctlState testCtx).core 0 with active := some 0 }
     s.myCore.active = some s.cur.bank ∧ (ctlState testCtx).myCore.active ≠ some 0 ∧
     ({ testCtx with sys := { testCtx.sys with tmr := 5 }, hold := .wait .header } : Ctx).sys.tmr ≠ 0) :=
  ⟨fun pc => ctl_runs _ _ _ rfl rfl (show testCtx.pendr = false by decide +kernel), by decide +kernel, by decide +kernel, by decide +kernel, by decide +kernel, ctl_runs _ _ _ rfl rfl (by decide +kernel), by decide +kernel⟩

/-- A barrier with one arrival left, which one arrival completes and 8 bytes more do not. -/
theorem witness_BarrierUpdate :
    let k := (State.reset.core 0).putBarrier 64 (mkBarrier 2 0 1 15)
    Sparse.wf k.spad = true ∧ 64 % 16 = 0 ∧ (barArrivals (k.barrier 64) - 1 = 0 ∧ barBytes (k.barrier 64) + 0 = 0) ∧
    ¬ (barArrivals (k.barrier 64) - 1 = 0 ∧ barBytes (k.barrier 64) + 8 = 0) := by decide +kernel

theorem sync_ctl (a b : Word) (reads : List SReg) : SyncCtl (ctlState (ctx2 a b)) none reads (ctx2 a b) := by
  refine ⟨ctx2_runs _ _ _, fun k h => ?_⟩
  have h : Unit_.ctl = Unit_.queue k := h
  exact Unit_.noConfusion h
theorem sync_runs (x : Ctx) (q : QWord) (k : Kind) (hp : x.pendr = false) : SyncRuns (testState x (.queue k) (some q)) none x q k :=
  ⟨test_ctx _ _ _, rfl, rfl, rfl, fun h => by rw [hp] at h; exact absurd h (by decide)⟩
/-- A core with this barrier at byte 64 of bank 0. -/
def barState (x : Ctx) (b : BitVec 128) : State := let s := ctlState x; s.putCore (s.myCore.putBarrier 64 b)
theorem putCore_ctx (x : Ctx) (k : Core) (h : k.banks = ((ctlState x).core 0).banks) : ((ctlState x).putCore k).ctx? = some x := by
  have := test_ctx x .ctl none
  have hc : ((ctlState x).putCore k).core 0 = k := by
    show ((ctlState x).setCore 0 k).core 0 = k
    rw [setCore_core]; exact if_pos rfl
  show (((ctlState x).putCore k).core 0).banks[(0 : BankId)] = some x
  rw [hc, h]; exact this
theorem bar_ctx (x : Ctx) (b : BitVec 128) : (barState x b).ctx? = some x := by
  unfold barState
  dsimp only
  apply putCore_ctx
  unfold Core.putBarrier Core.putSpadBytes Core.putRowBytes State.myCore
  have h : (ctlState x).cur.core = 0 := rfl
  rw [h]
  split <;> rfl
theorem witness_BarrierWords :
    (∀ a b reads, CtlRuns (ctlState (ctx2 a b)) none reads (ctx2 a b) ∧ SyncCtl (ctlState (ctx2 a b)) none reads (ctx2 a b)) ∧
    (∀ b, (barState (ctx2 64 0) b).ctx? = some (ctx2 64 0)) ∧
    (∀ k, SyncRuns (testState testCtx (.queue k) (some testWord)) none testCtx testWord k) := by
  refine ⟨fun _ _ _ => ⟨ctx2_runs _ _ _, sync_ctl _ _ _⟩, fun b => ?_, fun k => sync_runs _ _ _ (by decide +kernel)⟩
  exact bar_ctx _ _
/-- An LDT that credits the barrier at 64. -/
def creditCtx (f : Option Cause) : Ctx :=
  { ctx2 64 0 with eng := testCtx.eng.set .load [{ tokRun f with
      q := { testWord with w := 0x800000000000010000000001, kind := .l, cap := { testWord.cap with sc := 64 } } }] }
theorem witness_BarrierWords_clauses :
    (ctx2 64 0).spadAddr 64 = some 64 ∧ (ctx2 0x200000 0).spadAddr 0x200000 = none ∧ ¬ 2 ^ 46 ≤ ((ctx2 0 (2 ^ 46 - 1)).rd 2).toNat ∧
      2 ^ 46 ≤ ((ctx2 0 (2 ^ 46)).rd 2).toNat ∧ (ctx2 64 0).ops = [] ∧ (ctx2 64 0).mustWait (.spad 64) 16 = false ∧
      barArrivals ((barState (ctx2 64 0) (mkBarrier 2 0 1 0)).myCore.barrier 64) ≠ 0 ∧ barArrivals ((barState (ctx2 64 0) 0).myCore.barrier 64) = 0 ∧
      barPhase ((barState (ctx2 64 0) 0).myCore.barrier 64) = (0 : Word).extractLsb' 0 4 ∧
      barPhase ((barState (ctx2 64 0) 1).myCore.barrier 64) ≠ (0 : Word).extractLsb' 0 4 ∧
      testCtx.spadAddr 0 = some 0 ∧ testCtx.flights = [] ∧ testCtx.runs = [] ∧
      (let uses := fun (x : Ctx) (e : Eng) => x.macros.any fun q => q.credits 64 && q.eng == e
       ((creditCtx (some { code := .segv, cls := .a })).faultOn (uses (creditCtx (some { code := .segv, cls := .a })))).map (·.fault.isSome)
         = some true ∧ ((creditCtx none).faultOn (uses (creditCtx none))).isNone = true) ∧
      (∃ f ∈ ({ testCtx with flights := [{ unit := .vec, land := 9, val := .row 1 1 0 }] } : Ctx).flights, f.val = .row 1 1 0) := by
  decide +kernel
/-- Number 1 pushed: one that has completed, one that has not, one never pushed, and a fault of its counter. -/
theorem witness_TimelineWords :
    (∀ a b, SyncCtl (ctlState (ctx2 a b)) none [1] (ctx2 a b)) ∧ (∀ k, SyncRuns (testState testCtx (.queue k) (some testWord)) none testCtx testWord k) ∧
    Ctr.ofCode 0 = some .tla ∧ Ctr.ofCode 5 = some .tlc ∧ ((ctx2 1 0).tl.get .tla).pushed < ((ctx2 1 0).rd 1).toNat ∧
    ((ctx2 0 0).rd 1).toNat ≤ ((ctx2 0 0).tl.get .tla).value ∧
    (let x : Ctx := { ctx2 1 0 with tl := testCtx.tl.set .tla { pushed := 1 } }
     (x.rd 1).toNat ≤ (x.tl.get .tla).pushed ∧ (x.tl.get .tla).value < (x.rd 1).toNat ∧ (x.faultOn fun e => x.macros.any fun q => ctrOf (opOf q.w) q.kind == some .tla && q.eng == e).isNone = true ∧
     (let y : Ctx := { x with eng := (tokCtx (some { code := .segv, cls := .a })).eng }
      (y.faultOn fun e => y.macros.any fun q => ctrOf (opOf q.w) q.kind == some .tla && q.eng == e).map (fun r => r.fault.isSome) = some true)) ∧ (ctx2 0 0).room .ctl = true :=
  ⟨fun _ _ => sync_ctl _ _ _, fun k => sync_runs _ _ _ (by decide +kernel), by decide +kernel⟩

/-- Groups at VA 0x10000 in die shared memory: members 0 and 1 in phase 5, and a full one. -/
def groupState (x : Ctx) (g : Group) : State :=
  { ctlState x with views := Vector.replicate 4 (Sparse.writeAll (w := 8) [] dsmBase (g.bytes ++ bytesOf 4 g.wdogus.toNat)) }
def g5 : Group := { members := 0b011, next := 0b111, arrived := 0b001, phase := 5, wdogus := 10 }
def gFull : Group := { members := BitVec.allOnes 256, next := BitVec.allOnes 256, arrived := 0, phase := 0, wdogus := 0 }
theorem views_ctx (s : State) (v : Vector Machine.Memory 4) : ({ s with views := v } : State).ctx? = s.ctx? := rfl
theorem group_ctx (x : Ctx) (g : Group) : (groupState x g).ctx? = some x := by
  unfold groupState
  rw [views_ctx]
  exact test_ctx x .ctl none
theorem group_runs (g : Group) (hg : g = g5 ∨ g = gFull) (reads : List SReg) :
    GroupRuns (groupState (ctx2 0x10000 1) g) none reads 1 (ctx2 0x10000 1) dsmBase 1 := by
  have h1 : (ctx2 0x10000 1).flights = [] ∧ (ctx2 0x10000 1).guardOk none = true ∧ (ctx2 0x10000 1).pendr = false ∧ (ctx2 0x10000 1).ops = [] := by
    decide +kernel
  rcases hg with rfl | rfl <;>
  exact ⟨runs_of (group_ctx _ _) _ _ (by rw [h1.1]; rfl) h1.2.1 h1.2.2.1, by rw [h1.2.2.2], by decide +kernel, by decide, by decide +kernel⟩
/-- A thread that has arrived in the given phase. -/
def bargCtx (p : Nat) : Ctx := { ctx2 0x10000 1 with barg := some (dsmBase, p) }
/-- Members 0, 1 and 2 of a group in phase 5, a number that is none, a full group; a BARG that arrived and one in a later phase; its watchdog. -/
theorem witness_GroupWordsPhaseAndWatchdog :
    (∀ reads, GroupRuns (groupState (ctx2 0x10000 1) g5) none reads 1 (ctx2 0x10000 1) dsmBase 1
      ∧ GroupRuns (groupState (ctx2 0x10000 1) gFull) none reads 1 (ctx2 0x10000 1) dsmBase 1) ∧
    (((ctx2 0x10000 1).rd 1).toNat / 1024 * 1024 = 0x10000 ∧ (ctx2 0x10000 1).barg = none ∧ ((groupState (ctx2 0x10000 1) g5).noteUse 1 1 (.mem dsmBase)).group dsmBase = g5 ∧
      ((groupState (ctx2 0x10000 1) gFull).noteUse 1 1 (.mem dsmBase)).group dsmBase = gFull ∧ homeDie dsmBase = (groupState (ctx2 0x10000 1) g5).myDie) ∧
    (g5.members.getLsbD 3 = false ∧ g5.next.getLsbD 3 = false ∧ (List.range 3).all (fun n => g5.next.getLsbD n) = true ∧ g5.next.getLsbD 255 = false ∧
      (List.range 256).all (fun m => gFull.members.getLsbD m) = true ∧ g5.members.getLsbD 1 = true ∧ g5.arrived.getLsbD 1 = false) ∧
    ((groupState (ctx2 0x10000 1) g5).putGroup dsmBase g5 (g5.arrive 1) (some (0, 0))).isSome = true ∧
    (GroupRuns (groupState (bargCtx 5) g5) none [1, 2] 1 (bargCtx 5) dsmBase 1 ∧
      GroupRuns (groupState (bargCtx 4) g5) none [1, 2] 1 (bargCtx 4) dsmBase 1) ∧ (bargCtx 5).barg = some (dsmBase, g5.phase.toNat) ∧
    (bargCtx 4).barg = some (dsmBase, 4) ∧ 4 ≠ g5.phase.toNat ∧
    (((groupState (ctx2 0x10000 1) g5).putGroup dsmBase g5 ({ g5 with next := g5.next ||| bit256 3 } : Group).check (some (0, 0))).bind
      fun s => s.writeMem (homeDie dsmBase) (dsmBase + 256 + 2 * 3) (bytesOf 2 0) (some (0, 0))).isSome = true ∧
    (groupState (ctx2 0x10000 1) g5).clockReached 0 (groupState (ctx2 0x10000 1) g5).vc[homeDie dsmBase].toList = true ∧
    (CtlRuns (ctlState (ctx2 0 1)) none [1, 2] (ctx2 0 1) ∧ (ctlState (ctx2 0 1)).xlat (ctx2 0 1) 0 .write = .ok (.mem 0) 0) ∧
    (let s : State := { groupState (ctx2 0 0) g5 with watches := [{ pa := dsmBase, us := 10, since := 0 }] }
     (s.watches.find? (·.pa == dsmBase)).isSome = true ∧ s.firm.us < 0 + 10 ∧ (0 + 0 ≤ s.firm.us)) :=
  ⟨fun _ => ⟨group_runs _ (.inl rfl) _, group_runs _ (.inr rfl) _⟩, by decide +kernel, by decide +kernel, by decide +kernel,
    ⟨⟨runs_of (group_ctx _ _) _ _ (by decide +kernel) (by decide +kernel) (by decide +kernel), by decide +kernel, by decide +kernel, by decide,
      by decide +kernel⟩,
      ⟨runs_of (group_ctx _ _) _ _ (by decide +kernel) (by decide +kernel) (by decide +kernel), by decide +kernel, by decide +kernel, by decide,
      by decide +kernel⟩⟩, rfl, rfl, by decide, by decide +kernel, by decide +kernel,
    ⟨ctx2_runs _ _ _, by decide +kernel⟩, by decide +kernel⟩

/-- The record of the manual's timer program, with JOINCNT 0 and 1; a reserved bit. -/
def recOf (joincnt allot : Nat) : Rec := BitVec.ofNat 256 (joincnt * 2 ^ 128 + 4 * 2 ^ 160 + allot * 2 ^ 192)
/-- A record for die 0 with a count of 1 in die shared memory, and ready queues of the given size. -/
def jdecState (region : Nat) : State :=
  let s := opState { kind := .jdec 3, loc := .mem (dsmBase + 16), size := 4 }
  { s with
    dies := s.dies.map fun d => { d with region := region }
    views := Vector.replicate 4 (Sparse.writeAll (w := 8) [] dsmBase (bytesOf 32 (recOf 1 0x707 ||| (1 <<< 168)).toNat)) }
theorem witness_ContinuationWords :
    (∀ a, CtlRuns (ctlState (ctx2 a 0)) none [1] (ctx2 a 0)) ∧
    ((ctlState (ctx2 0x40 0)).xlat (ctx2 0x40 0) 0x40 .read = .ok (.mem 0x40) 0 ∧ (ctx2 0x40 0).mustWait (.mem 0x40) 32 = false ∧ (ctx2 0x40 0).tokFull none = false) ∧
    ((recOf 0 0x707).fieldsOk = true ∧ (recOf 0 0x707).joincnt = 0 ∧ (recOf 1 0x707).joincnt ≠ 0 ∧ ((recOf 0 0x707) ||| (1 <<< 255)).fieldsOk = false) ∧
    (let s := ctlState (ctx2 0x40 0)
     let r : Rec := BitVec.ofNat 256 (natOfBytes ((s.noteUse 1 0 (.mem 0x40)).readLoc 0 s.myCore (.mem 0x40) 32))
     r.fieldsOk = true ∧ (s.noteUse 1 0 (.mem 0x40)).recFits 0 ((s.noteUse 1 0 (.mem 0x40)).copyOf (ctx2 0x40 0) r) = true ∧ r.joincnt = 0) ∧
    ((ctlState (ctx2 0x10000 0)).xlat (ctx2 0x10000 0) 0x10000 .write = .ok (.mem dsmBase) 1 ∧ (ctx2 0x10000 0).wen = false ∧ (ctx2 0x10000 0).ops = []) ∧
    (((opState { kind := .jdec 3, loc := .mem (dsmBase + 16), size := 4 }).ctxAt 0 0).map (fun x => x.ops.length) = some 1 ∧ homeDie (dsmBase + 16) = dieOf 0 ∧
      ((opState { kind := .jdec 3, loc := .mem (dsmBase + 16), size := 4 }).bankOp 0 (dsmBase + 16) 4 (some (0, 0)) (fun old => old - 1)
        (fun old => old != 0)).map (·.1) = some 0) ∧
    -- a die whose ready queues have room, and one whose have none
    (let s := jdecState 65536
     let t := jdecState 0
     let q : QRec := { rec_ := recOf 0 0x707 ||| (1 <<< 168), asid := 1, stamp := 0, priv := false }
     s.pushRoom 0 q = true ∧ t.pushRoom 0 q = false ∧ s.jdecHeld 0 testCtx (dsmBase + 16) = false ∧ t.jdecHeld 0 testCtx (dsmBase + 16) = true) :=
  ⟨fun _ => ctx2_runs _ _ _, by decide +kernel⟩

def hdrOf (k : Kind) (t : Bool) : Header := { kind := k, len := 2, depA := 0xFFFF, depB := 0xFFFF, depC := 0xFFFF, trapm := t }
/-- Headers of an X section and of a trap-mode one; a control core inside an X section; sections that are busy, unfinished and done; the last row of
a fill. -/
theorem witness_PipelineEvents :
    (ctlState testCtx).ctx? = some testCtx ∧ (decodeHeader (encodeHeader (hdrOf .x false)) = some (hdrOf .x false) ∧
      decodeHeader (encodeHeader (hdrOf .c true)) = some (hdrOf .c true) ∧ testCtx.trapMode = false) ∧
    (let x : Ctx := { testCtx with ctl := { testCtx.ctl with sec := some { hdr := 0, h := hdrOf .x false } } }
     CtlView (ctlState x) x ∧ x.ctl.sec.map (fun c => c.h.kind) = some .x ∧ x.filled .x < 128 ∧ x.tokFull none = false ∧ x.pendr = false ∧
       opOf (0x341#10 ++ 0#86) = 0x341 ∧ (x.capture (0x341#10 ++ 0#86)).sb.toNat < 2 ^ 46 ∧
       ({ x with qx := { items := List.replicate 128 (testWord) } } : Ctx).filled .x = 128) ∧
    (let x : Ctx := { pendCtx with ctl := { testCtx.ctl with sec := some { hdr := 0, h := hdrOf .x false } } }
     let w : IWord := 0x1B2#10 ++ 0#32 ++ 1#6 ++ 0#48
     CtlView (ctlState x) x ∧ x.pendr = true ∧ isEM w = false ∧ (1 : SReg) ∈ pushReads w ∧ x.scalarPending 1 = true) ∧
    (let t : Sec := { uid := 1, kind := .x, hdr := 0, len := 2, trapm := false }
     let x : Ctx := { testCtx with secs := [t] }
     (x.secs.find? fun t => t.kind == .x && t.trapm == false) = some t ∧ x.secBusy t = false ∧ (t.pushed ≠ t.len ∧ t.closed = false) ∧
       ({ t with pushed := 2 } : Sec).pushed = t.len) ∧
    (let r : Run := { runOf 0 0 0 with ctr := .tla, q := { testWord with kind := .l, fill := some (0, 0, 8, 1) } }
     let s := testState { testCtx with eng := testCtx.eng.set .load [r] } .none none
     let s := s.setCore 0 { s.core 0 with owners := Vector.replicate 6 (some 0) }
     (s.core 0).spadBad.contains (0 / 256) = false ∧ ({ s.core 0 with spadBad := [0] } : Core).spadBad.contains (0 / 256) = true ∧
     ((s.ctxAt 0 0).bind (·.engHead .load)) = some r ∧ r.done + 1 = 1 ∧ (s.core 0).owners[1] = some 0 ∧
       (s.ctxAt 0 0).map (fun x => (x.rowAt 8).toOption.isSome) = some true ∧
       (let u := { s with cur := { core := 0, bank := 0, unit := .eng .load, word := some r.q } }
        (s.ctxAt 0 0).map (fun x => (u.xlatAll x .read (rowSectors mz r 0 0 0)).toOption.map (fun p => p.1.length)) = some (some 8) ∧
        (s.ctxAt 0 0).map (fun x => (landRow u.myCore x 8 0 0 none).toOption.isSome) = some true)) :=
  ⟨test_ctx _ _ _, by decide +kernel, ⟨ctl_view _ rfl, by decide +kernel⟩, ⟨ctl_view _ (by decide +kernel), by decide +kernel⟩, by decide +kernel,
    by decide +kernel⟩

def testRec : QRec := { rec_ := recOf 0 0x707, asid := 1, stamp := 0, priv := false, level := 4 }
/-- Ready entries in the queues of the first die. -/
def queuedState (l : List QRec) : State := { State.reset with dies := State.reset.dies.set 0 { State.reset.dies[0] with ready := l } }
/-- A record that a slot has obtained, with rows being cleared or not, and with a clock that its die has reached or not. -/
def dueState (clearing : List (Bool × Nat)) (clock : List Nat) : State :=
  State.reset.setCore 0 { State.reset.core 0 with
    due := [⟨{ testRec with clock := clock }, 4, { vgroup := 0, sbank := 0, snb := 8, agroup := 0 }⟩]
    clearing := clearing }
/-- A context that holds one bank and one group of names. -/
def oneGroup (b : BankId) : Ctx := { testCtx with id := { testCtx.id with bank := b, sbank := b.val, snb := 1, vbase := 8 * b.val, vlen := 8, alen := 0 } }
/-- An entry in the deque of the core after the first. -/
def stealState : State := State.setCore (State.reset.setCore 1 { State.reset.core 1 with deque := [testRec], banks := Vector.replicate 3 (some testCtx) }) 0
    { State.reset.core 0 with banks := #v[some (oneGroup 0), some (oneGroup 1), none] }
/-- A context of the given bank and priority, at rest. -/
def bankCtx (b : BankId) (pri : Nat) : Ctx := { testCtx with id := { testCtx.id with bank := b, pri := pri, snb := 4 } }
def twoBanks (x y : Ctx) : State := (ctlState x).setCtxAt 0 1 (some y)

/-- A record in the ready queue, in the core's own deque and in another's; one that a slot has obtained, with its rows clear and not, and with its
clock reached and not; a freed bank and a freed group being cleared. -/
theorem witness_SchedulingEvents_obtain :
    (let s := queuedState [testRec]
     s.lookers 0 = [0, 1, 2] ∧ s.served 0 = some (0, testRec) ∧ s.wants 0 = some testRec ∧ s.wants 31 = some testRec ∧ s.owns 0 = none ∧
       (s.idleBanks 0).head? = some 0 ∧ (s.core 0).due = [] ∧ ((s.core 0).fit testRec).isSome = true ∧
       s.clockReached (dieOf 0) testRec.clock = true ∧ (((s.core 0).fit testRec).map fun p => (s.core 0).beingCleared testRec p) = some false) ∧
    (let s := dueState [] []
     let t := dueState [(false, 1)] []
     let u := dueState [] [1, 0, 0, 0]
     (s.idleBanks 0).head? = some 0 ∧ s.lookers 0 = [1, 2] ∧ s.served 0 = none ∧ s.clockReached (dieOf 0) [] = true ∧
       (t.core 0).due.head?.map (fun r => (t.core 0).beingCleared r.rec_ r.place) = some true ∧
       u.clockReached (dieOf 0) [1, 0, 0, 0] = false) ∧
    (let s := State.reset.setCore 0 { State.reset.core 0 with deque := [testRec] }
     (s.lookers 0).head? = some 0 ∧ (s.core 0).steal = #v[0, 0, 0] ∧ (s.core 0).deque.head? = some testRec ∧ s.owns 0 = some testRec) ∧
    (let s := stealState
     s.steals 0 = [2] ∧ s.victim 0 2 = 1 ∧ (s.thieves 1).head? = some (0, 2) ∧ (s.owns 0).isNone = true ∧ (s.served 0).isNone = true ∧
       (s.owns 1).isSome = false ∧ ((s.core 1).deque ++ (s.core 1).spill).getLast? = some testRec ∧ ((s.core 0).fit testRec).isSome = true ∧
       (s.thieves 1).length = 1) ∧
    (let s := State.reset.setCore 0 { State.reset.core 0 with banks := #v[some testCtx, some testCtx, none] }
     s.steals 0 = [2] ∧ (s.thieves 1).head? = some (0, 2) ∧ (s.owns 0).isNone = true ∧ (s.served 0).isNone = true ∧
       ((s.core 1).deque ++ (s.core 1).spill).getLast? = none) ∧
    (testRec.share = none ∧ testRec.puth = false ∧ testRec.rec_.vgroups = 8 ∧ testRec.rec_.banks = 8 ∧ testRec.rec_.prio = 4) ∧
    (let k := { State.reset.core 0 with clearing := [(false, 3), (true, 0)] }
     k.clearing = (false, 3) :: [(true, 0)] ∧ k.clearing.tail = (true, 0) :: []) := by decide +kernel
/-- A ready handler, and one that waits for a larger region. -/
theorem witness_SchedulingEvents_fit :
    ((State.reset.core 0).fit { testRec with puth := true }).isSome = true ∧ ((State.reset.core 0).fit testRec).isSome = true ∧
      ({ State.reset.core 0 with msgnNew := [(2, ⟨0, 0, 0, false⟩)] } : Core).fit { testRec with puth := true } = none := by decide +kernel
/-- A second context of higher priority; what each engine and the vector engine goes to. -/
theorem witness_SchedulingEvents_switch :
    (let s := twoBanks testCtx (bankCtx 1 5)
     let t := s.setCore 0 { s.core 0 with active := some 0 }
     let goes := fun (e : BankId) (y : Ctx) => decide (e ≠ 0) && t.ready 0 y && (decide (testCtx.id.pri < y.id.pri) || decide (t.firm.blkthr ≤ testCtx.heldClk))
     (s.core 0).active = none ∧ (s.core 0).best (fun _ x => s.ready 0 x) = some 1 ∧ (t.core 0).active = some 0 ∧
       (t.ctxAt 0 0).map (fun x => (x.hold, x.midClk)) = some (.none, false) ∧ (t.core 0).best goes = some 1 ∧
       ((ctlState testCtx).core 0).best (fun e y => decide (e ≠ 0) && (ctlState testCtx).ready 0 y) = none) ∧
    (let s := ctlState { testCtx with eng := testCtx.eng.set .load [{ runOf 0 0 0 with ctr := .tla }] }
     (s.core 0).engineNext (s.core 0).owners[Eng.owner .load] (·.engWork .load) (fun y => s.engReady 0 y .load) = some 0) ∧
    (let s := ctlState { testCtx with qx := { items := [testWord] } }
     (s.core 0).engineNext (s.core 0).owners[0] (·.vecWork) (Ctx.vecReady (s.core 0)) = some 0 ∧ (s.core 0).vecMayLeave 0 = true) := by decide +kernel
/-- Contexts that are held: at a header, on an absent segment, at a segment with duplicates, while they are parked, and not at all. -/
theorem witness_SchedulingEvents_ready :
    (let x : Ctx := { testCtx with hold := .wait .header }
     x.parking = false ∧ x.wakes = false ∧ (ctlState x).ready 0 x = true) ∧
    (let x : Ctx := { testCtx with hold := .stall 4 0x40000 }
     x.wakes = false ∧ (ctlState x).ready 0 x = false) ∧
    (let x : Ctx := { testCtx with hold := .dupw 5 0x50000 }
     x.wakes = false ∧ ((ctlState x).entry x.id.asid 5).dup = 1) ∧
    ({ testCtx with parking := true } : Ctx).parking = true ∧ testCtx.hold = .none ∧ ({ testCtx with hold := .busy } : Ctx).hold = .busy := by decide +kernel

/-- Three resident contexts that wait, and a record of higher priority that needs a bank. -/
def parkState (f : Ctx → Ctx) : State :=
  let w := fun b : BankId => f { bankCtx b 1 with hold := .wait .header }
  let s := (twoBanks (w 0) (w 1)).setCtxAt 0 2 (some (w 2))
  { s with dies := s.dies.set 0 { s.dies[0] with ready := [{ testRec with level := 7 }] } }
/-- One is to be parked; one that is being parked, and may leave or not; one in the staging bank. -/
theorem witness_SchedulingEvents_park :
    (let s := parkState id
     s.stagedOn 0 = none ∧ s.parkingOn 0 = none ∧ s.parkCore 0 = some 0 ∧ (s.core 0).parkBank = some 0 ∧ (s.ctxAt 0 0).isSome = true) ∧
    (let s := parkState fun x => { x with parking := true }
     s.stagedOn 0 = none ∧ (s.parkingOn 0).map (fun p => (p.1, p.2.1, s.parkable p.1 p.2.1 p.2.2)) = some (0, 0, true) ∧ (s.core 0).staging = none) ∧
    (let s := parkState fun x => { x with parking := true, ops := [{ kind := .load 3 false, loc := .mem 0, size := 8 }] }
     s.stagedOn 0 = none ∧ (s.parkingOn 0).map (fun p => (p.1, p.2.1, s.parkable p.1 p.2.1 p.2.2)) = some (0, 0, false)) ∧
    (let s := State.reset.setCore 0 { State.reset.core 0 with staging := some (testCtx, false) }
     s.stagedOn 0 = some 0 ∧ (s.core 0).staging = some (testCtx, false)) := by decide +kernel
/-- A parked context whose bank is idle, and one that is on its way back. -/
theorem witness_SchedulingEvents_resume :
    (let s := State.reset.setCore 0 { State.reset.core 0 with parked := [testCtx] }
     (s.core 0).staging = none ∧ (s.core 0).parked = [testCtx] ∧ s.resumable 0 testCtx = true) ∧
    (let s := State.reset.setCore 0 { State.reset.core 0 with staging := some (testCtx, true) }
     (s.core 0).staging = some (testCtx, true)) := by decide +kernel

/-- A context that stalls on segment 4, at its control core and at its load engine, with STALLUS 10 there and the given time. -/
def stallState (x : Ctx) (us : Nat) : State :=
  let s := (ctlState x).setEntry 1 4 { w0 := 0x40000, w1 := 0x1000E, w3 := 0xA0000 }
  { s with firm := { s.firm with us := us } }
def stallCtx : Ctx :=
  { testCtx with
    hold := .stall 4 0x40000
    stall := some (testCtx.ctl.addr, [(4, 0)])
    eng := testCtx.eng.set .load [{ runOf 0 0 0 with stall := some (4, 0x40000, 0) }] }
def dupCtx : Ctx :=
  { testCtx with
    hold := .dupw 5 0x50000
    eng := testCtx.eng.set .store [{ runOf 0 0 0 with dupw := some (5, 0x50000) }] }
/-- Segment 5 with the given DUP, which a control core and an engine wait for. -/
def dupState (dup : Nat) : State := (ctlState dupCtx).setEntry 1 5 { w0 := 0x50000, w1 := 0x1000E, w3 := BitVec.ofNat 64 (dup * 16) }
def copyObj : Obj :=
  { defn := { obj := 3, rows := 4, rowb := 1, homeCap := true, place := 0, gdie := 0, stslots := 4, rsslots := 4 }, rows := [{ row := 2, level := 1 }] }
/-- STALLUS 10 in segment 4: before and after it has passed; a DUPW of segment 5 in each of its steps; a copy that has not landed. -/
theorem witness_StallDuplicationAndAccretionEvents :
    ((stallState stallCtx 9).ctxAt 0 0 = some stallCtx ∧ stallCtx.hold = .stall 4 0x40000 ∧ stallCtx.stall = some (stallCtx.ctl.addr, [(4, 0)])) ∧
    (((stallState stallCtx 9).entry 1 4).res = false ∧ ((stallState stallCtx 9).entry 1 4).stallus = 10 ∧
       ¬ (10 ≤ (stallState stallCtx 9).firm.us - 0) ∧ 10 ≤ (stallState stallCtx 10).firm.us - 0 ∧
       (((stallCtx.eng.get .load)).find? (·.stall.isSome)).map (·.stall) = some (some (4, 0x40000, 0))) ∧
    ((dupState 1).ctxAt 0 0 = some dupCtx ∧ dupCtx.hold = .dupw 5 0x50000 ∧
      (((dupCtx.eng.get .store)).find? (·.dupw.isSome)).map (·.dupw) = some (some (5, 0x50000))) ∧
    (((dupState 0).entry 1 5).dup = 0 ∧ ((dupState 1).entry 1 5).dup = 1 ∧ 2 ≤ ((dupState 2).entry 1 5).dup) ∧
    (({ State.reset with objs := [copyObj] } : State).obj 3 = some copyObj ∧ (copyObj.row 2).landed < (copyObj.row 2).level ∧
      (copyObj.row 1).level ≤ (copyObj.row 1).landed) :=
  ⟨⟨test_ctx _ .ctl none, rfl, rfl⟩, by decide +kernel, ⟨test_ctx _ .ctl none, rfl, by decide +kernel⟩, by decide +kernel, by decide +kernel⟩

theorem x_runs (x : Ctx) (g : Guard) (vs : List VReg) (ps : List PReg) (es : List EReg) (q : QWord) (hp : x.pendr = false) :
    XRuns (testState x (.queue .x) (some q)) g vs ps es x q := ⟨test_ctx _ _ _, rfl, fun h => by rw [hp] at h; exact absurd h (by decide)⟩
theorem vec_ctx (l : List (Nat × Nat)) : (vecState l).ctx? = some testCtx := by
  have h := test_ctx testCtx (.queue .x) (some testWord)
  rw [← h]
  unfold vecState State.putCore State.ctx? State.ctxAt State.myCore
  dsimp only
  rw [show ∀ (s : State) k, (s.setCore s.cur.core k).cur = s.cur from fun _ _ => rfl, setCore_core, if_pos rfl]
theorem vec_runs (l : List (Nat × Nat)) (g : Guard) (vs : List VReg) (ps : List PReg) (es : List EReg) :
    XRuns (vecState l) g vs ps es testCtx testWord := ⟨vec_ctx l, rfl, fun h => absurd h (by decide +kernel)⟩
theorem room_vec : testCtx.room .vec = true := by decide

/-- Words in F32, with and without FXT; ∞ − ∞ in element 0 is invalid, 1 + 1 is not. -/
theorem witness_FloatWords : (∀ l g vs, XRuns (vecState l) g vs [] [] testCtx testWord) ∧ testCtx.room .vec = true ∧
    [Instr.vadd v312, .vsub v312, .vmul v312, .vfma { v312 with vc := 4 }, .vfms { v312 with vc := 4 }, .vfnma { v312 with vc := 4 }, .vmin v312, .vmax v312,
      .vrcp { v312 with vb := 0 }, .vrsq { v312 with vb := 0 }, .vexp2 { v312 with vb := 0 }, .vlog2 { v312 with vb := 0, ty := .f64, mods := 1 },
      .vadd { v312 with rnd := .sr, mods := 1 }].all Instr.fieldsOk = true ∧ ElemType.f32.ffmt? = some f32F ∧
    (let s := vecState [(1, 0x7F800000), (2, 0xFF800000)]
     let a := decodeF f32F (s.elem testCtx 1 32 0)
     let b := decodeF f32F (s.elem testCtx 2 32 0)
     testCtx.active none 32 0 = true ∧ (a.add .rne b).isNan = true ∧ a.isNan = false ∧ b.isNan = false ∧
       (List.range 32).all (fun j => !((decodeF f32F ((vecState []).elem testCtx 1 32 j)).add .rne (decodeF f32F ((vecState []).elem testCtx 2 32 j))).isNan) = true) :=
  ⟨fun _ _ _ => vec_runs _ _ _ _ _, room_vec, by decide +kernel⟩
theorem witness_IntegerWords : (∀ l g vs, XRuns (vecState l) g vs [] [] testCtx testWord) ∧ testCtx.room .vec = true ∧
    (let o := { v312 with ty := .i8 }
     [Instr.viadd o, .visub { o with mods := 1 }, .vimul o, .vimulh o, .vimad { o with vc := 4, ty := .n64 }, .vimin o, .vimax o, .vishl { o with vb := 0, mods := 0x1E },
      .vishl o, .vishr { o with vb := 0, mods := 0x1E }, .vishr o, .viabs { o with vb := 0 }, .visat { o with vb := 0, mods := 0x1C }].all Instr.fieldsOk = true) :=
  ⟨fun _ _ _ => vec_runs _ _ _ _ _, room_vec, by decide⟩
theorem witness_SelectCompareAndBitWords : (∀ l g vs ps, XRuns (vecState l) g vs ps [] testCtx testWord) ∧ testCtx.room .vec = true ∧
    (let u := { v312 with ty := .f64 }
     [Instr.vabs { v312 with vb := 0 }, .vneg { u with vb := 0 }, .vsel { u with vc := 15 }, .vlop3 { u with vc := 4, mods := 0x7F8000 }, .vfshl { u with vc := 4 },
      .vfshr { u with mods := 0x7E }, .vpopc { u with vb := 0, ty := .i16 }, .vclz { u with vb := 0, ty := .n64 }, .vcmp { u with vd := 15, mods := 0x580000 },
      .vcmp { v312 with vd := 3, ty := .f16, mods := 0x020000 }, .vicmp { u with ty := .i8, mods := 0x4E0000 }].all Instr.fieldsOk = true ∧
     ElemType.f16.ffmt? = some f16F ∧ ElemType.f64.ffmt? = some f64F) := ⟨fun _ _ _ _ => vec_runs _ _ _ _ _, room_vec, by decide⟩
/-- Conversions up, down and between integers, with the highest part; both forms of VQNT and VDQNT. -/
theorem witness_ConversionWords : (∀ l g vs, XRuns (vecState l) g vs [] [] testCtx testWord) ∧ testCtx.room .vec = true ∧
    (let o := { v312 with vb := 0 }
     [Instr.vcvt { o with ty := .f64, mods := 0x022000 }, .vcvt { o with ty := .e4m3, mods := 0x026001 }, .vcvt { o with mods := 0x0C1F00 ||| 0xE000 },
      .vpack { v312 with ty := .i8, mods := 0x240000 }, .vunpk { o with ty := .i64, mods := 0x222000 }, .vqnt { v312 with ty := .n4, mods := 0x02E000 },
      .vqnt { o with ty := .db4, mods := 0x020001 }, .vdqnt { o with mods := 0x100000 }, .vdqnt { v312 with mods := 0x38E000 }].all Instr.fieldsOk = true ∧
     [0x01, 0x06, 0x12, 0x11, 0x08, 0x1C].all (fun c => (ElemType.ofCode c).isSome) = true ∧ ElemType.db4.isDB = true ∧ ElemType.n4.isDB = false) :=
  ⟨fun _ _ _ => vec_runs _ _ _ _ _, room_vec, by decide⟩
theorem witness_PermuteWords : (∀ l g vs, XRuns (vecState l) g vs [] [] testCtx testWord) ∧ testCtx.room .vec = true ∧
    [Instr.viota { v312 with va := 0, vb := 0 }, .vbcast ⟨none, 3, 0, 0, 0x4003F800000⟩, .vbcast ⟨none, 3, 0, 5, 0x40100000000⟩, .vinsl ⟨none, 3, 0, 5, 0x4000000001F⟩,
      .vextl ⟨some ⟨0, false⟩, 0, 3, 5, 0x44000000001F⟩].all Instr.fieldsOk = true ∧ ElemType.ofCode 0x11 = some .i32 ∧ testCtx.active none 32 31 = true ∧
    testCtx.active (some ⟨0, false⟩) 32 31 = false := ⟨fun _ _ _ => vec_runs _ _ _ _ _, room_vec, by decide +kernel⟩
theorem witness_ReductionAndSortWords : (∀ l g vs, XRuns (vecState l) g vs [] [] testCtx testWord) ∧ testCtx.room .vec = true ∧
    [Instr.vrsum { v312 with vb := 0 }, .vrsum { v312 with vb := 0, ty := .i64 }, .vscan { v312 with vb := 0, ty := .f16 }, .vrmax { v312 with vb := 0 }, .vrmin { v312 with vb := 0 },
      .vrargmax { v312 with vb := 0, ty := .f64 }, .vbsort { v312 with vb := 0, ty := .n32, mods := 1 }, .vbmerge v312, .vmergek v312, .vbstep { v312 with vb := 0, mods := 0x1E },
      .visect { v312 with ty := .n32, mods := 3 }, .vunion { v312 with ty := .n32 }].all Instr.fieldsOk = true ∧ ElemType.f16.ffmt? = some f16F :=
  ⟨fun _ _ _ => vec_runs _ _ _ _ _, room_vec, by decide⟩
/-- The accumulator's sum stays in range, as with 2^53 + 1. -/
theorem witness_ExactWords : (∀ l g vs es, XRuns (vecState l) g vs [] es testCtx testWord) ∧ testCtx.room .vec = true ∧ testCtx.guardOk none = true ∧
    (let t := termOf (.fin false 1 53)
     t.cls = 0 ∧ -2148 ≤ t.ex ∧ (-2 ^ 4347 ≤ ((0 : BitVec 4352).extractLsb' 0 4348).toInt + (t.mag * 2 ^ (t.ex + 2148).toNat : Nat)) ∧
       ((0 : BitVec 4352).extractLsb' 0 4348).toInt + (t.mag * 2 ^ (t.ex + 2148).toNat : Nat) < 2 ^ 4347) :=
  ⟨fun _ _ _ _ => vec_runs _ _ _ _ _, room_vec, rfl, by decide +kernel⟩
/-- A register with one pair in front of the padding of a set. -/
def pairReg (k v : Nat) : Nat := 2 ^ 1024 - 2 ^ 64 + v * 2 ^ 32 + k
/-- Two registers whose pairs are in order and whose sets rise, with one key in common or none. -/
theorem witness_ReductionAndSortWords_sets :
    (let s := vecState [(1, pairReg 5 7), (2, pairReg 5 8), (3, pairReg 6 9)]
     let pairs := fun r : VReg => (List.range 16).map fun i => (s.elem testCtx r 32 (2 * i), s.elem testCtx r 32 (2 * i + 1))
     let set := fun r : VReg => (pairs r).takeWhile fun p => p.1 != 2 ^ 32 - 1
     set 1 = [(5, 7)] ∧ set 2 = [(5, 8)] ∧ set 3 = [(6, 9)] ∧ ((pairs 1).Pairwise fun p r => p.1 ≤ r.1) ∧ ((pairs 3).Pairwise fun p r => p.1 ≤ r.1) ∧
       ((set 1).Pairwise fun p r => p.1 < r.1)) := by decide +kernel

/-- A context whose h0 is a ring of two slots of two rows in bank 2, one of them filled, and X words that name rows through s1. -/
def ringCtx : Ctx := testCtx.setHandle 0 { bank := 2, row := 0, slots := 2, rps := 2, head := 0, tail := 1, filled := 1 }
abbrev hRow : VM := ⟨none, 4, true, 0, 1, 0⟩
/-- Rows 0 and 8191, the row past the last; offsets within a slot, at its end and below it; a slot that is filled and one that is not. -/
theorem witness_VectorMemoryWords :
    (∀ g vs, XRuns (testState ringCtx (.queue .x) (some testWord)) g vs [] [] ringCtx testWord) ∧ ringCtx.room .vec = true ∧ ringCtx.pends = false ∧
    ringCtx.guardOk none = true ∧
    (let s := testState ringCtx (.queue .x) (some testWord)
     s.myCore.spadBad = [] ∧ ringCtx.spadRow 8191 = some 8191 ∧ ringCtx.spadRow 0 = some 0 ∧ ringCtx.spadRow 8192 = none ∧ ringCtx.splitPair 0 = false ∧ ringCtx.splitPair 31 = false ∧
       (0x1FFF : BitVec 16).signExtend 64 = (8191 : Word) ∧ (0x2000 : BitVec 16).signExtend 64 = (8192 : Word)) ∧
    (let h := ringCtx.handle 0
     (0 ≤ (hRow.off.signExtend 64).toInt ∧ (hRow.off.signExtend 64).toInt < h.rps) ∧ (h.rps : Int) ≤ ((2 : BitVec 16).signExtend 64).toInt ∧
       ((-1 : BitVec 16).signExtend 64).toInt < 0 ∧ 0 < h.filled ∧ h.filled ≤ 1 ∧ 0 < h.slots - h.filled ∧ ringCtx.runs = [] ∧
       2 * 256 + 0 + (0 + 0) % 2 * 2 + 1 < 8192 ∧ ringCtx.spadRow 513 = some 513 ∧ ringCtx.spadRow 515 = some 515 ∧
       (1 ≤ h.filled ∧ h.filled < 2) ∧ (1 ≤ h.slots - h.filled ∧ h.slots - h.filled < 2)) ∧
    (∀ f ∈ ringCtx.flights, ∀ r l v, f.val ≠ .row r l v) := by
  have hf : ringCtx.flights = [] := rfl
  refine ⟨fun _ _ => x_runs _ _ _ _ _ _ rfl, by decide +kernel, by decide +kernel, rfl, by decide +kernel, by decide +kernel, ?_⟩
  rw [hf]; simp

def oneTrip : Vector Word 13 := Vector.replicate 13 1
/-- A loop of one trip and one of none; a body that VEXIT leaves; a REP of none; NOPs of one clk and of 64. -/
theorem witness_LoopAndPredicateWords :
    (∀ l g vs ps, XRuns (vecState l) g vs ps [] testCtx testWord) ∧ testCtx.guardOk none = true ∧ testCtx.room .vec = true ∧
    (∃ j, j < 6 ∧ ((testWord.cap.desc.toList[2 * j + 1]?).getD 0).extractLsb' 0 32 = 0) ∧
    (¬ ∃ j, j < 6 ∧ ((oneTrip.toList[2 * j + 1]?).getD 0).extractLsb' 0 32 = 0) ∧
    (∀ q, (testState testCtx (.queue .x) (some q)).ctx? = some testCtx ∧ (testState testCtx (.queue .x) (some q)).cur.word = some q) ∧
    (let x : Ctx := { testCtx with qx := { cur := { loop := some { desc := oneTrip, len := 1 } } } }
     XRuns (testState x (.queue .x) (some testWord)) none [] [] [] x testWord ∧ x.qx.cur.loop.isSome = true) ∧
    (CtlRuns (ctlState testCtx) none [] testCtx ∧ ∀ k, (ctlState testCtx).cur.unit ≠ .queue k) ∧
    (∀ k, SyncRuns (testState testCtx (.queue k) (some testWord)) none testCtx testWord k) ∧ ((63 : BitVec 52).extractLsb' 0 6).toNat ≠ 0 := by
  refine ⟨fun _ _ _ _ => vec_runs _ _ _ _ _, rfl, room_vec, ⟨0, by decide⟩, ?_, fun q => ⟨test_ctx _ _ _, rfl⟩, ⟨x_runs _ _ _ _ _ _ rfl, rfl⟩,
    ⟨ctl_runs _ _ _ rfl rfl rfl, fun k h => Unit_.noConfusion (show Unit_.ctl = Unit_.queue k from h)⟩, fun k => sync_runs _ _ _ rfl, by decide⟩
  rintro ⟨j, hj, h⟩
  revert hj h
  revert j
  decide

/-- A guard that fails, twelve results in flight, a source pending under PENDR, and repetitions of both parities. -/
theorem witness_VectorWordsThatDoNotIssue :
    ((testState testCtx (.queue .x) (some testWord)).ctx? = some testCtx ∧ testCtx.pendr = false ∧ testCtx.guardOk (some ⟨1, false⟩) = false) ∧
    (fullCtx.room .vec = false ∧ XRuns (testState fullCtx (.queue .x) (some testWord)) none [1, 2, 0] [] [] fullCtx testWord) ∧
    (let x : Ctx := { testCtx with sys := { testCtx.sys with dbgctl := 2 }, flights := [{ unit := .vec, land := 4, val := .vec 1 1 0 }] }
     (testState x (.queue .x) (some testWord)).ctx? = some x ∧ x.pendr = true ∧ x.vecPending (x.phys 1) = true) ∧
    (let r : RepSt := { px := ⟨4, 1, 1, 0, 1⟩, i := 2, half := 1 }
     let x : Ctx := { testCtx with qx := { cur := { rep := some r } } }
     x.qx.cur.rep = some r ∧ r.i + 1 < r.px.count.toNat ∧ ({ r with i := 1, half := 0 } : RepSt).i + 1 < r.px.count.toNat) :=
  ⟨⟨test_ctx _ _ _, by decide +kernel⟩, ⟨by decide +kernel, x_runs _ _ _ _ _ _ (by decide +kernel)⟩, ⟨test_ctx _ _ _, by decide +kernel⟩, by decide +kernel⟩
/-- PENDS with a store of row 0 in flight, and with none; the second repetition of a pair in its first one's bank. -/
theorem witness_VectorMemoryWords_pend :
    (let x : Ctx := { testCtx with sys := { testCtx.sys with dbgctl := 1 }, flights := [{ unit := .vec, land := 4, val := .row 0 0 0 }] }
     let r : RepSt := { px := ⟨4, 1, 1, 0, 1⟩, i := 1, half := 1, bank := 0 }
     x.pendr = false ∧ x.pends = true ∧ x.rowPending 0 = true ∧ x.rowPending 1 = false ∧ x.spadRow 0 = some 0 ∧
       ({ testCtx with qx := { cur := { rep := some r } } } : Ctx).splitPair 0 = true) := by decide +kernel
/-- A nest of one dimension of 2 and five of 1: in the midst of a body, at the end of an iteration, and at the end of the last. -/
theorem witness_LoopAndPredicateWords_nest :
    (let d : Vector Word 13 := oneTrip.set 1 2
     let l : LoopSt := { desc := d, len := 2 }
     let x : Ctx := { testCtx with qx := { cur := { loop := some l } } }
     let bound := fun j : Nat => (((l.desc.toList[2 * j + 1]?).getD 0).extractLsb' 0 32).toNat
     x.qx.cur.loop = some l ∧ l.pos.length = 6 ∧ l.idx + 1 < l.len ∧ l.len ≤ ({ l with idx := 1 } : LoopSt).idx + 1 ∧ l.pos.getD 0 0 + 1 < bound 0 ∧
       (∀ i, i < 6 → bound i ≤ [1, 0, 0, 0, 0, 0].getD i 0 + 1)) := by decide +kernel

def macCtx (e : Eng) (r : Run) : Ctx := { testCtx with eng := testCtx.eng.set e [r] }
theorem eng_runs (e : Eng) (r : Run) : EngRuns (macState e r) (macCtx e r) e r := by
  refine ⟨test_ctx _ _ _, rfl, ?_⟩
  have h : (macCtx e r).eng.get e = [r] := by cases e <;> rfl
  show ((((macCtx e r).eng.get e)).find? fun t => t.q.num == r.q.num && t.q.trapm == r.q.trapm && t.q.w == r.q.w) = some r
  rw [h]
  simp
theorem queue_runs (x : Ctx) (k : Kind) (q : QWord) : QueueRuns (testState x (.queue k) (some q)) x k q := ⟨test_ctx _ _ _, rfl, rfl⟩
/-- What an `Except` result is when it is there. -/
abbrev gives {ε α : Type} (e : Except ε α) : Bool := match e with | .ok _ => true | .error _ => false

/-- A finished macro with its token, and numbers next to the timeline's value and past it. -/
theorem witness_MacroHandOverAndCompletion :
    (∀ k q, QueueRuns (testState testCtx (.queue k) (some q)) testCtx k q) ∧ testCtx.pendr = false ∧
    (let r : Run := { runOf 0 0 0 with fin := true, q := { testWord with w := 0xAC44000000000000000000, num := 1 } }
     (macState .matrix r).ctxAt 0 0 = some (macCtx .matrix r) ∧ (macCtx .matrix r).eng.get .matrix = r :: [] ∧ r.fin = true) ∧
    (1 = ({} : Timeline).value + 1 ∧ ({} : Timeline).ahead = [] ∧ ({} : Timeline).value + 1 < 2) :=
  ⟨fun _ _ => queue_runs _ _ _, by decide, ⟨test_ctx _ _ _, rfl, rfl⟩, by decide⟩

/-- Macros with F32 rows: scratchpad rows at 0 and 1, memory at 0x100. -/
def runF (a b c : Word) : Run := { runOf a b c with q := { (runOf a b c).q with cap := { (runOf a b c).q.cap with bfmt := Vector.replicate 32 2 } } }
theorem witness_TransferMacros :
    (∀ e r, EngRuns (macState e r) (macCtx e r) e r) ∧
    -- a row without a handle: the last of one; the first row of a slot of a handle that the macro has taken, and one that it takes
    (let r := runF 0 0x100 0
     let o : EM := { mz with imm := 1 }
     let s := macState .load r
     let x := macCtx .load r
     RowTurn x r 1 none 0 0 0 x (r.did true) ∧ (gives (x.rowAt 0) && gives (s.xlatAll x .read (rowSectors o r 0x100 0 0)) && gives (landRow s.myCore x 0 0 0 none)
       && gives (readRow s.myCore x 0) && gives (s.xlatAll x .write (rowSectors o r 0x100 0 0)) && transferRows o r == 1 && r.q.fill.isNone) = true ∧
     (match s.xlatAll x .read (rowSectors o r 0x90000 0 0) with | .error (va, .segv) => va == 0x90000 | _ => false) = true ∧
     (match s.xlatAll x .write (rowSectors o r 0x20000 0 0) with | .error (va, .perm) => va == 0x20000 | _ => false) = true ∧
     (s.writeSectors (rowCells 0 ((List.range 8).map fun i => Loc.mem (32 * i)) 0) none).isSome = true) ∧
    (let r : Run := { runF 0 0 0 with aux := [2] }
     let x := (macCtx .load r).setHandle 0 { bank := 2, row := 0, slots := 2, rps := 2, head := 0, tail := 1, filled := 1 }
     let d : Side := ⟨0, { bank := 2, row := 0, slots := 2, rps := 2 }, true⟩
     RowTurn x r 2 (some d) 0 0 514 x { r with aux := [2, 1], stall := none, dupw := none } ∧
       SlotTurn x (runF 0 0 0) 2 d (({ runF 0 0 0 with wait := none }.setAux 0 2).governed d 514) ∧ SideSlot r (some d) 0 1 ∧ SideSlot r none 1 0) ∧
    -- CPY and CPYA over one row, ROWG over a list of one row, PFT of one unit
    (let r := runF 0x100 0 0x200
     let s := macState .load r
     let x := macCtx .load r
     let f := r.q.fmt 0
     let g : Fmt := { f with code := 4 }
     SideFmt x r none 0 f ∧
     (gives (operandFmt x r.q 0 1) && gives (agreeRows x r.q f [0]) && gives (cpySources s.myCore x r.q (sameBytes f f) f [0] []) && gives (cpySame s.myCore x r.q f f 0 0 1 256 0 256 5)
       && gives (cpyConvert s.myCore x r.q f g [0] [[0, 0, 0, 0]] 256 0 128) && gives (s.myCore.creditAt x none 256) && sideFits none 1 && gives (readAcc s.myCore x 0)
       && f.typeRaw32.isSome && gives (decodePart s.myCore x r.q .f32 0 0 64) && gives (writeAcc s.myCore x 511 (List.replicate 256 (.fin false 0 0)))
       && f.code == 2 && sameBytes f f && !sameBytes f g) = true ∧
     s.myCore.matrixWrites 0 = false ∧ gives (writeBytes s.myCore x 0 8 3) = true) ∧
    (let r := runF 0x100 0x80000 0x200
     let ob : Obj := { defn := { obj := 3, rows := 4, rowb := 1, homeCap := false, place := 0x10000, gdie := 0, stslots := 4, rsslots := 4 } }
     let s := ({ macState .load r with objs := [ob] } : State).setEntry 1 8 { w0 := 0x80000, w1 := 0x10002, w2 := 0x3000000000000003, w3 := 0x80 }
     let k := (macState .load r).myCore.putSpadBytes 0x200 (bytesOf 8 (1 + 3 * 2 ^ 32))
     let x := macCtx .load r
     (match s.xlat x 0x80000 .read with | .ok _ i => i == 8 | _ => false) = true ∧
     (s.segEntry s.myCore 1 8 0x80000).tier = 3 ∧ (s.segEntry s.myCore 1 8 0x80000).obj = 3 ∧ s.obj 3 = some ob ∧
       listWord k x 0x200 0 = .ok 1 ∧ listWord k x 0x200 1 = .ok 3 ∧ 3 < ob.defn.rows ∧ r.aux = [] ∧ upTo (1 - 0) (slotRest none 0) = 1) ∧
    (Sparse.wf (State.reset.core 0).spad = true ∧ testCtx.spadRow 0 = some 0 ∧ gives (landRow (State.reset.core 0) testCtx 0 0x0F 1 none) = true) := by
  refine ⟨fun _ _ => eng_runs _ _, ⟨?_, by decide +kernel, by decide +kernel, by decide +kernel, by decide +kernel⟩, ⟨?_, ?_, rfl, rfl⟩, ⟨by unfold SideFmt; decide +kernel, by decide +kernel⟩,
    by decide +kernel, by decide +kernel⟩
  · exact ⟨by decide, rfl, rfl, rfl, rfl⟩
  · exact ⟨by decide, by decide, by decide, ⟨1, by decide, by decide⟩, by decide +kernel⟩
  · exact ⟨by decide, by decide, by decide, by unfold TakesSlot; decide +kernel⟩
/-- The two rows of a PROBE fill of two; a ring whose banks differ, so that the first slot must be taken before its format is known; and a copy
between a block format of 8 bits and F32 in whole rows and in parts. -/
theorem witness_TransferMacros_forms :
    (let r : Run := { runF 0 0x100 0 with q := { (runF 0 0x100 0).q with fill := some (0, 0, 8, 2) } }
     r.q.fill = some (0, 0, 8, 2) ∧ r.done + 1 ≠ 2 ∧ (macCtx .load r).rowAt 8 = .ok 8) ∧
    (let r0 := runF 0x100 0 0x200
     let r := { r0 with q := { r0.q with cap := { r0.q.cap with bfmt := (Vector.replicate 32 2).set 3 4 } } }
     let x := macCtx .load r
     let d : Side := ⟨0, { bank := 2, row := 0, slots := 2, rps := 256 }, false⟩
     r.srcRow = none ∧ gives (operandFmt x r.q d.geo.firstRow (d.geo.slots * d.geo.rps)) = false ∧ r.slotAt 1 = none ∧ d.ready x < 1 ∧
       d.ready (x.setHandle 0 { bank := 2, row := 0, slots := 2, rps := 256, filled := 1 }) = 1) ∧
    (cpyOut true 8 8 4 4 = 1024 ∧ cpyOut true 8 8 4 1 = 256 ∧ cpyOut false 32 8 4 2 = 128 ∧ cpyOut true 8 32 1 1 = 1024) ∧
    (0 < 256 ∧ 1 ≤ 2 ∧ 2 < 4) := by decide +kernel


/-- Another node and this one; an answered transaction; a group with another core's member that accepts; index blocks over the scratchpad and memory,
with an entry that is skipped, and an atomic one at a bank. -/
theorem witness_FabricAndIndexMacros :
    (∀ e r, EngRuns (macState e r) (macCtx e r) e r) ∧
    (nodeOk 400000 = false ∧ nodeOk 399999 = true ∧ nodeOk 0 = true ∧ (macState .store (runF 0 0 0)).firm.node = 0 ∧ (BitVec.ofNat 19 399999) ≠ (0 : BitVec 19)) ∧
    (let r := runF 0 0x100 0
     let s := macState .store r
     let x := macCtx .store r
     let f : Flit := { src := 0, dst := 0, asid := 1, addr := 0x100, tag := 0, nrows := 1, rows := [5] }
     let t : Txn := { flit := { f with dst := 7 }, typ := 1, core := 0, bank := 0, eng := .store, num := 0, row := 0, sent := 0, reply := some [] }
     RowTurn x r 1 none 0x100 0 1 x (r.did true) ∧ (s.txnOf r = none ∧ (({ s with txns := [t] } : State).txnOf r).map (·.reply) = some (some []) ∧
       (match s.recvPut f with | .ok (some (_, rows)) => rows == [] | _ => false) = true ∧ (match s.recvGet f with | .ok (some (_, rows)) => rows.length == 1 | _ => false) = true ∧
       (match s.recvCollective { f with addr := 0x10000 } with | .ok (some (_, rows)) => rows == [] | _ => false) = true ∧
       (match s.recvPuth f with | .ok (some (_, rows)) => rows == [] | _ => false) = true ∧ gives (readRows s.myCore x 0 1) = true ∧ gives (x.rowAt 1) = true)) ∧
    (let r := { runF 0x10000 0 0 with aux := [2, 0, 1, 1] }
     let s := (macState .store r).setCtxAt 1 0 (some testCtx)
     (match mcastRows (macCtx .store r) r mz with | .ok (rows, bar) => rows == [0] && bar == none | _ => false) = true ∧
       gives (s.xlatAll (macCtx .store r) .read [0x10000]) = true ∧ bitsBelow 128 2 = [1] ∧ (s.core 1).accepts 1 [0] = true ∧ (s.core 2).accepts 1 [0] = false) ∧
    (let blk := fun (esize space skip tbase : Nat) => tbase + 0x100 * 2 ^ 64 + 0x200 * 2 ^ 96 + esize * 2 ^ 128 + space * 2 ^ 136 + skip * 2 ^ 152
     let r := runF 0 0 0
     let k := (((macState .index r).myCore.putSpadBytes 0 (bytesOf 64 (blk 2 1 0 0x400))).putSpadBytes 0x100 (bytesOf 4 1)).putSpadBytes 0x104 (bytesOf 4 0xFFFFFFFF)
     let x := macCtx .index r
     readBytes k x 0 64 = .ok (blk 2 1 0 0x400) ∧ (IxBlk.ofNat (blk 2 1 0 0x400) false).ok = true ∧ (IxBlk.ofNat (blk 9 1 0 0) false).ok = false ∧
       (IxBlk.ofNat (blk 8 0 1 0) true).ok = true ∧ readBytes k x 0x100 4 = .ok 1 ∧ readBytes k x (0x100 + 4 * (1 + 0)) 4 = .ok 0xFFFFFFFF ∧
       (gives (readBytes k x 0x400 4) && gives (writeBytes k x 0x200 4 7) && gives ((macState .index r).xlatAll x .read ((IxBlk.ofNat (blk 2 0 0 0x100) false).sectors 0x100))
         && gives ((macState .index r).xlatAll x .write ((IxBlk.ofNat (blk 2 0 0 0x10000) false).sectors 0x10000))) = true ∧
       inShared (.mem dsmBase) = true ∧ ((macState .index r).bankAdd x 0 4 1 (.mem dsmBase)).isSome = true ∧
       ((macState .index r).writeSectors (elemCells 4 [.mem 0x100] 7) none).isSome = true) := by
  refine ⟨fun _ _ => eng_runs _ _, by decide +kernel, ⟨⟨by decide, rfl, rfl, rfl, rfl⟩, by decide +kernel⟩, by decide +kernel, by decide +kernel⟩

/-- The clock of an addition at another die, which the thread's die has reached or not. -/
theorem witness_FabricAndIndexMacros_remote :
    (let s := macState .index (runF 0 0 0)
     s.clockReached s.myDie [0, 0, 0, 0] = true ∧ s.clockReached s.myDie [0, 1, 0, 0] = false ∧ ([0, 1, 0, 0] : List Nat) ≠ [] ∧
       homeDie (dsmBase + dsmBytes) ≠ s.myDie ∧ homeDie dsmBase = s.myDie ∧ inShared (.mem (dsmBase + dsmBytes)) = true) := by decide +kernel

/-- Tiles over F16 rows: one step and the second of two; a list's count at and past its limit; a mask of one row; a program with and without NOWRITE. -/
theorem witness_MatrixAndBrimMacros :
    (∀ e r, EngRuns (macState e r) (macCtx e r) e r) ∧
    (let r0 := runF 0 0x10000 0x20000
     let r := { r0 with q := { r0.q with cap := { r0.q.cap with bfmt := Vector.replicate 32 4 } } }
     let s := macState .matrix r
     let x := macCtx .matrix r
     (match matScalar x r.q 0 128 1, matScalar x r.q 256 256 128 with
     | .ok a, .ok w => (match spanSides s.myCore x r.q a.t (a.at_ 0 0) 128 with
         | .ok sides => gives (decodeSpanWith s.myCore x r.q a.t (a.at_ 0 0) 0 128 sides)
         | _ => false) && gives (decodeSpan s.myCore x r.q w.t (w.at_ 0 127) 0 256) && gives (readAcc s.myCore x 0)
         && gives (writeAcc s.myCore x 511 (List.replicate 256 (.fin false 0 0)))
     | _, _ => false) = true ∧ gives (govFmt x r.q 0) = true) ∧
    (let r := runF 0 0 0x20000
     let s := macState .matrix r
     let x := macCtx .matrix r
     listWord s.myCore x 0x20000 0 = .ok 0 ∧ readBytes s.myCore x 0 16 = .ok 0 ∧ x.accAt 511 = .ok 511 ∧ gives (x.accAt 512) = false ∧
       gives (brimRows s.myCore x r.q 0) = true ∧ (r.q.fmt 0).drain.isSome = true ∧ gives (govFmt (macCtx .matrix r) r.q 0) = true ∧
       (match (r.q.fmt 0).drain with
         | some (ty, f) => gives (writeSpan s.myCore x r.q ty 0 (encodeSpan ty f false x.gens.brim (List.replicate 256 (FVal.fin false 0 0))).1 [])
         | none => false) = true ∧
       gives (readRow s.myCore x 0) = true ∧ x.brim.prog.contains 12 = false ∧ x.brim.prog.contains 6 = false ∧ [8, 9, 10, 11, 12].contains 12 = true ∧
       gives (writeBytes s.myCore x 0 768 (({} : BrimSlot).bytes)) = true) ∧
    ([((.fin false 1 0 : FVal), List.replicate 256 (FVal.fin false 2 0))] ≠ [] ∧ ({} : BrimSlot).heap.length ≤ 64) := by
  refine ⟨fun _ _ => eng_runs _ _, by decide +kernel, by decide +kernel, by decide⟩

/-- A tile step with what was read once, for one operand row and for a row of weights; MMG's list of one and past 256; a mask of one row; the rows
of a drained row that wait for a slot: one, and two. -/
theorem witness_MatrixAndBrimMacros_parts :
    (let r0 := runF 0 0x10000 0x20000
     let r := { r0 with q := { r0.q with cap := { r0.q.cap with bfmt := Vector.replicate 32 4 } } }
     let s := macState .matrix r
     let x := macCtx .matrix r
     let none' := List.replicate 256 (FVal.fin false 0 0)
     (match matScalar x r.q 0 2 1, matScalar x r.q 256 256 2, matScalar x r.q 256 2 4 with
     | .ok a, .ok w, .ok g => (match spanSides s.myCore x r.q a.t (a.at_ 0 0) 2, spanSides s.myCore x r.q g.t (g.at_ 0 (3 * g.rows)) 2 with
         | .ok sd, .ok sg => sd.length == 3 * a.rows && sg.length == 3 * g.rows && gives (decodeSpanWith s.myCore x r.q a.t (a.at_ 0 0) 0 2 sd)
             && gives (decodeSpanWith s.myCore x r.q g.t (g.at_ 0 3) 0 2 sg)
             && gives ((List.range 2).mapM fun i => decodeSpan s.myCore x r.q w.t (w.at_ 0 i) 0 256)
             && gives (writeAcc s.myCore x 0 (none'.zipWith accAdd (colSums [(FVal.fin false 1 0, none'), (FVal.fin false 1 0, none')])))
         | _, _ => false)
     | _, _, _ => false) = true ∧ gives (writeBytes s.myCore x 0 256 5) = true) ∧
    ((mz : EM).dir = false ∧ ({ mz with imm := 0x8000 } : EM).dir = true ∧ (mz : EM).msk = false ∧ ({ mz with imm := 0x800000 } : EM).msk = true ∧ (mz : EM).b6 = 1 ∧
      (0 < (mz : EM).b6) ∧ (mz : EM).clr = false ∧ ({ mz with imm := 0x2000000 } : EM).clr = true ∧ (mz : EM).one = false ∧
      ({ testCtx.brim with mask := [⟨0, 0, 0⟩] } : Brim).mask.length = 1 ∧ (mz : EM).sa = 0 ∧ ({ mz with sa := 1 } : EM).sa ≠ 0) ∧
    (let r := fun l : List Nat => ({ runF 0 0 0 with aux := 1 :: 0 :: 7 :: l } : Run)
     (r []).aux = 1 :: 0 :: 7 :: [] ∧ (r [8]).aux = 1 :: 0 :: 7 :: [8] ∧ ([8] : List Nat) ≠ [] ∧ (r []).aux.drop 2 ≠ [] ∧
       testCtx.brim.prog.contains 12 = false) := by decide +kernel

/-- PREDCFG with D = 2 and with equal classes; lists on both sides of MISSLIM; the manual's tree; streams of equal and unequal lengths whose masks
meet or do not. -/
theorem witness_PredictorAcceptanceAndStreamMacros :
    (∀ e r, EngRuns (macState e r) (macCtx e r) e r) ∧ (∀ x u q, MemoryOk (testState x u q)) ∧
    (let r0 := runF 0 0x10000 0x20000
     let r := { r0 with q := { r0.q with cap := { r0.q.cap with pred := 0x10000002, lim := 0 } } }
     let s := macState .pred r
     let x := macCtx .pred r
     fieldNat r.q.cap.pred 0 16 = 2 ∧ (Fin.ofNat 16 (fieldNat r.q.cap.pred 24 4)) ≠ Fin.ofNat 16 (fieldNat r.q.cap.pred 28 4) ∧
       fieldNat (0x11000002 : Word) 24 4 = fieldNat (0x11000002 : Word) 28 4 ∧
       (match predElems s.myCore x r.q 0 2 with | .ok vs => vs.length == 2 | _ => false) = true ∧ readBytes s.myCore x 0x10000 4 = .ok 0 ∧
       (gives (writeBytes s.myCore x 0x20000 8 (listBytes [])) && gives (readPlist s.myCore x 512 1) && gives (missList s.myCore x r.q 1 1 [])) = true ∧
       (decide (0 < [0].length) = true ∧ (0 : Word).getLsbD 16 = false ∧ decide (1 < [0].length) = false) ∧
       (gives (readRows s.myCore x 256 3) && gives (x.rowAt 0) && gives (writeBytes s.myCore x 0 48 0)) = true) ∧
    (({ head := 21, w := 8, ents := List.range 72 } : Ring).ents.length = 8 + 64 ∧ 0 < 8 ∧ 63 < 64) ∧
    (let a : Stream := { bits := 0, acm := 1, lc := 0 }
     let b : Stream := { bits := 0, acm := 2, lc := 0 }
     a.lc ≠ ({ b with lc := 1 } : Stream).lc ∧ a.lc = b.lc ∧ a.acm &&& b.acm = 0 ∧ a.acm &&& a.acm ≠ 0 ∧ b.acm &&& (a.acm ||| a.acm) = 0 ∧
       [5, 6].take (a.len / 32) = [5, 6] ∧ [5, 6].Nodup ∧ ([5] : List Nat).length < a.len / 32) := by
  refine ⟨fun _ _ => eng_runs _ _, memoryOk_test, by decide +kernel, by decide, by decide⟩

/-- The module in service with one host, node 0, and the test space. -/
def readyState : State :=
  { State.reset with spaces := [testSpace], firm := { st := .ready, hosts := [9] } }
def flitAt (a : Word) : Flit := { src := 5, dst := 0, asid := 1, addr := a, tag := 1, nrows := 1, rows := [3] }
/-- Transactions to a module in RESET, of a space that is not loaded, of one that is armed, and to each tier; atomics with a bad AOP, SIZE or
address; an answer that waits, in time and late; a gang in its time and past it. -/
theorem witness_FabricEvents :
    (State.reset.firm.st ≠ .ready ∧ readyState.firm.st = .ready ∧ (flitAt 0).dst = readyState.firm.node ∧ (readyState.space 1).isSome = true ∧
      (readyState.space 2).isSome = false ∧ readyState.gangs.any (·.rec_.asid == 1) = false) ∧
    (let g : Gang := { num := 2, core := 0, bank := 0, rec_ := testRec, since := 0, armus := 10 }
     let s : State := { readyState with gangs := [g] }
     s.gangs.any (·.rec_.asid == 1) = true ∧ s.gangs.find? (·.num == 2) = some g ∧ ¬ (10 ≤ s.firm.us - 0)) ∧
    (gives (readyState.recvPlaces (flitAt 0x100) 1 .write) && gives (readyState.recvPlaces (flitAt 0x100) 1 .read) && gives (readyState.recvPlaces (flitAt 0x10000) 1 .write)
      && (match readyState.recvPut (flitAt 0x100) with | .ok (some _) => true | _ => false) && (match readyState.recvPut (flitAt 0x90000) with | .error 2 => true | _ => false)
      && (match readyState.recvPlaces (flitAt 0x10000) 1 .write with | .ok (ps, _) => ps.all fun p => inShared p.2.2 | _ => false)) = true ∧
    ((readyState.core 0).msgnNew = [] ∧ (readyState.core 0).msgn = 1 ∧ 255 + [(3 : Row)].length ≤ (readyState.core 0).msgn * 256 ∧
      (readyState.core 0).msgn * 256 < 256 + [(3 : Row)].length) ∧
    (let t : Flit := { flitAt 0x10004 with aop := 9, size := 2, cmp := 1 }
     t.resv = false ∧ t.aop.toNat < 10 ∧ (t.size = 2 ∨ t.size = 3) ∧ (t.aop = 9 ∨ t.cmp = 0) ∧ 10 ≤ ({ t with aop := 10 } : Flit).aop.toNat ∧
       (match readyState.recvXlat 1 0x10004 .write with | .ok (.mem pa, _) => decide (dsmBase ≤ pa) | _ => false) = true ∧
       (match readyState.recvXlat 1 0x100 .write with | .ok (.mem pa, _) => decide (pa < dsmBase) | _ => false) = true ∧
       gives (readyState.recvXlat 1 0x90000 .write) = false ∧ (readyState.bankOp 0 (dsmBase + 4) 4 none fun old => amoValue 9 32 old 1 0).isSome = true) ∧
    (let r : Run := { runF 0 0 0 with ctr := .tlc }
     let t : Txn := { flit := { flitAt 0 with dst := 7, tag := 1 }, typ := 1, core := 0, bank := 0, eng := .store, num := 0, row := 0, sent := 0, since := some 0 }
     let s : State := { macState .store r with txns := [t] }
     let late : State := { s with firm := { s.firm with us := 1000 } }
     s.txn 1 = some t ∧ t.flit.dst ≠ s.firm.node ∧ (macState .store r).ctxAt 0 0 = some (macCtx .store r) ∧
       ((macCtx .store r).runs.find? fun r => r.ctr == .tlc && r.q.num == 0) = some r ∧ s.firm.us - 0 < s.firm.ftout ∧ late.firm.ftout ≤ late.firm.us - 0) := by
  refine ⟨by decide +kernel, by decide +kernel, by decide +kernel, by decide +kernel, by decide +kernel, by decide +kernel, by decide, test_ctx _ _ _, by decide +kernel⟩

def hostOf (q : BitVec 32) : HostCmd := { src := 9, seq := q }
theorem command_runs (cls : CmdClass) : CommandRuns readyState (hostOf 1) cls := by
  unfold CommandRuns
  cases cls <;> decide +kernel
theorem first_in_turn (h : HostCmd) (on : CmdOn) : FirstInTurn readyState h on :=
  ⟨fun _ h => (by cases h), (by cases on <;> rfl)⟩
/-- An earlier command waits on a model context. -/
def waitingState : State := { readyState with firm := { readyState.firm with waiting := [(hostOf 2, .model 7)] } }
theorem not_first : ¬ FirstInTurn waitingState (hostOf 1) (.model 7) := fun h => absurd (h.1 (hostOf 2, .model 7) (by decide)) (by decide)
theorem command_waits (cls : CmdClass) : CommandRuns waitingState (hostOf 1) cls := by
  unfold CommandRuns
  cases cls <;> decide +kernel
/-- A model context of one layer, segment 0 of space 1, which is resident or not; layers that drain; a SWAPIN in progress. -/
def layerModel : Model := { defn := { num := 255, layers := [(0, { node := none, addr := 0 })], cls := 0 }, asid := 1 }
def layerState (f : Model → Model) (res : Bool) : State :=
  { readyState with models := [f layerModel] }.setEntry 1 0 { w1 := 0x1000E, w3 := if res then 0x80 else 0 }
abbrev isFree (r : Room) : Bool := match r with | .free _ => true | _ => false
abbrev isDraining (r : Room) : Bool := match r with | .draining _ => true | _ => false
abbrev isRefused (r : Room) : Bool := match r with | .refused _ => true | _ => false
/-- An access to segment 0 is on its way. -/
def busyLayer : State := (layerState id true).setCtxAt 0 0 (some { testCtx with ops := [{ kind := .load 3 false, loc := .mem 0, size := 8 }] })
/-- The stack tier with all but one segment's worth of it switched off, and with all of it. -/
def fullState (n : Nat) (st : State) : State := { st with firm := { st.firm with stackCap := n, dieOff := [] } }
/-- A host, a node that is none, a SEQ that is answered, a reserved field, a command that waits behind another; before READY and after RETIRE. -/
theorem witness_HostCommands_order :
    (∀ cls, CommandRuns readyState (hostOf 1) cls) ∧ (∀ cls, CommandRuns waitingState (hostOf 1) cls) ∧ (∀ h on, FirstInTurn readyState h on) ∧
    ¬ FirstInTurn waitingState (hostOf 1) (.model 7) ∧
    ((5 : BitVec 19) ∉ readyState.firm.hosts ∧ ({ readyState.firm with st := .bringup 5 } : Firm).st = .bringup 5 ∧ State.reset.firm.st = .reset ∧
      ({ hostOf 1 with resv := true } : HostCmd).resv = true ∧ readyState.firm.responses = [] ∧
      (({ readyState.firm with responses := [{ cmd := hostOf 1, opc := 1, status := 0 }] } : Firm).responses.find? (·.cmd.same (hostOf 1))).isSome = true ∧
      ({ readyState.firm with accepting := false, drained := true } : Firm).refuses .launch = true ∧ readyState.firm.refuses .launch = false ∧
      readyState.accepted (hostOf 1) = false ∧ waitingState.accepted (hostOf 2) = true) ∧
    ((∃ w ∈ waitingState.firm.waiting, w.1.same (hostOf 2) = true ∧ w.2 = .model 7) ∧
      (∀ w ∈ waitingState.firm.waiting, w.1.same (hostOf 1) = false ∨ w.2 ≠ .model 7)) :=
  ⟨command_runs, command_waits, first_in_turn, not_first, by decide +kernel, ⟨_, .head _, by decide, rfl⟩, by decide⟩
/-- Spaces, tables, models and layers on both sides of each limit, and room that is free, that drains and that there is not. -/
theorem witness_HostCommands_models :
    ((readyState.space 1).isSome = true ∧ (readyState.space 2).isSome = false ∧ readyState.spaces.length < 64 ∧
      (match readyState.loaded 2 0 [] [] [] with | .error _ => true | _ => false) = true ∧
      (match readyState.loaded 1 9 [{ w0 := 0x90000, w1 := 0x1000E, w3 := 0x80 }] [] [] with
        | .ok t => decide (t.poolUsed .stack - readyState.poolUsed .stack = 65536) | _ => false) = true ∧
      isFree (readyState.makeRooms [] 8 [(.stack, 65536)]) = true ∧ readyState.asidDrained 1 (allCores.map fun c => (c, 0)) = true ∧
      isDraining ((fullState (busyLayer.poolUsed .stack) busyLayer).makeRooms [] 8 [(.stack, 65536)]) = true ∧
      isRefused ((fullState 0 readyState).makeRooms [] 8 [(.stack, 65536)]) = true) ∧
    (let m := layerModel
     let d := (layerState id true).drainLeaving
     let a := (layerState id false).drainLeaving
     d.model 7 = none ∧ (d.model 255).map (fun p => (p.cmd.isSome, p.leaving, p.defn.layers.all fun l => (d.entry p.asid l.1).res)) = some (false, [], true) ∧
       (a.model 255).map (fun p => p.defn.layers.all fun l => (a.entry p.asid l.1).res) = some false ∧ m.defn.layers.length = 1 ∧
       ((layerState (fun m => { m with cmd := some (hostOf 1) }) false).drainLeaving.model 255).map (·.cmd) = some (some (hostOf 1)) ∧
       ((((layerState id true).evictLayer 1 0).drainLeaving).model 255).map (·.leaving) = some [] ∧
       (((busyLayer.evictLayer 1 0).drainLeaving).model 255).map (·.leaving) = some [0]) ∧
    (let s := layerState (fun m => { m with cmd := some (hostOf 1) }) false
     (s.model 255).map (fun p => (p.cmd, p.defn.layers.find? fun l => !(s.entry p.asid l.1).res && !s.isMoving p.asid l.1)) = some (some (hostOf 1), some (0, { node := none, addr := 0 })) ∧
       s.placed (s.entry 1 0) = some (.stack, 0, 65536) ∧ s.placed { w1 := 0x1000E, w2 := 0x4000000000000000 } = none ∧ s.stands 1 0 (s.entry 1 0) = false ∧
       isFree (s.makeRooms [255] 0 [(.stack, 65536)]) = true ∧ isRefused ((fullState 0 s).makeRooms [255] 0 [(.stack, 65536)]) = true ∧
       s.rangeQuiet 0 65536 = true ∧ busyLayer.rangeQuiet 0 65536 = false ∧ s.isMoving 1 0 = false ∧
       s.backingQuiet { node := none, addr := 0 } 65536 = true ∧
       (let t : State := { s with firm := { s.firm with moving := [⟨.channel 0 1, [(1, 0)]⟩] } }
        t.isMoving 1 0 = true ∧ (t.entry 1 0).res = false)) ∧
    (let s := readyState.setEntry 1 0 { w1 := 0x1000E, w3 := 0x1090 }
     (s.entry 1 0).tier ≠ 3 ∧ (s.entry 1 0).dup ≠ 0 ∧ (s.space 1).isSome = true) := by decide +kernel
theorem spot_some (l : List Nat) (h : l ≠ []) (n : Nat) : (l[n % l.length]?).isSome = true := by
  rw [List.getElem?_eq_getElem (Nat.mod_lt n (List.length_pos_of_ne_nil h))]
  rfl
/-- A place for an absent layer, and none where every stack die is switched off. -/
theorem witness_HostCommands_place :
    ((layerState id false).choosePlace .stack (some 0) 65536 []).isSome = true ∧
    ({ readyState with firm := { readyState.firm with dieOff := (List.range 192).map fun i => (i / 16, i % 16) } } : State).choosePlace .stack (some 0) 65536 []
      = none := by
  constructor
  · unfold State.choosePlace
    exact spot_some _ (by decide +kernel) _
  · unfold State.choosePlace
    dsimp only
    rw [show ∀ l : List Nat, l = [] → ∀ n, l[n % l.length]? = none from fun l h n => by subst h; rfl]
    decide +kernel
/-- A gang in its time with what it holds; a core with a resident and cores with none; a record that a core takes, one that none does, and one that must
wait for room or for a slot. -/
theorem witness_HostCommands_launch :
    (let g : Gang := { num := 2, core := 0, bank := 0, rec_ := testRec, since := 0, armus := 10 }
     let v : Reserve := { gang := 2, vgroup := 0, vgroups := 8, sbank := 1, snb := 8, agroup := 0, agroups := 0 }
     let s : State := ({ readyState with gangs := [g] } : State).setCore 0 { readyState.core 0 with reserved := [v] }
     let late : State := { s with firm := { s.firm with us := 10 } }
     s.gangs.find? (·.num == 2) = some g ∧ s.gangs.find? (·.num == 3) = none ∧ s.firm.us - 0 < 10 ∧ 10 ≤ late.firm.us - 0 ∧
       (s.core 0).reserved.find? (·.gang == 2) = some v) ∧
    ((∀ c : CoreId, (readyState.core c).residents.length = 0 ∧ (readyState.core c).due.length = 0) ∧ ((ctlState testCtx).core 0).residents.length = 1) ∧
    (let q : QRec := { rec_ := recOf 0 0x707, asid := 1, stamp := 0, priv := false, level := 4 }
     let none' : State := { readyState with dies := readyState.dies.map fun d => { d with region := 0 } }
     q.rec_.share = false ∧ q.rec_.fieldsOk = true ∧ readyState.recFits 0 q = true ∧ q.rec_.akind = 0 ∧ readyState.recDetail (gangCores q.rec_) q = none ∧
       (readyState.recDetail (gangCores q.rec_) { q with rec_ := q.rec_ ||| (1 <<< 255) }).isSome = true ∧
       readyState.readyRoom ((readyDie 0 q).getD 0) = true ∧ none'.readyRoom ((readyDie 0 q).getD 0) = false ∧
       (readyState.lookers 0).head? = some 0 ∧ ((readyState.core 0).fit q).isSome = true ∧ (((readyState.core 0).fit q).map fun p => (readyState.core 0).beingCleared q p) = some false ∧
       (0 : CoreId) ∈ gangCores q.rec_ ∧
       (let one : QRec := { q with rec_ := q.rec_ ||| (2 <<< 168) }
        let full := readyState.setCore 0 { readyState.core 0 with banks := Vector.replicate 3 (some testCtx) }
        gangCores one.rec_ = [0] ∧ full.recDetail (gangCores one.rec_) one = none ∧ (full.lookers 0).head? = none)) := by decide +kernel

/-- Values at and past the limits of each policy; a core that owes nothing of its message region; a segment with its home die and without. -/
theorem witness_QueriesPoliciesAndAttest :
    (∀ cls, CommandRuns readyState (hostOf 1) cls) ∧ (32 < (List.replicate 33 (0 : Byte)).length ∧ (List.replicate 32 (0 : Byte)).length ≤ 32) ∧
    (64 ≤ (64 : Word).toNat ∧ (64 : Word).toNat ≤ 65535 ∧ ¬ 64 ≤ (63 : Word).toNat ∧ (1 : Word) ≠ 0 ∧ heatOk 0 = false ∧ heatOk 0x1008040000 = true) ∧
    (8 < (9 : Word).toNat ∧ (8 : Word).toNat ≤ 8 ∧ (readyState.core 0).msgnNew.any (·.2.same (hostOf 1)) = false ∧ (readyState.core 0).msgnNew = [] ∧ (readyState.core 0).msgnFree 8 = true ∧
      ((ctlState testCtx).core 0).msgnFree 8 = false) ∧
    (let e := readyState.entry 1 0
     e.vleng ≠ 0 ∧ (readyState.entry 1 9).vleng = 0 ∧ (1 : BitVec 4).getLsbD (readyState.segHome e).val = true ∧ (2 : BitVec 4).getLsbD (readyState.segHome e).val = false) ∧
    (readyState.obj 0 = none ∧ readyState.firm.dieOff.Nodup ∧ ({ readyState with objs := [copyObj] } : State).obj 3 = some copyObj) ∧
    (∀ h asid, FirstInTurn readyState h (.space asid)) ∧
    ((1 : BitVec 2).toNat < 2 ∧ 2 ≤ (2 : BitVec 2).toNat ∧ 1024 ≤ 1024 ∧ 1023 < 1024 ∧ (readyState.entry 1 0).dup ≠ 2 ∧
      ((readyState.setEntry 1 0 { w1 := 0x1000E, w3 := 0xA0 }).entry 1 0).dup = 2 ∧
      (let waits : List (Nat × HostCmd) := [(2, hostOf 3)]
       waits.any (·.2.same (hostOf 1)) = false ∧ (∀ p rest, waits ++ [(8, hostOf 1)] = p :: rest → p.2.same (hostOf 1) = false)) ∧
      (∀ i : Fin 8, readyState.firm.errs[i] ≤ 2 ^ 64 - 1)) :=
  ⟨command_runs, by decide, by decide, by decide +kernel, by decide +kernel, by decide +kernel, fun h a => first_in_turn h _,
    by decide, by decide, by decide, by decide, by decide +kernel, by decide +kernel, ⟨by decide, fun p rest h => by cases h; decide⟩, by decide +kernel⟩

/-- A module in service with a change to what its firmware holds. -/
def firmState (f : Firm → Firm) : State := { readyState with firm := f readyState.firm }
/-- Events at their limits: a core with and without a spare, its resident and what its deque held; a second parity failure within a second. -/
theorem witness_RepairEvents_core :
    ((readyState.core 0).phys.isSome = true ∧ (readyState.dies[0]).spares = [32, 33] ∧ (∀ b : BankId, (readyState.ctxAt 0 b).isNone = true) ∧
      (∀ u ∈ (readyState.core 0).dupFail, 1000000 < readyState.firm.us - u)) ∧
    (ctlState testCtx).ctxAt 0 0 = some testCtx ∧ testCtx.spent = true ∧ testCtx.fatal = none ∧
    (let s := (ctlState testCtx).setCore 0 { (ctlState testCtx).core 0 with dupFail := [0], deque := [testRec], due := [⟨testRec, 4, { vgroup := 0, sbank := 0, snb := 8, agroup := 0 }⟩] }
     let t : State := { s with dies := s.dies.map fun d => { d with spares := [] } }
     (∃ u ∈ (s.core 0).dupFail, s.firm.us - u ≤ 1000000) ∧ (s.core 0).phys.isSome = true ∧ (t.dies[0]).spares = [] ∧ (s.core 0).residents.length = 1 ∧
       ((s.core 0).residents.all fun x => x.id.replay == false && x.ops.isEmpty) = true) := ⟨by decide +kernel, test_ctx _ _ _, by decide, rfl, by decide +kernel⟩
/-- The eighth error of a row and an earlier one; a channel with 32 repaired rows, at each step of its migration, with a spare and without,
and one that is in order; a package at each step of its own. -/
theorem witness_RepairEvents_stack :
    ((firmState fun f => { f with rowErrs := [(3, 4, 5, 7)] }).firm.rowErr 3 4 5 + 1 = 8 ∧ readyState.firm.rowErr 3 4 5 + 1 ≠ 8) ∧
    (let bad := firmState fun f => { f with repaired := List.replicate 32 (3, 4) }
     let begun := bad.lift (.channel 3 4) []
     let none' : State := { begun with firm := { begun.firm with sparePc := begun.firm.sparePc.set 3 0 } }
     bad.firm.pcBad 3 4 = true ∧ bad.firm.pcBad 3 6 = false ∧ bad.firm.movingOf (.channel 3 4) = none ∧ begun.firm.movingOf (.channel 3 4) = some [] ∧
       begun.firm.pcBad 3 4 = true ∧ 0 < begun.firm.sparePc[3] ∧ none'.firm.sparePc[3] = 0 ∧ none'.firm.pcBad 3 4 = true ∧
       none'.firm.movingOf (.channel 3 4) = some [] ∧ (({ s := none' } : Moved).segs .stack [(3 * 2 ^ 36, 2 ^ 36)] []).isSome = true) ∧
    (readyState.firm.badDev[3] ≠ 1 ∧ readyState.firm.movingOf (.package 3) = none ∧
      (let s := firmState fun f => { f with badDev := f.badDev.set 3 1 }
       let t := (firmState fun f => { f with badDev := f.badDev.set 3 2 }).lift (.package 3) []
       s.firm.badDev[3] = 1 ∧ s.firm.movingOf (.package 3) = none ∧ t.firm.movingOf (.package 3) = some [] ∧
         t.segsIn (capacityBase + 3 * 2 ^ 37) (2 ^ 37) = [] ∧ (({ s := t } : Moved).segs .cap [] []).isSome = true)) ∧
    (let s := readyState.lift (.channel 0 1) [(1, 0)]
     s.firm.movingOf (.channel 0 1) = some [(1, 0)] ∧ (s.space 1).isSome = true ∧ (s.entry 1 0).res = false) := by decide +kernel
/-- Segments whole and poisoned, a row with a copy and one with none, a link, a quiet die and one that was used. -/
theorem witness_RepairEvents_tier :
    ((readyState.entry 1 0).vleng ≠ 0 ∧ (readyState.entry 1 0).tier ≠ 3 ∧ (readyState.entry 1 0).pois = false ∧ (readyState.entry 1 3).pois = true ∧
      readyState.firm.lanes[15] ≠ 0) ∧
    (let s := ({ readyState with objs := [copyObj] } : State).setEntry 1 8 { w0 := 0x80000, w1 := 0x10002, w2 := 0x3000000000000003, w3 := 0x80 }
     (s.entry 1 8).vleng ≠ 0 ∧ (s.entry 1 8).tier = 3 ∧ s.obj (s.entry 1 8).obj = some copyObj ∧ copyObj.floor < (copyObj.row 2).level ∧
       ¬ copyObj.floor < (copyObj.row 1).level) ∧
    (let s := firmState fun f => { f with dridle := 1, us := 5 }
     let used := firmState fun f => { f with dridle := 1, us := 5, dieUse := [(16 * 11 + 15, 5)] }
     readyState.firm.dridle = 0 ∧ s.firm.dridle ≠ 0 ∧ ¬ s.firm.us - (s.firm.dieUse.lookup (16 * 11 + 15)).getD 0 < s.firm.dridle ∧
       used.firm.us - (used.firm.dieUse.lookup (16 * 11 + 15)).getD 0 < used.firm.dridle ∧ (11, 15) ∉ s.firm.dieOff ∧
       s.segsIn (11 * 2 ^ 36 + 15 * 2 ^ 32) (2 ^ 32) = [] ∧ s.orphans = [] ∧ s.poolUsed .cap ≤ s.poolSize .cap ∧ s.firm.movingOf (.die 11 15) = none ∧
       (let t := s.lift (.die 11 15) []
        (t.firm.movingOf (.die 11 15)).isSome = true ∧ ((({ s := t } : Moved).segs .cap [] []).bind fun m => m.orphans []).isSome = true)) := by decide +kernel

/-- A configuration record of 112 bytes: version 1, node 0, one host, 9; and one with a host too many. -/
def goodRecord : ConfigRecord := { bytes := bytesOf 4 1 ++ bytesOf 4 0 ++ bytesOf 8 1 ++ bytesOf 96 9 }
def badRecord : ConfigRecord := { bytes := bytesOf 4 1 ++ bytesOf 4 0 ++ bytesOf 8 1 ++ bytesOf 96 (9 + 2 ^ 32) }
/-- Two images, of versions 2 and 1. -/
def twoImages : Vector ImageSlot 2 := #v[{ ver := 2, bytes := [], sig := [] }, { ver := 1, bytes := [1], sig := [] }]
/-- A module at a step of bring-up with the given rails. -/
def stepState (n : Nat) (rails : List Nat) (r : ConfigRecord) : State :=
  { State.reset with firm := { State.reset.firm with st := .bringup n, rails := rails, slots := twoImages, record := r, early := [(hostOf 1, 3)] } }
/-- Whatever key the ROM holds: the image boots where its signature verifies and its version is not below the floor, and none boots where
the floor is above both; a record is valid where its signature verifies, and one with a host too many is not. -/
theorem witness_PowerAndSideBand_flash :
    (sigOk [] [] = true → bootImage 2 twoImages = some { ver := 2, bytes := [], sig := [] }) ∧ bootImage 3 twoImages = none ∧
    (sigOk (goodRecord.bytes.take 48) (goodRecord.bytes.drop 48) = true → goodRecord.valid 0 = true) ∧ goodRecord.valid 2 = false ∧
    badRecord.valid 0 = false ∧ goodRecord.hosts = [9] := by
  refine ⟨fun h => ?_, ?_, fun h => ?_, ?_, ?_, by decide +kernel⟩
  · simp [bootImage, twoImages, h]
  · simp [bootImage, twoImages]
  · unfold ConfigRecord.valid; rw [h]; decide +kernel
  · unfold ConfigRecord.valid; simp only [show (decide (2 ≤ goodRecord.ver)) = false from by decide +kernel, Bool.and_false, Bool.false_and]
  · unfold ConfigRecord.valid
    simp only [show ((List.range 8).all fun i => decide (i < badRecord.nhost) || badRecord.host i == 0) = false from by decide +kernel, Bool.and_false]
/-- Each step of bring-up, with parts that hold and parts that fail. -/
theorem witness_PowerAndSideBand_steps :
    (State.reset.firm.st = .reset ∧ State.reset.firm.rails = [] ∧ readyState.firm.st = .ready ∧ (firmState fun f => { f with st := .failed 3 }).firm.st = .failed 3 ∧
      (stepState 2 [0] goodRecord).firm.st = .bringup 2 ∧ (stepState 8 allRails goodRecord).firm.st = .bringup 8) ∧
    (tooHot (stepState 4 [0] goodRecord).firm.sensors = false ∧ tooHot (List.replicate 31 400 ++ [460]) = true ∧
      (stepState 1 allRails goodRecord).firm.rails.length = 4 + 2 ∧ (stepState 1 [0] goodRecord).firm.rails.length ≤ 1) ∧
    ((stepState 4 [0, 1] goodRecord).firm.rails.length < 6 ∧ ¬ (stepState 4 allRails goodRecord).firm.rails.length < 6) ∧
    (let b : BringUp := { noPuf with puf := some [1], badBanks := [(0, 1), (0, 2), (0, 3), (0, 4)], badCores := [5], sramErrs := [(7, 1), (7, 2), (8, 1)] }
     let banks := fun (b : BringUp) (d : DieId) => (sortBy (fun m n : Nat => decide (m ≤ n)) ((b.badBanks.filter fun p => p.1 == d.val).map (·.2))).eraseDups
     b.linksOk = true ∧ (∀ d : DieId, (banks b d).length ≤ 4) ∧ (¬ ∀ d : DieId, (banks { b with badBanks := (0, 5) :: b.badBanks } d).length ≤ 4) ∧
       passing b 0 = [0, 1, 2, 3, 4, 6] ++ (List.range 26).map (8 + ·)) ∧
    ((stepState 8 allRails goodRecord).firm.early = [(hostOf 1, 3)]) := by decide +kernel
/-- Rails with VAUX and without, the two temperatures at each limit, and power at and past PLIM. -/
theorem witness_PowerAndSideBand :
    (0 ∈ (stepState 2 [0] goodRecord).firm.rails ∧ 0 ∉ State.reset.firm.rails ∧ (∀ d : DieId, (readyState.dies[d]).throttled = false) ∧
      readyState.firm.sensors.length = 32) ∧
    (460 ≤ 460 ∧ 31 < 32 ∧ 459 < 460 ∧ readyState.firm.plim < 2401 ∧ 2400 ≤ readyState.firm.plim ∧ (List.replicate 32 400).length = 32 ∧
      (∀ v ∈ List.replicate 32 400, v ≤ 400) ∧ (∃ v ∈ List.replicate 31 400 ++ [401], 400 < v) ∧ (∃ v ∈ List.replicate 31 400 ++ [460], 460 ≤ v) ∧
      ¬ (1200 ≤ 1199 ∧ 1199 ≤ 2400)) := by
  refine ⟨by decide +kernel, by decide, by decide, by decide, by decide, by decide, by decide, by decide, ⟨401, by decide, by decide⟩, ⟨460, by decide, by decide⟩,
    by decide⟩


/-- Words and positions for the clauses that refuse: CMP with UN, a field past bit 63, INS with bit 12, TRAP before its section's last word. -/
theorem witness_refused_words :
    (let w := fun op low : Nat => (BitVec.ofNat 96 (op * 2 ^ 86 + low))
     opOf (w 0x019 (10 * 2 ^ 48)) = 0x019 ∧ 10 ≤ ((w 0x019 (10 * 2 ^ 48)).extractLsb' 48 4).toNat ∧ opOf (w 0x01A 0x7C1) = 0x01A ∧
       64 < ((w 0x01A 0xFC1).extractLsb' 0 6).toNat + ((w 0x01A 0xFC1).extractLsb' 6 6).toNat + 1 ∧ opOf (w 0x01B 0x1000) = 0x01B ∧
       (w 0x01B 0x1000).getLsbD 12 = true ∧
       (∃ o, decodeIn .c (w 0x0A2 3) = .ok (.trap o)) ∧ (∃ o, decodeIn .c (w 0x0A7 0xFF) = .ok (.brkpt o))) ∧
    testCtx.ctl.sec.map (fun c => c.idx + 1 ≠ c.h.len) = some True := by
  refine ⟨⟨by decide, by decide, by decide, by decide, by decide, by decide, ⟨_, rfl⟩, ⟨_, rfl⟩⟩, ?_⟩
  simp [testCtx]
theorem witness_field_clauses :
    [Instr.shl ⟨none, none, 3, 1, 2, 0, 0⟩, .shra ⟨none, none, 3, 1, 0, 0, 0x7F⟩, .cmp ⟨none, none, 5, 3, 0, 0, 0x9000000000000⟩, .trap ⟨none, none, 0, 0, 0, 0, 254⟩,
      .brkpt ⟨none, none, 0, 0, 0, 0, 255⟩, .vpermb ⟨none, none, 3, 1, 2, 4, .f64, .rne, 0⟩, .vrot ⟨none, none, 3, 1, 0, 0, .f64, .rne, 0x1FE⟩,
      .vrmrg ⟨none, none, 3, 1, 2, 4, .f64, .rne, 0⟩].all Instr.fieldsOk = true := by decide

/-! ### Witnesses of single clauses -/

/-- DONE beside a held fault: nothing else goes on, and a store that goes on. -/
theorem witness_DoneAndYield_fault :
    (let x := faultCtx .segv
     x.trapMode = false ∧ x.going (ctlState x).myCore = false ∧ x.flights = []) ∧
    (let x : Ctx := { faultCtx .segv with ops := [{ kind := .store 0 }] }
     CtlRuns (ctlState x) none [] x ∧ x.going (ctlState x).myCore = true) ∧
    (let x : Ctx := { testCtx with trapMode := true }
     x.dropQueued.quiet = true) :=
  ⟨by decide +kernel, ⟨ctl_runs _ _ _ rfl rfl (by decide +kernel), by decide +kernel⟩, by decide +kernel⟩

/-- A posted atomic before an access that acquires, and none. -/
def postedCtx : Ctx := { ctx2 0x107 0 with ops := [{ kind := .amo 0 0 1 0, loc := .mem dsmBase, size := 4 }] }
theorem posted_runs (reads : List SReg) : CtlRuns (ctlState postedCtx) none reads postedCtx := by
  refine ctl_runs _ _ _ ?_ rfl ?_
  · show ((ctx2 0x107 0).flights.all _) = true
    rw [ctx2_flights]; rfl
  · show (ctx2 0x107 0).pendr = false; decide +kernel
theorem witness_posted :
    (∀ reads, CtlRuns (ctlState postedCtx) none reads postedCtx) ∧ postedCtx.posted = true ∧ (ctx2 0x107 0).posted = false ∧
    (let o := { oLoad with imm := 0xB00000000 }
     o.acq = true ∧ o.sp = false ∧ postedCtx.mustWait (.mem 0x100) 8 = false ∧ scalarAddr postedCtx o = 0x100) ∧
    postedCtx.mustWait (.spad 64) 16 = false := ⟨posted_runs, by decide +kernel⟩

/-- A core with a barrier at byte 64: a store of four bytes beside it and one in it, and the same bytes with no barrier there. -/
theorem witness_ScalarCompletion_barrier :
    (let k := (State.reset.core 0).initBarrier 64 (mkBarrier 1 0 1 0)
     Sparse.wf k.spad = true ∧ 64 ∈ k.barriers ∧ (68 : Nat) % 16 + 4 ≤ 16 ∧ 68 / 16 * 16 = 64 ∧
       (let v := (k.putSpadBytes 64 [0, 0, 0, 0]).barrier 64
        barArrivals v = 0 ∧ barBytes v = 0) ∧
       ¬ (barArrivals ((k.putSpadBytes 68 [0, 0, 0, 0]).barrier 64) = 0 ∧ barBytes ((k.putSpadBytes 68 [0, 0, 0, 0]).barrier 64) = 0)) ∧
    64 ∉ (State.reset.core 0).barriers ∧
    (let s := opState { kind := .amo 3 0 5 0, loc := .mem dsmBase, size := 4 }
     opFree [] { kind := .amo 3 0 5 0, loc := .mem dsmBase, size := 4 } = true ∧ homeDie dsmBase = dieOf 0 ∧
       (s.bankOp 0 dsmBase 4 (some (0, 0)) (fun old => amoValue 0 32 old 5 0) (fun old => decide (0 < 9) || old == 0)).map (·.1) = some 0) ∧
    ([(0x100, (1 : Byte))].map (·.1)).Nodup ∧ State.reset.clockReached 0 [0, 0, 0, 0] = true ∧ State.reset.clockReached 0 [1, 0, 0, 0] = false := by
  decide +kernel

/-- The one flush of a context is the one that a drain goes on with, whatever the free choice. -/
theorem witness_FenceAndFlushWords_choice (n : Nat) (p : Op) : ([p] : List Op)[Config.choice n 5 % [p].length]? = some p := by simp [Nat.mod_one]

/-- A queued word that draws from generators of an earlier reset, which the context still keeps. -/
theorem witness_MtsRegisters_drawers :
    let q : QWord := { testWord with cap := { testWord.cap with gen := 1, rime := 0 } }
    let x : Ctx := { testCtx with genNum := 2, oldGens := [(1, {})], qx := { items := [q] } }
    q ∈ x.drawers ∧ q.cap.gen ≤ x.genNum ∧ (x.oldGens.lookup q.cap.gen).isSome = true ∧ q.cap.rime = x.rimeNum := by decide +kernel

/-- A held fault at RTT with a frame and a TVEC that serve, and with none; a context that stops with work on its way, and without. -/
theorem witness_TrapEntry_stops :
    (let f : Cause := { code := .segv, cls := .a }
     let x : Ctx := { trapCtx with trapMode := true, eng := trapCtx.eng.set .load [(tokRun (some f))] }
     (trapState x).noHandler x = false ∧ (x.faultOn fun _ => true).map (·.fault) = some (some f) ∧ x.flights = []) ∧
    (let x : Ctx := { inTrap 0 with eng := testCtx.eng.set .load [(tokRun (some { code := .segv, cls := .a }))] }
     (ctlState x).noHandler x = true) ∧
    testCtx.spent = true ∧ ({ testCtx with ops := [{ kind := .store 0 }] } : Ctx).spent = false := by decide +kernel

/-- The turn of a control core whose switch is decided. -/
theorem witness_SchedulingEvents_decided :
    let s := twoBanks testCtx (bankCtx 1 5)
    let t : State := { s.setCore 0 { s.core 0 with active := some 0 } with turn := .control 0 0 }
    t.turn = .control 0 0 ∧ (t.core 0).active = some 0 ∧ (t.ctxAt 0 0).map (fun x => (x.fatal, x.hold, x.midClk)) = some (none, .none, false) ∧
      t.switchTarget 0 = some 1 := by decide +kernel

/-- A module that has shut down and whose rails have not all fallen. -/
theorem witness_PowerAndSideBand_falls :
    let s := stepState 4 allRails goodRecord
    let t := s.shutdown
    t.firm.st = .failed 0x0A ∧ 1 < t.firm.rails.length ∧ t.firm.rails = [0, 1, 2, 3, 4] := by decide +kernel

/-! ### Witnesses of single clauses: waits, traps and what holds a word -/

/-- A predicate in flight under PENDR, so that a guard on it is pending. -/
def guardCtx : Ctx := { pendCtx with flights := [{ unit := .ctl, land := 30, val := .pred 1 1 1 }] }
/-- A word that has issued in an earlier clock, with s1 and s2 as they were then. -/
def issuedCtx : Ctx := { ctx2 5 0 with hold := .busy, issue := some { word := 0x000001040C00000000000000, s := (ctx2 7 2).regs.s } }
theorem witness_control_clauses :
    ((ctx2 7 0).hasRoom 3 ∧ testCtx.issue = none ∧ (fullCtx.ctl.pc + 80).toNat % 8 = 0 ∧ fullCtx.pendr = false ∧ fullCtx.guardOk none = true) ∧
    (pendCtx.issue = none ∧ pendCtx.hasRoom 3) ∧
    (CtlView (ctlState guardCtx) guardCtx ∧ guardCtx.issue = none ∧ guardCtx.pendr = true ∧ guardCtx.guardPending (some ⟨1, false⟩) = true ∧
      guardCtx.hasRoom 3) ∧
    (issuedCtx.midWord = true ∧ issuedCtx.reg 1 = 5 ∧ issuedCtx.rd 1 = 7 ∧
      (issuedCtx.issue.bind fun h => decode h.word) = some (.add ⟨none, none, 4, 4, 3, 0, 0⟩)) :=
  ⟨⟨.inr (by decide +kernel), rfl, by decide +kernel⟩, ⟨rfl, .inr (by decide +kernel)⟩,
    ⟨ctl_view _ (by decide +kernel), rfl, by decide +kernel, by decide +kernel, .inr (by decide +kernel)⟩, by decide +kernel⟩
/-- A step of a word that holds the control core, for which no boundary is looked at. -/
theorem witness_StepRunsControlWord_held :
    let s := State.reset.withFetchWord 96 0x000001040C00000000000000
    let y := (s.ctxAt 0 0).getD placeCtx
    let x : Ctx := { y with hold := .busy, issue := issuedCtx.issue }
    let t := s.setCtxAt 0 0 (some x)
    t.turn = .control 0 0 ∧ (t.core 0).active = some 0 ∧ t.ctxAt 0 0 = some x ∧ x.fatal.isNone = true ∧ x.midClk = false ∧ x.midWord = true ∧
      (t.switchTarget 0).isNone = true ∧ x.ending = false ∧ x.ctl.phase = .inside ∧ x.ctl.sec.isSome = true ∧ x.issue.isSome = true := by
  decide +kernel

/-- A frame with latch slot 0 valid: its directory entry and its value, or its row poisoned. -/
def frameState (dir val : Nat) (bad : List Nat) : State :=
  let s := ctlState (inTrap 0)
  s.putCore { ((((s.myCore).putSpadBytes 48 [1]).putSpadBytes 512 (bytesOf 16 dir)).putSpadBytes 768 (bytesOf 256 val)) with spadBad := bad }
/-- The fields of slot 0 of a frame. -/
abbrev frameDir (s : State) (lo bits : Nat) : Nat := s.myCore.frame 0 / 2 ^ (8 * 512) % 2 ^ 128 / 2 ^ lo % 2 ^ bits
/-- Slots of each KIND: a pair, an exact accumulator with its terms and with a value that an XMOV left, a predicate, a row, and DESTs at and past
the limit of each; rows of the frame that are poisoned, one of a valid slot among them, and one of a slot that is not valid. -/
theorem witness_ReturnFromTrap_slots :
    (let s := frameState (3 + 1 * 2 ^ 8 + 4 * 2 ^ 16 + 3 * 2 ^ 32 + 5 * 2 ^ 48 + 1 * 2 ^ 64) 9 []
     let e : Flight := { unit := .vec, land := (inTrap 0).xclk + 3, val := .pair ((inTrap 0).id.vbase + 4) ((inTrap 0).id.vbase + 5) 1 9 }
     frameDir s 0 8 = 3 ∧ frameDir s 8 8 = (if e.unit = .ctl then 0 else 1) ∧ frameDir s 16 16 = 4 ∧ frameDir s 48 16 = 5 ∧ 5 < (inTrap 0).vlen ∧
       frameDir s 64 64 = 1 ∧ frameDir s 32 16 = 3 ∧ s.myCore.frame 0 / 2 ^ 6144 % 2 ^ 2048 = 9) ∧
    (let s := frameState (5 + 1 * 2 ^ 8 + 3 * 2 ^ 16) (6 * 2 ^ 122) []
     frameDir s 0 8 = 5 ∧ frameDir s 16 16 = 3 ∧ BitVec.ofNat 6 (s.myCore.frame 0 / 2 ^ 6144 % 2 ^ 2048 / 2 ^ 122) = 6 ∧
       (({ inTrap 0 with latchRec := [(0, 6)] } : Ctx).latchRec.lookup 0).getD 0 = 6 ∧ ((inTrap 0).latchRec.lookup 0).getD 0 ≠ 6 ∧
       (({ inTrap 0 with latchRec := [(0, 6)], heldMov := [(0, 77)] } : Ctx).heldMov.lookup 0) = some 77 ∧ (inTrap 0).heldMov.lookup 0 = none) ∧
    (frameDir (frameState (1 + 64 * 2 ^ 16) 0 []) 16 16 = 64 ∧ frameDir (frameState (2 + 2 ^ 8 + (2 ^ 16 - 1) * 2 ^ 16) 0 []) 16 16 = 65535 ∧
      (inTrap 0).vlen ≤ 65535 ∧ frameDir (frameState (4 + 16 * 2 ^ 16) 0 []) 16 16 = 16 ∧ frameDir (frameState (5 + 4 * 2 ^ 16) 0 []) 16 16 = 4 ∧
      (inTrap 0).id.snb * 256 ≤ frameDir (frameState (6 + 2 ^ 8 + 65535 * 2 ^ 16) 0 []) 16 16 ∧
      frameDir (frameState 7 0 []) 0 8 = 7 ∧ frameDir (frameState (1 + 2 * 2 ^ 8) 0 []) 8 8 = 2 ∧ frameDir (frameState (1 + 20 * 2 ^ 32) 0 []) 32 16 = 20) ∧
    (let row := (inTrap 0).id.sbank * 256
     row = 0 ∧ 0 ∈ (frameState 0 0 [0]).myCore.spadBad ∧ 2 ∈ (frameState 0 0 [2]).myCore.spadBad ∧ 3 + 0 ∈ (frameState 0 0 [3]).myCore.spadBad ∧
       (let bad := (frameState 0 0 [1, 4]).myCore.spadBad
        0 ∉ bad ∧ 2 ∉ bad ∧ 3 + 0 ∉ bad)) := by decide +kernel
theorem putSpadBytes_banks (k : Core) (a : Nat) (bs : List Byte) : (k.putSpadBytes a bs).banks = k.banks := by
  unfold Core.putSpadBytes Core.putRowBytes
  split <;> rfl
theorem bad_banks (k : Core) (l : List Nat) : ({ k with spadBad := l } : Core).banks = k.banks := rfl
theorem frame_ctx (dir val : Nat) (bad : List Nat) : (frameState dir val bad).ctx? = some (inTrap 0) := by
  refine putCore_ctx (inTrap 0) _ ?_
  rw [bad_banks, putSpadBytes_banks, putSpadBytes_banks, putSpadBytes_banks]
  rfl
/-- RTT runs at each of these frames. -/
theorem witness_ReturnFromTrap_runs (dir val : Nat) (bad : List Nat) : CtlRuns (frameState dir val bad) none [] (inTrap 0) :=
  runs_of (frame_ctx _ _ _) _ _ rfl rfl (show testCtx.pendr = false by decide +kernel)
/-- TMR within and past the time at which the awaited result lands. -/
theorem witness_timerExpiry_full :
    let f : Flight := { unit := .ctl, land := 9, val := .scalar 4 1 }
    let y := fun tmr : Word => ({ testCtx with sys := { testCtx.sys with tmr := tmr }, hold := .full, flights := [f] } : Ctx)
    (y 9).hold = .full ∧ (y 9).cclk < f.land ∧ (y 9).cclk + (y 9).sys.tmr.toNat ≤ f.land ∧ ¬ (y 10).cclk + (y 10).sys.tmr.toNat ≤ f.land := by
  decide +kernel

theorem putCore_same (s : State) (x : Ctx) (k : Core) (hs : s.ctx? = some x) (hk : k.banks = s.myCore.banks) : (s.putCore k).ctx? = some x := by
  have hc : (s.putCore k).core s.cur.core = k := by
    show (s.setCore s.cur.core k).core s.cur.core = k
    rw [setCore_core]; exact if_pos rfl
  show (((s.putCore k).core s.cur.core).banks)[s.cur.bank] = some x
  rw [hc, hk]; exact hs
/-- A state whose core has row 0 of its scratchpad poisoned. -/
def poisoned (s : State) : State := s.putCore { s.myCore with spadBad := [0] }
theorem poisoned_ctx (s : State) (x : Ctx) (hs : s.ctx? = some x) : (poisoned s).ctx? = some x := putCore_same _ _ _ hs rfl
/-- The barrier at 64 in a poisoned row, in a C section and in each queue; a queued word pushed after an atomic that is on its way, and before it. -/
theorem witness_BarrierWords_poison :
    SyncCtl (poisoned (ctlState (ctx2 64 0))) none [1, 2] (ctx2 64 0) ∧
    (∀ k, SyncRuns (poisoned (testState testCtx (.queue k) (some testWord))) none testCtx testWord k) ∧
    (64 / 256 ∈ (poisoned (ctlState (ctx2 64 0))).myCore.spadBad ∧ (ctx2 64 0).posted = false ∧ (ctx2 64 0).mustWait (.spad 64) 16 = false ∧
      testCtx.spadAddr (testWord.cap.sa.toNat / 16 * 16) = some 0 ∧ 0 / 256 ∈ (poisoned (testState testCtx (.queue .l) (some testWord))).myCore.spadBad ∧
      narrowCtx.spadAddr (({ testWord with cap := { testWord.cap with sa := 0x10000 } } : QWord).cap.sa.toNat / 16 * 16) = none) ∧
    (let x : Ctx := { testCtx with ops := [{ kind := .amo 0 0 1 0, loc := .mem dsmBase, size := 4, born := 1 }] }
     x.postedBefore { testWord with born := 2 } = true ∧ x.postedBefore { testWord with born := 1 } = false ∧
       (∀ k q, SyncRuns (testState x (.queue k) (some q)) none x q k)) := by
  refine ⟨⟨runs_of (poisoned_ctx _ _ (test_ctx _ _ _)) _ _ (by decide +kernel) (by decide +kernel) (by decide +kernel), fun k h => ?_⟩, fun k => ?_,
    by decide +kernel, by decide, by decide, fun k q => sync_runs _ _ _ rfl⟩
  · exact Unit_.noConfusion (show Unit_.ctl = Unit_.queue k from h)
  · exact ⟨poisoned_ctx _ _ (test_ctx _ _ _), rfl, rfl, rfl, fun h => absurd h (by decide +kernel)⟩

/-- A thread of member m of the group at 0x10000, and its BARG's phase, if it has one. -/
def memberCtx (m : Word) (p : Option Nat) : Ctx := { ctx2 0x10000 m with barg := p.map fun p => (dsmBase, p) }
theorem member_runs (m : Word) (p : Option Nat) (hm : m = 0 ∨ m = 1 ∨ m = 2)
    (hp : p = none ∨ p = some (2 ^ 32 + 5) ∨ p = some (2 ^ 32 + 4)) :
    GroupRuns (groupState (memberCtx m p) g5) none [1, 2] 1 (memberCtx m p) dsmBase 1 := by
  rcases hm with rfl | rfl | rfl <;> rcases hp with rfl | rfl | rfl <;>
  exact ⟨runs_of (group_ctx _ _) _ _ (by decide +kernel) (by decide +kernel) (by decide +kernel), by decide +kernel, by decide +kernel, by decide,
    by decide +kernel⟩
/-- Member 0 has arrived, member 2 only belongs to the next phase; marks of the phase that stands and of one that is over, for a member that has
arrived and for one that has not; the watchdog's waits in the phase that stands and in another. -/
theorem witness_GroupWords_again :
    ((memberCtx 0 none).barg = none ∧ g5.members.getLsbD 0 = true ∧ g5.arrived.getLsbD 0 = true) ∧
    (g5.members.getLsbD 2 = false ∧ g5.next.getLsbD 2 = true) ∧
    ((memberCtx 2 (some (2 ^ 32 + 5))).barg = some (dsmBase, 2 ^ 32 + g5.phase.toNat)) ∧
    ((memberCtx 0 (some (2 ^ 32 + 4))).barg = some (dsmBase, 2 ^ 32 + 4) ∧ 2 ^ 32 + 4 ≠ 2 ^ 32 + g5.phase.toNat ∧ g5.arrived.getLsbD 1 = false ∧
      ((groupState (memberCtx 1 (some (2 ^ 32 + 4))) g5).putGroup dsmBase g5 (g5.arrive 1) (some (0, 0))).isSome = true) ∧
    ((2 ^ 32 + 5) % 2 ^ 32 = g5.phase.toNat ∧ 5 % 2 ^ 32 = g5.phase.toNat ∧ 4 % 2 ^ 32 ≠ g5.phase.toNat ∧ (2 ^ 32 + 4) % 2 ^ 32 ≠ g5.phase.toNat ∧
      (∀ n, n < 1 → g5.members.getLsbD n = true → g5.arrived.getLsbD n = true)) := by
  refine ⟨by decide +kernel, by decide, by decide +kernel, by decide +kernel, ?_⟩
  decide
/-- A JDEC of a record of the next die, whose count its ALU takes down from 2. -/
theorem witness_ContinuationWords_remote :
    let pa := dsmBase + dsmBytes + 16
    let s := { opState { kind := .jdec 3, loc := .mem pa, size := 4 } with
      views := Vector.replicate 4 (Sparse.writeAll (w := 8) [] (dsmBase + dsmBytes) (bytesOf 32 (recOf 2 0x707).toNat)) }
    homeDie pa ≠ dieOf 0 ∧ s.jdecHeld 0 testCtx pa = false ∧
      (s.bankOp 0 pa 4 (some (0, 0)) (fun old => old - 1) (fun old => old != 0)).map (·.1) = some 2 := by decide +kernel

/-- Twelve results in flight at a load of a row, at the head of the X queue. -/
theorem witness_VectorMemoryWords_full :
    (testState fullCtx (.queue .x) (some testWord)).ctx? = some fullCtx ∧ fullCtx.room .vec = false := ⟨test_ctx _ _ _, by decide +kernel⟩
/-- A row in flight, for which HADVP waits. -/
theorem witness_VectorMemoryWords_settle :
    (∃ f ∈ ({ ringCtx with flights := [{ unit := .vec, land := 9, val := .row 1 1 0 }] } : Ctx).flights, ∃ r l v, f.val = .row r l v) ∧
    (1 ≤ (ringCtx.handle 0).filled ∧ (ringCtx.handle 0).filled < 2) ∧ ringCtx.pends = false := ⟨⟨_, .head _, 1, 1, 0, rfl⟩, by decide +kernel, rfl⟩
/-- Words of each kind whose sources are listed, and XMOV and VEXTL, with a register, a predicate and an accumulator in flight under PENDR. -/
theorem witness_VectorWords_pending :
    (let x := fun v : FlightVal => ({ testCtx with sys := { testCtx.sys with dbgctl := 2 }, flights := [{ unit := .vec, land := 4, val := v }] } : Ctx)
     let vec := x (.vec (testCtx.phys 1) 1 0)
     let acc := x (.exact 1 0)
     let pred := x (.pred 1 1 0)
     (testState vec (.queue .x) (some testWord)).ctx?.isSome = true ∧ vec.pendr = true ∧ vec.room .vec = true ∧ acc.room .vec = true ∧
       ([Instr.vadd v312, .vst ⟨none, 1, false, 0, 0, 2⟩, .vbsort { v312 with vb := 0 }].all fun w => (vecReads w).any (·.pending vec)) = true ∧
       (VecReads.pending ⟨none, [], [], [1]⟩ acc = true ∧ acc.guardOk none = true) ∧
       (VecReads.pending ⟨none, [1], [], []⟩ vec = true ∧ vec.active none 32 31 = true) ∧ pred.guardPending (some ⟨1, false⟩) = true) := by decide +kernel

/-- A handle side whose slots are of one row: the first part of an accumulator row, and its last one; a copy of a grouped code that expands
nothing, and one that goes on with what it read. -/
theorem witness_TransferMacros_parts :
    (let r := { runF 0x100 0 0x200 with aux := [0, 1] }
     let s := macState .load r
     let d : Side := ⟨0, { bank := 2, row := 0, slots := 8, rps := 1 }, false⟩
     let x := (macCtx .load r).setHandle 0 { bank := 2, row := 0, slots := 8, rps := 1, head := 0, tail := 4, filled := 4 }
     SideSlot r (some d) 1 0 ∧
     ((r.q.fmt 512).typeRaw32 = some .f32 ∧ sideFits (some d) ((256 * 1 + 63) / 64) = true ∧
       upTo ((256 * (0 + 1) + 63) / 64 - 0) (slotRest (some d) 0) = 1 ∧ 0 + (min (256 * 1) ((0 + 1) * 64) - 0) < 256 ∧
       256 ≤ 192 + (min (256 * 1) ((3 + 1) * 64) - 192) ∧ sideRow (some d) 0 0 0 = 512 ∧
       (gives (decodePart s.myCore x r.q .f32 512 (spanPart 64 0 64 0).1 (spanPart 64 0 64 0).2) && gives (agreeRows x r.q (r.q.fmt 512) [512])
         && gives (readAcc s.myCore x 0)) = true)) ∧
    (let r := runF 0x100 0 0x200
     let s := macState .load r
     let x := macCtx .load r
     let f : Fmt := { r.q.fmt 0 with code := 0x0D, gsz := 1 }
     gives (cpySources s.myCore x r.q true f [0] []) = true ∧ (match cpySources s.myCore x r.q false f [0] [5, 6] with | .ok l => l == [[5, 6]] | _ => false) = true) :=
  ⟨⟨rfl, by decide +kernel⟩, by decide +kernel⟩

/-- MMG of an empty list: the operand row is read, and no row of weights. -/
theorem witness_MatrixAndBrimMacros_empty :
    let r0 := runF 0 0x10000 0x20000
    let r := { r0 with q := { r0.q with cap := { r0.q.cap with bfmt := Vector.replicate 32 4 } }, aux := [0] }
    let s := macState .matrix r
    let x := macCtx .matrix r
    let g : MatOp := ⟨none, 0, .f32, 0⟩
    SideSlot r none 1 0 ∧ (r.aux.head? = some 0 ∧ (match g.agree x r.q (r.q.fmt 0) 0 0 (0 * g.rows) with | .ok () => true | _ => false) = true ∧
      (match matScalar x r.q 0 2 1 with
       | .ok a => (match spanSides s.myCore x r.q a.t (a.at_ 0 0) 2 with
         | .ok ga => gives (decodeSpanWith s.myCore x r.q a.t (a.at_ 0 0) 0 2 ga)
         | _ => false)
       | _ => false) = true ∧ gives (readAcc s.myCore x 0) = true ∧
      gives (writeAcc s.myCore x 0 (List.replicate 256 (FVal.fin false 0 0))) = true) := by
  exact ⟨rfl, by decide +kernel⟩

/-- A die that another die's write has not reached; every die of a module at reset. -/
theorem witness_FabricAndIndexMacros_spread :
    let s := macState .store (runF 0 0x100 0)
    s.spread = true ∧ ({ s with vc := s.vc.set 0 ((Vector.replicate 4 0).set 0 1) } : State).spread = false ∧ (s.txnOf (runF 0 0x100 0)).isNone = true := by
  decide +kernel

/-- A load engine that stands within a slot of its macro's handle, and one between two slots, with another context of higher priority that has
work. -/
theorem witness_SchedulingEvents_mid :
    let r := fun w : Nat => ({ runOf 0 0 0 with
      q := { testWord with w := 0x800000001800100000000001, kind := .l }, ctr := .tla, started := true, aux := [1, w] } : Run)
    let x := fun w : Nat => ({ testCtx with eng := testCtx.eng.set .load [r w] } : Ctx)
    let y : Ctx := { bankCtx 1 5 with eng := testCtx.eng.set .load [runOf 0 0 0] }
    let s := fun w : Nat => let s := twoBanks (x w) y; s.setCore 0 { s.core 0 with owners := Vector.replicate 6 (some 0) }
    (x 1).engMid .load = true ∧ (x 0).engMid .load = false ∧
      ([0, 1].all fun w => ((s w).core 0).engineNext ((s w).core 0).owners[Eng.owner .load] (·.engWork .load) (fun y => (s w).engReady 0 y .load)
        == some 1) = true := by decide +kernel

/-- A second drain before the first has ended, and the first again; a LOAD_SEGMENTS whose model another command waits for; a layer with a place in
the pool and none on a stack die that is on; a layer that touches the first die. -/
theorem witness_HostCommands_again :
    (let s := firmState fun f => { f with draining := [hostOf 1] }
     (∀ c : CoreId, (s.core c).residents = [] ∧ (s.core c).due = []) ∧ s.firm.draining.any (·.same (hostOf 1)) = true ∧
       s.firm.draining.any (·.same (hostOf 2)) = false) ∧
    (let d : ModelDef := { num := 7, layers := [], cls := 0 }
     ¬ (∀ m ∈ [d], FirstInTurn waitingState (hostOf 1) (.model m.num)) ∧ (∀ m ∈ [d], FirstInTurn readyState (hostOf 1) (.model m.num))) ∧
    (let s := layerState (fun m => { m with cmd := some (hostOf 1) }) false
     let s : State := { s with firm := { s.firm with dieOff := (List.range 192).map fun i => (i / 16, i % 16) } }
     s.placed (s.entry 1 0) = some (.stack, 0, 65536) ∧ isFree (s.makeRooms [255] 0 [(.stack, 65536)]) = true ∧ s.stands 1 0 (s.entry 1 0) = false ∧
       s.firm.dieOff ≠ []) ∧
    overlaps (0 * 2 ^ 36 + 0 * 2 ^ 32) (2 ^ 32) 0 65536 = true :=
  ⟨⟨by decide +kernel, by decide +kernel, by decide +kernel⟩, ⟨fun h => not_first (h _ (.head _)), fun _ _ => first_in_turn _ _⟩, by decide +kernel, by decide⟩
/-- Sixteen entries of the event log of seventeen, each with its number. -/
theorem witness_QueriesPoliciesAndAttest_events :
    let s := firmState fun f => { f with evCount := 17, events := (List.range 17).map fun i => { code := i, args := [] } }
    s.firm.events.length ≤ s.firm.evCount ∧ min 16 s.firm.events.length = 16 ∧ (s.firm.events[s.firm.events.length - 16 + 0]?).map (·.code) = some 1 := by
  decide +kernel
end

section
/-! SUPPORT. The canonical form of every memory, kept by every step: the predicate on outcomes, and what the shared operations keep. -/

namespace Sys2Proof

open Sys2Proof.Machine

/-! ### The form of the parts of a state -/

/-- The memories of an outcome's state are canonical. -/
def OutOk : Out → Prop
  | .next t => MemoryOk t
  | _ => True

@[simp] theorem outOk_next {t : State} : OutOk (.next t) ↔ MemoryOk t := Iff.rfl
@[simp] theorem outOk_fault {f : Fault} : OutOk (.fault f) := trivial
@[simp] theorem outOk_refused {r : Refusal} : OutOk (.refused r) := trivial

theorem outOk_ite {c : Prop} [Decidable c] {a b : Out} (ha : OutOk a) (hb : OutOk b) : OutOk (if c then a else b) := by
  split
  · exact ha
  · exact hb

/-- The views of a state are canonical, and so are the memories of its cores. -/
def ViewsOk (v : Vector Memory 4) : Prop := ∀ d : DieId, Memory.wf v[d] = true
def CoresOk (k : Vector Core 128) : Prop := ∀ c : CoreId, (k[c]).MemOk

theorem memoryOk_iff {s : State} : MemoryOk s ↔ ViewsOk s.views ∧ CoresOk s.cores := Iff.rfl

@[simp] theorem viewsOk_of {s : State} (h : MemoryOk s) : ViewsOk s.views := h.1
@[simp] theorem coresOk_of {s : State} (h : MemoryOk s) : CoresOk s.cores := h.2
@[simp] theorem core_memOk {s : State} (h : MemoryOk s) (c : CoreId) : (s.core c).MemOk := h.core c
@[simp] theorem myCore_memOk {s : State} (h : MemoryOk s) : s.myCore.MemOk := h.core _

/-- A state given by its fields is canonical by its views and its cores alone. -/
@[simp] theorem memoryOk_mk {f d k sp so ob m g tx o v vc tr hs ap w tu ti cu} :
    MemoryOk ⟨f, d, k, sp, so, ob, m, g, tx, o, v, vc, tr, hs, ap, w, tu, ti, cu⟩ ↔ ViewsOk v ∧ CoresOk k := Iff.rfl

/-- A core given by its fields is canonical by its three memories alone. -/
@[simp] theorem core_mk_memOk {a b c d e f g h i j k l m n o p q r t u v w x y z a'} :
    (Core.mk a b c d e f g h i j k l m n o p q r t u v w x y z a').MemOk ↔
      Sparse.wf i = true ∧ Sparse.wf j = true ∧ Sparse.wf k = true := Iff.rfl

@[simp] theorem Machine.Core.MemOk.wf_spad {k : Core} (h : k.MemOk) : Sparse.wf k.spad = true := h.1
@[simp] theorem Machine.Core.MemOk.wf_acc {k : Core} (h : k.MemOk) : Sparse.wf k.acc = true := h.2.1
@[simp] theorem Machine.Core.MemOk.wf_vregs {k : Core} (h : k.MemOk) : Sparse.wf k.vregs = true := h.2.2

/-- A core with the memories of a canonical one is canonical. -/
theorem Machine.Core.MemOk.congr {k k' : Core} (h : k.MemOk) (h1 : k'.spad = k.spad) (h2 : k'.acc = k.acc) (h3 : k'.vregs = k.vregs) :
    k'.MemOk := by
  obtain ⟨hs, ha, hv⟩ := h
  exact ⟨h1 ▸ hs, h2 ▸ ha, h3 ▸ hv⟩

/-- Cores that are each made from one of a canonical vector. -/
theorem CoresOk.map {v : Vector Core 128} (h : CoresOk v) (f : Core → Core) (hf : ∀ k, k.MemOk → (f k).MemOk) : CoresOk (v.map f) :=
  fun c => by simpa using hf _ (h c)

theorem CoresOk.mapIdx {v : Vector Core 128} (h : CoresOk v) (f : Core × Nat → Core) (hf : ∀ k n, k.MemOk → (f (k, n)).MemOk) :
    CoresOk (v.zipIdx.map f) :=
  fun c => by simpa using hf _ _ (h c)

theorem CoresOk.ofFn {f : CoreId → Core} (hf : ∀ c, (f c).MemOk) : CoresOk (Vector.ofFn f) := fun c => by simpa using hf c

/-! ### Putting a core or a context back -/

/-- A core put back with its own memories. -/
theorem MemoryOk.setCore_same {s : State} (h : MemoryOk s) (c : CoreId) {k : Core} (h1 : k.spad = (s.core c).spad := by rfl)
    (h2 : k.acc = (s.core c).acc := by rfl) (h3 : k.vregs = (s.core c).vregs := by rfl) : MemoryOk (s.setCore c k) :=
  h.setCore c ((h.core c).congr h1 h2 h3)

@[simp] theorem memoryOk_setCore {s : State} (h : MemoryOk s) (c : CoreId) (k : Core) : MemoryOk (s.setCore c k) ↔ k.MemOk :=
  ⟨fun ht => by simpa [setCore_core] using ht.core c, h.setCore c⟩

@[simp] theorem memoryOk_putCore {s : State} (h : MemoryOk s) (k : Core) : MemoryOk (s.putCore k) ↔ k.MemOk := memoryOk_setCore h _ _

@[simp] theorem memoryOk_setCtxAt {s : State} {c : CoreId} {b : BankId} {x : Option Ctx} : MemoryOk (s.setCtxAt c b x) ↔ MemoryOk s := by
  refine ⟨fun h => ⟨h.1, fun d => ?_⟩, fun h => h.setCtxAt c b x⟩
  have hd := h.core d
  rw [State.setCtxAt, setCore_core] at hd
  split at hd
  · subst_vars; exact hd
  · exact hd

@[simp] theorem memoryOk_putCtx {s : State} {x : Ctx} : MemoryOk (s.putCtx x) ↔ MemoryOk s := memoryOk_setCtxAt
@[simp] theorem memoryOk_setDie {s : State} {d : DieId} {x : Die} : MemoryOk (s.setDie d x) ↔ MemoryOk s := Iff.rfl

/-! ### The control core's clock -/

@[simp] theorem memoryOk_passCtl {s : State} {x : Ctx} {n : Nat} : MemoryOk (s.passCtl x n) ↔ MemoryOk s := memoryOk_putCtx
@[simp] theorem memoryOk_ctlDone {s : State} {x : Ctx} {n : Nat} : MemoryOk (s.ctlDone x n) ↔ MemoryOk s := memoryOk_putCtx
@[simp] theorem memoryOk_ctlHold {s : State} {x : Ctx} {w : Hold} : MemoryOk (s.ctlHold x w) ↔ MemoryOk s := memoryOk_putCtx
@[simp] theorem memoryOk_ctlBusy {s : State} {x : Ctx} : MemoryOk (s.ctlBusy x) ↔ MemoryOk s := memoryOk_putCtx
@[simp] theorem memoryOk_ctlBranch {s : State} {x : Ctx} {t : Word} {n : Nat} : MemoryOk (s.ctlBranch x t n) ↔ MemoryOk s := memoryOk_putCtx

@[simp] theorem memoryOk_ctlResult {s : State} {x : Ctx} {d : SReg} {v : Word} {n : Nat} :
    MemoryOk (s.ctlResult x d v n) ↔ MemoryOk s := by
  fun_cases State.ctlResult s x d v n <;> simp

@[simp] theorem memoryOk_passNow {s : State} {n : Nat} : MemoryOk (s.passNow n) ↔ MemoryOk s := by
  fun_cases State.passNow s n <;> simp

@[simp] theorem landDue_memOk {k : Core} (h : k.MemOk) (u : FixUnit) (x : Ctx) : (landDue u k x).1.MemOk := landBefore_memOk _ _ h _

@[simp] theorem MemoryOk.landAt {s : State} (h : MemoryOk s) (c : CoreId) (b : BankId) (u : FixUnit) : MemoryOk (s.landAt c b u) := by
  unfold State.landAt
  split
  · exact h
  · simp [h]

@[simp] theorem MemoryOk.ctlAfter {s : State} (h : MemoryOk s) (x : Ctx) (n : Nat) (f : Ctx → Ctx) : MemoryOk (s.ctlAfter x n f) := by
  have ht : MemoryOk ((s.passCtl x.issued n).landAt s.cur.core s.cur.bank .ctl) := by simp [h]
  unfold State.ctlAfter
  dsimp only
  split
  · exact ht
  · exact ht.putCtx _

@[simp] theorem MemoryOk.ctlHeld {s : State} (h : MemoryOk s) (x : Ctx) (f : Ctx → Ctx) : MemoryOk (s.ctlHeld x f) := h.ctlAfter _ _ _
@[simp] theorem memoryOk_ctlIssue {s : State} {x : Ctx} {p : Op} : MemoryOk (s.ctlIssue x p) ↔ MemoryOk s := memoryOk_putCtx

/-! ### Segments, use and events -/

@[simp] theorem memoryOk_setEntry {s : State} {a : BitVec 12} {i : Nat} {e : SegEntry} : MemoryOk (s.setEntry a i e) ↔ MemoryOk s := Iff.rfl
@[simp] theorem memoryOk_setObj {s : State} {o : Obj} : MemoryOk (s.setObj o) ↔ MemoryOk s := Iff.rfl
@[simp] theorem memoryOk_setApplied {s : State} {d : DieId} {k n : Nat} : MemoryOk (s.setApplied d k n) ↔ MemoryOk s := Iff.rfl
@[simp] theorem memoryOk_noteSeg {s : State} {a : BitVec 12} {i : Nat} : MemoryOk (s.noteSeg a i) ↔ MemoryOk s := Iff.rfl
@[simp] theorem memoryOk_noteUse {s : State} {a : BitVec 12} {i : Nat} {l : Loc} : MemoryOk (s.noteUse a i l) ↔ MemoryOk s := Iff.rfl
@[simp] theorem memoryOk_send {s : State} {n : Nat} {l : List Nat} : MemoryOk (s.send n l) ↔ MemoryOk s := Iff.rfl

@[simp] theorem memoryOk_noteXlat {s : State} {k : Core} {a : BitVec 12} {va : Nat} : MemoryOk (s.noteXlat k a va) ↔ MemoryOk s := by
  fun_cases State.noteXlat s k a va <;> simp

/-! ### Code -/

@[simp] theorem MemoryOk.holdSector {s : State} (h : MemoryOk s) (c : CoreId) (a : BitVec 12) (va : Nat) (d : BitVec 256) :
    MemoryOk (s.holdSector c a va d) := h.setCore c (h.core c)

theorem MemoryOk.foldl {α : Type} {f : State → α → State} (hf : ∀ s a, MemoryOk s → MemoryOk (f s a)) (l : List α) {s : State}
    (h : MemoryOk s) : MemoryOk (l.foldl f s) := by
  induction l generalizing s with
  | nil => exact h
  | cons a l ih => exact ih (hf s a h)

@[simp] theorem MemoryOk.readAhead {s : State} (h : MemoryOk s) : MemoryOk s.readAhead := by
  refine MemoryOk.foldl (fun t c ht => ?_) _ ⟨h.1, CoresOk.mapIdx h.2 _ fun k n hk => hk.congr rfl rfl rfl⟩
  dsimp only
  split
  · split
    · exact ht
    · exact ht
  · exact ht

/-- A fetch, whether it gives code or not, leaves a canonical state. -/
theorem MemoryOk.fetch {s : State} (h : MemoryOk s) (c : CoreId) (a : BitVec 12) (n : Nat) (va : Word) (k : Nat) :
    (∀ w t, s.fetch c a n va k = .ok (w, t) → MemoryOk t) ∧ ∀ e, s.fetch c a n va k = .error e → MemoryOk e.st := by
  unfold State.fetch
  dsimp only
  split
  · split
    · simp [h]
    · split <;> simp [h]
  · simp [h]

variable {s : State}

/-! ### Traps, and contexts that stop -/

@[simp] theorem Machine.Core.MemOk.putFrame {k : Core} (h : k.MemOk) (first v : Nat) : (k.putFrame first v).MemOk := by
  unfold Core.putFrame
  generalize List.range 15 = l
  induction l generalizing k with
  | nil => exact h
  | cons i l ih => exact ih (h.putRow _ _)

theorem foldl_land_memOk (l : List Flight) {a : Core × Ctx} (h : a.1.MemOk) : (l.foldl (fun a f => land f.val a.1 a.2) a).1.MemOk := by
  induction l generalizing a with
  | nil => exact h
  | cons f l ih => exact ih (land_memOk _ h _)

@[simp] theorem landOver_memOk {k : Core} (h : k.MemOk) (x : Ctx) : (landOver k x).1.MemOk := foldl_land_memOk _ h

@[simp] theorem release_memOk {k : Core} {i : Ident} : (k.release i).MemOk ↔ k.MemOk := Iff.rfl

@[simp] theorem MemoryOk.freeBank (h : MemoryOk s) (c : CoreId) (b : BankId) : MemoryOk (s.freeBank c b) := by
  unfold State.freeBank
  split
  · exact h
  · exact h.setCore c (k := Core.release _ _) (h.core c)

@[simp] theorem MemoryOk.endFatal (h : MemoryOk s) (c : CoreId) (b : BankId) (w : Word) : MemoryOk (s.endFatal c b w) := by
  unfold State.endFatal
  split <;> simp [h]

@[simp] theorem MemoryOk.ctxFatal (h : MemoryOk s) (c : CoreId) (b : BankId) (w : Word) : MemoryOk (s.ctxFatal c b w) := by
  unfold State.ctxFatal
  split
  · exact h
  · split <;> simp [h]

theorem landBefore_eq_memOk {k k' : Core} {x x' : Ctx} {u : FixUnit} {n : Nat} (h : k.MemOk) (e : landBefore u n k x = (k', x')) :
    k'.MemOk := by
  simpa [e] using landBefore_memOk u n h x

theorem landOver_eq_memOk {k k' : Core} {x x' : Ctx} (h : k.MemOk) (e : landOver k x = (k', x')) : k'.MemOk := by
  simpa [e] using landOver_memOk h x

/-- A trap entry lands what is due and writes the frame, and its context stops otherwise (R88). -/
@[simp] theorem MemoryOk.takeTrap (h : MemoryOk s) (x : Ctx) (cause : Cause) (kind : Option Kind) :
    MemoryOk (s.takeTrap x cause kind) := by
  unfold State.takeTrap
  extract_lets
  split
  next k₁ x₁ h₁ =>
  split
  next k₂ x₂ h₂ =>
  split
  next k₃ x₃ h₃ =>
  have hk : k₃.MemOk := landOver_eq_memOk (landBefore_eq_memOk (landBefore_eq_memOk (h.core _) h₁) h₂) h₃
  extract_lets t first
  have ht : MemoryOk t := h.putCore hk
  split
  · exact ht.ctxFatal _ _ _
  · exact (ht.putCore ((ht.core _).putFrame _ _)).putCtx _

@[simp] theorem MemoryOk.trapP (h : MemoryOk s) (x : Ctx) (code : CauseCode) (detail event addr : Nat) :
    MemoryOk (s.trapP x code detail event addr) := h.takeTrap _ _ _

@[simp] theorem MemoryOk.raiseQ (h : MemoryOk s) (x : Ctx) (q : QWord) (c : Cause) : MemoryOk (s.raiseQ x q c) := by
  unfold State.raiseQ
  split
  · simp [h]
  · split <;> simp [h]

@[simp] theorem MemoryOk.ctlStall (h : MemoryOk s) (x : Ctx) (i va : Nat) : MemoryOk (s.ctlStall x i va) := by
  unfold State.ctlStall
  extract_lets
  split <;> simp [h]

@[simp] theorem MemoryOk.chain (h : MemoryOk s) (x : Ctx) (r : Run) (cause : Cause) : MemoryOk (s.chain x r cause) := by
  unfold State.chain
  extract_lets
  split
  · simp [h]
  · exact (h.putCore ((((h.core _).putRowBytes _ _ _).putRow _ _))).putCtx _

@[simp] theorem memoryOk_resume {x : Ctx} {l : List (FixUnit × Nat × FlightVal × Nat × Option HReg)} {pc : Word} :
    MemoryOk (s.resume x l pc) ↔ MemoryOk s := memoryOk_putCtx

@[simp] theorem MemoryOk.deliverOr {t : State} (h : MemoryOk s) (x : Ctx) (want : Eng → Bool) (ht : MemoryOk t) :
    MemoryOk (s.deliverOr x want t) := by
  unfold State.deliverOr
  split
  · exact ht
  · split <;> simp [h, ht]

@[simp] theorem MemoryOk.ctlWait (h : MemoryOk s) (x : Ctx) (on : WaitOn) : MemoryOk (s.ctlWait x on) := h.deliverOr _ _ (by simp [h])

/-! ### Control words -/

theorem ctlWord_ok (h : MemoryOk s) {g : Guard} {rs : List SReg} {k : Ctx → Out} (hk : ∀ x, OutOk (k x)) : OutOk (ctlWord g rs s k) := by
  unfold ctlWord
  split
  · exact h
  · extract_lets
    split_ifs
    · exact hk _
    · simp [h]
    · simp [h]
    · simp [h]
    · exact hk _

theorem ctlWordRes_ok (h : MemoryOk s) {g : Guard} {rs : List SReg} {m : Ctx → Bool} {k : Ctx → Out} (hk : ∀ x, OutOk (k x)) :
    OutOk (ctlWordRes g rs m s k) := by
  unfold ctlWordRes
  split
  · exact h
  · extract_lets
    split
    · simp [h]
    · exact ctlWord_ok h hk

theorem ctlAlu_ok (h : MemoryOk s) (o : C3) (n : Nat) (f : Word → Word → Word → Word) : OutOk (ctlAlu o n f s) :=
  ctlWordRes_ok h fun x => by simp [h]

theorem ctlDiv_ok (h : MemoryOk s) (o : C3) (f : Word → Word → Word) : OutOk (ctlDiv o f s) :=
  ctlWordRes_ok h fun x => by split <;> simp [h]

theorem ctlImm_ok (h : MemoryOk s) (o : CI) (f : Ctx → Word) : OutOk (ctlImm o f s) := ctlWordRes_ok h fun x => by simp [h]

theorem branchTo_ok (h : MemoryOk s) (x : Ctx) (t : Word) (n : Nat) : OutOk (branchTo s x t n) := by
  unfold branchTo
  split <;> simp [h]

/-- A translation goes on in a canonical state, or traps, stalls or stops. -/
theorem withXlat_ok (h : MemoryOk s) (x : Ctx) (e : Xlat) (va : Nat) {k : Loc → State → Out} (hk : ∀ l t, MemoryOk t → OutOk (k l t)) :
    OutOk (withXlat s x e va k) := by
  unfold withXlat
  extract_lets trap
  have ht : ∀ c ev, OutOk (trap c ev) := fun c ev => by simp [trap, h]
  cases e with
  | ok l i => exact hk _ _ (by simp [h])
  | segv => exact ht _ _
  | perm => exact ht _ _
  | poison ev => exact ht _ _
  | resid => exact ht _ _
  | absent i => simp [h]
  | dup i => simp [h]
  | hole => simp

theorem probeWord_ok (h : MemoryOk s) (o : C3) (fill : Bool) : OutOk (probeWord o fill s) := by
  refine ctlWord_ok h fun x => ?_
  extract_lets
  repeat' split
  any_goals simp [h]
  · exact memoryOk_passNow.mpr (h.ctlAfter _ _ _)
  · refine memoryOk_passNow.mpr (MemoryOk.ctlAfter (h.putCore (Core.MemOk.putSpadBytes ?_ _ _)) _ _ _)
    exact iteInduction (fun _ => (h.core _).putSpadBytes _ _) fun _ => h.core _

/-! ### Words of the X queue -/

@[simp] theorem trapQ_ok (h : MemoryOk s) (x : Ctx) (code : CauseCode) (detail event addr : Nat) :
    OutOk (s.trapQ x code detail event addr) := by
  unfold State.trapQ
  extract_lets
  split <;> simp [h]

@[simp] theorem poisonFatal_ok (h : MemoryOk s) (k : Kind) : OutOk (s.poisonFatal k) := h.ctxFatal _ _ _

theorem xReads_ok (h : MemoryOk s) {g : Guard} {vs : List VReg} {ps : List PReg} {es : List EReg} {k : Ctx → QWord → Out}
    (hk : ∀ x q, OutOk (k x q)) : OutOk (xReads s g vs ps es k) := by
  unfold xReads
  split
  · split
    · simp [h]
    · exact hk _ _
  · exact h

theorem xWord_ok (h : MemoryOk s) {g : Guard} {vs : List VReg} {ps : List PReg} {es : List EReg} {k : Ctx → QWord → Out}
    (hk : ∀ x q, OutOk (k x q)) : OutOk (xWord s g vs ps es k) := by
  unfold xWord
  split
  · split
    · exact xReads_ok h hk
    · simp [h]
  · exact h

theorem xWord0_ok (h : MemoryOk s) {g : Guard} {es : List EReg} {k : Ctx → QWord → Out} (hk : ∀ x q, OutOk (k x q)) :
    OutOk (xWord0 s g es k) := by
  unfold xWord0
  split
  · exact h
  · split_ifs
    · simp [h]
    · exact xReads_ok h hk
    · simp [h]

theorem xWordRes_ok (h : MemoryOk s) {g : Guard} {ok : Ctx → Bool} {vs : List VReg} {es : List EReg} {k : Ctx → QWord → Out}
    (hk : ∀ x q, OutOk (k x q)) : OutOk (xWordRes s g ok vs es k) := by
  unfold xWordRes
  split
  · exact h
  · extract_lets
    split_ifs
    · simp [h]
    · simp [h]
    · exact xReads_ok h hk
    · simp [h]

@[simp] theorem xIssue_ok (h : MemoryOk s) (x : Ctx) (q : QWord) (lat : Nat) (v : FlightVal) (solo : Bool) (bank : Nat) (r : Option HReg) :
    OutOk (s.xIssue x q lat v solo bank r) := h.putCtx _

/-! ### Sections, pushes and macros -/

theorem execSectionDispatch_ok (h : MemoryOk s) (hdr : Word) : OutOk (execSectionDispatch hdr s) := by
  fun_cases execSectionDispatch hdr s <;> simp [h]

theorem execBackReferenceSatisfied_ok (h : MemoryOk s) : OutOk (execBackReferenceSatisfied s) := by
  fun_cases execBackReferenceSatisfied s <;> simp [h]

theorem execWordPush_ok (h : MemoryOk s) (w : IWord) : OutOk (execWordPush w s) := by
  fun_cases execWordPush w s <;> simp [h]

theorem execSectionRetirement_ok (h : MemoryOk s) (c : CoreId) (b : BankId) (k : Kind) (m : Bool) :
    OutOk (execSectionRetirement c b k m s) := by
  fun_cases execSectionRetirement c b k m s <;> simp [h]

theorem execResultLanding_ok (h : MemoryOk s) (c : CoreId) (b : BankId) (u : FixUnit) : OutOk (execResultLanding c b u s) := by
  unfold execResultLanding
  split
  · exact h
  · exact (h.setCore _ (landBefore_memOk _ _ (h.core _) _)).setCtxAt _ _ _

@[simp] theorem handOver_ok (h : MemoryOk s) (x : Ctx) (q : QWord) (aux : List Nat) : OutOk (s.handOver x q aux) := h.putCtx _

theorem macroWord_ok (h : MemoryOk s) {k : Ctx → Run → Out} (hk : ∀ x r, OutOk (k x r)) : OutOk (macroWord s k) := by
  unfold macroWord
  split
  · exact h
  · split
    · split <;> simp [h]
    · split
      · exact hk _ _
      · exact h
    · exact h

@[simp] theorem putRun_ok (h : MemoryOk s) (x : Ctx) (r : Run) : OutOk (s.putRun x r) := h.putCtx _
@[simp] theorem runFault_ok (h : MemoryOk s) (x : Ctx) (r : Run) (code : CauseCode) (detail event addr : Nat) :
    OutOk (s.runFault x r code detail event addr) := h.putCtx _

/-- A part of a unit that stops its queue word keeps the form; one that does not goes on with its value. -/
theorem orFault_ok {α : Type} (h : MemoryOk s) (x : Ctx) (r : Run) (e : Mac α) {k : α → Out} (hk : ∀ a, e = .ok a → OutOk (k a)) :
    OutOk (orFault s x r e k) := by
  unfold orFault
  split
  · exact hk _ rfl
  · simp [h]

theorem publish_memOk {k : Core} (h : k.MemOk) (r : Run) (x : Ctx) : (r.publish k x).1.MemOk := by
  unfold Run.publish
  extract_lets
  split
  · exact h.putPairs _
  · split
    · split <;> exact h
    · exact h

theorem execMacroCompletion_ok (h : MemoryOk s) (c : CoreId) (b : BankId) (e : Eng) : OutOk (execMacroCompletion c b e s) := by
  unfold execMacroCompletion
  split
  · exact h
  · split
    · exact h
    · exact (h.setCore _ (publish_memOk (h.core _) _ _)).setCtxAt _ _ _

theorem execTimerExpiry_ok (h : MemoryOk s) (c : CoreId) (b : BankId) : OutOk (execTimerExpiry c b s) := by
  fun_cases execTimerExpiry c b s <;> simp [h]

theorem execTrapEntry_ok (h : MemoryOk s) (cause : Cause) : OutOk (execTrapEntry cause s) := by
  fun_cases execTrapEntry cause s <;> simp [h]

/-! ### The acceptance unit -/

theorem execAccept_ok (h : MemoryOk s) (o : EM) : OutOk (execAccept o s) :=
  macroWord_ok h fun x r => by
    extract_lets
    split
    · simp [h]
    · exact orFault_ok h _ _ _ fun aux _ => by simp [h]

theorem execFragset_ok (h : MemoryOk s) (o : EM) : OutOk (execFragset o s) := macroWord_ok h fun x r => by simp [h]

/-! ### Branches, tables, DONE and YIELD -/

theorem execBr_ok (h : MemoryOk s) (o : CB) : OutOk (execBr o s) := ctlWord_ok h fun _ => branchTo_ok h _ _ _
theorem execRet_ok (h : MemoryOk s) (o : C3) : OutOk (execRet o s) := ctlWord_ok h fun _ => branchTo_ok h _ _ _

theorem execBc_ok (h : MemoryOk s) (o : CB) : OutOk (execBc o s) := ctlWord_ok h fun x => by
  split
  · exact branchTo_ok h _ _ _
  · simp [h]

theorem execCall_ok (h : MemoryOk s) (o : CB) : OutOk (execCall o s) := ctlWordRes_ok h fun x => by
  extract_lets
  split_ifs <;> simp [h]

theorem tableWord_ok (h : MemoryOk s) (x : Ctx) (va : Nat) (e : Xlat) {k : Word → State → Out} (hk : ∀ w t, MemoryOk t → OutOk (k w t)) :
    OutOk (tableWord s x va e k) := withXlat_ok h _ _ _ fun l t ht => by
  split
  · simp [ht]
  · exact hk _ _ ht

theorem execJtab_ok (h : MemoryOk s) (o : CB) : OutOk (execJtab o s) := ctlWord_ok h fun _ =>
  tableWord_ok h _ _ _ fun b t ht => by
    extract_lets
    split
    · exact tableWord_ok ht _ _ _ fun _ _ hu => branchTo_ok hu _ _ _
    · simp [ht]

theorem execJfrag_ok (h : MemoryOk s) (o : C3) : OutOk (execJfrag o s) := ctlWord_ok h fun _ =>
  tableWord_ok h _ _ _ fun _ _ hu => branchTo_ok hu _ _ _

theorem execDone_ok (h : MemoryOk s) (o : C3) : OutOk (execDone o s) := ctlWord_ok h fun x => by
  extract_lets
  split
  · simp [h]
  · split <;> simp [h]

@[simp] theorem MemoryOk.switchTo (h : MemoryOk s) (c : CoreId) (b : BankId) : MemoryOk (s.switchTo c b) := by
  unfold State.switchTo
  extract_lets k t
  have ht : MemoryOk t := by
    dsimp only [t]
    split
    · split <;> simp [h]
    · exact h
  exact ht.setCore _ (ht.core _)

theorem execYield_ok (h : MemoryOk s) (o : C3) : OutOk (execYield o s) := ctlWord_ok h fun x => by
  extract_lets t
  have ht : MemoryOk t := memoryOk_ctlDone.mpr h
  split
  · exact ht
  · split
    · exact ht.switchTo _ _
    · exact ht

/-! ### Scalar memory -/

theorem scalarPlace_ok (h : MemoryOk s) (x : Ctx) (o : C3) (acc : AccKind) {k : Loc → State → Out}
    (hk : ∀ l t, MemoryOk t → OutOk (k l t)) : OutOk (scalarPlace s x o acc k) := by
  unfold scalarPlace
  extract_lets
  split_ifs
  · simp [h]
  · simp [h]
  · split
    · simp [h]
    · split
      · simp [h]
      · exact hk _ _ h
  · exact withXlat_ok h _ _ _ hk

theorem execSld_ok (h : MemoryOk s) (o : C3) : OutOk (execSld o s) := ctlWord_ok h fun x =>
  scalarPlace_ok h _ _ _ fun l t ht => by
    split
    · simp [ht]
    · split <;> simp [ht]

theorem execSst_ok (h : MemoryOk s) (o : C3) : OutOk (execSst o s) := ctlWord_ok h fun x =>
  scalarPlace_ok h _ _ _ fun l t ht => by simp [ht]

theorem execAwait_ok (h : MemoryOk s) (o : C3) : OutOk (execAwait o s) := ctlWord_ok h fun x => by
  extract_lets
  rw [outOk_next]
  split <;> simp [h]

/-- An operation at a bank, whatever values it writes for (R110). -/
theorem MemoryOk.bankOpWhen {t : State} (h : MemoryOk s) {d : DieId} {pa n : Nat} {own : Option (CoreId × BitVec 32)} {f : Nat → Nat}
    {wr : Nat → Bool} {old : Nat} (e : s.bankOp d pa n own f wr = some (old, t)) : MemoryOk t := by
  unfold State.bankOp at e
  dsimp only at e
  split at e
  · split at e
    · cases e; exact h
    · split at e
      · next hw => cases e; exact h.writeMem _ _ _ _ hw
      · cases e
  · cases e

theorem amoWord_ok (h : MemoryOk s) (x : Ctx) (o : C3) (n : Nat) (kind : OpKind) (f : Nat → Nat) (wr : Nat → Bool) :
    OutOk (amoWord s x o n kind f wr) := by
  unfold amoWord
  refine outOk_ite (by simp [h]) ?_
  extract_lets
  refine outOk_ite (by simp [h]) (outOk_ite (by simp [h]) (withXlat_ok h _ _ _ fun l t ht => ?_))
  split
  · refine outOk_ite (by simp [ht]) (outOk_ite (by simp [ht]) (outOk_ite ?_ (by simp [ht])))
    split
    · next hb => simp [ht.bankOpWhen hb]
    · simp [ht]
  · simp [ht]

theorem execAmo_ok (h : MemoryOk s) (o : C3) : OutOk (execAmo o s) := ctlWord_ok h fun _ => amoWord_ok h _ _ _ _ _ _
theorem execAmof_ok (h : MemoryOk s) (o : C3) : OutOk (execAmof o s) := ctlWord_ok h fun _ => amoWord_ok h _ _ _ _ _ _

/-! ### Queues of records and contexts -/

@[simp] theorem pushDeque_memOk {k : Core} {q : QRec} : (k.pushDeque q).MemOk ↔ k.MemOk := by
  unfold Core.pushDeque
  split <;> exact Iff.rfl

@[simp] theorem refill_memOk {k : Core} : k.refill.MemOk ↔ k.MemOk := by
  unfold Core.refill
  split <;> exact Iff.rfl

@[simp] theorem countShare_memOk {k : Core} {sh : Nat × Nat} : (k.countShare sh).MemOk ↔ k.MemOk := by
  unfold Core.countShare
  split <;> exact Iff.rfl

@[simp] theorem dropTail_memOk {k : Core} : k.dropTail.MemOk ↔ k.MemOk := by
  unfold Core.dropTail
  split <;> exact Iff.rfl

@[simp] theorem obtain_memOk {k : Core} {b : BankId} {q : QRec} {l : Nat} : (k.obtain b q l).MemOk ↔ k.MemOk := by
  unfold Core.obtain
  split <;> exact Iff.rfl

@[simp] theorem without_memOk {k : Core} {gone : List QRec} : (k.without gone).MemOk ↔ k.MemOk := refill_memOk
@[simp] theorem stage_memOk {k : Core} {b : BankId} {x : Ctx} {n : Nat} : (k.stage b x n).MemOk ↔ k.MemOk := Iff.rfl

@[simp] theorem memoryOk_pushReady {d : DieId} {q : QRec} : MemoryOk (s.pushReady d q) ↔ MemoryOk s := Iff.rfl
@[simp] theorem memoryOk_admitHeld {d : DieId} : MemoryOk (s.admitHeld d) ↔ MemoryOk s := Iff.rfl
@[simp] theorem memoryOk_pushFirm {d : DieId} {q : QRec} : MemoryOk (s.pushFirm d q) ↔ MemoryOk s := Iff.rfl

@[simp] theorem MemoryOk.pushRec (h : MemoryOk s) (c : CoreId) (q : QRec) (clock : List Nat) : MemoryOk (s.pushRec c q clock) := by
  unfold State.pushRec
  extract_lets _ _ t
  have ht : MemoryOk t := h
  split <;> simp [ht]

@[simp] theorem MemoryOk.pushChecked (h : MemoryOk s) (c : CoreId) (q : QRec) (clock : List Nat) : MemoryOk (s.pushChecked c q clock) := by
  unfold State.pushChecked
  split
  · simp [h]
  · split <;> simp [h]

theorem execSpawn_ok (h : MemoryOk s) (o : C3) : OutOk (execSpawn o s) := ctlWord_ok h fun x => by
  extract_lets
  refine outOk_ite (by simp [h]) (withXlat_ok h _ _ _ fun l t ht => ?_)
  extract_lets
  split_ifs <;> simp [ht]

theorem execJdec_ok (h : MemoryOk s) (o : C3) : OutOk (execJdec o s) := ctlWord_ok h fun x => by
  extract_lets
  refine outOk_ite (by simp [h]) (outOk_ite (by simp [h]) (outOk_ite (by simp [h]) (withXlat_ok h _ _ _ fun l t ht => ?_)))
  split
  · extract_lets
    split_ifs <;> simp [ht]
  · simp [ht]

@[simp] theorem MemoryOk.dispatch (h : MemoryOk s) (c : CoreId) (b : BankId) (q : QRec) (p : Place) (l : Nat) :
    MemoryOk (s.dispatch c b q p l) := h.setCore _ ⟨(h.core c).1, (h.core c).2.1, Sparse.filter_wf _ _ (h.core c).2.2⟩

@[simp] theorem ownClk_memOk (h : MemoryOk s) (c : CoreId) : (s.ownClk c).MemOk := by
  unfold State.ownClk
  extract_lets k
  have hk : k.MemOk := h.core c
  split
  · exact obtain_memOk.mpr (refill_memOk.mpr hk)
  · split
    · exact obtain_memOk.mpr hk
    · exact hk
  · exact hk

@[simp] theorem MemoryOk.steal (h : MemoryOk s) (v c : CoreId) (b : BankId) : MemoryOk (s.steal v c b) := by
  unfold State.steal
  extract_lets k k' t
  split
  · have hk : k'.MemOk := refill_memOk.mpr (dropTail_memOk.mpr (h.core v))
    have ht : MemoryOk t := MemoryOk.setCore h v hk
    simp [ht]
  · exact h.setCore c (h.core c)

@[simp] theorem MemoryOk.startDues (h : MemoryOk s) (c : CoreId) : MemoryOk (s.startDues c) := by
  refine MemoryOk.foldl (fun t d ht => ?_) _ h
  split
  · extract_lets k
    split
    · exact (ht.setCore_same c).dispatch _ _ _ _ _
    · exact ht
  · exact ht

theorem execIdleSlotDispatch_ok (h : MemoryOk s) (c : CoreId) : OutOk (execIdleSlotDispatch c s) := by
  unfold execIdleSlotDispatch
  extract_lets d _ t t' t''
  have ht : MemoryOk t := by
    dsimp only [t]
    split <;> simp [h]
  have ht' : MemoryOk t' := ⟨ht.1, CoresOk.ofFn fun e => iteInduction (fun _ => ownClk_memOk h e) fun _ => h.core e⟩
  have ht'' : MemoryOk t'' := MemoryOk.foldl (fun u p hu => hu.steal _ _ _) _ ht'
  exact MemoryOk.foldl (fun u p hu => hu.startDues _) _ (memoryOk_admitHeld.mpr ht'')

theorem execRowClearingDone_ok (h : MemoryOk s) (c : CoreId) : OutOk (execRowClearingDone c s) := by
  obtain ⟨hs, ha, hv⟩ := h.core c
  unfold execRowClearingDone
  extract_lets
  split
  · exact h
  · exact h.setCore c ⟨hs, Sparse.filter_wf _ _ ha, hv⟩
  · exact h.setCore c ⟨Sparse.filter_wf _ _ hs, ha, hv⟩

theorem execAgeingTick_ok (h : MemoryOk s) : OutOk (execAgeingTick s) :=
  ⟨h.1, CoresOk.ofFn fun c => without_memOk.mpr (h.core c)⟩

theorem execContextSwitch_ok (h : MemoryOk s) (c : CoreId) : OutOk (execContextSwitch c s) := by
  unfold execContextSwitch
  rw [outOk_next]
  split <;> simp [h]

theorem execEngineContextChange_ok (h : MemoryOk s) (c : CoreId) (e : Option Eng) : OutOk (execEngineContextChange c e s) := by
  unfold execEngineContextChange
  extract_lets
  split
  · split
    · exact h.setCore_same c
    · exact h
  · extract_lets
    split
    · exact h.setCore_same c
    · exact h

theorem execPark_ok (h : MemoryOk s) (d : DieId) : OutOk (execPark d s) := by
  unfold execPark
  split
  · simp [h]
  · split <;> simp [h]
  · split
    · exact h
    · split <;> simp [h]

theorem execParkedResume_ok (h : MemoryOk s) (c : CoreId) : OutOk (execParkedResume c s) := by
  unfold execParkedResume
  dsimp only
  split
  · exact h.setCore_same c
  · exact h
  · split
    · exact h
    · exact h.setCore_same c

/-! ### Scalar operations that do not hold the control core -/

theorem storeSpad_memOk {k : Core} (h : k.MemOk) (a : Nat) (bs : List Byte) : (k.storeSpad a bs).MemOk := by
  unfold Core.storeSpad
  extract_lets k'
  have hk : k'.MemOk := h.putSpadBytes _ _
  split
  · exact hk.putBarrier _ _
  · exact hk

theorem bankDone_ok (h : MemoryOk s) {c : CoreId} {put : State → Ctx → State} (hput : ∀ t y, MemoryOk t → MemoryOk (put t y)) (x : Ctx)
    (p : Op) (pa : Nat) (sd : SReg) (f : Nat → Nat) (wr : Nat → Bool) {after : Nat → State → State}
    (ha : ∀ n t, MemoryOk t → MemoryOk (after n t)) : MemoryOk (bankDone s c put x p pa sd f wr after) := by
  unfold bankDone
  split
  · exact h
  · next hb =>
    extract_lets
    split <;> exact hput _ _ (ha _ _ (h.bankOpWhen hb))

@[simp] theorem MemoryOk.jdecPush (h : MemoryOk s) (c : CoreId) (x : Ctx) (pa : Nat) : MemoryOk (s.jdecPush c x pa) := h.pushChecked _ _ _

theorem opRun_ok (h : MemoryOk s) (c : CoreId) (x : Ctx) (k : Nat) {put : State → Ctx → State}
    (hput : ∀ t y, MemoryOk t → MemoryOk (put t y)) : OutOk (s.opRun c x k put) := by
  unfold State.opRun
  split
  · exact h
  · refine outOk_ite h ?_
    extract_lets y own
    split
    · split
      · exact hput _ _ h
      · exact hput _ _ h
    · split
      · next hw => exact hput _ _ (h.writeMem _ _ _ _ hw)
      · exact h
    · exact hput _ _ (h.setCore c (storeSpad_memOk (h.core c) _ _))
    · exact hput _ _ h
    · exact bankDone_ok h hput _ _ _ _ _ _ fun _ _ ht => ht
    · exact bankDone_ok h hput _ _ _ _ _ _ fun _ _ ht => ht
    · refine outOk_ite h (bankDone_ok h hput _ _ _ _ _ _ fun n t ht => ?_)
      split
      · exact ht.jdecPush _ _ _
      · exact ht
    · exact outOk_ite h ((hput _ _ h).pushRec _ _ _)
    · exact hput _ _ (h.setCore c ((h.core c).initBarrier _ _))
    · exact outOk_ite (hput _ _ h) h
    · exact h

@[simp] theorem MemoryOk.setAway (h : MemoryOk s) (c : CoreId) (x : Ctx) : MemoryOk (s.setAway c x) := h.setCore c (h.core c)

theorem execScalarAccessCompletion_ok (h : MemoryOk s) (c : CoreId) (b : BankId) (k : Nat) :
    OutOk (execScalarAccessCompletion c b k s) := by
  unfold execScalarAccessCompletion
  extract_lets
  split
  · exact opRun_ok h _ _ _ fun _ _ ht => ht.setCtxAt _ _ _
  · split
    · exact opRun_ok h _ _ _ fun _ _ ht => ht.setAway _ _
    · exact h

theorem execWritePropagation_ok (h : MemoryOk s) (k : Nat) : OutOk (execWritePropagation k s) := by
  unfold execWritePropagation
  split
  · exact h
  · exact outOk_ite (h.applyTransit _) h

/-! ### Transactions that arrive -/

@[simp] theorem memoryOk_setDup {a : BitVec 12} {i d n : Nat} : MemoryOk (s.setDup a i d n) ↔ MemoryOk s := Iff.rfl
@[simp] theorem memoryOk_collapseDup {a : BitVec 12} {i : Nat} : MemoryOk (s.collapseDup a i) ↔ MemoryOk s := Iff.rfl

theorem MemoryOk.recvXlat {t : State} (h : MemoryOk s) {a : BitVec 12} {va : Nat} {acc : AccKind} {l : Loc}
    (e : s.recvXlat a va acc = .ok (l, t)) : MemoryOk t := by
  unfold State.recvXlat at e
  dsimp only at e
  split at e
  · cases e; simp [h]
  · split at e
    · cases e; simp [h]
    · cases e
  · cases e

@[simp] theorem MemoryOk.noteVas (h : MemoryOk s) (a : BitVec 12) (acc : AccKind) (l : List Nat) : MemoryOk (s.noteVas a acc l) := by
  induction l generalizing s with
  | nil => exact h
  | cons va l ih =>
    unfold State.noteVas
    dsimp only
    split
    · exact ih (memoryOk_noteXlat.mpr h)
    · exact memoryOk_noteXlat.mpr h

/-- A loop over a list that may stop keeps what each of its steps keeps. -/
theorem except_foldlM_keeps {α β ε : Type} {P : β → Prop} {f : β → α → Except ε β} (hf : ∀ b a b', P b → f b a = .ok b' → P b')
    (l : List α) {b b' : β} (h : P b) (e : l.foldlM f b = .ok b') : P b' := by
  induction l generalizing b with
  | nil => cases e; exact h
  | cons a l ih =>
    rw [List.foldlM_cons] at e
    cases hb : f b a with
    | error _ => rw [hb] at e; cases e
    | ok c => rw [hb] at e; exact ih (hf _ _ _ h hb) e

theorem MemoryOk.recvPlaces {u : State} (h : MemoryOk s) {t : Flit} {n : Nat} {acc : AccKind} {ps : List (Nat × Nat × Loc)}
    (e : s.recvPlaces t n acc = .ok (ps, u)) : MemoryOk u := by
  refine except_foldlM_keeps (P := fun a : List (Nat × Nat × Loc) × State => MemoryOk a.2) (fun b a b' hb he => ?_) _ h e
  obtain ⟨i, k⟩ := a
  dsimp only at he
  split at he
  · next hx => cases he; exact hb.recvXlat hx
  · cases he

/-- The state of what a receiver does is canonical. -/
def RecvOk (r : Recv) : Prop := ∀ u rows, r = .ok (some (u, rows)) → MemoryOk u

theorem recvPut_ok (h : MemoryOk s) (t : Flit) : RecvOk (s.recvPut t) := by
  intro u rows e
  unfold State.recvPut at e
  split at e
  · cases e
  · cases hp : s.recvPlaces t t.rows.length .write with
    | error c => rw [hp] at e; cases e
    | ok a =>
      simp only [hp, Except.map, Except.ok.injEq, Option.map_eq_some_iff, Prod.mk.injEq] at e
      obtain ⟨v, hv, rfl, rfl⟩ := e
      exact (h.recvPlaces hp).landEverywhere _ hv

theorem recvGet_ok (h : MemoryOk s) (t : Flit) : RecvOk (s.recvGet t) := by
  intro u rows e
  unfold State.recvGet at e
  split at e
  · cases e
  · cases hp : s.recvPlaces t t.nrows .read with
    | error c => rw [hp] at e; cases e
    | ok a => rw [hp] at e; cases e; exact h.recvPlaces hp

theorem foldl_putRow_memOk (row : Nat) (l : List (Row × Nat)) {k : Core} (h : k.MemOk) :
    (l.foldl (fun k (v, i) => k.putRow (row + i) v) k).MemOk := by
  induction l generalizing k with
  | nil => exact h
  | cons p l ih => exact ih (h.putRow _ _)

theorem recvPuth_ok (h : MemoryOk s) (t : Flit) : RecvOk (s.recvPuth t) := by
  intro u rows e
  unfold State.recvPuth at e
  dsimp only at e
  split at e
  · cases e
  · split at e
    · cases e
    · split at e
      · cases e
      · cases e
        exact (h.setCore _ (foldl_putRow_memOk _ _ (h.core _))).pushChecked _ _ _

theorem MemoryOk.addSector {u : State} (h : MemoryOk s) {t : Flit} {p : Nat × Nat × Loc} (e : s.addSector t p = some u) : MemoryOk u := by
  unfold State.addSector at e
  split at e
  · exact h.landEverywhere _ e
  · cases e; exact h

theorem recvCollective_ok (h : MemoryOk s) (t : Flit) : RecvOk (s.recvCollective t) := by
  intro u rows e
  unfold State.recvCollective at e
  split at e
  · cases e
  · split at e
    · cases e
    · next ps v hp =>
      split at e
      · simp only [Except.ok.injEq, Option.map_eq_some_iff, Prod.mk.injEq] at e
        obtain ⟨w, hw, rfl, rfl⟩ := e
        exact MemoryOk.foldlM _ _ (fun _ _ _ hs he => hs.addSector he) (h.recvPlaces hp) hw
      · cases e

theorem recvAtomic_ok (h : MemoryOk s) {t : Flit} {u : State} {n : Nat} (e : s.recvAtomic t = .ok (some (u, n))) : MemoryOk u := by
  unfold State.recvAtomic at e
  dsimp only at e
  split at e
  · cases e
  · split at e
    · cases e
    · split at e
      · next hx =>
        split at e
        · cases e
        · simp only [Except.ok.injEq, Option.map_eq_some_iff, Prod.mk.injEq] at e
          obtain ⟨⟨old, v⟩, hv, rfl, rfl⟩ := e
          exact (h.recvXlat hx).bankOpWhen hv
      · cases e
      · cases e

@[simp] theorem memoryOk_answer {n : Nat} {t : Flit} {r : Option Nat} {rows : List Row} {old : Nat} :
    MemoryOk (s.answer n t r rows old) ↔ MemoryOk s := Iff.rfl

@[simp] theorem MemoryOk.refused (h : MemoryOk s) (typ : Nat) (t : Flit) (c : Nat) : MemoryOk (s.refused typ t c) := by
  unfold State.refused
  extract_lets
  split
  · simp [h]
  · split <;> simp [h]

theorem receive_ok (h : MemoryOk s) (typ : Nat) (t : Flit) {r : Recv} (hr : RecvOk r) : OutOk (receive s typ t r) := by
  unfold receive
  refine outOk_ite h ?_
  split
  · simp [h]
  · exact h
  · exact memoryOk_answer.mpr (hr _ _ rfl)

theorem execReceiveAtomic_ok (h : MemoryOk s) (t : Flit) : OutOk (execReceiveAtomic t s) := by
  unfold execReceiveAtomic
  refine outOk_ite h ?_
  split
  · simp [h]
  · exact h
  · next hr => exact memoryOk_answer.mpr (recvAtomic_ok h hr)

theorem execRxbad_ok (h : MemoryOk s) (src : BitVec 19) (code : Byte) : OutOk (execRxbad src code s) := outOk_ite h h

/-! ### Answers to the module's own transactions -/

@[simp] theorem memoryOk_dropTxn {w : Word} : MemoryOk (s.dropTxn w) ↔ MemoryOk s := Iff.rfl
@[simp] theorem memoryOk_setTxn {t : Txn} : MemoryOk (s.setTxn t) ↔ MemoryOk s := Iff.rfl
@[simp] theorem memoryOk_resend {t : Txn} : MemoryOk (s.resend t) ↔ MemoryOk s := Iff.rfl

@[simp] theorem MemoryOk.txnFault (h : MemoryOk s) (t : Txn) (n : Nat) (f : Ctx → Ctx) : MemoryOk (s.txnFault t n f) := by
  unfold State.txnFault
  split <;> simp [h]

theorem execReceiveAnswer_ok (h : MemoryOk s) (w : Word) (r : Option Byte) (rows : List Row) : OutOk (execReceiveAnswer w r rows s) := by
  fun_cases execReceiveAnswer w r rows s <;> simp [h]

theorem execFabricTimeout_ok (h : MemoryOk s) (w : Word) : OutOk (execFabricTimeout w s) := by
  fun_cases execFabricTimeout w s <;> simp [h]

theorem execGangRetryTimeout_ok (h : MemoryOk s) (w : Word) : OutOk (execGangRetryTimeout w s) := by
  fun_cases execGangRetryTimeout w s <;> simp [h]

/-! ### Vector words -/

/-- A word whose whole effect is a result that it issues. -/
theorem xWord_xIssue_ok (h : MemoryOk s) {g : Guard} {vs : List VReg} {ps : List PReg} {es : List EReg} {y : Ctx → QWord → Ctx} {lat : Nat}
    {v : Ctx → QWord → FlightVal} {solo : Bool} {bank : Nat} {r : Option HReg} :
    OutOk (xWord s g vs ps es fun x q => s.xIssue (y x q) q lat (v x q) solo bank r) := xWord_ok h fun _ _ => xIssue_ok h ..

theorem execVcvt_ok (h : MemoryOk s) (o : V4) : OutOk (execVcvt o s) := by
  unfold execVcvt
  split
  · exact h
  · refine xWord_ok h fun x q => ?_
    extract_lets
    split
    exact xIssue_ok h ..

theorem execVpack_ok (h : MemoryOk s) (o : V4) : OutOk (execVpack o s) := by
  unfold execVpack
  split
  · exact h
  · exact xWord_xIssue_ok h

theorem execVunpk_ok (h : MemoryOk s) (o : V4) : OutOk (execVunpk o s) := by
  unfold execVunpk
  split
  · exact h
  · exact xWord_xIssue_ok h

theorem execVqnt_ok (h : MemoryOk s) (o : V4) : OutOk (execVqnt o s) := by
  unfold execVqnt
  split <;>
  · refine xWord_ok h fun x q => ?_
    extract_lets
    split
    exact xIssue_ok h ..

theorem execVdqnt_ok (h : MemoryOk s) (o : V4) : OutOk (execVdqnt o s) := by
  unfold execVdqnt
  split
  · exact h
  · exact outOk_ite (xWord_xIssue_ok h) (xWord_xIssue_ok h)

theorem execVbcast_ok (h : MemoryOk s) (o : VS) : OutOk (execVbcast o s) := by
  unfold execVbcast
  split
  · exact h
  · exact xWord_xIssue_ok h

theorem execVinsl_ok (h : MemoryOk s) (o : VS) : OutOk (execVinsl o s) := by
  unfold execVinsl
  split
  · exact h
  · exact xWord_xIssue_ok h

theorem execVextl_ok (h : MemoryOk s) (o : VS) : OutOk (execVextl o s) := by
  unfold execVextl
  split
  · exact h
  · exact xWordRes_ok h fun x q => xIssue_ok h ..

theorem vecFloat_ok (h : MemoryOk s) (o : V4) (vs : List VReg) (l l' : Nat) (f : Rnd → List FVal → Near) : OutOk (vecFloat o vs l l' f s) := by
  unfold vecFloat
  split
  · exact h
  · refine xWord_ok h fun x q => ?_
    extract_lets
    split
    · exact trapQ_ok h ..
    · split
      exact xIssue_ok h ..

theorem execVcmp_ok (h : MemoryOk s) (o : V4) : OutOk (execVcmp o s) := by
  unfold execVcmp
  split
  · exact h
  · exact xWord_xIssue_ok h

theorem vecInt_ok (h : MemoryOk s) (o : V4) (vs : List VReg) (sat : Bool) (f : List Int → Int) : OutOk (vecInt o vs sat f s) :=
  xWord_xIssue_ok h

theorem vecShift_ok (h : MemoryOk s) (o : V4) (sat : Bool) (f : Int → Nat → Int) : OutOk (vecShift o sat f s) :=
  outOk_ite (vecInt_ok h _ _ _ _) (vecInt_ok h _ _ _ _)

theorem vecFunnel_ok (h : MemoryOk s) (o : V4) (f : Nat → Nat → Nat) : OutOk (vecFunnel o f s) :=
  outOk_ite (xWord_xIssue_ok h) (xWord_xIssue_ok h)

theorem vecBest_ok (h : MemoryOk s) (o : V4) (neg : Bool) (f : FVal → FVal → FVal) : OutOk (vecBest o neg f s) := by
  unfold vecBest
  split
  · exact h
  · exact xWord_xIssue_ok h

theorem execVrargmax_ok (h : MemoryOk s) (o : V4) : OutOk (execVrargmax o s) := by
  unfold execVrargmax
  split
  · exact h
  · refine xWord_ok h fun x q => ?_
    extract_lets
    split
    exact xIssue_ok h ..

/-! ### Vector memory, handles, loops and predicates -/

theorem withRow_ok (h : MemoryOk s) (x : Ctx) (row : Word) {k : Nat → Nat → Out} (hk : ∀ r p, OutOk (k r p)) : OutOk (withRow s x row k) := by
  unfold withRow
  split
  · exact trapQ_ok h ..
  · exact hk _ _

theorem loadRow_ok (h : MemoryOk s) (x : Ctx) (q : QWord) (o : VM) (row : Word) (r : Option HReg) : OutOk (loadRow s x q o row r) :=
  withRow_ok h _ _ fun r p => by
    extract_lets
    split_ifs <;> simp [h]

theorem storeRow_ok (h : MemoryOk s) (x : Ctx) (q : QWord) (o : VM) (row : Word) (r : Option HReg) : OutOk (storeRow s x q o row r) :=
  withRow_ok h _ _ fun _ _ => outOk_ite (h.putCtx _) (xIssue_ok h ..)

theorem execVld_ok (h : MemoryOk s) (o : VM) : OutOk (execVld o s) := xWord_ok h fun _ _ => loadRow_ok h ..
theorem execVst_ok (h : MemoryOk s) (o : VM) : OutOk (execVst o s) := xWord_ok h fun _ _ => storeRow_ok h ..

theorem withSlotRow_ok (h : MemoryOk s) (x : Ctx) (o : VM) (hd : Handle) {k : Nat → Out} (hk : ∀ r, OutOk (k r)) :
    OutOk (withSlotRow s x o hd k) := outOk_ite (hk _) (trapQ_ok h ..)

theorem execVldh_ok (h : MemoryOk s) (o : VM) : OutOk (execVldh o s) :=
  xWord_ok h fun _ _ => withSlotRow_ok h _ _ _ fun _ => outOk_ite (loadRow_ok h ..) (h.putCtx _)

theorem execVsth_ok (h : MemoryOk s) (o : VM) : OutOk (execVsth o s) :=
  xWord_ok h fun _ _ => withSlotRow_ok h _ _ _ fun _ => outOk_ite (storeRow_ok h ..) (h.putCtx _)

theorem execHadvc_ok (h : MemoryOk s) (o : VM) : OutOk (execHadvc o s) := xWord0_ok h fun _ _ => outOk_ite (h.putCtx _) (trapQ_ok h ..)

theorem execHadvp_ok (h : MemoryOk s) (o : VM) : OutOk (execHadvp o s) :=
  xWord0_ok h fun _ _ => outOk_ite (h.putCtx _) (outOk_ite (h.putCtx _) (trapQ_ok h ..))

theorem execVloop_ok (h : MemoryOk s) (o : EM) : OutOk (execVloop o s) := by
  unfold execVloop
  split
  · exact h.putCtx _
  · exact h

theorem execVexit_ok (h : MemoryOk s) (o : V4) : OutOk (execVexit o s) := xWord0_ok h fun x q => by
  split <;> exact h.putCtx _

theorem execRrbset_ok (h : MemoryOk s) (o : VS) : OutOk (execRrbset o s) := xWord0_ok h fun _ _ => h.putCtx _

theorem execRep_ok (h : MemoryOk s) (o : PX) : OutOk (execRep o s) := by
  unfold execRep
  split
  · exact h.putCtx _
  · exact h

theorem execNop_ok (h : MemoryOk s) (o : C3) : OutOk (execNop o s) := by
  unfold execNop
  extract_lets
  split
  · split
    · exact h
    · exact outOk_ite (trapQ_ok h ..) (outOk_ite (h.putCtx _) (h.putCtx _))
  · exact ctlWord_ok h fun _ => memoryOk_ctlDone.mpr h

theorem predWord_ok (h : MemoryOk s) (g : Guard) (p : PReg) (rs : List PReg) (f : Ctx → QWord → BitVec 32) :
    OutOk (predWord s g p rs f) := xWord_xIssue_ok h

/-! ### Barriers, timelines and groups -/

@[simp] theorem queueWait_ok (h : MemoryOk s) (x : Ctx) (k : Kind) (want : Eng → Bool) : OutOk (s.queueWait x k want) := h.putCtx _

theorem syncWord_ok (h : MemoryOk s) (o : C3) {rs : List SReg} {ctl : Ctx → Out} {queue : Ctx → QWord → Kind → Out}
    (hc : ∀ x, OutOk (ctl x)) (hq : ∀ x q k, OutOk (queue x q k)) : OutOk (syncWord o rs s ctl queue) := by
  unfold syncWord
  split
  · split
    · exact outOk_ite (trapQ_ok h ..) (outOk_ite (hq _ _ _) (h.putCtx _))
    · exact h
  · exact ctlWord_ok h hc

theorem execBinit_ok (h : MemoryOk s) (o : C3) : OutOk (execBinit o s) := ctlWord_ok h fun x => by
  extract_lets
  split <;> simp [h]

theorem execArrive_ok (h : MemoryOk s) (o : C3) : OutOk (execArrive o s) := by
  refine syncWord_ok h o (fun x => ?_) fun x q k => ?_
  · extract_lets
    refine outOk_ite (by simp [h]) ?_
    split
    · simp [h]
    · split_ifs <;> simp [h, Core.MemOk.updBarrier]
  · extract_lets
    split
    · simp [h]
    · split_ifs <;> simp [h, Core.MemOk.updBarrier]

theorem execBwait_ok (h : MemoryOk s) (o : C3) : OutOk (execBwait o s) := by
  refine syncWord_ok h o (fun x => ?_) fun x q k => ?_
  · extract_lets
    split
    · simp [h]
    · split_ifs <;> simp [h]
  · extract_lets
    split
    · simp [h]
    · split_ifs <;> simp [h]

theorem execTwait_ok (h : MemoryOk s) (o : C3) : OutOk (execTwait o s) := by
  refine syncWord_ok h o (fun x => ?_) fun x q k => ?_
  · extract_lets
    split_ifs <;> simp [h]
  · exact outOk_ite (h.putCtx _) (h.putCtx _)

theorem execTread_ok (h : MemoryOk s) (o : C3) : OutOk (execTread o s) := ctlWordRes_ok h fun x => by simp [h]

@[simp] theorem memoryOk_watch {pa : Nat} {old new : Group} : MemoryOk (s.watch pa old new) ↔ MemoryOk s := by
  unfold State.watch
  split_ifs <;> exact Iff.rfl

theorem MemoryOk.putGroup {t : State} (h : MemoryOk s) {pa : Nat} {old new : Group} {own : Option (CoreId × BitVec 32)}
    (e : s.putGroup pa old new own = some t) : MemoryOk t := by
  obtain ⟨u, hu, rfl⟩ := Option.map_eq_some_iff.mp e
  exact memoryOk_watch.mpr (h.writeMem _ _ _ _ hu)

theorem groupWord_ok (h : MemoryOk s) (o : C3) {rs : List SReg} {wait : State → Ctx → Nat → State} {k : Ctx → Nat → State → Out}
    (hw : ∀ t x pa, MemoryOk t → MemoryOk (wait t x pa)) (hk : ∀ x pa t, MemoryOk t → OutOk (k x pa t)) :
    OutOk (groupWord o rs s wait k) := ctlWord_ok h fun x => by
  refine outOk_ite (by simp [h]) (withXlat_ok h _ _ _ fun l t ht => ?_)
  split
  · exact outOk_ite (ht.trapP ..) (outOk_ite (hk _ _ _ ht) (hw _ _ _ ht))
  · exact ht.trapP ..

@[simp] theorem MemoryOk.groupHeld (h : MemoryOk s) (x : Ctx) (sd : SReg) (v : Word) (pa : Nat) : MemoryOk (s.groupHeld x sd v pa) := by
  unfold State.groupHeld
  split <;> simp [h]

theorem execJoin_ok (h : MemoryOk s) (o : C3) : OutOk (execJoin o s) := by
  refine groupWord_ok h o (fun t x pa ht => by simp [ht]) fun x pa t ht => ?_
  extract_lets
  split
  · simp [ht]
  · extract_lets
    split
    · simp [ht]
    · next e =>
      obtain ⟨v, hv, hw⟩ := Option.bind_eq_some_iff.mp e
      exact ((ht.putGroup hv).writeMem _ _ _ _ hw).groupHeld _ _ _ _

theorem execLeave_ok (h : MemoryOk s) (o : C3) : OutOk (execLeave o s) := by
  refine groupWord_ok h o (fun t x pa ht => by simp [ht]) fun x pa t ht => ?_
  extract_lets
  refine outOk_ite (by simp [ht]) ?_
  split
  · simp [ht]
  · next e => exact (ht.putGroup e).groupHeld _ _ _ _

theorem bargArrive_ok (h : MemoryOk s) (x : Ctx) (pa m : Nat) : OutOk (bargArrive s x pa m) := by
  unfold bargArrive
  extract_lets
  refine outOk_ite (by simp [h]) ?_
  split
  · simp [h]
  · next e => exact (h.putGroup e).ctlWait _ _

theorem execBarg_ok (h : MemoryOk s) (o : C3) : OutOk (execBarg o s) := by
  refine groupWord_ok h o (fun t x pa ht => by simp [ht]) fun x pa t ht => ?_
  extract_lets
  split
  · exact outOk_ite (ht.trapP ..) (outOk_ite (ht.ctlWait _ _) (bargArrive_ok ht ..))
  · exact outOk_ite (ht.ctlWait _ _) (outOk_ite (bargArrive_ok ht ..) (outOk_ite (memoryOk_ctlDone.mpr ht) (ht.ctlWait _ _)))

theorem execWatchdogExpiry_ok (h : MemoryOk s) (pa : Nat) : OutOk (execWatchdogExpiry pa s) := by
  unfold execWatchdogExpiry
  split
  · exact h
  · exact outOk_ite h ⟨h.1, CoresOk.map h.2 _ fun _ hk => hk⟩

/-! ### System registers -/

theorem execMfs_ok (h : MemoryOk s) (o : C3) : OutOk (execMfs o s) := ctlWordRes_ok h fun x => by
  split
  · simp [h]
  · split <;> simp [h]

theorem mtsWord_ok (h : MemoryOk s) (o : C3) {ok : Ctx → Word → Bool} {k : Ctx → Word → Out} (hk : ∀ x v, OutOk (k x v)) :
    OutOk (mtsWord o s ok k) := ctlWord_ok h fun x => by
  split
  · simp [h]
  · split_ifs
    · simp [h]
    · simp [h]
    · simp [h]
    · exact hk _ _

theorem MemoryOk.sysWrite (h : MemoryOk s) (x : Ctx) (n : Nat) (v : Word) : MemoryOk (sysWrite s x n v).1 := by
  unfold Machine.sysWrite
  repeat refine iteInduction (motive := fun p : State × Ctx => MemoryOk p.1) (fun _ => h) fun _ => ?_
  exact h

theorem execMts_ok (h : MemoryOk s) (o : C3) : OutOk (execMts o s) :=
  mtsWord_ok h o fun x v => memoryOk_ctlDone.mpr (h.sysWrite x o.sysNum v)

theorem execMtsTmr_ok (h : MemoryOk s) (o : C3) : OutOk (execMtsTmr o s) := mtsWord_ok h o fun _ _ => memoryOk_ctlDone.mpr h
theorem execMtsSrseed_ok (h : MemoryOk s) (o : C3) : OutOk (execMtsSrseed o s) := mtsWord_ok h o fun _ _ => memoryOk_ctlDone.mpr h
theorem execMtsSeed_ok (h : MemoryOk s) (o : C3) : OutOk (execMtsSeed o s) := mtsWord_ok h o fun _ _ => memoryOk_ctlDone.mpr h
theorem execMtsRotsz_ok (h : MemoryOk s) (o : C3) : OutOk (execMtsRotsz o s) := mtsWord_ok h o fun _ _ => memoryOk_ctlDone.mpr h
theorem execMtsRrb_ok (h : MemoryOk s) (o : C3) : OutOk (execMtsRrb o s) := mtsWord_ok h o fun _ _ => memoryOk_ctlDone.mpr h
theorem execMtsFrag_ok (h : MemoryOk s) (o : C3) : OutOk (execMtsFrag o s) := mtsWord_ok h o fun _ _ => memoryOk_ctlDone.mpr h

theorem mtsHandle_ok (h : MemoryOk s) (o : C3) (ok : Handle → Word → Bool) (f : Handle → Word → Handle) : OutOk (mtsHandle o s ok f) := by
  unfold mtsHandle
  exact mtsWord_ok h o fun _ _ => outOk_ite (h.ctlWait _ _) (memoryOk_ctlDone.mpr h)

theorem mtsEntry_ok (h : MemoryOk s) (o : C3) {k : Ctx → BitVec 12 → Nat → SegEntry → SegEntry → Out} (hk : ∀ x a i e e', OutOk (k x a i e e')) :
    OutOk (mtsEntry o s k) := by
  unfold mtsEntry
  exact mtsWord_ok h o fun _ _ => hk _ _ _ _ _

@[simp] theorem memoryOk_settle : MemoryOk s.settle ↔ MemoryOk s := Iff.rfl

theorem execMtsStw3_ok (h : MemoryOk s) (o : C3) : OutOk (execMtsStw3 o s) := mtsEntry_ok h o fun x a i _ e => by
  split <;> simp [h]

theorem execMtsStw_ok (h : MemoryOk s) (o : C3) : OutOk (execMtsStw o s) := mtsEntry_ok h o fun _ _ _ _ _ => memoryOk_ctlDone.mpr h

/-! ### Traps, fences and flushes -/

theorem trapWord_ok (h : MemoryOk s) (o : C3) (n : Nat) : OutOk (trapWord o s n) := ctlWord_ok h fun x => by
  extract_lets _ _ _ t
  have ht : MemoryOk t := memoryOk_passCtl.mpr h
  split <;> simp [ht]

theorem execRtt_ok (h : MemoryOk s) (o : C3) : OutOk (execRtt o s) := ctlWord_ok h fun x => by
  refine outOk_ite (by simp [h]) (outOk_ite (by simp [h]) ?_)
  split
  · split <;> simp [h]
  · refine outOk_ite (by simp [h]) ?_
    split
    · exact outOk_ite (memoryOk_resume.mpr h) (h.ctxFatal _ _ _)
    · exact h.ctxFatal _ _ _

theorem execFence_ok (h : MemoryOk s) (o : C3) : OutOk (execFence o s) := ctlWord_ok h fun x => by split <;> simp [h]

@[simp] theorem MemoryOk.discard (h : MemoryOk s) (a : BitVec 12) : MemoryOk (s.discard a) := ⟨h.1, CoresOk.map h.2 _ fun _ hk => hk⟩

@[simp] theorem MemoryOk.discardOn (h : MemoryOk s) (a : BitVec 12) (cs : List CoreId) : MemoryOk (s.discardOn a cs) :=
  MemoryOk.foldl (fun _ c ht => ht.setCore_same c) cs h

theorem execSflush_ok (h : MemoryOk s) (o : C3) : OutOk (execSflush o s) := ctlWord_ok h fun x => by
  extract_lets
  split_ifs
  any_goals simp [h]
  split <;> simp [h]

theorem execSflushDrainEnd_ok (h : MemoryOk s) (c : CoreId) (b : BankId) : OutOk (execSflushDrainEnd c b s) := by
  unfold execSflushDrainEnd
  split
  · exact h
  · extract_lets
    split
    · exact h
    · split
      · extract_lets
        split_ifs <;> simp [h]
      · exact h

/-! ### The row tier -/

@[simp] theorem memoryOk_countTier {d : DieId} {n : TierCounts} {a b : Nat} : MemoryOk (s.countTier d n a b) ↔ MemoryOk s := Iff.rfl
@[simp] theorem memoryOk_rowFetch {o : Obj} {j : Nat} {crx : Bool} : MemoryOk (s.rowFetch o j crx) ↔ MemoryOk s := Iff.rfl

theorem execAccretionCopyLanded_ok (h : MemoryOk s) (obj row : Nat) : OutOk (execAccretionCopyLanded obj row s) := by
  unfold execAccretionCopyLanded
  split
  · exact h
  · exact outOk_ite h h

theorem MemoryOk.calveFirst (h : MemoryOk s) (d : DieId) (l : List Obj) {t : State} (e : s.calveFirst d l = some t) : MemoryOk t := by
  induction l with
  | nil => cases e
  | cons o rest ih =>
    unfold State.calveFirst at e
    split at e
    · cases e
      exact h
    · exact ih e

@[simp] theorem MemoryOk.calveDie (h : MemoryOk s) (d : DieId) (n : Nat) : MemoryOk (s.calveDie d n) := by
  induction n generalizing s with
  | zero => exact h
  | succ n ih =>
    unfold State.calveDie
    split
    · exact h
    · split
      · next e => exact ih (h.calveFirst _ _ e)
      · exact h

@[simp] theorem MemoryOk.calveObj (h : MemoryOk s) (k n : Nat) : MemoryOk (s.calveObj k n) := by
  induction n generalizing s with
  | zero => exact h
  | succ n ih =>
    unfold State.calveObj
    split
    · exact h
    · split
      · exact h
      · split
        · next e => exact ih (h.calveFirst _ _ e)
        · exact h

@[simp] theorem MemoryOk.setHeat (h : MemoryOk s) (w : Word) : MemoryOk (s.setHeat w) :=
  MemoryOk.foldl (fun _ d ht => ht.calveDie d _) _ h

theorem execMtsHeatcfg_ok (h : MemoryOk s) (o : C3) : OutOk (execMtsHeatcfg o s) := ctlWord_ok h fun x => by
  extract_lets
  split_ifs <;> simp [h]

/-! ### What the access unit's macros share -/

theorem macroStop_ok (h : MemoryOk s) (x : Ctx) (r rf : Run) (va : Nat) (e : Xlat) : OutOk (macroStop s x r rf va e) := by
  unfold macroStop
  extract_lets t
  have ht : MemoryOk t := memoryOk_noteXlat.mpr h
  cases e with
  | absent i => exact outOk_ite (runFault_ok ht ..) (putRun_ok ht ..)
  | dup i => exact putRun_ok ht ..
  | hole => trivial
  | ok l i => exact ht
  | segv => exact runFault_ok ht ..
  | perm => exact runFault_ok ht ..
  | poison ev => exact runFault_ok ht ..
  | resid => exact runFault_ok ht ..

theorem MemoryOk.xlatAll (h : MemoryOk s) (x : Ctx) (acc : AccKind) (vas : List Nat) {ls : List Loc} {t : State}
    (e : s.xlatAll x acc vas = .ok (ls, t)) : MemoryOk t := by
  induction vas generalizing s ls with
  | nil =>
    cases e
    exact h
  | cons va rest ih =>
    unfold State.xlatAll at e
    split at e
    · next l i _ =>
      cases hr : State.xlatAll (s.noteUse x.id.asid i l) x acc rest with
      | error d =>
        rw [hr] at e
        cases e
      | ok p =>
        rw [hr] at e
        cases e
        exact ih (memoryOk_noteUse.mpr h) hr
    · cases e

theorem MemoryOk.xlatBefore (h : MemoryOk s) (x : Ctx) (acc : AccKind) (vas : List Nat) : MemoryOk (s.xlatBefore x acc vas) := by
  induction vas generalizing s with
  | nil => exact h
  | cons va rest ih =>
    unfold State.xlatBefore
    split
    · exact ih (memoryOk_noteUse.mpr h)
    · exact h

theorem withPlaces_ok (h : MemoryOk s) (x : Ctx) (r rf : Run) (acc : AccKind) (vas : List Nat) {k : List Loc → State → Out}
    (hk : ∀ ls t, MemoryOk t → OutOk (k ls t)) : OutOk (withPlaces s x r rf acc vas k) := by
  unfold withPlaces
  split
  · next e => exact hk _ _ (h.xlatAll _ _ _ e)
  · exact macroStop_ok (h.xlatBefore _ _ _) ..

@[simp] theorem takeSlot_ok (h : MemoryOk s) (x : Ctx) (r : Run) (d : Side) (i n : Nat) : OutOk (takeSlot s x r d i n) :=
  outOk_ite (putRun_ok h ..) (putRun_ok h ..)

theorem withSlot_ok (h : MemoryOk s) (x : Ctx) (r : Run) (d : Option Side) (i n : Nat) {k : Nat → Out} (hk : ∀ v, OutOk (k v)) :
    OutOk (withSlot s x r d i n k) := by
  unfold withSlot
  split
  · exact hk _
  · split
    · exact takeSlot_ok h ..
    · exact outOk_ite (putRun_ok h ..) (hk _)

theorem withFmt_ok (h : MemoryOk s) (x : Ctx) (r rf : Run) (d : Option Side) (base i : Nat) {k : Fmt → Out} (hk : ∀ f, OutOk (k f)) :
    OutOk (withFmt s x r rf d base i k) := by
  unfold withFmt
  split
  · exact orFault_ok h _ _ _ fun _ _ => hk _
  · split
    · exact orFault_ok h _ _ _ fun _ _ => hk _
    · exact hk _
    · exact takeSlot_ok h ..

theorem nextRow_ok (h : MemoryOk s) (x : Ctx) (r : Run) (total : Nat) (side : Option Side) (base : Word)
    {k : Nat → Nat → (Ctx → Ctx × Run) → Out} (hk : ∀ i row f, OutOk (k i row f)) : OutOk (nextRow s x r total side base k) := by
  refine outOk_ite (runFault_ok h ..) ?_
  split
  · exact outOk_ite (putRun_ok h ..) (hk _ _ _)
  · exact outOk_ite (putRun_ok h ..) (withSlot_ok h _ _ _ _ _ fun _ => hk _ _ _)

@[simp] theorem putBoth_ok (h : MemoryOk s) (p : Ctx × Run) : OutOk (putBoth s p) := putRun_ok h ..

/-- A part of a queue word's unit that leaves a core, which is put back. -/
theorem orFault_core_ok (h : MemoryOk s) (x : Ctx) (r : Run) {e : Mac Core} {k : Core → Out} (he : ∀ a, e = .ok a → a.MemOk)
    (hk : ∀ a, MemoryOk (s.putCore a) → OutOk (k a)) : OutOk (orFault s x r e k) :=
  orFault_ok h _ _ _ fun a ea => hk a (h.putCore (he a ea))

/-! ### Row transfers, copies and gathers -/

theorem ldtRow_ok (h : MemoryOk s) (x : Ctx) (r : Run) (o : EM) (base src : Word) (total : Nat) : OutOk (ldtRow s x r o base src total) := by
  unfold ldtRow
  extract_lets
  refine nextRow_ok h _ _ _ _ _ fun i row after => orFault_ok h _ _ _ fun _ _ => withPlaces_ok h _ _ _ _ _ fun ls t ht => ?_
  exact orFault_core_ok ht _ _ (fun _ e => landRow_memOk (ht.core _) _ _ _ _ _ e) fun _ hk => putBoth_ok hk _

theorem execLdt_ok (h : MemoryOk s) (o : EM) : OutOk (execLdt o s) := macroWord_ok h fun x r => by
  split
  · exact ldtRow_ok h ..
  · exact outOk_ite h (ldtRow_ok h ..)

theorem execProbeFillLanding_ok (h : MemoryOk s) (c : CoreId) (b : BankId) : OutOk (execProbeFillLanding c b s) := by
  unfold execProbeFillLanding
  split
  · exact h
  · split
    · refine outOk_ite h ?_
      extract_lets t o
      have ht : MemoryOk t := h
      refine nextRow_ok ht _ _ _ _ _ fun _ _ _ => outOk_ite (runFault_ok ht ..) (withPlaces_ok ht _ _ _ _ _ fun _ _ hu =>
        orFault_ok hu _ _ _ fun k e => ?_)
      have hk : k.MemOk := landRow_memOk (hu.core _) _ _ _ _ _ e
      exact putBoth_ok (hu.putCore (iteInduction (fun _ => hk.putSpadBytes _ _) fun _ => hk)) _
    · exact h

theorem execStt_ok (h : MemoryOk s) (o : EM) : OutOk (execStt o s) := macroWord_ok h fun x r =>
  nextRow_ok h _ _ _ _ _ fun _ _ _ => orFault_ok h _ _ _ fun _ _ => withPlaces_ok h _ _ _ _ _ fun _ t ht => by
    split
    · exact ht
    · next e => exact putBoth_ok (ht.writeSectors _ _ e) _

/-- A bind of a unit's parts succeeds only where both do. -/
theorem mac_bind_ok {α β : Type} {e : Mac α} {f : α → Mac β} {b : β} (h : (e >>= f) = .ok b) : ∃ a, e = .ok a ∧ f a = .ok b := by
  cases e with
  | error => cases h
  | ok a => exact ⟨a, rfl, h⟩

/-- A mapped part succeeds only where the part does. -/
theorem except_map_ok {ε α β : Type} {e : Except ε α} {f : α → β} {b : β} (h : e.map f = .ok b) : ∃ a, e = .ok a ∧ f a = b := by
  cases e with
  | error => cases h
  | ok a => exact ⟨a, rfl, Except.ok.inj h⟩

theorem copySides_memOk {k k' : Core} (h : k.MemOk) {x : Ctx} {q : QWord} {f g : Fmt} {a b : Nat}
    (e : copySides k x q f g a b = .ok k') : k'.MemOk := by
  unfold copySides at e
  split at e
  · split at e
    · obtain ⟨v, -, hw⟩ := mac_bind_ok e
      exact writeBytes_memOk h _ _ _ _ hw
    · cases e
      exact h
  · cases e
    exact h

theorem cpySame_memOk {k k' : Core} (h : k.MemOk) {x : Ctx} {q : QWord} {f g : Fmt} {free src row a wo n v : Nat}
    (e : cpySame k x q f g free src row a wo n v = .ok k') : k'.MemOk := by
  obtain ⟨k₁, h₁, e⟩ := mac_bind_ok e
  have hk := writeBytes_memOk h _ _ _ _ h₁
  split at e
  · exact copySides_memOk hk e
  · cases e
    exact hk

theorem cpyConvert_memOk {k k' : Core} (h : k.MemOk) {x : Ctx} {q : QWord} {f g : Fmt} {rows : List Nat} {srcs : List (List Nat)}
    {a wo n : Nat} {gen : BitVec 32} (e : cpyConvert k x q f g rows srcs a wo n = .ok (k', gen)) : k'.MemOk := by
  unfold cpyConvert at e
  split at e
  · obtain ⟨k₁, h₁, e⟩ := mac_bind_ok e
    cases e
    exact writeSpan_memOk h _ _ _ _ _ _ h₁
  · cases e
    exact h

theorem credits_memOk {k k' : Core} (h : k.MemOk) {x : Ctx} {bar : Option Nat} {l : List (Nat × Nat)}
    (e : l.foldlM (fun (k : Core) t => k.creditAt x bar t.2) k = .ok k') : k'.MemOk :=
  foldlM_memOk l _ (fun _ _ _ hk e => creditAt_memOk hk _ _ _ e) h e

theorem execCpy_ok (h : MemoryOk s) (o : EM) : OutOk (execCpy o s) := macroWord_ok h fun x r => by
  extract_lets
  refine outOk_ite (putRun_ok h ..) (withFmt_ok h _ _ _ _ _ _ fun f => withFmt_ok h _ _ _ _ _ _ fun g => ?_)
  extract_lets
  refine outOk_ite (runFault_ok h ..) (orFault_ok h _ _ _ fun _ _ => orFault_ok h _ _ _ fun _ _ => withSlot_ok h _ _ _ _ _ fun ss =>
    withSlot_ok h _ _ _ _ _ fun ds => ?_)
  extract_lets
  refine orFault_ok h _ _ _ fun (k, gen, held) e => ?_
  have hk : k.MemOk := by
    obtain ⟨-, -, e⟩ := mac_bind_ok e
    obtain ⟨-, -, e⟩ := mac_bind_ok e
    obtain ⟨srcs, -, e⟩ := mac_bind_ok e
    extract_lets credited at e
    have hc : ∀ p, credited p = .ok (k, gen, held) → p.1.MemOk → k.MemOk := fun p e hp => by
      obtain ⟨k₁, h₁, e⟩ := mac_bind_ok e
      cases e
      exact credits_memOk hp h₁
    split_ifs at e
    · obtain ⟨p, hp, e⟩ := mac_bind_ok e
      cases hp
      exact hc (s.myCore, _) e (myCore_memOk h)
    · obtain ⟨p, hp, e⟩ := mac_bind_ok e
      obtain ⟨k₀, h₀, rfl⟩ := except_map_ok hp
      exact hc (k₀, _) e (cpySame_memOk (myCore_memOk h) h₀)
    · obtain ⟨p, hp, e⟩ := mac_bind_ok e
      exact hc _ e (cpyConvert_memOk (myCore_memOk h) hp)
  exact putRun_ok (h.putCore hk) ..

theorem execCpya_ok (h : MemoryOk s) (o : EM) : OutOk (execCpya o s) := macroWord_ok h fun x r => by
  extract_lets
  refine outOk_ite (putRun_ok h ..) (withFmt_ok h _ _ _ _ _ _ fun f => ?_)
  split
  · exact runFault_ok h ..
  · extract_lets
    refine outOk_ite (runFault_ok h ..) (orFault_ok h _ _ _ fun _ _ => withSlot_ok h _ _ _ _ _ fun ss => ?_)
    extract_lets
    refine orFault_ok h _ _ _ fun vs e => ?_
    extract_lets
    refine outOk_ite (putRun_ok h ..) ?_
    extract_lets
    refine orFault_core_ok h _ _ (fun k e => ?_) fun k hk => outOk_ite (runFault_ok h ..) (putRun_ok hk ..)
    obtain ⟨acc, -, e⟩ := mac_bind_ok e
    exact writeAcc_memOk (h.core _) _ _ _ e

theorem MemoryOk.rowgPart (h : MemoryOk s) {x : Ctx} {o : EM} {ob : Obj} {j w : Nat} {dst : List Nat} {t : State}
    (e : rowgPart s x o ob j w dst = .ok t) : MemoryOk t := by
  obtain ⟨k, hk, rfl⟩ := except_map_ok e
  have hc : k.MemOk := foldlM_memOk _ _ (fun _ _ _ hk e => landRow_memOk hk _ _ _ _ _ e) (h.core _) hk
  extract_lets t
  have ht : MemoryOk t := h.putCore hc
  split <;> exact ht

theorem execRowg_ok (h : MemoryOk s) (o : EM) : OutOk (execRowg o s) := macroWord_ok h fun x r => by
  extract_lets
  split
  · extract_lets t
    have ht : MemoryOk t := h
    split
    · exact runFault_ok ht ..
    · split
      · extract_lets
        exact orFault_ok ht _ _ _ fun _ _ => putRun_ok ht ..
      · extract_lets
        refine outOk_ite (runFault_ok ht ..) (outOk_ite (putRun_ok ht ..) (withSlot_ok ht _ _ _ _ _ fun ds =>
          orFault_ok ht _ _ _ fun j _ => outOk_ite (runFault_ok ht ..) ?_))
        extract_lets
        exact orFault_ok ht _ _ _ fun u e => putRun_ok (ht.rowgPart e) ..
  · exact macroStop_ok h ..

theorem execPft_ok (h : MemoryOk s) (o : EM) : OutOk (execPft o s) := macroWord_ok h fun x r => by
  extract_lets
  exact orFault_core_ok h _ _ (fun _ e => writeBytes_memOk (h.core _) _ _ _ _ e) fun _ hk => putRun_ok hk ..

/-! ### Fabric macros -/

@[simp] theorem memoryOk_endTxn {r : Run} : MemoryOk (s.endTxn r) ↔ MemoryOk s := Iff.rfl

theorem fabricUnit_ok (h : MemoryOk s) (x : Ctx) (r : Run) (typ : Nat) (f : Flit) {here : State → Flit → Recv}
    {done : State → List Row → Out} (hh : ∀ t, RecvOk (here s t)) (hd : ∀ t rows, MemoryOk t → OutOk (done t rows)) :
    OutOk (fabricUnit s x r typ f here done) := by
  unfold fabricUnit
  extract_lets _ f' tag txn t
  refine outOk_ite h (outOk_ite ?_ ?_)
  · split
    · exact h
    · next e => exact hd _ _ (memoryOk_endTxn.mpr (hh _ _ _ e))
    · exact outOk_ite h h
    · exact runFault_ok (memoryOk_endTxn.mpr (h.refused _ _ _)) ..
  · split
    · split
      · exact hd _ _ h
      · exact h
    · exact h

theorem withNode_ok (h : MemoryOk s) (x : Ctx) (r : Run) (node : Nat) {k : BitVec 19 → Out} (hk : ∀ n, OutOk (k n)) :
    OutOk (withNode s x r node k) := outOk_ite (hk _) (runFault_ok h ..)

theorem execGet_ok (h : MemoryOk s) (o : EM) : OutOk (execGet o s) := macroWord_ok h fun _ _ =>
  withNode_ok h _ _ _ fun _ => nextRow_ok h _ _ _ _ _ fun _ _ _ => orFault_ok h _ _ _ fun _ _ =>
    fabricUnit_ok h _ _ _ _ (recvGet_ok h) fun _ _ ht =>
      orFault_core_ok ht _ _ (fun _ e => landRow_memOk (ht.core _) _ _ _ _ _ e) fun _ hk => putBoth_ok hk _

theorem putRows_ok (h : MemoryOk s) (o : EM) (typ : Nat) (mask : BitVec 8) (atype : BitVec 2) {here : State → Flit → Recv}
    (hh : ∀ t, RecvOk (here s t)) : OutOk (putRows o s typ mask atype here) := macroWord_ok h fun _ _ =>
  withNode_ok h _ _ _ fun _ => nextRow_ok h _ _ _ _ _ fun _ _ _ => orFault_ok h _ _ _ fun _ _ =>
    fabricUnit_ok h _ _ _ _ hh fun _ _ ht => putBoth_ok ht _

theorem execPut_ok (h : MemoryOk s) (o : EM) : OutOk (execPut o s) := putRows_ok h o _ _ _ (recvPut_ok h)

theorem execCollectiveContribution_ok (h : MemoryOk s) (o : EM) : OutOk (execCollectiveContribution o s) :=
  putRows_ok h o _ _ _ (recvCollective_ok h)

theorem execPuth_ok (h : MemoryOk s) (o : EM) : OutOk (execPuth o s) := macroWord_ok h fun _ _ =>
  outOk_ite (putRun_ok h ..) (withNode_ok h _ _ _ fun _ => orFault_ok h _ _ _ fun _ _ =>
    fabricUnit_ok h _ _ _ _ (recvPuth_ok h) fun _ _ ht => putRun_ok ht ..)

theorem castRow_memOk {k : Core} (h : k.MemOk) (row : Nat) (v : Row) (bar : Option Nat) :
    (match bar with | some p => (k.putRow row v).credit p 256 | none => k.putRow row v).MemOk := by
  cases bar with
  | none => exact h.putRow _ _
  | some p => exact (h.putRow _ _).credit _ _

theorem execMcast_ok (h : MemoryOk s) (o : EM) : OutOk (execMcast o s) := macroWord_ok h fun x r => by
  extract_lets
  refine orFault_ok h _ _ _ fun _ _ => ?_
  split
  extract_lets
  split
  · refine withPlaces_ok h _ _ _ _ _ fun ls t ht => ?_
    split
    · exact outOk_ite (runFault_ok ht ..) (putRun_ok ht ..)
    · exact runFault_ok ht ..
  · split_ifs
    · exact putRun_ok h ..
    · exact orFault_core_ok h _ _ (fun _ e => writeBytes_memOk (h.core _) _ _ _ _ e) fun _ hk => runFault_ok hk ..
    · refine orFault_ok h _ _ _ fun v _ => ?_
      extract_lets
      exact outOk_ite (runFault_ok h ..) (putRun_ok (MemoryOk.foldl (fun _ _ ht => ht.setCore _ (castRow_memOk (ht.core _) ..)) _ h) ..)
  · exact h

/-! ### The matrix engine -/

theorem addTile_memOk {k k' : Core} (h : k.MemOk) {x : Ctx} {q : QWord} {a : MatOp} {m first n acc : Nat} {sides : List Nat}
    {w : List (List FVal)} (e : addTile k x q a m first n acc sides w = .ok k') : k'.MemOk := by
  obtain ⟨av, -, e⟩ := mac_bind_ok e
  obtain ⟨old, -, e⟩ := mac_bind_ok e
  exact writeAcc_memOk h _ _ _ e

theorem execMma_ok (h : MemoryOk s) (o : EM) : OutOk (execMma o s) := macroWord_ok h fun x r => by
  extract_lets
  refine outOk_ite (putRun_ok h ..) (orFault_ok h _ _ _ fun (k, sides) e => putRun_ok (h.putCore ?_) ..)
  obtain ⟨a, -, e⟩ := mac_bind_ok e
  obtain ⟨w, -, e⟩ := mac_bind_ok e
  extract_lets added at e
  have ha : ∀ l, added l = .ok (k, sides) → k.MemOk := fun l e => by
    obtain ⟨wt, -, e⟩ := mac_bind_ok e
    obtain ⟨k, hk, e⟩ := except_map_ok e
    cases e
    exact addTile_memOk (h.core _) hk
  split at e <;>
  · obtain ⟨l, -, e⟩ := mac_bind_ok e
    exact ha l e

theorem streamStep_ok (h : MemoryOk s) (x : Ctx) (r : Run) (o : EM) (kk : Nat) : OutOk (streamStep s x r o kk) := by
  unfold streamStep
  extract_lets
  refine outOk_ite (putRun_ok h ..) (orFault_ok h _ _ _ fun a _ => withFmt_ok h _ _ _ _ _ _ fun f => orFault_ok h _ _ _ fun w _ => ?_)
  extract_lets
  refine withSlot_ok h _ _ _ _ _ fun slot => ?_
  extract_lets added
  refine orFault_ok h _ _ _ fun (k, sides) e => putRun_ok (h.putCore ?_) ..
  obtain ⟨-, -, e⟩ := mac_bind_ok e
  have ha : ∀ l, added l = .ok (k, sides) → k.MemOk := fun l e => by
    obtain ⟨wt, -, e⟩ := mac_bind_ok e
    obtain ⟨k, hk, e⟩ := mac_bind_ok e
    cases e
    exact foldlM_memOk _ _ (fun _ _ _ hk e => addTile_memOk hk e) (h.core _) hk
  split at e <;>
  · obtain ⟨l, -, e⟩ := mac_bind_ok e
    exact ha l e

theorem withFmtUnless_ok (h : MemoryOk s) (x : Ctx) (r rf : Run) (d : Option Side) (base i n : Nat) (f : Fmt) {k : Fmt → Out}
    (hk : ∀ f, OutOk (k f)) : OutOk ((if n = 0 then fun k => k f else withFmt s x r rf d base i) k) := by
  split
  · exact hk _
  · exact withFmt_ok h _ _ _ _ _ _ hk

theorem columnStep_ok (h : MemoryOk s) (x : Ctx) (r : Run) (o : EM) (kk ms n : Nat) (on : Nat → Nat → Bool)
    (init : Nat → Option (List FVal)) : OutOk (columnStep s x r o kk ms n on init) := by
  unfold columnStep
  extract_lets
  refine outOk_ite (putRun_ok h ..) (orFault_ok h _ _ _ fun a _ => withFmtUnless_ok h _ _ _ _ _ _ _ _ fun f => orFault_ok h _ _ _ fun g _ =>
    withSlot_ok h _ _ _ _ _ fun slot => ?_)
  extract_lets row add part
  refine orFault_ok h _ _ _ fun (k, sides) e => putRun_ok (h.putCore ?_) ..
  have ha : ∀ l, add l = .ok (k, sides) → k.MemOk := fun l e => by
    obtain ⟨av, -, e⟩ := mac_bind_ok e
    extract_lets put at e
    have hp : ∀ l, put l = .ok (k, sides) → k.MemOk := fun l e => by
      obtain ⟨sums, -, e⟩ := mac_bind_ok e
      obtain ⟨k, hk, e⟩ := mac_bind_ok e
      cases e
      exact writeAcc_memOk (h.core _) _ _ _ hk
    split at e <;>
    · obtain ⟨l, -, e⟩ := mac_bind_ok e
      exact hp l e
  obtain ⟨-, -, e⟩ := mac_bind_ok e
  split at e <;>
  · obtain ⟨l, -, e⟩ := mac_bind_ok e
    exact ha l e

theorem execMmv_ok (h : MemoryOk s) (o : EM) : OutOk (execMmv o s) := macroWord_ok h fun _ _ => streamStep_ok h ..

theorem execMmg_ok (h : MemoryOk s) (o : EM) : OutOk (execMmg o s) := macroWord_ok h fun x r => by
  split
  · exact orFault_ok h _ _ _ fun _ _ => outOk_ite (runFault_ok h ..) (putRun_ok h ..)
  · exact outOk_ite (streamStep_ok h ..) (columnStep_ok h ..)

theorem execMatt_ok (h : MemoryOk s) (o : EM) : OutOk (execMatt o s) := macroWord_ok h fun x r => by
  extract_lets
  exact outOk_ite (runFault_ok h ..) (columnStep_ok h ..)

theorem execMpbld_ok (h : MemoryOk s) (o : EM) : OutOk (execMpbld o s) := macroWord_ok h fun _ _ =>
  orFault_ok h _ _ _ fun _ _ => putRun_ok h ..

theorem execAclr_ok (h : MemoryOk s) (o : EM) : OutOk (execAclr o s) := macroWord_ok h fun _ _ =>
  outOk_ite (putRun_ok h ..) (orFault_ok h _ _ _ fun _ _ => putRun_ok (h.putCore ((h.core _).putAcc _ _)) ..)

/-! ### The brim unit -/

theorem execBset_ok (h : MemoryOk s) (o : EM) : OutOk (execBset o s) := macroWord_ok h fun x r => by
  extract_lets
  exact outOk_ite (putRun_ok h ..) (orFault_ok h _ _ _ fun _ _ => outOk_ite (runFault_ok h ..) (putRun_ok h ..))

theorem execBsamp_ok (h : MemoryOk s) (o : EM) : OutOk (execBsamp o s) := macroWord_ok h fun x r => by
  extract_lets
  exact outOk_ite (runFault_ok h ..) (putRun_ok h ..)

theorem execAdrain_withFmt'_ok (h : MemoryOk s) (x : Ctx) (r : Run) (write : Bool) (dd : Option Side) {k : Fmt → Out} (hk : ∀ f, OutOk (k f)) :
    OutOk (execAdrain.withFmt' s x r write dd k) := outOk_ite (withFmt_ok h _ _ _ _ _ _ hk) (hk _)

theorem execAdrain_ok (h : MemoryOk s) (o : EM) : OutOk (execAdrain o s) := macroWord_ok h fun x r => by
  extract_lets
  refine outOk_ite (putRun_ok h ..) (execAdrain_withFmt'_ok h _ _ _ _ fun gov => ?_)
  split
  · exact runFault_ok h ..
  · extract_lets
    refine outOk_ite (runFault_ok h ..) (withSlot_ok h _ _ _ _ _ fun ds => ?_)
    extract_lets a put agree drain part
    have hput : ∀ t y n, MemoryOk t → OutOk (put t y n) := fun t y n ht => putRun_ok ht ..
    split
    · refine orFault_core_ok h _ _ (fun k e => ?_) fun k hk => hput _ _ _ hk
      obtain ⟨-, -, e⟩ := mac_bind_ok e
      exact writeBytes_memOk (h.core _) _ _ _ _ e
    · refine outOk_ite (runFault_ok h ..) (orFault_ok h _ _ _ fun (k, t', g, rest) e => hput _ _ _ (h.putCore ?_))
      have hd : ∀ f, drain f = .ok (k, t', g, rest) → k.MemOk := fun f e => by
        obtain ⟨-, -, e⟩ := mac_bind_ok e
        obtain ⟨ys, -, e⟩ := mac_bind_ok e
        obtain ⟨p, -, e⟩ := mac_bind_ok e
        split at e
        extract_lets encode at e
        have he : ∀ k₁, k₁.MemOk → encode k₁ = .ok (k, t', g, rest) → k.MemOk := fun k₁ hk₁ e => by
          dsimp only [encode] at e
          split at e
          · obtain ⟨k₂, hk₂, e⟩ := mac_bind_ok e
            cases e
            exact writeSpan_memOk hk₁ _ _ _ _ _ _ hk₂
          · cases e
            exact hk₁
        split at e
        · obtain ⟨k₁, hk₁, e⟩ := mac_bind_ok e
          exact he _ (writeAcc_memOk (h.core _) _ _ _ hk₁) e
        · obtain ⟨k₁, hk₁, e⟩ := mac_bind_ok e
          cases hk₁
          exact he _ (h.core _) e
      dsimp only [part] at e
      split at e <;>
      · obtain ⟨f, -, e⟩ := mac_bind_ok e
        exact hd f e

theorem execBread_ok (h : MemoryOk s) (o : EM) : OutOk (execBread o s) := macroWord_ok h fun x r => by
  extract_lets
  exact outOk_ite (putRun_ok h ..) (orFault_core_ok h _ _ (fun _ e => writeBytes_memOk (h.core _) _ _ _ _ e) fun _ hk => putRun_ok hk ..)

/-! ### Firmware's pools -/

@[simp] theorem MemoryOk.dropCode (h : MemoryOk s) (a : BitVec 12) (e : SegEntry) : MemoryOk (s.dropCode a e) :=
  ⟨h.1, CoresOk.map h.2 _ fun _ hk => hk⟩

@[simp] theorem memoryOk_dropRows {e : SegEntry} : MemoryOk (s.dropRows e) ↔ MemoryOk s := by
  unfold State.dropRows
  split
  · split <;> exact Iff.rfl
  · exact Iff.rfl

@[simp] theorem memoryOk_evictLayer {a : BitVec 12} {i : Nat} : MemoryOk (s.evictLayer a i) ↔ MemoryOk s :=
  memoryOk_dropRows (s := s.setEntry a i ((s.entry a i).withRes false)) (e := s.entry a i)

@[simp] theorem memoryOk_drainLeaving : MemoryOk s.drainLeaving ↔ MemoryOk s := Iff.rfl

theorem MemoryOk.evictUntil (h : MemoryOk s) (p : Pool) (n : Nat) (l : List (BitVec 12 × Nat)) : MemoryOk (s.evictUntil p n l) := by
  induction l generalizing s with
  | nil => exact h
  | cons q rest ih =>
    unfold State.evictUntil
    split
    · exact h
    · exact ih (memoryOk_evictLayer.mpr h)

@[simp] theorem memoryOk_wakeDie {p : Nat × Nat} : MemoryOk (s.wakeDie p) ↔ MemoryOk s := Iff.rfl

theorem MemoryOk.wakeUntil (h : MemoryOk s) (n : Nat) (l : List (Nat × Nat)) : MemoryOk (s.wakeUntil n l) := by
  induction l generalizing s with
  | nil => exact h
  | cons q rest ih =>
    unfold State.wakeUntil
    split
    · exact h
    · exact ih (memoryOk_wakeDie.mpr h)

/-- The state that an answer about space carries is canonical. -/
def RoomOk : Room → Prop
  | .free s | .draining s | .refused s => MemoryOk s

theorem makeRoom_ok (h : MemoryOk s) (p : Pool) (n : Nat) (own : List Nat) (cls : Nat) : RoomOk (s.makeRoom p n own cls) := by
  unfold State.makeRoom
  extract_lets t₁ t₂ u
  have h₁ : MemoryOk t₁ := h.evictUntil _ _ _
  have h₂ : MemoryOk t₂ := iteInduction (fun _ => h₁.wakeUntil _ _) fun _ => h₁
  split
  · split <;> exact memoryOk_drainLeaving.mpr h₂
  · exact iteInduction (motive := MemoryOk) (fun _ => h) fun _ => h₂

theorem makeRooms_ok (h : MemoryOk s) (own : List Nat) (cls : Nat) (l : List (Pool × Nat)) : RoomOk (s.makeRooms own cls l) := by
  induction l generalizing s with
  | nil => exact h
  | cons q rest ih =>
    have hr := makeRoom_ok h q.1 q.2 own cls
    unfold State.makeRooms
    split
    · next e => exact ih (by rwa [e] at hr)
    · exact hr

@[simp] theorem MemoryOk.replace (h : MemoryOk s) (a : BitVec 12) (i : Nat) (e : SegEntry) (p : Pool) (pa : Nat) :
    MemoryOk (s.replace a i e p pa) := by
  unfold State.replace
  split
  · split <;> exact h
  · exact iteInduction (motive := MemoryOk) (fun _ => MemoryOk.discard (memoryOk_setEntry.mpr h) _) fun _ =>
      memoryOk_setDup.mpr (MemoryOk.discard (memoryOk_setEntry.mpr h) _)

theorem execStallLimitExpiry_ok (h : MemoryOk s) (c : CoreId) (b : BankId) (e : Option Eng) : OutOk (execStallLimitExpiry c b e s) := by
  unfold execStallLimitExpiry
  extract_lets t
  have ht : MemoryOk t := h
  split
  · exact ht
  · extract_lets
    split
    · split
      · exact outOk_ite ((memoryOk_noteSeg.mpr ht).trapP ..) ht
      · exact ht
    · split
      · exact ht
      · split
        · exact outOk_ite (runFault_ok (memoryOk_noteSeg.mpr ht) ..) ht
        · exact ht

@[simp] theorem memoryOk_dupStep {a : BitVec 12} {i : Nat} : MemoryOk (s.dupStep a i) ↔ MemoryOk s := by
  unfold State.dupStep
  extract_lets
  split_ifs <;> simp

theorem execDupw_ok (h : MemoryOk s) (c : CoreId) (b : BankId) (e : Option Eng) : OutOk (execDupw c b e s) := by
  unfold execDupw
  split
  · exact h
  · split
    · split
      · exact memoryOk_dupStep.mpr h
      · exact h
    · split
      · exact h
      · split
        · extract_lets t
          have ht : MemoryOk t := memoryOk_dupStep.mpr h
          exact iteInduction (motive := MemoryOk) (fun _ => ht.setCtxAt _ _ _) fun _ => ht
        · exact h

/-! ### Host commands -/

@[simp] theorem memoryOk_transmit {r : Response} : MemoryOk (s.transmit r) ↔ MemoryOk s := Iff.rfl

@[simp] theorem memoryOk_respond {g : HostCmd} {opc st : Nat} {args : List Byte} {flits : List Row} :
    MemoryOk (s.respond g opc st args flits) ↔ MemoryOk s := Iff.rfl

@[simp] theorem memoryOk_enqueue {g : HostCmd} {on : CmdOn} : MemoryOk (s.enqueue g on) ↔ MemoryOk s := by
  unfold State.enqueue
  split <;> exact Iff.rfl

theorem MemoryOk.enqueueAll (h : MemoryOk s) (g : HostCmd) (ons : List CmdOn) : MemoryOk (ons.foldl (·.enqueue g ·) s) :=
  MemoryOk.foldl (fun _ _ ht => memoryOk_enqueue.mpr ht) ons h

theorem hostCommand_ok (h : MemoryOk s) (g : HostCmd) (opc : Nat) (cls : CmdClass) {k : Out} (hk : OutOk k) :
    OutOk (hostCommand g opc cls s k) := by
  unfold hostCommand
  split
  · exact h
  · exact h
  · exact h
  · refine outOk_ite h ?_
    split
    · exact h
    · exact outOk_ite h (outOk_ite h hk)

theorem inTurns_ok (h : MemoryOk s) (g : HostCmd) (ons : List CmdOn) {k : Out} (hk : OutOk k) : OutOk (inTurns g ons s k) :=
  outOk_ite hk (h.enqueueAll _ _)

theorem inTurn_ok (h : MemoryOk s) (g : HostCmd) (on : CmdOn) {k : Out} (hk : OutOk k) : OutOk (inTurn g on s k) := inTurns_ok h _ _ hk

theorem answerWith_ok (h : MemoryOk s) (g : HostCmd) (opc : Nat) (cls : CmdClass) (args : List Byte) (flits : List Row) :
    OutOk (answerWith g opc cls s args flits) := hostCommand_ok h _ _ _ (memoryOk_respond.mpr h)

theorem execCreateSpace_ok (h : MemoryOk s) (g : HostCmd) (a : BitVec 12) : OutOk (execCreateSpace g a s) :=
  hostCommand_ok h _ _ _ (inTurn_ok h _ _ (outOk_ite h (outOk_ite h h)))

@[simp] theorem MemoryOk.withEntries (h : MemoryOk s) (a : BitVec 12) (n : Nat) (es : List SegEntry) : MemoryOk (s.withEntries a n es) := by
  unfold State.withEntries
  exact MemoryOk.foldl (fun _ _ ht => memoryOk_setEntry.mpr ht) _ h

theorem MemoryOk.loaded (h : MemoryOk s) {a : BitVec 12} {n : Nat} {es : List SegEntry} {os : List ObjDef} {ms : List ModelDef} {t : State}
    (e : s.loaded a n es os ms = .ok t) : MemoryOk t := by
  unfold State.loaded at e
  split_ifs at e
  extract_lets t₁ u t₂ owned at e
  split_ifs at e
  rw [← Except.ok.inj e]
  exact MemoryOk.withEntries (s := t₁) h a n es

@[simp] theorem MemoryOk.wakeNamed (h : MemoryOk s) : MemoryOk s.wakeNamed := by
  unfold State.wakeNamed
  exact MemoryOk.foldl (fun _ _ ht => memoryOk_wakeDie.mpr ht) _ h

theorem execLoadSegments_ok (h : MemoryOk s) (g : HostCmd) (a : BitVec 12) (n : Nat) (es : List SegEntry) (os : List ObjDef)
    (ms : List ModelDef) : OutOk (execLoadSegments g a n es os ms s) := by
  unfold execLoadSegments
  extract_lets ons
  refine hostCommand_ok h _ _ _ (inTurns_ok h _ _ ?_)
  split
  · exact h
  · extract_lets need
    have hr := makeRooms_ok h [] 8 need
    split
    · next u e => exact (by rwa [e] at hr : MemoryOk u)
    · next u e => exact MemoryOk.enqueueAll (by rwa [e] at hr) _ _
    · next u e =>
      have hu : MemoryOk u := by rwa [e] at hr
      refine outOk_ite (hu.enqueueAll _ _) ?_
      split
      · exact hu
      · next v ev => exact MemoryOk.discard ((hu.loaded ev).wakeNamed) _

/-! ### Model contexts -/

@[simp] theorem memoryOk_setModel {m : Model} : MemoryOk (s.setModel m) ↔ MemoryOk s := Iff.rfl

theorem onModel_ok (h : MemoryOk s) (g : HostCmd) (opc m : Nat) {k : State → Model → Out} (hk : ∀ t p, MemoryOk t → OutOk (k t p)) :
    OutOk (onModel g opc m s k) := by
  refine outOk_ite h (inTurn_ok h _ _ ?_)
  extract_lets t
  have ht : MemoryOk t := memoryOk_drainLeaving.mpr h
  split
  · exact h
  · exact outOk_ite (memoryOk_enqueue.mpr ht) (hk _ _ ht)

theorem execSwapin_ok (h : MemoryOk s) (g : HostCmd) (m : Nat) : OutOk (execSwapin g m s) :=
  hostCommand_ok h _ _ _ (onModel_ok h _ _ _ fun _ _ ht => outOk_ite ht (memoryOk_enqueue.mpr ht))

@[simp] theorem memoryOk_endSwap {m : Nat} {g : HostCmd} {st : Nat} : MemoryOk (s.endSwap m g st) ↔ MemoryOk s := Iff.rfl

theorem execLayerResident_ok (h : MemoryOk s) (m : Nat) (bs : List Byte) : OutOk (execLayerResident m bs s) := by
  unfold execLayerResident
  split
  · exact h
  · extract_lets finish
    have hf : ∀ t g, MemoryOk t → OutOk (finish t g) := fun t g ht => outOk_ite ht ht
    split
    · extract_lets e done
      have hd : ∀ t, MemoryOk t → OutOk (done t) := fun t ht => hf _ _ (MemoryOk.dropCode ht _ _)
      split
      · exact hd _ h
      · split
        · next u e => exact memoryOk_endSwap.mpr (show RoomOk (.refused u) from e ▸ makeRooms_ok h _ _ _)
        · next u e => exact (show RoomOk (.draining u) from e ▸ makeRooms_ok h _ _ _)
        · next u e =>
          have hu : MemoryOk u := (show RoomOk (.free u) from e ▸ makeRooms_ok h _ _ _)
          extract_lets
          split
          · exact memoryOk_wakeDie.mpr hu
          · exact memoryOk_endSwap.mpr hu
          · refine outOk_ite hu (hd _ ?_)
            have hb := hu.bringLayer
            exact iteInduction (motive := MemoryOk) (fun _ => hb _ _ _ _) fun _ => (hb _ _ _ _).replace _ _ _ _ _
    · exact hf _ _ h
    · exact h

theorem execEvict_ok (h : MemoryOk s) (g : HostCmd) (m : Nat) (l : BitVec 16) : OutOk (execEvict g m l s) := by
  refine hostCommand_ok h _ _ _ (onModel_ok h _ _ _ fun t p ht => ?_)
  extract_lets all pick
  refine outOk_ite ht ?_
  clear_value pick
  split
  · exact ht
  · extract_lets u
    have hu : MemoryOk u := memoryOk_drainLeaving.mpr (MemoryOk.foldl (fun _ _ hv => memoryOk_evictLayer.mpr hv) _ ht)
    split
    · exact outOk_ite hu (memoryOk_enqueue.mpr hu)
    · exact hu

/-! ### Launches and gangs -/

theorem execLaunch_ok (h : MemoryOk s) (g : HostCmd) (d : DieId) (a : BitVec 12) (r : Rec) : OutOk (execLaunch g d a r s) := by
  refine hostCommand_ok h _ _ _ (inTurn_ok h _ _ ?_)
  extract_lets
  refine outOk_ite h ?_
  split
  · exact h
  · refine outOk_ite (memoryOk_enqueue.mpr h) (iteInduction (motive := MemoryOk) (fun _ => h) fun _ => h.pushRec _ _ _)

theorem execGangArm_ok (h : MemoryOk s) (g : HostCmd) (k : Nat) (a : BitVec 12) (us : BitVec 32) (r : Rec) :
    OutOk (execGangArm g k a us r s) := by
  refine hostCommand_ok h _ _ _ (inTurns_ok h _ _ ?_)
  extract_lets
  refine outOk_ite h (outOk_ite h (outOk_ite h ?_))
  split
  · exact h
  · split
    · exact memoryOk_enqueue.mpr (memoryOk_enqueue.mpr h)
    · exact h.setCore _ (h.core _)

@[simp] theorem MemoryOk.disarm (h : MemoryOk s) (g : Gang) : MemoryOk (s.disarm g) := h.setCore _ (h.core _)

theorem execGangexp_ok (h : MemoryOk s) (k : Nat) : OutOk (execGangexp k s) := by
  unfold execGangexp
  split
  · exact h
  · exact outOk_ite (h.disarm _) h

theorem execGangGo_ok (h : MemoryOk s) (g : HostCmd) (k : Nat) : OutOk (execGangGo g k s) := by
  refine hostCommand_ok h _ _ _ (inTurn_ok h _ _ ?_)
  split
  · exact h
  · refine outOk_ite (h.disarm _) ?_
    split
    · exact h.disarm _
    · exact (h.disarm _).dispatch _ _ _ _ _

/-! ### Queries, policies, attestation and retirement -/

@[simp] theorem memoryOk_countErr {i : Fin 8} {n : Nat} : MemoryOk (s.countErr i n) ↔ MemoryOk s := Iff.rfl

@[simp] theorem memoryOk_quietErrors : MemoryOk s.quietErrors ↔ MemoryOk s := Iff.rfl

theorem execQueryErrorCounters_ok (h : MemoryOk s) (g : HostCmd) : OutOk (execQueryErrorCounters g s) :=
  hostCommand_ok h _ _ _ (memoryOk_respond.mpr (memoryOk_quietErrors.mpr h))

theorem setPolicy_ok (h : MemoryOk s) (g : HostCmd) (ok : Bool) {t : State} (ht : MemoryOk t) : OutOk (setPolicy g ok s t) :=
  hostCommand_ok h _ _ _ (iteInduction (motive := MemoryOk) (fun _ => ht) fun _ => h)

theorem execSetMsgn_ok (h : MemoryOk s) (g : HostCmd) (c : CoreId) (v : Word) : OutOk (execSetMsgn g c v s) := by
  refine hostCommand_ok h _ _ _ ?_
  extract_lets k n k'
  have hk : k'.MemOk := iteInduction (motive := Core.MemOk) (fun _ => h.core c) fun _ => h.core c
  exact outOk_ite h (outOk_ite (h.setCore c (hk.applyMsgn n)) (h.setCore c hk))

theorem execSetHeatcfg_ok (h : MemoryOk s) (g : HostCmd) (v : Word) : OutOk (execSetHeatcfg g v s) := by
  refine hostCommand_ok h _ _ _ ?_
  rw [outOk_next]
  split_ifs
  · exact h
  · exact h
  · exact h.setHeat v

theorem execSetDeepRetention_ok (h : MemoryOk s) (g : HostCmd) (v : Word) : OutOk (execSetDeepRetention g v s) := by
  unfold execSetDeepRetention
  extract_lets t
  have ht : MemoryOk t := iteInduction (fun _ => MemoryOk.foldl (fun _ _ hu => memoryOk_wakeDie.mpr hu) _ h) fun _ => h
  exact setPolicy_ok h _ _ ht

theorem execSetDuplication_ok (h : MemoryOk s) (g : HostCmd) (a : BitVec 12) (i : Nat) (v : DupPolicy) :
    OutOk (execSetDuplication g a i v s) := by
  refine hostCommand_ok h _ _ _ (inTurn_ok h _ _ ?_)
  extract_lets
  exact outOk_ite h (outOk_ite h (outOk_ite h (outOk_ite (memoryOk_enqueue.mpr h) (outOk_ite
    (memoryOk_respond.mpr (memoryOk_collapseDup.mpr h)) (memoryOk_respond.mpr (memoryOk_setDup.mpr h))))))

theorem execSetRsslots_ok (h : MemoryOk s) (g : HostCmd) (obj n : Nat) : OutOk (execSetRsslots g obj n s) := by
  refine hostCommand_ok h _ _ _ ?_
  rw [outOk_next]
  split
  · exact h
  · extract_lets _ t
    have ht : MemoryOk t := h
    split_ifs
    · exact h
    · exact h
    · exact ht.calveObj _ _

theorem execAttest_ok (h : MemoryOk s) (g : HostCmd) (n : List Byte) : OutOk (execAttest g n s) :=
  hostCommand_ok h _ _ _ (outOk_ite h h)

theorem execRetire_ok (h : MemoryOk s) (g : HostCmd) (d : Bool) : OutOk (execRetire g d s) := by
  refine hostCommand_ok h _ _ _ ?_
  extract_lets _ t
  have ht : MemoryOk t := h
  exact outOk_ite ht (outOk_ite (MemoryOk.foldl (fun _ _ hu => memoryOk_respond.mpr hu) _ ht) ht)

theorem execUnknownCommand_ok (h : MemoryOk s) (g : StrayCmd) : OutOk (execUnknownCommand g s) := hostCommand_ok h _ _ _ h

/-! ### The index engine -/

theorem indexWord_ok (h : MemoryOk s) (sa : Bool) {k : Ctx → Run → IxBlk → Nat → Nat → (Run → Run) → Out}
    (hk : ∀ x r b a d f, OutOk (k x r b a d f)) : OutOk (indexWord s sa k) := macroWord_ok h fun x r => by
  split
  · extract_lets
    exact outOk_ite (putRun_ok h ..) (orFault_ok h _ _ _ fun _ _ => outOk_ite (putRun_ok h ..) (hk ..))
  · extract_lets
    exact orFault_ok h _ _ _ fun _ _ => putRun_ok h ..

theorem execIxg_ok (h : MemoryOk s) (o : EM) : OutOk (execIxg o s) := indexWord_ok h _ fun x r b a d f => by
  extract_lets z
  refine outOk_ite (orFault_core_ok h _ _ (fun k e => ?_) fun _ hk => putRun_ok hk ..) (withPlaces_ok h _ _ _ _ _ fun ls t ht => ?_)
  · obtain ⟨v, -, e⟩ := mac_bind_ok e
    exact writeBytes_memOk (h.core _) _ _ _ _ e
  · exact orFault_core_ok ht _ _ (fun k e => writeBytes_memOk (ht.core _) _ _ _ _ e) fun _ hk => putRun_ok hk ..

theorem execIxs_ok (h : MemoryOk s) (o : EM) : OutOk (execIxs o s) := indexWord_ok h _ fun x r b a d f => by
  extract_lets z
  refine orFault_ok h _ _ _ fun v _ => outOk_ite ?_ (withPlaces_ok h _ _ _ _ _ fun ls t ht => ?_)
  · exact orFault_core_ok h _ _ (fun k e => writeBytes_memOk (h.core _) _ _ _ _ e) fun _ hk => putRun_ok hk ..
  · split
    · exact ht
    · next e => exact putRun_ok (ht.writeSectors _ _ e) ..

theorem MemoryOk.bankAdd {t : State} (h : MemoryOk s) {x : Ctx} {n k v : Nat} {l : Loc} (e : s.bankAdd x n k v l = some t) : MemoryOk t := by
  unfold State.bankAdd at e
  split at e
  · obtain ⟨p, hp, rfl⟩ := Option.map_eq_some_iff.mp e
    exact h.bankOp _ _ _ _ _ p.1 hp
  · cases e

theorem execIxsa_ok (h : MemoryOk s) (o : EM) : OutOk (execIxsa o s) := indexWord_ok h _ fun x r b a d f => by
  extract_lets z
  refine orFault_ok h _ _ _ fun v _ => outOk_ite ?_ (withPlaces_ok h _ _ _ _ _ fun ls t ht => ?_)
  · refine orFault_core_ok h _ _ (fun k e => ?_) fun _ hk => putRun_ok hk ..
    obtain ⟨v, -, e⟩ := mac_bind_ok e
    exact writeBytes_memOk (h.core _) _ _ _ _ e
  · extract_lets away
    refine outOk_ite (runFault_ok ht ..) (outOk_ite (outOk_ite (putRun_ok ht ..) ht) ?_)
    split
    · exact ht
    · next u e =>
      have hu : MemoryOk u := MemoryOk.foldlM _ _ (fun _ _ _ hs e => hs.bankAdd e) ht e
      extract_lets
      exact outOk_ite (putRun_ok hu ..) (putRun_ok hu ..)

/-! ### Errors and core failure -/

theorem execScrubVisit_ok (h : MemoryOk s) (err : Bool) : OutOk (execScrubVisit err s) :=
  iteInduction (motive := MemoryOk) (fun _ => memoryOk_countErr.mpr h) fun _ => h

theorem execScratchpadRowPoison_ok (h : MemoryOk s) (c : CoreId) (acc : Bool) (row : Nat) :
    OutOk (execScratchpadRowPoison c acc row s) := by
  unfold execScratchpadRowPoison
  rw [outOk_next]
  split_ifs
  · exact h.setCore_same c
  · exact h
  · exact h.setCore_same c
  · exact h

theorem MemoryOk.completeOps (h : MemoryOk s) (c : CoreId) (n : BitVec 32) (k : Nat) : MemoryOk (completeOps c n s k) := by
  induction k generalizing s with
  | zero => exact h
  | succ k ih =>
    unfold Machine.completeOps
    split
    · exact h
    · next x _ =>
      extract_lets stands
      have hx := opRun_ok h c x 0 (put := fun s y => if stands then s.setCtxAt c x.id.bank (some y) else s.setAway c y) fun t y ht =>
        iteInduction (motive := MemoryOk) (fun _ => ht.setCtxAt _ _ _) fun _ => ht.setAway _ _
      split
      · next e =>
        rw [e] at hx
        exact ih hx
      · exact h

@[simp] theorem memoryOk_replayOrStop {c : CoreId} {x : Ctx} : MemoryOk (s.replayOrStop c x) ↔ MemoryOk s := by
  unfold State.replayOrStop
  split <;> exact Iff.rfl

@[simp] theorem MemoryOk.dropBound (h : MemoryOk s) (c : CoreId) : MemoryOk (s.dropBound c) := by
  unfold State.dropBound
  exact MemoryOk.foldl (fun _ _ ht => memoryOk_send.mpr ht) _ (memoryOk_admitHeld.mpr (memoryOk_setDie.mpr h))

@[simp] theorem MemoryOk.failCore (h : MemoryOk s) (c : CoreId) (lost : List Nat) : MemoryOk (s.failCore c lost) := by
  unfold State.failCore
  extract_lets t₁ k d t₂ t₃ t₄ t₅ _ _ t₆
  have h₁ : MemoryOk t₁ := MemoryOk.foldl (fun _ _ ht => ht.completeOps _ _ _) _ h
  have h₂ : MemoryOk t₂ := MemoryOk.foldl (fun _ _ ht => memoryOk_replayOrStop.mpr ht) _ h₁
  have h₃ : MemoryOk t₃ := MemoryOk.foldl (fun _ _ ht => iteInduction (motive := MemoryOk) (fun _ => memoryOk_send.mpr ht) fun _ =>
    memoryOk_pushFirm.mpr ht) _ h₂
  have h₄ : MemoryOk t₄ := MemoryOk.foldl (fun _ _ ht => memoryOk_pushFirm.mpr ht) _ h₃
  have h₅ : MemoryOk t₅ := h₄
  split
  · exact memoryOk_send.mpr (MemoryOk.setCore (memoryOk_setDie.mpr h₅) c (Core.renew_memOk _ _))
  · have h₆ : MemoryOk t₆ := h₅.setCore c ((Core.renew_memOk k none).congr rfl rfl rfl)
    refine MemoryOk.dropBound ?_ c
    exact h₆

theorem execCoreFailure_ok (h : MemoryOk s) (c : CoreId) (lost : List Nat) : OutOk (execCoreFailure c lost s) :=
  iteInduction (motive := MemoryOk) (fun _ => h.failCore _ _) fun _ => h

theorem execRegisterParityReplay_ok (h : MemoryOk s) (c : CoreId) (b : BankId) (bad : Bool) :
    OutOk (execRegisterParityReplay c b bad s) := by
  unfold execRegisterParityReplay
  split
  · exact h
  · refine outOk_ite (memoryOk_countErr.mpr h) ?_
    extract_lets t
    have ht : MemoryOk t := h.ctxFatal _ _ _
    exact iteInduction (motive := MemoryOk) (fun _ => ht.failCore _ _) fun _ => ht.setCore_same c

/-! ### Moving segments -/

theorem Moved.segs_ok {m m' : Moved} (h : MemoryOk m.s) {p : Pool} {avoid : List (Nat × Nat)} {l : List (BitVec 12 × Nat × SegEntry)}
    (e : m.segs p avoid l = some m') : MemoryOk m'.s := by
  induction l generalizing m with
  | nil =>
    cases e
    exact h
  | cons q rest ih =>
    obtain ⟨a, i, g⟩ := q
    unfold Machine.Moved.segs at e
    split at e
    · exact ih h e
    · split at e
      · exact ih h e
      · split at e
        · exact ih (m := { m with s := _ }) (h.replace _ _ _ _ _) e
        · split at e
          · exact ih (m := { m with left := (a, i) :: m.left }) h e
          · split at e
            · exact ih (m := { m with s := _, done := _ }) ((h.copyBytes _ _ _).replace _ _ _ _ _) e
            · cases e

theorem Moved.orphans_ok {m m' : Moved} (h : MemoryOk m.s) {l : List Obj} (e : m.orphans l = some m') : MemoryOk m'.s := by
  induction l generalizing m with
  | nil =>
    cases e
    exact h
  | cons o rest ih =>
    unfold Machine.Moved.orphans at e
    extract_lets n at e
    split at e
    · cases e
    · split at e
      · exact ih (m := { m with s := _, done := _ }) (memoryOk_setObj.mpr (h.copyBytes _ _ _)) e
      · cases e

@[simp] theorem memoryOk_dropStackCopies {o : Obj} : MemoryOk (s.dropStackCopies o) ↔ MemoryOk s := Iff.rfl
@[simp] theorem memoryOk_dropToHome {o : Obj} : MemoryOk (s.dropToHome o) ↔ MemoryOk s := Iff.rfl

theorem MemoryOk.lift (h : MemoryOk s) (w : MoveOf) (l : List (BitVec 12 × Nat)) : MemoryOk (s.lift w l) := by
  unfold State.lift
  extract_lets t
  have ht : MemoryOk t := MemoryOk.foldl (fun _ _ hu => memoryOk_setEntry.mpr hu) _ h
  exact memoryOk_settle.mpr ht

theorem MemoryOk.setDown (h : MemoryOk s) (w : MoveOf) (l : List (BitVec 12 × Nat)) : MemoryOk (s.setDown w l) := by
  unfold State.setDown
  extract_lets _ t
  have ht : MemoryOk t := h
  exact memoryOk_settle.mpr (MemoryOk.foldl (fun _ _ hu => MemoryOk.dropCode (memoryOk_setEntry.mpr hu) _ _) _ ht)

theorem MemoryOk.migrate (h : MemoryOk s) {w : MoveOf} {l : List (BitVec 12 × Nat × SegEntry)} {move : State → Option Moved}
    {ends : State → List (Nat × Nat × Nat) → State} (hm : ∀ m, move s = some m → MemoryOk m.s)
    (he : ∀ t d, MemoryOk t → MemoryOk (ends t d)) : MemoryOk (s.migrate w l move ends) := by
  unfold State.migrate
  extract_lets live
  split
  · exact h.lift _ _
  · split
    · exact h
    · next e => exact he _ _ ((hm _ e).setDown _ _)

theorem execDeepRetentionRetire_ok (h : MemoryOk s) (stack die : Nat) : OutOk (execDeepRetentionRetire stack die s) := by
  unfold execDeepRetentionRetire
  extract_lets lo segs lone homed begun t
  have ht : MemoryOk t := iteInduction (fun _ => h) fun _ => MemoryOk.foldl (fun _ _ hu => memoryOk_dropStackCopies.mpr hu) _ h
  refine outOk_ite h (ht.migrate (fun m e => ?_) fun u d hu => ?_)
  · obtain ⟨m₁, e₁, e₂⟩ := Option.bind_eq_some_iff.mp e
    exact Moved.orphans_ok (Moved.segs_ok (m := { s := t }) ht e₁) e₂
  · refine memoryOk_send.mpr (MemoryOk.foldl (fun v n hv => ?_) _ hu : MemoryOk _)
    split
    · exact memoryOk_dropToHome.mpr hv
    · exact hv

theorem execRowRepair_ok (h : MemoryOk s) (stack : Nat) (p : PcRow) : OutOk (execRowRepair stack p s) := by
  unfold execRowRepair
  extract_lets pc row n t _ u
  have ht : MemoryOk t := memoryOk_countErr.mpr h
  have hu : MemoryOk u := ht.congr rfl rfl
  split
  · exact outOk_ite (memoryOk_countErr.mpr (hu.congr rfl rfl)) hu
  · exact h

theorem execPseudoChannelSparing_ok (h : MemoryOk s) (stack pc : Nat) : OutOk (execPseudoChannelSparing stack pc s) := by
  unfold execPseudoChannelSparing
  split
  · extract_lets
    refine h.migrate (fun m e => ?_) fun _ _ ht => ht
    split_ifs at e
    · cases e
      exact h
    · exact Moved.segs_ok (m := { s := s }) h e
  · exact h

theorem execCapacityDeviceFailure_ok (h : MemoryOk s) (pkg : Nat) : OutOk (execCapacityDeviceFailure pkg s) := by
  unfold execCapacityDeviceFailure
  extract_lets what step
  have hs : ∀ t, MemoryOk t → MemoryOk (step t) := fun t ht =>
    ht.migrate (fun m e => Moved.segs_ok (m := { s := t }) ht e) fun _ _ hu => memoryOk_send.mpr (hu.congr rfl rfl)
  refine outOk_ite (hs _ h) ?_
  split
  · extract_lets n t
    have ht : MemoryOk t := memoryOk_countErr.mpr (h.congr rfl rfl)
    exact iteInduction (motive := MemoryOk) (fun _ => hs _ ht) fun _ => ht
  · exact h

theorem execReplicaRead_ok (h : MemoryOk s) (a : BitVec 12) (i : Nat) : OutOk (execReplicaRead a i s) := by
  have hc : ∀ c : Bool, MemoryOk (if c then s.countErr 4 else s) := fun c =>
    iteInduction (motive := MemoryOk) (fun _ => memoryOk_countErr.mpr h) fun _ => h
  unfold execReplicaRead
  extract_lets
  refine outOk_ite h (outOk_ite ?_ (hc _))
  split
  · exact h
  · extract_lets
    exact outOk_ite (memoryOk_countErr.mpr (h.congr rfl rfl)) (hc _)

theorem execSegmentPoisoning_ok (h : MemoryOk s) (a : BitVec 12) (i : Nat) : OutOk (execSegmentPoisoning a i s) := by
  unfold execSegmentPoisoning
  extract_lets
  exact outOk_ite h (memoryOk_send.mpr (memoryOk_countErr.mpr (h.congr rfl rfl)))

theorem execLanedeg_ok (h : MemoryOk s) (p : Nat) : OutOk (execLanedeg p s) := by
  unfold execLanedeg
  split
  · extract_lets
    exact outOk_ite h h
  · exact h

/-! ### Bring-up, power and the side-band -/

/-- What is left without the volatile state has the memories of reset. -/
@[simp] theorem memoryOk_cold {st : ModState} {rails : List Nat} : MemoryOk (s.cold st rails) := by
  refine ⟨reset_view_wf, fun c => ?_⟩
  have : (s.cold st rails).core c = Core.reset c.val := by simp [State.cold, State.core, State.reset]
  change ((s.cold st rails).core c).MemOk
  exact this ▸ Core.reset_memOk _

theorem MemoryOk.selfTest (h : MemoryOk s) (b : BringUp) : MemoryOk (s.selfTest b) :=
  ⟨h.1, CoresOk.mapIdx h.2 _ fun _ _ hk => hk⟩

@[simp] theorem memoryOk_failPort {p : Nat} : MemoryOk (s.failPort p) ↔ MemoryOk s := by
  unfold State.failPort
  split <;> exact Iff.rfl

@[simp] theorem memoryOk_hardRepairs : MemoryOk s.hardRepairs ↔ MemoryOk s := Iff.rfl
@[simp] theorem memoryOk_trainStacks {b : BringUp} : MemoryOk (s.trainStacks b) ↔ MemoryOk s := Iff.rfl
@[simp] theorem memoryOk_setSt {st : ModState} : MemoryOk (s.setSt st) ↔ MemoryOk s := Iff.rfl

@[simp] theorem MemoryOk.answerEarly (h : MemoryOk s) : MemoryOk s.answerEarly := by
  unfold State.answerEarly
  refine MemoryOk.foldl (fun t c ht => ?_) _ (h.congr rfl rfl)
  split <;> exact ht

@[simp] theorem memoryOk_shutdown : MemoryOk s.shutdown := memoryOk_cold

@[simp] theorem memoryOk_throttle {w : Nat} {l : List Nat} : MemoryOk (s.throttle w l) ↔ MemoryOk s := Iff.rfl

@[simp] theorem memoryOk_stepFive {b : BringUp} : MemoryOk (s.stepFive b) := by
  refine memoryOk_throttle.mpr (MemoryOk.congr (MemoryOk.selfTest memoryOk_cold b) rfl rfl)

theorem MemoryOk.bringStep (h : MemoryOk s) (b : BringUp) (n : Nat) : MemoryOk (s.bringStep b n) := by
  unfold State.bringStep
  split
  · split
    · exact h.congr rfl rfl
    · extract_lets t
      exact (memoryOk_cold : MemoryOk t).congr rfl rfl
  · split <;> exact h.congr rfl rfl
  · split <;> exact h.congr rfl rfl
  · split
    · split <;> exact h.congr rfl rfl
    · exact h.congr rfl rfl
  · extract_lets t
    have ht : MemoryOk t := memoryOk_stepFive
    exact iteInduction (motive := MemoryOk) (fun _ => ht.congr rfl rfl) fun _ => ht
  · exact h.congr rfl rfl
  · extract_lets
    split <;> exact h.congr rfl rfl
  · extract_lets _ t
    have ht : MemoryOk t := h.congr rfl rfl
    exact memoryOk_send.mpr (MemoryOk.foldl (fun _ _ hu => memoryOk_failPort.mpr hu) _ ht).answerEarly

theorem execPowerOn_ok (h : MemoryOk s) (b : BringUp) : OutOk (execPowerOn b s) := by
  unfold execPowerOn
  rw [outOk_next]
  split
  · split
    · exact h.bringStep _ _
    · exact h
  · split
    · exact memoryOk_shutdown
    · exact h.bringStep _ _
  · exact h

@[simp] theorem memoryOk_sideAnswer {c : Nat} {l : List Nat} : MemoryOk (s.sideAnswer c l) ↔ MemoryOk s := by
  unfold State.sideAnswer
  split <;> exact Iff.rfl

@[simp] theorem memoryOk_passThrottle : MemoryOk s.passThrottle ↔ MemoryOk s := by
  unfold State.passThrottle
  split <;> exact Iff.rfl

@[simp] theorem MemoryOk.readings (h : MemoryOk s) (w : Nat) (l : List Nat) : MemoryOk (s.readings w l) := by
  unfold State.readings
  extract_lets t
  have ht : MemoryOk t := memoryOk_throttle.mpr h
  split
  · exact memoryOk_shutdown
  · exact ht

theorem execReadPower_ok (h : MemoryOk s) : OutOk (execReadPower s) := memoryOk_sideAnswer.mpr (memoryOk_passThrottle.mpr h)

theorem execSetPlim_ok (h : MemoryOk s) (w : Nat) : OutOk (execSetPlim w s) := by
  unfold execSetPlim
  rw [outOk_next]
  split
  · extract_lets t
    have ht : MemoryOk t := memoryOk_passThrottle.mpr h
    exact memoryOk_sideAnswer.mpr (memoryOk_throttle.mpr (ht.congr rfl rfl))
  · exact memoryOk_sideAnswer.mpr h

theorem execRequestReset_ok (h : MemoryOk s) (b : BringUp) : OutOk (execRequestReset b s) := by
  unfold execRequestReset
  rw [outOk_next]
  split
  · exact memoryOk_sideAnswer.mpr memoryOk_cold
  · exact h

theorem execThermalThrottle_ok (h : MemoryOk s) (w : Nat) (l : List Nat) : OutOk (execThermalThrottle w l s) :=
  iteInduction (motive := MemoryOk) (fun _ => (memoryOk_passThrottle.mpr h).readings _ _) fun _ => h

theorem execThermalThrottleEnd_ok (h : MemoryOk s) (w : Nat) (l : List Nat) : OutOk (execThermalThrottleEnd w l s) :=
  iteInduction (motive := MemoryOk) (fun _ => (memoryOk_passThrottle.mpr h).readings _ _) fun _ => h

theorem execThermalShutdown_ok (h : MemoryOk s) (k t : Nat) : OutOk (execThermalShutdown k t s) := by
  unfold execThermalShutdown
  rw [outOk_next]
  split_ifs
  · exact h.congr rfl rfl
  · exact memoryOk_shutdown
  · exact h

/-! ### The predictor -/

theorem execPred_ok (h : MemoryOk s) (o : EM) : OutOk (execPred o s) := macroWord_ok h fun x r => by
  extract_lets
  refine outOk_ite (putRun_ok h ..) (orFault_ok h _ _ _ fun (k, n) e => putRun_ok (h.putCore ?_) ..)
  obtain ⟨-, -, e⟩ := mac_bind_ok e
  obtain ⟨-, -, e⟩ := mac_bind_ok e
  obtain ⟨vs, -, e⟩ := mac_bind_ok e
  split at e
  obtain ⟨sel, -, e⟩ := mac_bind_ok e
  split at e
  obtain ⟨k₁, hk, e⟩ := mac_bind_ok e
  cases e
  exact writeBytes_memOk (h.core _) _ _ _ _ hk

theorem execPchk_ok (h : MemoryOk s) (o : EM) : OutOk (execPchk o s) := macroWord_ok h fun x r => by
  extract_lets
  refine outOk_ite (putRun_ok h ..) (orFault_ok h _ _ _ fun (k, n) e => ?_)
  have hk : k.MemOk := by
    obtain ⟨-, -, e⟩ := mac_bind_ok e
    obtain ⟨plist, -, e⟩ := mac_bind_ok e
    obtain ⟨miss, -, e⟩ := mac_bind_ok e
    obtain ⟨k₁, hk, e⟩ := mac_bind_ok e
    cases e
    exact writeBytes_memOk (h.core _) _ _ _ _ hk
  exact outOk_ite (runFault_ok (h.putCore hk) ..) (putRun_ok (h.putCore hk) ..)

theorem execPstat_ok (h : MemoryOk s) (o : EM) : OutOk (execPstat o s) := macroWord_ok h fun _ _ =>
  outOk_ite (putRun_ok h ..)
    (orFault_core_ok h _ _ (fun _ e => writeBytes_memOk (h.core _) _ _ _ _ e) fun _ hk => putRun_ok hk ..)

/-! ### The rime engine -/

theorem streamWord_ok (h : MemoryOk s) (vs : List VReg) (cap : State → Ctx → List Nat) {k : Ctx → Run → Out} (hk : ∀ x r, OutOk (k x r)) :
    OutOk (streamWord vs cap s k) := by
  unfold streamWord
  split
  · exact xReads_ok h fun x q => handOver_ok h ..
  · exact macroWord_ok h hk

theorem putStream_ok (h : MemoryOk s) (x : Ctx) (r : Run) (zd : VReg) (z : Mac Stream) : OutOk (putStream s x r zd z) :=
  orFault_ok h _ _ _ fun _ _ => putRun_ok h ..

theorem streamOp_ok (h : MemoryOk s) (o : V4) (zs : List VReg) (check : List Stream → Option (Nat × BitVec 16)) (f : List Nat → Nat) :
    OutOk (streamOp o zs check f s) := streamWord_ok h _ _ fun _ _ => putStream_ok h ..

theorem execSgen_ok (h : MemoryOk s) (o : V4) : OutOk (execSgen o s) := streamWord_ok h _ _ fun _ _ => putRun_ok h ..

theorem endVregs_ok (h : MemoryOk s) (x : Ctx) (r : Run) (vs : List (Nat × Nat)) : OutOk (s.endVregs x r vs) :=
  putRun_ok (h.putVregs x vs) ..

theorem execScnt_ok (h : MemoryOk s) (o : V4) : OutOk (execScnt o s) := streamWord_ok h _ _ fun _ _ => endVregs_ok h ..

theorem execS2b_ok (h : MemoryOk s) (o : V4) : OutOk (execS2b o s) := streamWord_ok h _ _ fun _ _ => by
  extract_lets
  exact outOk_ite (outOk_ite (runFault_ok h ..) (endVregs_ok h ..)) (endVregs_ok h ..)

theorem execSregen_ok (h : MemoryOk s) (o : V4) : OutOk (execSregen o s) := streamWord_ok h _ _ fun _ _ => putRun_ok h ..
theorem execSlen_ok (h : MemoryOk s) (o : V4) : OutOk (execSlen o s) := streamWord_ok h _ _ fun _ _ => putStream_ok h ..
theorem execScls_ok (h : MemoryOk s) (o : V4) : OutOk (execScls o s) := streamWord_ok h _ _ fun _ _ => putStream_ok h ..
theorem execSclsV_ok (h : MemoryOk s) (o : V4) : OutOk (execSclsV o s) := streamWord_ok h _ _ fun _ _ => putStream_ok h ..

/-! ### Every instruction, word or event -/

theorem vecSign_ok (h : MemoryOk s) (o : V4) (f : Nat → Nat → Nat) : OutOk (vecSign o f s) := xWord_xIssue_ok h
theorem vecCount_ok (h : MemoryOk s) (o : V4) (f : Nat → Nat → Nat) : OutOk (vecCount o f s) := xWord_xIssue_ok h

theorem execVisat_ok (h : MemoryOk s) (o : V4) : OutOk (execVisat o s) := by
  unfold execVisat
  extract_lets
  exact vecInt_ok h _ _ _ _

/-- The instructions in the order of `Instr`, those of one family together. -/
theorem exec_ok (h : MemoryOk s) (i : Instr) : OutOk (exec i s) := by
  cases i with
  | add _ | sub _ | mul _ | mulh _ | mulhn _ | and _ | or _ | xor _ | andn _ | shl _ | shra _ | shrl _ | rol _ | clz _ | ctz _
  | popc _ | min _ | max _ | minn _ | maxn _ | sel _ | cmp _ | extr _ | ins _ =>
    unfold exec
    exact ctlAlu_ok h _ _ _
  | div _ | divn _ | rem _ | remn _ =>
    unfold exec
    exact ctlDiv_ok h _ _
  | addi _ | li _ | lih _ | lea _ =>
    unfold exec
    exact ctlImm_ok h _ _
  | br _ => exact execBr_ok h _
  | bc _ => exact execBc_ok h _
  | call _ => exact execCall_ok h _
  | ret _ => exact execRet_ok h _
  | jtab _ => exact execJtab_ok h _
  | jfrag _ => exact execJfrag_ok h _
  | done _ => exact execDone_ok h _
  | yield _ => exact execYield_ok h _
  | sld _ => exact execSld_ok h _
  | sst _ => exact execSst_ok h _
  | await _ => exact execAwait_ok h _
  | amo _ => exact execAmo_ok h _
  | amof _ => exact execAmof_ok h _
  | mfs _ => exact execMfs_ok h _
  | mts _ => exact execMts_ok h _
  | mtsTmr _ => exact execMtsTmr_ok h _
  | mtsSrseed _ => exact execMtsSrseed_ok h _
  | mtsSeed _ => exact execMtsSeed_ok h _
  | mtsRotsz _ => exact execMtsRotsz_ok h _
  | mtsRrb _ => exact execMtsRrb_ok h _
  | mtsHandleLow _ | mtsHandleHigh _ =>
    unfold exec
    exact mtsHandle_ok h _ _ _
  | mtsFrag _ => exact execMtsFrag_ok h _
  | mtsStw3 _ => exact execMtsStw3_ok h _
  | mtsStw _ => exact execMtsStw_ok h _
  | mtsHeatcfg _ => exact execMtsHeatcfg_ok h _
  | trap _ | brkpt _ =>
    unfold exec
    exact trapWord_ok h _ _
  | rtt _ => exact execRtt_ok h _
  | fence _ => exact execFence_ok h _
  | sflush _ => exact execSflush_ok h _
  | sflushDrainEnd _ _ => exact execSflushDrainEnd_ok h _ _
  | probe _ | probeF _ =>
    unfold exec
    exact probeWord_ok h _ _
  | probeFillLanding _ _ => exact execProbeFillLanding_ok h _ _
  | nop _ => exact execNop_ok h _
  | vadd _ | vsub _ | vmul _ | vfma _ | vfms _ | vfnma _ | vmin _ | vmax _ | vrcp _ | vrsq _ | vexp2 _ | vlog2 _ =>
    unfold exec
    exact vecFloat_ok h _ _ _ _ _
  | vabs _ | vneg _ =>
    unfold exec
    exact vecSign_ok h _ _
  | vcmp _ => exact execVcmp_ok h _
  | vsel _ | vicmp _ | vlop3 _ | vpermb _ | vperml _ | vrot _ | vrmrg _ | viota _ | vrsum _ | vscan _ | vbsort _ | vbmerge _
  | vbstep _ | vmergek _ | visect _ | vunion _ | xadd _ | xacc _ | xrnd _ | ppopc _ =>
    unfold exec
    exact xWord_xIssue_ok h
  | viadd _ | visub _ | vimul _ | vimulh _ | vimad _ | vimin _ | vimax _ | viabs _ =>
    unfold exec
    exact vecInt_ok h _ _ _ _
  | visat _ => exact execVisat_ok h _
  | vishl _ | vishr _ =>
    unfold exec
    exact vecShift_ok h _ _ _
  | vfshl _ | vfshr _ =>
    unfold exec
    exact vecFunnel_ok h _ _
  | vpopc _ | vclz _ =>
    unfold exec
    exact vecCount_ok h _ _
  | vcvt _ => exact execVcvt_ok h _
  | vpack _ => exact execVpack_ok h _
  | vunpk _ => exact execVunpk_ok h _
  | vqnt _ => exact execVqnt_ok h _
  | vdqnt _ => exact execVdqnt_ok h _
  | vbcast _ => exact execVbcast_ok h _
  | vinsl _ => exact execVinsl_ok h _
  | vextl _ => exact execVextl_ok h _
  | vrmax _ | vrmin _ =>
    unfold exec
    exact vecBest_ok h _ _ _
  | vrargmax _ => exact execVrargmax_ok h _
  | xclr _ =>
    unfold exec
    exact xWord0_ok h fun _ _ => h.putCtx _
  | xmov _ =>
    unfold exec
    exact xWordRes_ok h fun _ _ => xIssue_ok h ..
  | vld _ => exact execVld_ok h _
  | vst _ => exact execVst_ok h _
  | vldh _ => exact execVldh_ok h _
  | vsth _ => exact execVsth_ok h _
  | hadvc _ => exact execHadvc_ok h _
  | hadvp _ => exact execHadvp_ok h _
  | vloop _ => exact execVloop_ok h _
  | vexit _ => exact execVexit_ok h _
  | rrbset _ => exact execRrbset_ok h _
  | rep _ => exact execRep_ok h _
  | pand _ | por _ | pxor _ | pnot _ | pmov _ | pset _ =>
    unfold exec
    exact predWord_ok h _ _ _ _
  | ldt _ => exact execLdt_ok h _
  | stt _ => exact execStt_ok h _
  | cpy _ => exact execCpy_ok h _
  | cpya _ => exact execCpya_ok h _
  | rowg _ => exact execRowg_ok h _
  | mcast _ => exact execMcast_ok h _
  | puth _ => exact execPuth_ok h _
  | get _ => exact execGet_ok h _
  | put _ => exact execPut_ok h _
  | collectiveContribution _ => exact execCollectiveContribution_ok h _
  | pft _ => exact execPft_ok h _
  | ixg o => exact execIxg_ok h o
  | ixs o => exact execIxs_ok h o
  | ixsa o => exact execIxsa_ok h o
  | mma _ => exact execMma_ok h _
  | mmv _ => exact execMmv_ok h _
  | mmg _ => exact execMmg_ok h _
  | matt _ => exact execMatt_ok h _
  | mpbld _ => exact execMpbld_ok h _
  | aclr _ => exact execAclr_ok h _
  | adrain _ => exact execAdrain_ok h _
  | bset _ => exact execBset_ok h _
  | bsamp _ => exact execBsamp_ok h _
  | bread _ => exact execBread_ok h _
  | pred _ => exact execPred_ok h _
  | pchk _ => exact execPchk_ok h _
  | pstat _ => exact execPstat_ok h _
  | accept _ => exact execAccept_ok h _
  | fragset _ => exact execFragset_ok h _
  | sgen _ => exact execSgen_ok h _
  | sand _ | sxnor _ | sor _ | snot _ | smux _ | smaj _ =>
    unfold exec
    exact streamOp_ok h _ _ _ _
  | scnt _ => exact execScnt_ok h _
  | s2b _ => exact execS2b_ok h _
  | sregen _ => exact execSregen_ok h _
  | slen _ => exact execSlen_ok h _
  | scls _ => exact execScls_ok h _
  | sclsV _ => exact execSclsV_ok h _
  | binit _ => exact execBinit_ok h _
  | arrive _ => exact execArrive_ok h _
  | bwait _ => exact execBwait_ok h _
  | twait _ => exact execTwait_ok h _
  | tread _ => exact execTread_ok h _
  | join _ => exact execJoin_ok h _
  | leave _ => exact execLeave_ok h _
  | barg _ => exact execBarg_ok h _
  | spawn _ => exact execSpawn_ok h _
  | jdec _ => exact execJdec_ok h _
  | sectionDispatch _ => exact execSectionDispatch_ok h _
  | backReferenceSatisfied => exact execBackReferenceSatisfied_ok h
  | wordPush _ => exact execWordPush_ok h _
  | sectionRetirement _ _ _ _ => exact execSectionRetirement_ok h _ _ _ _
  | resultLanding _ _ _ => exact execResultLanding_ok h _ _ _
  | macroCompletion _ _ _ => exact execMacroCompletion_ok h _ _ _
  | timerExpiry _ _ => exact execTimerExpiry_ok h _ _
  | trapEntry _ => exact execTrapEntry_ok h _
  | idleSlotDispatch _ => exact execIdleSlotDispatch_ok h _
  | ageingTick => exact execAgeingTick_ok h
  | contextSwitch _ => exact execContextSwitch_ok h _
  | engineContextChange _ _ => exact execEngineContextChange_ok h _ _
  | park _ => exact execPark_ok h _
  | parkedResume _ => exact execParkedResume_ok h _
  | watchdogExpiry _ => exact execWatchdogExpiry_ok h _
  | stallLimitExpiry _ _ _ => exact execStallLimitExpiry_ok h _ _ _
  | writePropagation _ => exact execWritePropagation_ok h _
  | dupw _ _ _ => exact execDupw_ok h _ _ _
  | receivePut _ =>
    unfold exec
    exact receive_ok h _ _ (recvPut_ok h _)
  | receiveGet _ =>
    unfold exec
    exact receive_ok h _ _ (recvGet_ok h _)
  | receivePuth _ =>
    unfold exec
    exact receive_ok h _ _ (recvPuth_ok h _)
  | receiveAtomic _ => exact execReceiveAtomic_ok h _
  | receiveCollective _ =>
    unfold exec
    exact receive_ok h _ _ (recvCollective_ok h _)
  | receiveAnswer _ _ _ => exact execReceiveAnswer_ok h _ _ _
  | rxbad _ _ => exact execRxbad_ok h _ _
  | fabricTimeout _ => exact execFabricTimeout_ok h _
  | gangRetryTimeout _ => exact execGangRetryTimeout_ok h _
  | gangexp _ => exact execGangexp_ok h _
  | createSpace _ _ => exact execCreateSpace_ok h _ _
  | loadSegments _ _ _ _ _ _ => exact execLoadSegments_ok h _ _ _ _ _ _
  | swapin _ _ => exact execSwapin_ok h _ _
  | layerResident _ _ => exact execLayerResident_ok h _ _
  | evict _ _ _ => exact execEvict_ok h _ _ _
  | launch _ _ _ _ => exact execLaunch_ok h _ _ _ _
  | gangArm _ _ _ _ _ => exact execGangArm_ok h _ _ _ _ _
  | gangGo _ _ => exact execGangGo_ok h _ _
  | queryHeatStatistics _ | queryPoolOccupancy _ | queryLoadedSpaces _ | queryEventLog _ | queryCertificate _ | querySparingMap _
  | queryMemorySpares _ =>
    unfold exec
    exact answerWith_ok h _ _ _ _ _
  | queryErrorCounters _ => exact execQueryErrorCounters_ok h _
  | setMsgn _ _ _ => exact execSetMsgn_ok h _ _ _
  | setBlkthr _ _ | setFtout _ _ | setAgeus _ _ _ =>
    unfold exec
    exact setPolicy_ok h _ _ (h.congr rfl rfl)
  | setHeatcfg _ _ => exact execSetHeatcfg_ok h _ _
  | setDeepRetention _ _ => exact execSetDeepRetention_ok h _ _
  | setDuplication _ _ _ _ => exact execSetDuplication_ok h _ _ _ _
  | setRsslots _ _ _ => exact execSetRsslots_ok h _ _ _
  | attest _ _ => exact execAttest_ok h _ _
  | retire _ _ => exact execRetire_ok h _ _
  | deepRetentionRetire _ _ => exact execDeepRetentionRetire_ok h _ _
  | scrubVisit _ => exact execScrubVisit_ok h _
  | registerParityReplay _ _ _ => exact execRegisterParityReplay_ok h _ _ _
  | scratchpadRowPoison _ _ _ => exact execScratchpadRowPoison_ok h _ _ _
  | rowRepair _ _ => exact execRowRepair_ok h _ _
  | pseudoChannelSparing _ _ => exact execPseudoChannelSparing_ok h _ _
  | capacityDeviceFailure _ => exact execCapacityDeviceFailure_ok h _
  | replicaRead _ _ => exact execReplicaRead_ok h _ _
  | segmentPoisoning _ _ => exact execSegmentPoisoning_ok h _ _
  | coreFailure _ _ => exact execCoreFailure_ok h _ _
  | lanedeg _ => exact execLanedeg_ok h _
  | powerOn _ => exact execPowerOn_ok h _
  | thermalThrottle _ _ => exact execThermalThrottle_ok h _ _
  | thermalShutdown _ _ => exact execThermalShutdown_ok h _ _
  | readState | readTemperatures => exact memoryOk_sideAnswer.mpr h
  | readPower => exact execReadPower_ok h
  | setPlim _ => exact execSetPlim_ok h _
  | requestReset b => exact execRequestReset_ok h b
  | scalarAccessCompletion _ _ _ => exact execScalarAccessCompletion_ok h _ _ _
  | rowClearingDone _ => exact execRowClearingDone_ok h _
  | accretionCopyLanded _ _ => exact execAccretionCopyLanded_ok h _ _
  | powerOff => exact memoryOk_cold
  | thermalThrottleEnd _ _ => exact execThermalThrottleEnd_ok h _ _
  | unknownCommand _ => exact execUnknownCommand_ok h _

/-! ### Turns -/

/-- The state that a turn leaves, or that its instruction starts from, is canonical. -/
def ActOk : Act → Prop
  | .idle t => MemoryOk t
  | .run _ t => MemoryOk t
  | .stop _ => True

theorem actOk_ite {c : Prop} [Decidable c] {a b : Act} (ha : ActOk a) (hb : ActOk b) : ActOk (if c then a else b) := by
  split
  · exact ha
  · exact hb

theorem fetchFails_ok (x : Ctx) (va : Word) {e : NoFetch} (he : MemoryOk e.st) : ActOk (fetchFails s x va e) := by
  unfold fetchFails
  extract_lets t
  have ht : MemoryOk t := memoryOk_noteXlat.mpr he
  split
  · trivial
  · split
    · exact ht
    · exact ht.ctlStall _ _ _

theorem atHeader_ok (h : MemoryOk s) (x : Ctx) : ActOk (atHeader s x) := by
  obtain ⟨hok, herr⟩ := h.fetch s.cur.core x.id.asid x.begun x.ctl.pc 8
  unfold atHeader
  split
  · next e => exact hok _ _ e
  · next e => exact fetchFails_ok _ _ (herr _ e)

theorem insideSection_ok (h : MemoryOk s) (x : Ctx) (c : CtlSec) : ActOk (insideSection s x c) := by
  unfold insideSection
  split
  · exact h
  · refine actOk_ite ?_ ?_
    · obtain ⟨hok, herr⟩ := h.fetch s.cur.core x.id.asid x.begun x.ctl.pc 12
      split
      · next t e =>
        have ht : MemoryOk t := hok _ _ e
        extract_lets w next
        split
        · exact ht
        · exact actOk_ite ht ht
      · next e => exact fetchFails_ok _ _ (herr _ e)
    · extract_lets _ _ goOn
      have hg : ∀ t, MemoryOk t → ActOk (goOn t) := fun t ht => atHeader_ok (ht.putCtx _) _
      refine actOk_ite (hg _ h) ?_
      obtain ⟨hok, herr⟩ := h.fetch s.cur.core x.id.asid x.begun c.pad 4
      split
      · next e => exact actOk_ite (hg _ (hok _ _ e)) (hok _ _ e)
      · next e => exact fetchFails_ok _ _ (herr _ e)

theorem controlTurn_controlWord_ok (h : MemoryOk s) (x : Ctx) : ActOk (controlTurn.controlWord s x) := by
  unfold controlTurn.controlWord
  split
  · exact h
  · refine actOk_ite ?_ ?_
    · split <;> exact h
    · split
      · refine actOk_ite h ?_
        split
        · exact h
        · exact memoryOk_ctlHold.mpr h
      · exact insideSection_ok h _ _
      · exact atHeader_ok h _

theorem controlTurn_ok (h : MemoryOk s) : ActOk (controlTurn s) := by
  unfold controlTurn
  split
  · exact h
  · split
    · exact iteInduction (motive := MemoryOk) (fun _ => h.endFatal _ _ _) fun _ => h
    · exact actOk_ite h (controlTurn_controlWord_ok h _)

theorem issueWord_go_ok (h : MemoryOk s) (x : Ctx) (k : Kind) (q : QWord) : ActOk (issueWord.go x k q s) := by
  unfold issueWord.go
  split
  · refine actOk_ite (h.putCtx _) ?_
    extract_lets w
    split
    · exact h
    · exact h.raiseQ _ _ _
  · split <;> exact h

theorem issueWord_ok {s₀ : State} (h₀ : MemoryOk s₀) (h : MemoryOk s) (x : Ctx) (k : Kind) (q : QWord) : ActOk (issueWord s₀ s x k q) := by
  unfold issueWord
  extract_lets _ t
  have ht : MemoryOk t := h
  split
  · exact actOk_ite (issueWord_go_ok ht _ _ _) (actOk_ite h₀ (ht.putCtx _))
  · exact issueWord_go_ok ht _ _ _

theorem queueTurn_ok (h : MemoryOk s) (k : Kind) : ActOk (queueTurn s k) := by
  unfold queueTurn
  refine actOk_ite h ?_
  extract_lets s₀ t
  have ht : MemoryOk t := iteInduction (fun _ => h.landAt _ _ _) fun _ => h
  split
  · exact ht
  · extract_lets x u q
    have hu : MemoryOk u := ht.putCtx _
    refine actOk_ite hu (actOk_ite (hu.putCtx _) (actOk_ite (hu.putCtx _) ?_))
    split
    · split
      · exact issueWord_ok h hu _ _ _
      · exact issueWord_ok h (hu.putCtx _) _ _ _
      · exact hu.putCtx _
    · exact actOk_ite (hu.putCtx _) (issueWord_ok h hu _ _ _)
    · exact hu.putCtx _

theorem engineTurn_ok (h : MemoryOk s) (e : Eng) : ActOk (engineTurn s e) := by
  unfold engineTurn
  refine actOk_ite h ?_
  split
  · exact h
  · refine actOk_ite h ?_
    split
    · refine actOk_ite h ?_
      split <;> exact h
    · exact h

theorem begin_ok (h : MemoryOk s) : ActOk s.begin := by
  unfold State.begin
  extract_lets t _ u
  have ht : MemoryOk t := h
  have hu : MemoryOk u := ht.readAhead
  split
  · exact controlTurn_ok (ht.congr rfl rfl)
  · refine queueTurn_ok ?_ _
    exact ht
  · refine engineTurn_ok ?_ _
    exact ht
  · exact actOk_ite hu hu
  · split
    · exact actOk_ite hu hu
    · exact hu

/-- What the queue's turn takes back from the state before it is canonical too. -/
theorem MemoryOk.withhold {t : State} (h : MemoryOk s) (ht : MemoryOk t) : MemoryOk (s.withhold t) := by
  unfold State.withhold
  split
  · next c b _ =>
    split
    · refine iteInduction (motive := MemoryOk) (fun _ => MemoryOk.setCtxAt (ht.setCore c ?_) _ _ _) fun _ => ht
      exact ⟨(h.core c).1, (ht.core c).2.1, (h.core c).2.2⟩
    · exact ht
  · exact ht

/-- Settles O9: the turn leaves canonical memories, each instruction keeps them, and so does what the turn withholds. -/
theorem stepKeepsMemoryForm : Obligations.StepKeepsMemoryForm := by
  unfold Obligations.StepKeepsMemoryForm
  intro s t h e
  have hb := begin_ok h
  unfold step at e
  cases ha : s.begin with
  | idle u =>
    rw [ha] at hb e
    cases e
    exact h.withhold hb
  | stop f =>
    rw [ha] at e
    cases e
  | run i u =>
    rw [ha] at hb e
    have hx := exec_ok hb i
    cases hu : exec i u with
    | next v =>
      rw [hu] at hx
      simp only [hu] at e
      cases e
      exact h.withhold hx
    | fault f =>
      simp only [hu] at e
      cases e
    | refused r =>
      simp only [hu] at e
      cases e

end Sys2Proof
end

section
/-! SUPPORT. What arrives from the fabric: header flits as bytes, refusals, answers, events and timeouts. -/

namespace Sys2Proof

open Sys2Proof.Machine
variable {s : State}

/-! ### Numbers as bytes (R2) -/

@[simp] theorem bytesOf_length (n v : Nat) : (bytesOf n v).length = n := by simp [bytesOf]

theorem bytesOf_succ (n v : Nat) : bytesOf (n + 1) v = BitVec.ofNat 8 v :: bytesOf n (v >>> 8) := by
  simp [bytesOf, List.range_succ_eq_map, Nat.mul_succ, Nat.shiftRight_add, Nat.add_comm, Function.comp_def]

theorem natOfBytes_cons (b : Byte) (bs : List Byte) : natOfBytes (b :: bs) = b.toNat + 256 * natOfBytes bs := by
  have : b.toNat % 256 = b.toNat := Nat.mod_eq_of_lt b.isLt
  simp [natOfBytes, ofElems, this, Nat.mul_comm, Nat.add_comm]

theorem natOfBytes_bytesOf (n v : Nat) : natOfBytes (bytesOf n v) = v % 2 ^ (8 * n) := by
  induction n generalizing v with
  | zero => simp [bytesOf, natOfBytes, ofElems, Nat.mod_one]
  | succ n ih =>
    rw [bytesOf_succ, natOfBytes_cons, ih, Nat.mul_succ, Nat.add_comm (8 * n), Nat.pow_add, Nat.mod_mul, Nat.shiftRight_eq_div_pow]
    simp

theorem drop_bytesOf {n k : Nat} (v : Nat) (bs : List Byte) (h : n ≤ k) : (bytesOf n v ++ bs).drop k = bs.drop (k - n) := by
  rw [List.drop_append, List.drop_eq_nil_of_le (by simpa using h), bytesOf_length, List.nil_append]

/-- A field behind a number begins that many bytes sooner in what follows it. -/
theorem wireNum_append {n off : Nat} (v k : Nat) (bs : List Byte) (h : n ≤ off) :
    wireNum (bytesOf n v ++ bs) off k = wireNum bs (off - n) k := by
  rw [wireNum, drop_bytesOf v bs h, wireNum]

theorem wireNum_bytesOf (n v : Nat) (bs : List Byte) : wireNum (bytesOf n v ++ bs) 0 n = v % 2 ^ (8 * n) := by
  rw [wireNum, List.drop_zero, List.take_append_of_le_length (by simp), List.take_of_length_le (by simp), natOfBytes_bytesOf]

theorem wireNum_toNat {w n : Nat} (x : BitVec w) (bs : List Byte) (h : w ≤ 8 * n) : wireNum (bytesOf n x.toNat ++ bs) 0 n = x.toNat := by
  rw [wireNum_bytesOf, Nat.mod_eq_of_lt (Nat.lt_of_lt_of_le x.isLt (Nat.pow_le_pow_right (by decide) h))]

theorem bytesOf_one (b : Byte) : bytesOf 1 b.toNat = [b] := by simp [bytesOf]

theorem wireNum_take {bs : List Byte} {k off n : Nat} (h : off + n ≤ k) : wireNum (bs.take k) off n = wireNum bs off n := by
  rw [wireNum, wireNum, List.drop_take, List.take_take, Nat.min_eq_left (by omega)]

theorem wireNum_drop (bs : List Byte) (k off n : Nat) : wireNum (bs.drop k) off n = wireNum bs (k + off) n := by
  rw [wireNum, wireNum, List.drop_drop]

/-! ### Header flits (R327, R328, R331) -/

/-- The bytes of a header behind its common fields, as far as its type gives them. -/
def headerBody (m : Sent) : List Byte :=
  match m.typ with
  | 3 => bytesOf 8 m.flit.handler.toNat
  | 4 => [m.flit.aop, m.flit.size] ++ List.replicate 6 0 ++ bytesOf 8 m.flit.operand.toNat
  | 5 => bytesOf 1 m.flit.atype.toNat
  | 6 => m.body
  | _ => []

theorem header_eq (m : Sent) : m.header = bytesOf 1 m.typ ++ (bytesOf 1 ((if m.resp then 1 else 0) + (if m.refuse.isSome then 2 else 0)) ++
    (bytesOf 1 (m.refuse.getD 0) ++ (bytesOf 1 m.flit.prio.toNat ++ (bytesOf 4 m.flit.src.toNat ++ (bytesOf 4 m.flit.dst.toNat ++
    (bytesOf 2 m.flit.asid.toNat ++ (bytesOf 2 m.flit.rows.length ++ (bytesOf 8 m.flit.addr.toNat ++ (bytesOf 8 m.flit.tag.toNat ++
    (headerBody m ++ List.replicate 224 0).take 224))))))))) := by
  simp only [Sent.header, List.append_assoc]
  rfl

theorem header_length (m : Sent) : m.header.length = 256 := by
  rw [header_eq]
  simp only [List.length_append, bytesOf_length, List.length_take, List.length_replicate]
  omega

theorem header_drop (m : Sent) : m.header.drop 32 = (headerBody m ++ List.replicate 224 0).take 224 := by
  simp [header_eq, drop_bytesOf]

theorem wireNum_header_typ (m : Sent) : wireNum m.header 0 1 = m.typ % 256 := by
  simp [header_eq, wireNum_bytesOf]

theorem wireNum_header_flags (m : Sent) : wireNum m.header 1 1 = (if m.resp then 1 else 0) + (if m.refuse.isSome then 2 else 0) := by
  rw [header_eq, wireNum_append _ _ _ (by decide), wireNum_bytesOf]
  split <;> split <;> rfl

theorem wireNum_header_refuse (m : Sent) : wireNum m.header 2 1 = m.refuse.getD 0 % 256 := by
  simp [header_eq, wireNum_append, wireNum_bytesOf]

theorem wireNum_header_prio (m : Sent) : wireNum m.header 3 1 = m.flit.prio.toNat := by
  simp [header_eq, wireNum_append, wireNum_toNat]

theorem wireNum_header_src (m : Sent) : wireNum m.header 4 4 = m.flit.src.toNat := by
  simp [header_eq, wireNum_append, wireNum_toNat]

theorem wireNum_header_dst (m : Sent) : wireNum m.header 8 4 = m.flit.dst.toNat := by
  simp [header_eq, wireNum_append, wireNum_toNat]

theorem wireNum_header_asid (m : Sent) : wireNum m.header 12 2 = m.flit.asid.toNat := by
  simp [header_eq, wireNum_append, wireNum_toNat]

theorem wireNum_header_rows (m : Sent) : wireNum m.header 14 2 = m.flit.rows.length % 2 ^ 16 := by
  simp [header_eq, wireNum_append, wireNum_bytesOf]

theorem wireNum_header_addr (m : Sent) : wireNum m.header 16 8 = m.flit.addr.toNat := by
  simp [header_eq, wireNum_append, wireNum_toNat]

theorem wireNum_header_tag (m : Sent) : wireNum m.header 24 8 = m.flit.tag.toNat := by
  simp [header_eq, wireNum_append, wireNum_toNat]

/-- A field of the body stands 32 bytes further on in the header. -/
theorem wireNum_headerBody (m : Sent) {off n : Nat} (h : off + n ≤ 224) :
    wireNum m.header (32 + off) n = wireNum (headerBody m ++ List.replicate 224 0) off n := by
  rw [← wireNum_drop, header_drop, wireNum_take h]

theorem wireNum_header_handler {m : Sent} (h : m.typ = 3) : wireNum m.header 32 8 = m.flit.handler.toNat := by
  rw [wireNum_headerBody m (off := 0) (by decide), headerBody, h]
  simp [wireNum_toNat]

theorem wireNum_header_atype {m : Sent} (h : m.typ = 5) : wireNum m.header 32 1 = m.flit.atype.toNat := by
  rw [wireNum_headerBody m (off := 0) (by decide), headerBody, h]
  simp [wireNum_toNat]

/-- The body of an ATOMIC as four numbers. -/
theorem headerBody_atomic {m : Sent} (h : m.typ = 4) : headerBody m =
    bytesOf 1 m.flit.aop.toNat ++ (bytesOf 1 m.flit.size.toNat ++ (bytesOf 6 0 ++ bytesOf 8 m.flit.operand.toNat)) := by
  simp only [headerBody, h, bytesOf_one]
  rfl

theorem wireNum_header_aop {m : Sent} (h : m.typ = 4) : wireNum m.header 32 1 = m.flit.aop.toNat := by
  rw [wireNum_headerBody m (off := 0) (by decide), headerBody_atomic h]
  simp [wireNum_toNat]

theorem wireNum_header_size {m : Sent} (h : m.typ = 4) : wireNum m.header 33 1 = m.flit.size.toNat := by
  rw [wireNum_headerBody m (off := 1) (by decide), headerBody_atomic h]
  simp [wireNum_append, wireNum_toNat]

theorem wireNum_header_operand {m : Sent} (h : m.typ = 4) : wireNum m.header 40 8 = m.flit.operand.toNat := by
  rw [wireNum_headerBody m (off := 8) (by decide), headerBody_atomic h]
  simp [wireNum_append, wireNum_toNat]

/-- The body of a command or an event, as far as the flit holds it. -/
theorem header_body {m : Sent} (h : m.typ = 6) : (m.header.drop 32).take m.body.length = m.body.take 224 := by
  have hb : headerBody m = m.body := by simp only [headerBody, h]
  rw [header_drop, hb, List.take_take, List.take_append_of_le_length (by simp), List.take_eq_take_iff]
  omega

/-! ### A header read back -/

/-- The transaction that a header of a transaction gives has the fields that were laid out. -/
theorem wireFlit_header (m : Sent) : let f := wireFlit m.header m.flit.rows
    f.src = m.flit.src ∧ f.dst = m.flit.dst ∧ f.asid = m.flit.asid ∧ f.addr = m.flit.addr ∧ f.tag = m.flit.tag ∧
    f.prio = m.flit.prio ∧ f.rows = m.flit.rows ∧ (m.typ = 3 → f.handler = m.flit.handler) ∧
    (m.typ = 4 → f.aop = m.flit.aop ∧ f.size = m.flit.size ∧ f.operand = m.flit.operand) ∧ (m.typ = 5 → f.atype = m.flit.atype) := by
  refine ⟨?_, ?_, ?_, ?_, ?_, ?_, rfl, fun h => ?_, fun h => ⟨?_, ?_, ?_⟩, fun h => ?_⟩
  · simp [wireFlit, wireNum_header_src]
  · simp [wireFlit, wireNum_header_dst]
  · simp [wireFlit, wireNum_header_asid]
  · simp [wireFlit, wireNum_header_addr]
  · simp [wireFlit, wireNum_header_tag]
  · simp [wireFlit, wireNum_header_prio]
  · simp [wireFlit, wireNum_header_handler h]
  · simp [wireFlit, wireNum_header_aop h]
  · simp [wireFlit, wireNum_header_size h]
  · simp [wireFlit, wireNum_header_operand h]
  · simp [wireFlit, wireNum_header_atype h]

/-- The instruction of a transaction by its type, from 1 to 5 (R327). -/
def arrivalOf (typ : Nat) (f : Flit) : Instr :=
  match typ with
  | 1 => .receivePut f
  | 2 => .receiveGet f
  | 3 => .receivePuth f
  | 4 => .receiveAtomic f
  | _ => .receiveCollective f

theorem wireInstr_header {m : Sent} (hr : m.resp = false) (hl : m.flit.rows.length < 2 ^ 16) (h0 : m.typ ≠ 0) (h6 : m.typ < 6) :
    wireInstr m.header m.flit.rows = some (arrivalOf m.typ (wireFlit m.header m.flit.rows)) := by
  have ht : m.typ % 256 = m.typ := Nat.mod_eq_of_lt (by omega)
  have hf : wireNum m.header 1 1 % 2 ≠ 1 := by
    rw [wireNum_header_flags, hr]
    cases m.refuse <;> simp
  unfold wireInstr
  simp only [wireNum_header_typ, wireNum_header_rows, header_length, ht, Nat.mod_eq_of_lt hl]
  rw [if_neg (by simp), if_neg (by omega), if_neg (by omega), if_neg hf]
  generalize m.typ = n at h0 h6 ⊢
  match n, h0, h6 with
  | 1, _, _ | 2, _, _ | 3, _, _ | 4, _, _ | 5, _, _ => rfl

/-! ### Refusals leave only last uses (R311) -/

/-- What a model context holds besides its last use. -/
def Model.kept (m : Model) : BitVec 12 × ModelDef × Swap × Option HostCmd × List Nat := (m.asid, m.defn, m.swap, m.cmd, m.leaving)

/-- t is s but for the last uses of model contexts. -/
def OnlyLastUse (s t : State) : Prop := ∃ ms, t = { s with models := ms } ∧ ms.map Model.kept = s.models.map Model.kept

theorem OnlyLastUse.refl (s : State) : OnlyLastUse s s := ⟨s.models, rfl, rfl⟩

theorem OnlyLastUse.trans {s t u : State} (h : OnlyLastUse s t) (h' : OnlyLastUse t u) : OnlyLastUse s u := by
  obtain ⟨ms, rfl, hms⟩ := h
  obtain ⟨ns, rfl, hns⟩ := h'
  exact ⟨ns, rfl, hns.trans hms⟩

theorem OnlyLastUse.noteSeg (s : State) (a : BitVec 12) (i : Nat) : OnlyLastUse s (s.noteSeg a i) := by
  refine ⟨_, rfl, ?_⟩
  rw [List.map_map]
  refine List.map_congr_left fun m _ => ?_
  rw [Function.comp_apply]
  split <;> rfl

theorem OnlyLastUse.noteXlat (s : State) (k : Core) (a : BitVec 12) (va : Nat) : OnlyLastUse s (s.noteXlat k a va) := by
  unfold State.noteXlat
  split
  · exact .noteSeg s a _
  · exact .refl s

theorem OnlyLastUse.noteVas (s : State) (a : BitVec 12) (acc : AccKind) (l : List Nat) : OnlyLastUse s (s.noteVas a acc l) := by
  induction l generalizing s with
  | nil => exact .refl s
  | cons va l ih =>
    unfold State.noteVas
    split
    · exact (OnlyLastUse.noteXlat s _ a va).trans (ih _)
    · exact .noteXlat s _ a va

theorem OnlyLastUse.refused (s : State) (typ : Nat) (t : Flit) (c : Nat) : OnlyLastUse s (s.refused typ t c) := by
  unfold State.refused
  dsimp only
  split
  · exact .noteVas _ _ _ _
  · split
    · exact .noteVas _ _ _ _
    · exact .refl s

/-- Only a translation that fails, or one that leads to another tier, leaves anything. -/
theorem refused_eq {typ : Nat} {t : Flit} {c : Nat} (h : typ = 3 ∨ typ = 4 ∧ c ≠ 5 ∧ c ≠ 7 ∨ c ≠ 2 ∧ c ≠ 5 ∧ c ≠ 7) : s.refused typ t c = s := by
  unfold State.refused
  dsimp only
  rw [if_neg (by omega), if_neg (by omega)]

/-! ### Arrivals (R327 to R330) -/

/-- A transaction for a module in service. -/
theorem arrives_eq {t : Flit} (h1 : s.firm.st = .ready) (h2 : t.dst = s.firm.node) : s.arrives t = true := by
  simp [State.arrives, h1, h2]

theorem not_arrives {t : Flit} (h : ¬ (s.firm.st = .ready ∧ t.dst = s.firm.node)) : s.arrives t = false := by
  simpa [State.arrives] using h

theorem receive_elsewhere {typ : Nat} {t : Flit} {r : Recv} (h : ¬ (s.firm.st = .ready ∧ t.dst = s.firm.node)) :
    receive s typ t r = .next s := by
  simp [receive, not_arrives h]

theorem receive_held {typ : Nat} {t : Flit} (h1 : s.firm.st = .ready) (h2 : t.dst = s.firm.node) :
    receive s typ t (.ok none) = .next s := by
  simp [receive, arrives_eq h1 h2]

/-- The transactions that arrive and take effect by rows: the word, the type, and what the receiver does. -/
def arrivals (s : State) (t : Flit) : List (Instr × Nat × Recv) :=
  [(.receivePut t, 1, s.recvPut t), (.receiveGet t, 2, s.recvGet t), (.receivePuth t, 3, s.recvPuth t),
   (.receiveCollective t, 5, s.recvCollective t)]

theorem forall_arrivals {t : Flit} {P : Instr × Nat × Recv → Prop} : (∀ p ∈ arrivals s t, P p) ↔
    P (.receivePut t, 1, s.recvPut t) ∧ P (.receiveGet t, 2, s.recvGet t) ∧ P (.receivePuth t, 3, s.recvPuth t) ∧
    P (.receiveCollective t, 5, s.recvCollective t) := by
  simp [arrivals]

theorem exec_arrival {t : Flit} : ∀ p ∈ arrivals s t, exec p.1 s = receive s p.2.1 t p.2.2 :=
  forall_arrivals.mpr ⟨rfl, rfl, rfl, rfl⟩

theorem refusal_noSpace {a : BitVec 12} (h : ¬ (s.space a).isSome = true) : s.refusal a = some 3 := by
  simp_all [State.refusal]

theorem refusal_armed {a : BitVec 12} (h : (s.space a).isSome = true) (h' : s.gangs.any (·.rec_.asid == a) = true) :
    s.refusal a = some 6 := by
  rw [State.refusal, if_neg (by simpa using Option.isSome_iff_ne_none.mp h), if_pos h']

theorem refusal_none {a : BitVec 12} (h : (s.space a).isSome = true) (h' : ¬ s.gangs.any (·.rec_.asid == a) = true) :
    s.refusal a = none := by
  rw [State.refusal, if_neg (by simpa using Option.isSome_iff_ne_none.mp h), if_neg h']

/-- A module that refuses an address space refuses every transaction for it. -/
theorem arrival_refusal {t : Flit} {c : Nat} (h : s.refusal t.asid = some c) : ∀ p ∈ arrivals s t, p.2.2 = .error c := by
  refine forall_arrivals.mpr ⟨?_, ?_, ?_, ?_⟩
  · simp [State.recvPut, h]
  · simp [State.recvGet, h]
  · simp [State.recvPuth, h]
  · simp [State.recvCollective, h]

section
variable {t : Flit} (h1 : s.firm.st = .ready) (h2 : t.dst = s.firm.node)
include h1 h2

theorem exec_arrival_error {c : Nat} : ∀ p ∈ arrivals s t, p.2.2 = .error c →
    exec p.1 s = .next ((s.refused p.2.1 t c).answer (answerType p.2.1) t (some c) []) := fun p hp hc => by
  rw [exec_arrival p hp, hc, receive_refused h1 h2]

theorem exec_arrival_ok {u : State} {rows : List Row} : ∀ p ∈ arrivals s t, p.2.2 = .ok (some (u, rows)) →
    exec p.1 s = .next (u.answer (answerType p.2.1) t none rows) := fun p hp hc => by
  rw [exec_arrival p hp, hc, receive_done h1 h2]

theorem exec_arrival_held : ∀ p ∈ arrivals s t, p.2.2 = .ok none → exec p.1 s = .next s := fun p hp hc => by
  rw [exec_arrival p hp, hc, receive_held h1 h2]

/-- Refused for its address space, a transaction leaves nothing. -/
theorem exec_arrival_refusal {c : Nat} (hc : s.refusal t.asid = some c) (h : c ≠ 2 ∧ c ≠ 5 ∧ c ≠ 7) : ∀ p ∈ arrivals s t,
    exec p.1 s = .next (s.answer (answerType p.2.1) t (some c) []) := fun p hp => by
  rw [exec_arrival_error h1 h2 p hp (arrival_refusal hc p hp), refused_eq (.inr (.inr h))]

/-! #### Performed (R176, R244, R245, R259, R328, R330) -/

theorem exec_receivePut {ps : List (Nat × Nat × Loc)} {u v : State} (hr : s.refusal t.asid = none)
    (hp : s.recvPlaces t t.rows.length .write = .ok (ps, u))
    (hl : u.landEverywhere (ps.flatMap fun (i, k, l) => match l with
      | .mem pa => cellsAt pa (sectorBytes (t.rows.getD i 0) k)
      | _ => []) = some v) : exec (.receivePut t) s = .next (v.answer 1 t none []) := by
  have hv : s.recvPut t = .ok (some (v, [])) := by
    unfold State.recvPut
    rw [hr]
    dsimp only
    rw [hp]
    exact congrArg (fun o : Option State => Except.ok (o.map fun s => (s, []))) hl
  exact exec_arrival_ok h1 h2 (.receivePut t, 1, s.recvPut t) (by simp [arrivals]) hv

theorem exec_receiveGet {ps : List (Nat × Nat × Loc)} {u : State} (hr : s.refusal t.asid = none)
    (hp : s.recvPlaces t t.nrows .read = .ok (ps, u)) :
    exec (.receiveGet t) s = .next (u.answer 1 t none ((List.range t.nrows).map fun i =>
      BitVec.ofNat 2048 (((ps.filter (·.1 == i)).map fun (_, k, l) => u.recvRead l <<< (256 * k)).foldr (· + ·) 0))) := by
  refine exec_arrival_ok h1 h2 (.receiveGet t, 2, s.recvGet t) (by simp [arrivals]) ?_
  dsimp only
  unfold State.recvGet
  rw [hr]
  dsimp only
  rw [hp]
  rfl

theorem exec_receiveCollective {ps : List (Nat × Nat × Loc)} {u v : State} (hr : s.refusal t.asid = none)
    (hp : s.recvPlaces t t.rows.length .write = .ok (ps, u)) (hd : ps.all (fun p => inShared p.2.2) = true)
    (hl : ps.foldlM (fun (s : State) p => s.addSector t p) u = some v) :
    exec (.receiveCollective t) s = .next (v.answer 5 t none []) := by
  refine exec_arrival_ok h1 h2 (.receiveCollective t, 5, s.recvCollective t) (by simp [arrivals]) ?_
  dsimp only
  unfold State.recvCollective
  rw [hr]
  dsimp only
  rw [hp]
  dsimp only
  rw [if_pos hd, hl]
  rfl

end

section
variable {t : Flit} (h1 : s.firm.st = .ready) (h2 : t.dst = s.firm.node)
include h1 h2

/-- The core that a PUTH names. -/
def puthCore (t : Flit) : CoreId := ⟨fieldNat t.addr 38 7, BitVec.isLt _⟩

/-- The row of the message region at which a PUTH's payload begins. -/
def puthRow (t : Flit) : Nat := fieldNat t.addr 8 13

theorem exec_receivePuth_outside (hr : s.refusal t.asid = none)
    (h : (s.core (puthCore t)).msgnNew ≠ [] ∨ (s.core (puthCore t)).msgn = 0 ∨
      (s.core (puthCore t)).msgn * 256 < puthRow t + t.rows.length) :
    exec (.receivePuth t) s = .next (s.answer 3 t (some 2) []) := by
  have hv : s.recvPuth t = .error 2 := by
    unfold State.recvPuth
    rw [hr]
    exact if_pos h
  have := exec_arrival_error h1 h2 (.receivePuth t, 3, s.recvPuth t) (by simp [arrivals]) hv
  rwa [refused_eq (.inl rfl)] at this

/-- The continuation of a PUTH. -/
def puthQRec (s : State) (t : Flit) : QRec :=
  { rec_ := puthRec t.handler (puthRow t * 256) (puthCore t).val t.prio, asid := t.asid, stamp := s.firm.us, priv := false,
    level := t.prio.toNat, puth := true }

/-- The payload of a PUTH, landed. -/
def puthLand (s : State) (t : Flit) : State :=
  s.setCore (puthCore t) (t.rows.zipIdx.foldl (fun k (v, i) => k.putRow (puthRow t + i) v) (s.core (puthCore t)))

theorem exec_receivePuth_inside (hr : s.refusal t.asid = none) (hn : (s.core (puthCore t)).msgnNew = [])
    (h0 : (s.core (puthCore t)).msgn ≠ 0) (hl : puthRow t + t.rows.length ≤ (s.core (puthCore t)).msgn * 256) :
    exec (.receivePuth t) s = .next (if s.pushHeld (puthCore t) (puthQRec s t) then s
      else ((puthLand s t).pushChecked (puthCore t) (puthQRec s t) (s.vc[dieOf (puthCore t)]).toList).answer 3 t none []) := by
  have hv : s.recvPuth t = if s.pushHeld (puthCore t) (puthQRec s t) then .ok none
      else .ok (some ((puthLand s t).pushChecked (puthCore t) (puthQRec s t) (s.vc[dieOf (puthCore t)]).toList, [])) := by
    unfold State.recvPuth
    rw [hr]
    refine if_neg ?_
    rintro (h | h | h)
    · exact h hn
    · exact h0 h
    · exact absurd hl (Nat.not_le.mpr h)
  by_cases hh : s.pushHeld (puthCore t) (puthQRec s t) = true
  · rw [if_pos hh] at hv ⊢
    exact exec_arrival_held h1 h2 (.receivePuth t, 3, s.recvPuth t) (by simp [arrivals]) hv
  · rw [if_neg hh] at hv ⊢
    exact exec_arrival_ok h1 h2 (.receivePuth t, 3, s.recvPuth t) (by simp [arrivals]) hv

/-! #### A host's ATOMIC (R328) -/

theorem exec_receiveAtomic_error {c : Nat} (h : s.recvAtomic t = .error c) :
    exec (.receiveAtomic t) s = .next ((s.refused 4 t c).answer 4 t (some c) []) := by
  change execReceiveAtomic t s = _
  simp only [execReceiveAtomic, arrives_eq h1 h2, h, Bool.not_true, Bool.false_eq_true, if_false]

theorem exec_receiveAtomic_ok {u : State} {old : Nat} (h : s.recvAtomic t = .ok (some (u, old))) :
    exec (.receiveAtomic t) s = .next (u.answer 4 t none [] old) := by
  change execReceiveAtomic t s = _
  simp only [execReceiveAtomic, arrives_eq h1 h2, h, Bool.not_true, Bool.false_eq_true, if_false]

/-- Refused before its translation, an ATOMIC leaves nothing. -/
theorem exec_receiveAtomic_reject {c : Nat} (h : s.recvAtomic t = .error c) (h' : c ≠ 5 ∧ c ≠ 7) :
    exec (.receiveAtomic t) s = .next (s.answer 4 t (some c) []) := by
  rw [exec_receiveAtomic_error h1 h2 h, refused_eq (.inr (.inl ⟨rfl, h'⟩))]

end

theorem exec_receiveAtomic_elsewhere {t : Flit} (h : ¬ (s.firm.st = .ready ∧ t.dst = s.firm.node)) :
    exec (.receiveAtomic t) s = .next s := by
  change execReceiveAtomic t s = _
  simp [execReceiveAtomic, not_arrives h]

theorem recvAtomic_noSpace {t : Flit} (h : ¬ (s.space t.asid).isSome = true) : s.recvAtomic t = .error 3 := by
  unfold State.recvAtomic
  exact if_pos (by simpa using h)

/-- The fields of an ATOMIC that R328 does not allow. -/
def BadAtomic (t : Flit) : Prop :=
  t.resv = true ∨ 10 ≤ t.aop.toNat ∨ t.size.toNat < 2 ∨ 3 < t.size.toNat ∨ (t.aop ≠ 9 ∧ t.cmp ≠ 0)

theorem recvAtomic_fields {t : Flit} (h : (s.space t.asid).isSome = true) (h' : BadAtomic t) : s.recvAtomic t = .error 8 := by
  unfold State.recvAtomic
  exact (if_neg (by simpa using Option.isSome_iff_ne_none.mp h)).trans (if_pos h')

theorem not_badAtomic {t : Flit} (h1 : t.resv = false) (h2 : t.aop.toNat < 10) (h3 : t.size = 2 ∨ t.size = 3)
    (h4 : t.aop = 9 ∨ t.cmp = 0) : ¬ BadAtomic t := by
  rintro (h | h | h | h | h)
  · simp [h1] at h
  · exact absurd h2 (Nat.not_lt.mpr h)
  · rcases h3 with h3 | h3 <;> simp [h3] at h
  · rcases h3 with h3 | h3 <;> simp [h3] at h
  · exact h4.elim h.1 h.2

/-- Where an ATOMIC's address is translated. -/
def atomicXlat (s : State) (t : Flit) : Except Xlat (Loc × State) :=
  s.recvXlat t.asid (t.addr.toNat / 2 ^ t.size.toNat * 2 ^ t.size.toNat) .write

section
variable {t : Flit} (h : (s.space t.asid).isSome = true) (h' : ¬ BadAtomic t)
include h h'

theorem recvAtomic_noPlace {e : Xlat} (hx : atomicXlat s t = .error e) : s.recvAtomic t = .error 7 := by
  unfold State.recvAtomic
  refine ((if_neg (by simpa using Option.isSome_iff_ne_none.mp h)).trans (if_neg h')).trans ?_
  rw [atomicXlat] at hx
  rw [hx]

theorem recvAtomic_tier {pa : Nat} {u : State} (hx : atomicXlat s t = .ok (.mem pa, u)) (hp : pa < dsmBase) :
    s.recvAtomic t = .error 5 := by
  unfold State.recvAtomic
  refine ((if_neg (by simpa using Option.isSome_iff_ne_none.mp h)).trans (if_neg h')).trans ?_
  rw [atomicXlat] at hx
  rw [hx]
  exact if_pos hp

theorem recvAtomic_done {pa old : Nat} {u v : State} (hx : atomicXlat s t = .ok (.mem pa, u)) (hp : dsmBase ≤ pa)
    (hb : u.bankOp (homeDie pa) pa (2 ^ t.size.toNat) none
      (fun old => amoValue t.aop.toNat (8 * 2 ^ t.size.toNat) old (t.operand.toNat % 2 ^ (8 * 2 ^ t.size.toNat))
        (t.cmp.toNat % 2 ^ (8 * 2 ^ t.size.toNat)))
      (fun old => amoWrites t.aop.toNat old (t.cmp.toNat % 2 ^ (8 * 2 ^ t.size.toNat))) = some (old, v)) :
    s.recvAtomic t = .ok (some (v, old)) := by
  unfold State.recvAtomic
  refine ((if_neg (by simpa using Option.isSome_iff_ne_none.mp h)).trans (if_neg h')).trans ?_
  rw [atomicXlat] at hx
  rw [hx]
  refine (if_neg (Nat.not_lt.mpr hp)).trans ?_
  dsimp only
  rw [hb]
  rfl

end

/-! ### Events (R336) -/

theorem eventBody_length (code n : Nat) (args : List Nat) : (eventBody code n args).length = 224 := by
  simp [eventBody, eventArgs]

theorem eventBody_take (code n : Nat) (args : List Nat) : (eventBody code n args).take 4 = [0, BitVec.ofNat 8 code, 2, 0] := by
  rw [eventBody, List.append_assoc, List.take_append_of_le_length (Nat.le_refl 4)]
  rfl

theorem send_outbox (s : State) (code : Nat) (args : List Nat) : (s.send code args).outbox = s.outbox ++
    (if s.firm.st = .ready then s.firm.hosts else []).map fun h =>
      { typ := 6, flit := { src := s.firm.node, dst := h, asid := 0, addr := 0, tag := 0 },
        body := eventBody code s.firm.evCount args, args := args } := rfl

theorem send_outbox_quiet {code : Nat} {args : List Nat} (h : s.firm.st ≠ .ready) : (s.send code args).outbox = s.outbox := by
  rw [send_outbox, if_neg h, List.map_nil, List.append_nil]

/-- In service, the event leaves once for each host. -/
theorem send_outbox_ready {code : Nat} {args : List Nat} (h : s.firm.st = .ready) :
    ∃ l, (s.send code args).outbox = s.outbox ++ l ∧ l.map (·.flit.dst) = s.firm.hosts ∧ ∀ m ∈ l, m.typ = 6 ∧ m.resp = false ∧
      m.flit.src = s.firm.node ∧ m.body.length = 224 ∧ m.body.take 4 = [0, BitVec.ofNat 8 code, 2, 0] := by
  rw [send_outbox, if_pos h]
  refine ⟨_, rfl, ?_, fun m hm => ?_⟩
  · rw [List.map_map]
    exact List.map_id _
  · obtain ⟨d, -, rfl⟩ := List.mem_map.mp hm
    exact ⟨rfl, rfl, rfl, eventBody_length _ _ _, eventBody_take _ _ _⟩

theorem exec_rxbad (src : BitVec 19) (code : Byte) : exec (.rxbad src code) s =
    .next (if s.firm.st = .ready ∧ (code = 0 ∨ 7 ≤ code.toNat) then s.send 0x17 [src.toNat, code.toNat] else s) := by
  change execRxbad src code s = _
  unfold execRxbad
  split <;> rfl

/-! ### Answers (R327, R329, R339) -/

section
variable {tag : Word} {t : Txn} (ht : s.txn tag = some t)
include ht

theorem exec_receiveAnswer_rows (hd : t.flit.dst ≠ s.firm.node) (rows : List Row) :
    exec (.receiveAnswer tag none rows) s = .next (s.setTxn { t with reply := some rows }) := by
  change execReceiveAnswer tag none rows s = _
  unfold execReceiveAnswer
  rw [ht]
  exact if_neg hd

theorem exec_receiveAnswer_again (hd : t.flit.dst ≠ s.firm.node) (rows : List Row) :
    exec (.receiveAnswer tag (some 6) rows) s = .next (s.resend { t with since := some (t.since.getD s.firm.us) }) := by
  change execReceiveAnswer tag (some 6) rows s = _
  unfold execReceiveAnswer
  rw [ht]
  exact (if_neg hd).trans (if_pos rfl)

theorem exec_receiveAnswer_refused (hd : t.flit.dst ≠ s.firm.node) (rows : List Row) {c : Byte} (hc : c ≠ 6) :
    exec (.receiveAnswer tag (some c) rows) s = .next (s.txnFault t c.toNat) := by
  change execReceiveAnswer tag (some c) rows s = _
  unfold execReceiveAnswer
  rw [ht]
  exact (if_neg hd).trans (if_neg hc)

theorem exec_fabricTimeout_late (hd : t.flit.dst ≠ s.firm.node) (hl : s.firm.ftout ≤ s.firm.us - t.sent) :
    exec (.fabricTimeout tag) s = .next (s.txnFault t 1) := by
  change execFabricTimeout tag s = _
  unfold execFabricTimeout
  rw [ht]
  exact if_pos ⟨hd, hl⟩

theorem exec_fabricTimeout_early (hl : s.firm.us - t.sent < s.firm.ftout) : exec (.fabricTimeout tag) s = .next s := by
  change execFabricTimeout tag s = _
  unfold execFabricTimeout
  rw [ht]
  exact if_neg fun h => Nat.not_le.mpr hl h.2

theorem exec_gangRetryTimeout_late {u : Nat} (hu : t.since = some u) (hl : s.firm.ftout ≤ s.firm.us - u) :
    exec (.gangRetryTimeout tag) s = .next (s.txnFault t 6 fun x => { x with pendE := x.pendE ++
      [{ code := .timeout, cls := .e, event := BitVec.ofNat 64 t.flit.dst.toNat }] }) := by
  change execGangRetryTimeout tag s = _
  unfold execGangRetryTimeout
  rw [ht]
  dsimp only
  rw [hu]
  exact if_pos hl

end

/-- A run of the collective engine that stops with REMOTE (R329). -/
def remoteStop (r : Run) (detail : Byte) : Run :=
  { r.restart with fault := some { code := .remote, cls := .a, detail := detail, eng := some .tlc, num := r.q.num } }

/-- Causes added at the end of those that pend. -/
def addPend (l : List Cause) (x : Ctx) : Ctx := { x with pendE := x.pendE ++ l }

theorem addPend_nil : addPend [] = id := funext fun x => by rw [addPend, List.append_nil, id]

theorem txnFault_stops {t : Txn} {x : Ctx} {r : Run} (hx : s.ctxAt t.core t.bank = some x)
    (hr : (x.runs.find? fun r => r.ctr == .tlc && r.q.num == t.num) = some r) (detail : Byte) (l : List Cause) :
    s.txnFault t detail.toNat (addPend l)
      = (s.setCtxAt t.core t.bank (some (addPend l (x.setRun (remoteStop r detail))))).dropTxn t.flit.tag := by
  have hc : r.ctr = .tlc := by
    have := List.find?_some hr
    simp only [Bool.and_eq_true, beq_iff_eq] at this
    exact this.1
  unfold State.txnFault
  rw [hx]
  dsimp only
  rw [hr]
  simp only [hc, BitVec.ofNat_toNat, BitVec.setWidth_eq]
  rfl

/-! ### Gangs that expire (R338) -/

theorem exec_gangexp {n : Nat} {g : Gang} (hg : s.gangs.find? (·.num == n) = some g) : exec (.gangexp n) s =
    .next (if g.armus ≤ s.firm.us - g.since then (s.disarm g).send 0x18 [n] else s) := by
  change execGangexp n s = _
  unfold execGangexp
  rw [hg]
  simp only [State.expired, decide_eq_true_eq]
  split <;> rfl

theorem disarm_gangs (s : State) (g : Gang) : ∀ p ∈ (s.disarm g).gangs, p.num ≠ g.num := fun p hp => by
  simpa using (List.mem_filter.mp (show p ∈ s.gangs.filter (·.num != g.num) from hp)).2

theorem disarm_reserved (s : State) (g : Gang) : ∀ v ∈ ((s.disarm g).core g.core).reserved, v.gang ≠ g.num := fun v hv => by
  unfold State.disarm at hv
  rw [setCore_core, if_pos rfl] at hv
  simpa using (List.mem_filter.mp hv).2

/-- Settles O56, a lemma for each clause: what arrives, what refusals and answers leave, the header's bytes and their reading, events,
answers with the two timeouts, and gangs that expire. -/
theorem fabricEvents : Obligations.FabricEvents := by
  unfold Obligations.FabricEvents
  refine ⟨fun s t => ⟨fun h => ⟨fun p hp => ?_, exec_receiveAtomic_elsewhere h⟩, fun h1 h2 => ⟨fun hs => ⟨?_, ?_⟩, fun hs ha => ?_,
      fun p hp u rows => exec_arrival_ok h1 h2 p hp, fun p hp c => exec_arrival_error h1 h2 p hp, exec_arrival_held h1 h2,
      fun hs ha => ?_, fun hs hf => ?_, fun hs hv ho hz hc => ?_⟩⟩,
    OnlyLastUse.refused, fun s typ t c rows old => ⟨_, rfl, rfl, rfl, rfl, rfl, rfl, rfl, rfl, rfl⟩,
    fun m => ?_, fun m hr hl => ⟨wireFlit m.header m.flit.rows, ?_, wireFlit_header m⟩,
    fun s code args => ⟨rfl, SameMemory.refl s, rfl, send_outbox_quiet, send_outbox_ready⟩, fun s => exec_rxbad,
    fun s tag t ht hd => ⟨exec_receiveAnswer_rows ht hd, exec_receiveAnswer_again ht hd, fun x r hx hr => ⟨fun rows c hc => ?_,
      fun hl => ?_, fun u hu hl => ?_⟩, exec_fabricTimeout_early ht⟩,
    fun s n g hg => ⟨exec_gangexp hg, disarm_gangs s g, disarm_reserved s g⟩⟩
  · rw [exec_arrival p hp, receive_elsewhere h]
  · exact exec_arrival_refusal h1 h2 (refusal_noSpace hs) (by decide)
  · exact exec_receiveAtomic_reject h1 h2 (recvAtomic_noSpace hs) (by decide)
  · exact exec_arrival_refusal h1 h2 (refusal_armed hs ha) (by decide)
  · have hr := refusal_none hs ha
    exact ⟨fun ps u v => exec_receivePut h1 h2 hr, fun ps u => exec_receiveGet h1 h2 hr,
      ⟨exec_receivePuth_outside h1 h2 hr, exec_receivePuth_inside h1 h2 hr⟩, fun ps u v => exec_receiveCollective h1 h2 hr⟩
  · exact exec_receiveAtomic_reject h1 h2 (recvAtomic_fields hs hf) (by decide)
  · have hb := not_badAtomic hv ho hz hc
    exact ⟨fun e he => exec_receiveAtomic_error h1 h2 (recvAtomic_noPlace hs hb he), fun pa u hx =>
      ⟨fun hp => exec_receiveAtomic_error h1 h2 (recvAtomic_tier hs hb hx hp),
        fun hp old v hb' => exec_receiveAtomic_ok h1 h2 (recvAtomic_done hs hb hx hp hb')⟩⟩
  · exact ⟨header_length m, wireNum_header_typ m, wireNum_header_flags m, wireNum_header_refuse m, wireNum_header_prio m,
      wireNum_header_src m, wireNum_header_dst m, wireNum_header_asid m, wireNum_header_rows m, wireNum_header_addr m,
      wireNum_header_tag m, wireNum_header_handler, wireNum_header_operand, header_body⟩
  · split
    case h_6 => rfl
    all_goals rename_i h; rw [wireInstr_header hr hl (by omega) (by omega), h]; rfl
  · rw [exec_receiveAnswer_refused ht hd rows hc, ← addPend_nil]
    exact congrArg _ (txnFault_stops hx hr c [])
  · rw [exec_fabricTimeout_late ht hd hl, ← addPend_nil]
    exact congrArg _ (txnFault_stops hx hr 1 [])
  · rw [exec_gangRetryTimeout_late ht hu hl]
    exact congrArg _ (txnFault_stops hx hr 6 _)

end Sys2Proof
end

section
/-! SUPPORT. A step of the control core inside a section. -/

namespace Sys2Proof

open Sys2Proof.Machine
variable {s : State}

/-! ### The control core's turn at a word (R14, R43, R91) -/

/-- Only a turn of the X queue withholds results. -/
theorem withhold_control {c : CoreId} {b : BankId} (h : s.turn = .control c b) (t : State) : s.withhold t = t := by
  unfold State.withhold
  rw [h]

/-- The choice of the next context reads neither the turn nor the unit that executes. -/
theorem switchTarget_turnState (s : State) (c d : CoreId) (b : BankId) (u : Unit_) :
    (turnState s c b u).switchTarget d = s.switchTarget d := rfl

/-- What the control core's turn runs is what the step runs. -/
theorem step_control {c : CoreId} {b : BankId} {i : Instr} {t : State} (h : s.turn = .control c b)
    (hr : controlTurn (turnState s c b .ctl) = .run i t) : step s = exec i t := by
  have hb : s.begin = .run i t := by
    unfold State.begin
    rw [h]
    exact hr
  unfold step
  rw [hb]
  dsimp only
  cases exec i t with
  | next u => exact congrArg _ (withhold_control h u)
  | fault f => rfl
  | refused r => rfl

/-- The active context, with nothing that keeps it from its next word, is at that word. -/
theorem controlTurn_inside {x : Ctx} {k : CtlSec} (hx : s.ctx? = some x) (ha : s.myCore.active = some s.cur.bank)
    (hf : x.fatal = none) (hm : x.midClk = false) (hp : x.parking = true → x.midWord = true)
    (hs : s.switchTarget s.cur.core = none) (hb : x.midWord = false → x.boundary = none) (he : x.ending = false)
    (hc : x.ctl.phase = .inside) (hk : x.ctl.sec = some k) : controlTurn s = insideSection s x k := by
  have hstop : x.parkStop = false := by
    unfold Ctx.parkStop
    cases h : x.parking with
    | false => rfl
    | true => simp [hp h, he]
  have hbound : (if x.midWord = true then none else x.boundary) = none := by
    split
    · rfl
    next hw => exact hb (Bool.eq_false_of_not_eq_true hw)
  simp only [controlTurn, hx, hf, ha, hm, hstop, hs, Option.isSome_none, ne_eq, not_true_eq_false, decide_false, Bool.or_self,
    Bool.false_eq_true, if_false, controlTurn.controlWord, hbound, he, hc, hk]

/-- A word that has issued goes on. -/
theorem insideSection_issued {x : Ctx} {k : CtlSec} {h : Issued} {i : Instr} (hi : x.issue = some h) (hd : decode h.word = some i) :
    insideSection s x k = .run i s := by
  simp [insideSection, hi, hd]

/-- A code fetch leaves the executing unit as it is. -/
theorem fetch_cur {c : CoreId} {a : BitVec 12} {since n m : Nat} {va : Word} {t : State} (h : s.fetch c a since va n = .ok (m, t)) :
    t.cur = s.cur := by
  unfold State.fetch at h
  dsimp only at h
  split at h
  · split_ifs at h
    · cases h; rfl
    · split at h
      · cases h; rfl
      · cases h
  · cases h

/-- The word behind the fetched one, where that is a REP and its section has one. -/
def repFollower (t : State) (c : CoreId) (x : Ctx) (k : CtlSec) (w : IWord) : Option IWord :=
  if opOf w = 0x1F3 ∧ k.idx + 1 < k.h.len then
    (match t.fetch c x.id.asid x.begun (x.ctl.pc + 12) 12 with | .ok (m, _) => some (BitVec.ofNat 96 m) | .error _ => none)
  else none

/-- A fetched word that passes its checks executes in a C section and is pushed in another. -/
theorem insideSection_fetched {x : Ctx} {k : CtlSec} {n : Nat} {t : State} {i : Instr} (hi : x.issue = none) (hl : k.idx < k.h.len)
    (hf : s.fetch s.cur.core x.id.asid x.begun x.ctl.pc 12 = .ok (n, t))
    (hw : checkWord x k (BitVec.ofNat 96 n) (repFollower t s.cur.core x k (BitVec.ofNat 96 n)) = .ok i) :
    insideSection s x k = if k.h.kind = .c then .run i { t with cur := { t.cur with raw := BitVec.ofNat 96 n } }
      else .run (.wordPush (BitVec.ofNat 96 n)) t := by
  unfold repFollower at hw
  rw [← fetch_cur hf] at hw
  simp only [insideSection, hi, Option.bind_none, hl, if_true, hf]
  rw [← ite_and]
  split
  next e he => exact nomatch he.symm.trans hw
  next j hj =>
    obtain rfl : j = i := Except.ok.inj (hj.symm.trans hw)
    rfl

/-- A word that passes the checks of R43 decodes. -/
theorem decodeIn_ok {k : Kind} {w : IWord} {i : Instr} (h : decodeIn k w = .ok i) : decode w = some i := by
  unfold decodeIn at h
  split at h
  · cases h
  · split at h
    · split at h
      · cases h; assumption
      · cases h
    · cases h

theorem checkWord_ok {x : Ctx} {k : CtlSec} {w : IWord} {next : Option IWord} {i : Instr} (h : checkWord x k w next = .ok i) :
    decode w = some i := by
  unfold checkWord at h
  split at h
  · cases h
  · next j hj =>
    split_ifs at h
    cases h
    exact decodeIn_ok hj

/-- Settles O4: the turn goes to the word at the pc, which has issued, or is fetched and passes its checks. -/
theorem stepRunsControlWord : Obligations.StepRunsControlWord := by
  unfold Obligations.StepRunsControlWord
  intro s c b x k i ht ha hx hf hm hp hs hb he hc hk
  have hturn : controlTurn (turnState s c b .ctl) = insideSection (turnState s c b .ctl) x k :=
    controlTurn_inside hx ha hf hm hp (by rw [switchTarget_turnState]; exact hs) hb he hc hk
  refine ⟨fun h hi hd => step_control ht (hturn.trans (insideSection_issued hi hd)), ?_⟩
  intro w n t hi hl hn hw next hcheck
  subst hw
  have hrun := hturn.trans (insideSection_fetched hi hl hn hcheck)
  refine ⟨checkWord_ok hcheck, ?_⟩
  split
  next hkind => exact step_control ht (by rw [hrun, if_pos hkind])
  next hkind => exact step_control ht (by rw [hrun, if_neg hkind])

end Sys2Proof
end

section
/-! SUPPORT. The registers of a thread that starts. -/

namespace Sys2Proof

open Sys2Proof.Machine

/-! ### Thread start (R12, R71) -/

/-- s1 holds the frame pointer, and every other scalar register zero. -/
theorem rd_start (id : Ident) (r : SReg) : (Ctx.start id).rd r = if r = 1 then fieldOf id.copy.rec_ 64 64 else 0 := by
  by_cases h0 : r = 0
  · subst h0; rfl
  · have h1 : r = 1 ↔ 1 = r.toNat := by rw [← BitVec.toNat_inj]; exact eq_comm
    simp only [Ctx.rd, Ctx.start, if_neg h0, h1, Vector.getElem_set, Vector.getElem_replicate]

/-- Settles O8: each register is an entry of a vector of starting values, and the system registers hold their reset values. -/
theorem threadStart : Obligations.ThreadStart := by
  unfold Obligations.ThreadStart
  intro id
  refine ⟨rfl, rd_start id, fun p => ?_, fun k => ?_, fun e => ?_, fun h => ?_, fun d k => ?_,
    rfl, rfl, rfl, rfl, rfl, rfl, rfl, rfl, rfl, rfl, rfl⟩
  · exact Vector.getElem_replicate p.isLt
  · exact Vector.getElem_replicate k.isLt
  · exact Vector.getElem_replicate e.isLt
  · exact Vector.getElem_replicate h.isLt
  · simp [Ctx.desc, Ctx.start]

end Sys2Proof
end

section
/-! SUPPORT. Loops, repetition and predicates: what the words of R13, R153 to R157 and R159 make of a context. -/

namespace Sys2Proof

open Sys2Proof.Machine
variable {s : State} {x : Ctx} {q : QWord}

/-! ### Words that test bit 0 of their guard (R16) -/

/-- No guard is pending where PENDR finds none (R82). -/
theorem not_pends {g : Guard} (h : x.pendr = true → x.guardPending g = false) : (x.pendr && x.guardPending g) = false := by
  cases hr : x.pendr with
  | false => rfl
  | true => exact h hr

/-- A word of the X queue that tests bit 0 of its guard is its effect where that passes and no register is pending. -/
theorem xWord0_runs {g : Guard} {es : List EReg} {k : Ctx → QWord → Out} (h : XRuns s g [] [] es x q) (hg : x.guardOk g = true) :
    xWord0 s g es k = k x q := by
  obtain ⟨hx, hq, hp⟩ := h
  have hreads : XRuns s none [] [] es x q := ⟨hx, hq, fun hr => ⟨rfl, (hp hr).2⟩⟩
  simp only [xWord0, hx, not_pends fun hr => (hp hr).1, hg, Bool.false_eq_true, if_false, if_true]
  exact xReads_runs hreads

/-! ### VLOOP, VEXIT, RRBSET and REP (R154 to R157) -/

/-- VLOOP's test for a bound of 0. -/
theorem anyBoundZero_iff (d : Vector Word 13) : ((List.range 6).any fun j => fieldNat ((d.toList[2 * j + 1]?).getD 0) 0 32 == 0) = true ↔
    ∃ j, j < 6 ∧ ((d.toList[2 * j + 1]?).getD 0).extractLsb' 0 32 = 0 := by
  rw [List.any_eq_true]
  refine exists_congr fun j => and_congr List.mem_range (beq_iff_eq.trans ?_)
  exact BitVec.toNat_inj (y := 0)

/-- VLOOP skips its body where a bound is 0. -/
theorem execVloop_skips {o : EM} (hx : s.ctx? = some x) (hq : s.cur.word = some q)
    (h : ∃ j, j < 6 ∧ ((q.cap.desc.toList[2 * j + 1]?).getD 0).extractLsb' 0 32 = 0) :
    execVloop o s = .next (s.putCtx (({ x.qNext .x with qx := { (x.qNext .x).qx with
      cur := { (x.qNext .x).qx.cur with skip := o.imm.toNat, uid := q.uid } } } : Ctx).xTick)) := by
  simp only [execVloop, hx, hq, (anyBoundZero_iff _).mpr h, if_true]

/-- VLOOP opens its loop where no bound is 0. -/
theorem execVloop_opens {o : EM} (hx : s.ctx? = some x) (hq : s.cur.word = some q)
    (h : ¬ ∃ j, j < 6 ∧ ((q.cap.desc.toList[2 * j + 1]?).getD 0).extractLsb' 0 32 = 0) :
    execVloop o s = .next (s.putCtx (({ x.qNext .x with qx := { (x.qNext .x).qx with cur := { (x.qNext .x).qx.cur with
      loop := some { desc := q.cap.desc, len := o.imm.toNat, rrb := x.sys.rrb, uid := q.uid } } } } : Ctx).xTick)) := by
  have hsome := Bool.eq_false_iff.mpr (mt (anyBoundZero_iff _).mp h)
  simp only [execVloop, hx, hq, hsome, Bool.false_eq_true, if_false]

/-- VEXIT leaves the loop, with RRB as its present iteration found it, and skips what the loop buffer has not taken of the body. -/
theorem execVexit_leaves {o : V4} {l : LoopSt} (h : XRuns s o.g [] [] [] x q) (hg : x.guardOk o.g = true)
    (hl : x.qx.cur.loop = some l) :
    execVexit o s = .next (s.putCtx (({ x with
      sys := { x.sys with rrb := l.rrb }
      qx := { x.qx with cur := { skip := l.len - l.body.length, uid := if l.len ≤ l.body.length then 0 else l.uid } } } : Ctx).xTick)) := by
  unfold execVexit
  rw [xWord0_runs h hg, hl]

/-- RRBSET sets RRB. -/
theorem execRrbset_sets {o : VS} (h : XRuns s o.g [] [] [] x q) (hg : x.guardOk o.g = true) :
    execRrbset o s = .next (s.putCtx (({ x with sys := { x.sys with rrb := (o.imm.extractLsb' 0 12).toNat } } : Ctx).xDone false 0)) :=
  xWord0_runs h hg

/-- REP stands before the word that follows it. -/
theorem execRep_prefixes {o : PX} (hx : s.ctx? = some x) (hq : s.cur.word = some q) :
    let z : Ctx := { x.qNext .x with qx := { (x.qNext .x).qx with
      cur := { (x.qNext .x).qx.cur with rep := some { px := o }, uid := q.uid } } }
    execRep o s = .next (s.putCtx (if o.count = 0 then z.xTick else z)) := by
  simp only [execRep, hx, hq]

/-! ### The nest's positions (R154) -/

/-- The bound of dimension j of a nest. -/
def nestBound (d : Vector Word 13) (j : Nat) : Nat := fieldNat ((d.toList[2 * j + 1]?).getD 0) 0 32

theorem nextPos_go_cons (d : Vector Word 13) (k p : Nat) (ps : List Nat) : nextPos.go d k (p :: ps) =
    if p + 1 < nestBound d k then some ((p + 1) :: ps) else (nextPos.go d (k + 1) ps).map (0 :: ·) := rfl

/-- The first dimension that has not come to its end counts on, and those before it start again. -/
theorem nextPos_go_some (d : Vector Word 13) : ∀ (pos : List Nat) (k j : Nat), j < pos.length →
    pos.getD j 0 + 1 < nestBound d (k + j) → (∀ i, i < j → nestBound d (k + i) ≤ pos.getD i 0 + 1) →
    nextPos.go d k pos = some ((List.range pos.length).map fun i =>
      if i < j then 0 else if i = j then pos.getD j 0 + 1 else pos.getD i 0)
  | [], _, _, hj, _, _ => absurd hj (Nat.not_lt_zero _)
  | p :: ps, k, 0, _, hb, _ => by
    have hrest : ((List.range ps.length).map fun i => ps[i]?.getD 0) = ps :=
      List.ext_getElem (by simp) fun i _ hi => by simp [hi]
    have hp : p + 1 < nestBound d k := hb
    rw [nextPos_go_cons, if_pos hp]
    simp [List.range_succ_eq_map, Function.comp_def, hrest]
  | p :: ps, k, j + 1, hj, hb, hend => by
    have hp : ¬ p + 1 < nestBound d k := Nat.not_lt.mpr (hend 0 (Nat.succ_pos j))
    have ih := nextPos_go_some d ps (k + 1) j (Nat.lt_of_succ_lt_succ hj) (by rwa [Nat.add_right_comm])
      fun i hi => by rw [Nat.add_right_comm]; exact hend (i + 1) (Nat.succ_lt_succ hi)
    rw [nextPos_go_cons, if_neg hp, ih]
    simp [List.range_succ_eq_map, Function.comp_def]

/-- A nest whose every dimension has come to its end has no next position. -/
theorem nextPos_go_none (d : Vector Word 13) : ∀ (pos : List Nat) (k : Nat),
    (∀ i, i < pos.length → nestBound d (k + i) ≤ pos.getD i 0 + 1) → nextPos.go d k pos = none
  | [], _, _ => rfl
  | p :: ps, k, hend => by
    have hp : ¬ p + 1 < nestBound d k := Nat.not_lt.mpr (hend 0 (Nat.succ_pos _))
    have ih := nextPos_go_none d ps (k + 1) fun i hi => by
      rw [Nat.add_right_comm]; exact hend (i + 1) (Nat.succ_lt_succ hi)
    rw [nextPos_go_cons, if_neg hp, ih]
    rfl

/-- The rotation changes RRB only. -/
theorem rotate_eq (x : Ctx) : x.rotate = { x with sys := { x.sys with
    rrb := if x.sys.rotsz = 0 then x.sys.rrb else (x.sys.rrb + x.sys.rotsz - 1) % x.sys.rotsz } } := by
  unfold Ctx.rotate
  split <;> rfl

/-- Within a body the next word follows. -/
theorem qNext_within {l : LoopSt} (hl : x.qx.cur.loop = some l) (h : l.idx + 1 < l.len) :
    x.qNext .x = { x with qx := { x.qx with cur := { x.qx.cur with loop := some { l with idx := l.idx + 1 }, rep := none, uid := 0 } } } := by
  simp only [Ctx.qNext, Ctx.queue, Ctx.setQueue, hl, h, if_true]

/-- After the body's last word the next iteration begins, and RRB rotates. -/
theorem qNext_again {l : LoopSt} {pos : List Nat} (hl : x.qx.cur.loop = some l) (h : l.len ≤ l.idx + 1)
    (hp : nextPos l.desc l.pos = some pos) :
    x.qNext .x = Ctx.rotate { x with qx := { x.qx with cur := { x.qx.cur with
      loop := some { l with idx := 0, pos := pos, rrb := x.sys.rrb }, rep := none, uid := 0 } } } := by
  simp only [Ctx.qNext, Ctx.queue, Ctx.setQueue, hl, Nat.not_lt.mpr h, if_false, hp]

/-- After the last iteration the loop is over. -/
theorem qNext_ends {l : LoopSt} (hl : x.qx.cur.loop = some l) (h : l.len ≤ l.idx + 1) (hp : nextPos l.desc l.pos = none) :
    x.qNext .x = { x with qx := { x.qx with cur := { x.qx.cur with loop := none, rep := none, uid := 0 } } } := by
  simp only [Ctx.qNext, Ctx.queue, Ctx.setQueue, hl, Nat.not_lt.mpr h, if_false, hp]

/-! ### NOP (R13) -/

/-- A NOP of the control core passes its clks. -/
theorem execNop_control {o : C3} (h : CtlRuns s o.g [] x) (hu : ∀ k, s.cur.unit ≠ .queue k) :
    execNop o s = .next (s.ctlDone x ((o.imm.extractLsb' 0 6).toNat + 1)) := by
  unfold execNop
  split
  next k hk => exact absurd hk (hu k)
  next => exact ctlWord_runs h

/-- A NOP of one clk in a queue issues and is over. -/
theorem execNop_queue_one {o : C3} {k : Kind} (h : SyncRuns s o.g x q k) (hn : (o.imm.extractLsb' 0 6).toNat = 0) :
    execNop o s = .next (s.putCtx ((x.qNext k).qTick k)) := by
  obtain ⟨hx, hu, -, -, hp⟩ := h
  simp only [execNop, fieldNat, hu, hx, not_pends hp, hn, Bool.false_eq_true, if_false, decide_true, Bool.true_or, if_true]

/-- A longer one in a queue leaves its further clks to the queue. -/
theorem execNop_queue_more {o : C3} {k : Kind} (h : SyncRuns s o.g x q k) (hn : (o.imm.extractLsb' 0 6).toNat ≠ 0) :
    execNop o s = .next (s.putCtx ((x.setQueue k { (x.queue k) with
      cur := { (x.queue k).cur with nop := (o.imm.extractLsb' 0 6).toNat } }).qTick k)) := by
  obtain ⟨hx, hu, -, hg, hp⟩ := h
  have hone : (fieldNat o.imm 0 6 + 1 = 1) = False := eq_false fun h => hn (Nat.succ.inj h)
  simp only [execNop, hu, hx, not_pends hp, hone, hg, Bool.not_true, decide_false, Bool.or_self, Bool.false_eq_true, if_false,
    Nat.add_sub_cancel]

/-! ### Predicates (R159) -/

/-- A predicate word writes the bits that its guard passes, one clk later. -/
theorem predWord_result {g : Guard} {pd : PReg} {reads : List PReg} {f : Ctx → QWord → BitVec 32} {bit : Nat → Bool}
    (h : XRuns s g [] reads [] x q) (hr : x.room .vec = true) (hb : ∀ i, i < 32 → (f x q).getLsbD i = bit i) :
    ∃ v, predWord s g pd reads f = .next (s.putCtx ((x.withResult q 1 v).xDone false 0)) ∧ WritesPred pd (x.guardBit g) bit v := by
  unfold predWord
  rw [xWord_runs h hr]
  refine ⟨_, xIssue_result .., _, _, rfl, fun i hi => ⟨?_, fun _ => hb i hi⟩⟩
  cases g with
  | none => exact BitVec.getLsbD_allOnes.trans (decide_eq_true hi)
  | some g => cases hv : g.inv <;> simp [Ctx.guardBit, hv, hi]

/-- Counting the numbers below n that pass, in a list and as a set. -/
theorem length_filter_range (p : Nat → Bool) (n : Nat) :
    ((List.range n).filter p).length = (Finset.univ.filter fun i : Fin n => p i = true).card := by
  rw [Finset.card_filter, Fin.sum_univ_eq_sum_range (fun i => if p i = true then 1 else 0), ← Finset.card_filter]
  simp only [Finset.card_def, Finset.filter_val, Finset.range_val, Multiset.range, Multiset.filter_coe, Multiset.coe_card, Bool.decide_eq_true]

/-- SRC of PSET is bit 32 of its immediate. -/
theorem srcBit_eq (o : VS) : o.srcBit = o.imm.getLsbD 32 := by
  have h : fieldOf o.imm 32 1 = BitVec.ofBool (o.imm.getLsbD 32) := by
    ext i hi
    obtain rfl : i = 0 := Nat.lt_one_iff.mp hi
    simp
  unfold VS.srcBit
  rw [h]
  cases o.imm.getLsbD 32 <;> rfl

/-- PPOPC counts the bits that its guard passes. -/
theorem execPpopc_result {o : VS} (h : XRuns s o.g [] [predOf o.va] [] x q) (hr : x.room .vec = true) :
    XResult (.ppopc o) s x q 2 false (.scalar o.sa (BitVec.ofNat 64 (Finset.univ.filter fun i : Fin 32 =>
      (x.pred (predOf o.va)).getLsbD i = true ∧ x.guardBit o.g i = true).card)) := by
  have hcount := length_filter_range (fun i => (x.pred (predOf o.va)).getLsbD i && x.guardBit o.g i) 32
  simp only [Bool.and_eq_true] at hcount
  rw [← hcount]
  exact (xWord_runs h hr).trans (xIssue_result ..)

/-- Settles O46, a lemma for each word, and for each of the three ways on from a loop's word. -/
theorem loopAndPredicateWords : Obligations.LoopAndPredicateWords := by
  unfold Obligations.LoopAndPredicateWords
  refine ⟨fun s x q o hx hq => ⟨execVloop_skips hx hq, execVloop_opens hx hq⟩, fun s x q o h hg l => execVexit_leaves h hg,
    fun x l hl h6 => ⟨fun h => ?_, fun h j hj hb hend => ?_, fun h hend => ?_⟩, fun s x q o => execRrbset_sets,
    fun s x q o => execRep_prefixes, fun s x o h hu => ⟨_, execNop_control h hu, ctlDone_advances _ _ _⟩,
    fun s x o q k h => ⟨execNop_queue_one h, execNop_queue_more h⟩, fun s x q o hr => ⟨fun h => ⟨?_, ?_, ?_⟩, fun h => ⟨?_, ?_⟩⟩,
    fun s x q o hr => ⟨fun h => ?_, fun h => execPpopc_result h hr⟩⟩
  · rw [qNext_within hl h]
    exact ⟨⟨rfl, rfl, rfl, rfl, rfl⟩, rfl, rfl⟩
  · have hpos := nextPos_go_some l.desc l.pos 0 j (h6 ▸ hj) (by rw [Nat.zero_add]; exact hb)
      fun i hi => by rw [Nat.zero_add]; exact hend i hi
    rw [h6] at hpos
    rw [qNext_again hl h hpos, rotate_eq]
    exact ⟨⟨rfl, rfl, rfl, rfl, rfl⟩, rfl, rfl⟩
  · have hpos := nextPos_go_none l.desc l.pos 0 fun i hi => by rw [Nat.zero_add]; exact hend i (h6 ▸ hi)
    rw [qNext_ends hl h hpos]
    exact ⟨⟨rfl, rfl, rfl, rfl, rfl⟩, rfl, rfl⟩
  · exact predWord_result h hr fun i _ => BitVec.getLsbD_and
  · exact predWord_result h hr fun i _ => BitVec.getLsbD_or
  · exact predWord_result h hr fun i _ => BitVec.getLsbD_xor
  · exact predWord_result h hr fun i hi => by simp [predOf, hi]
  · exact predWord_result h hr fun i _ => rfl
  · refine predWord_result h hr fun i _ => ?_
    rw [srcBit_eq]
    rfl

end Sys2Proof
end

section
/-! SUPPORT. Each format's reader inverts its writer, and with that the decoder inverts the encoder (R15 to R26, R41). -/

namespace Sys2Proof

/-! ### A word and its fields -/

/-- A field is the concatenation of two bit vectors where its two parts are these. -/
theorem fieldOf_eq_append {w lo v n : Nat} (x : BitVec w) (hi : BitVec v) (y : BitVec n) :
    fieldOf x lo (v + n) = hi ++ y ↔ fieldOf x (lo + n) v = hi ∧ fieldOf x lo n = y := by
  have hsplit : fieldOf x lo (v + n) = fieldOf x (lo + n) v ++ fieldOf x lo n :=
    (BitVec.extractLsb'_append_extractLsb'_eq_extractLsb' rfl).symm
  rw [hsplit]
  constructor
  · intro h
    have hhi := congrArg (BitVec.extractLsb' n v) h
    have hlo := congrArg (BitVec.extractLsb' 0 n) h
    rw [BitVec.extractLsb'_append_eq_left, BitVec.extractLsb'_append_eq_left] at hhi
    rw [BitVec.extractLsb'_append_eq_right, BitVec.extractLsb'_append_eq_right] at hlo
    exact ⟨hhi, hlo⟩
  · rintro ⟨rfl, rfl⟩
    rfl

/-- A word is its field of all 96 bits. -/
theorem iword_eq_iff (w e : IWord) : w = e ↔ fieldOf w 0 96 = e := by rw [fieldOf, BitVec.extractLsb'_eq_self]

/-! ### Coded fields and single bits -/

theorem elemType_ofCode_iff {c : BitVec 6} {t : ElemType} : ElemType.ofCode c.toNat = some t ↔ c = t.code := by
  revert c
  cases t <;> decide

theorem rnd_ofCode_iff {c : BitVec 3} {r : Rnd} : Rnd.ofCode c.toNat = some r ↔ c = r.code := by
  revert c
  cases r <;> decide

theorem bit_eq_ofBool_iff {b : BitVec 1} {c : Bool} : decide (b = 1#1) = c ↔ b = BitVec.ofBool c := by
  revert b c
  decide

/-- A field of one bit, as a Boolean. -/
theorem bit_eq_getLsbD {n : Nat} (v : BitVec n) (i : Nat) : decide (fieldOf v i 1 = 1) = v.getLsbD i := by
  have h : fieldOf v i 1 = BitVec.ofBool (v.getLsbD i) := by
    ext j hj
    obtain rfl : j = 0 := Nat.lt_one_iff.mp hj
    simp
  rw [h]
  cases v.getLsbD i <;> rfl

/-! ### Guard and token fields (R16, R17) -/

theorem readGuard_iff {w : IWord} {g : Guard} : readGuard w = some g ↔ fieldOf w 80 6 = encGuard g := by
  have hE : fieldOf w 85 1 = 0 ∨ fieldOf w 85 1 = 1 := by
    generalize fieldOf w 85 1 = b
    revert b
    decide
  cases g with
  | none =>
    have hsplit : fieldOf w 80 6 = encGuard none ↔ fieldOf w 85 1 = 0 ∧ fieldOf w 80 5 = 0 := fieldOf_eq_append (lo := 80) w 0#1 0#5
    rw [hsplit]
    rcases hE with h | h <;> simp [readGuard, h]
  | some g =>
    have hsplit : fieldOf w 80 6 = encGuard (some g) ↔
        (fieldOf w 85 1 = 1 ∧ fieldOf w 81 4 = g.p) ∧ fieldOf w 80 1 = BitVec.ofBool g.inv := by
      exact (fieldOf_eq_append (lo := 80) w (1#1 ++ g.p) (BitVec.ofBool g.inv)).trans
        (and_congr_left' (fieldOf_eq_append (lo := 81) w 1#1 g.p))
    rw [hsplit]
    obtain ⟨p, inv⟩ := g
    rcases hE with h | h <;> simp [readGuard, h, bit_eq_ofBool_iff]

theorem readToken_iff {w : IWord} {t : Token} : readToken w = some t ↔ fieldOf w 76 4 = encToken t := by
  have hT : fieldOf w 79 1 = 0 ∨ fieldOf w 79 1 = 1 := by
    generalize fieldOf w 79 1 = b
    revert b
    decide
  cases t with
  | none =>
    have hsplit : fieldOf w 76 4 = encToken none ↔ fieldOf w 79 1 = 0 ∧ fieldOf w 76 3 = 0 := fieldOf_eq_append (lo := 76) w 0#1 0#3
    rw [hsplit]
    rcases hT with h | h <;> simp [readToken, h]
  | some t =>
    have hsplit : fieldOf w 76 4 = encToken (some t) ↔ fieldOf w 79 1 = 1 ∧ fieldOf w 76 3 = t := fieldOf_eq_append (lo := 76) w 1#1 t
    rw [hsplit]
    rcases hT with h | h <;> simp [readToken, h]

theorem readNoGuard_iff {w : IWord} {u : Unit} : readNoGuard w = some u ↔ fieldOf w 80 6 = 0 := by simp [readNoGuard]

theorem readNoToken_iff {w : IWord} {u : Unit} : readNoToken w = some u ↔ fieldOf w 76 4 = 0 := by simp [readNoToken]

/-! ### The formats (R18) -/

section
variable {w : IWord} {op : BitVec 10}

theorem eq_encC3_iff {o : C3} : w = encC3 op o ↔ fieldOf w 86 10 = op ∧ readC3 w = some o := by
  rw [iword_eq_iff, encC3]
  show fieldOf w 0 (10 + 6 + 4 + 6 + 6 + 6 + 6 + 52) = _ ↔ _
  obtain ⟨g, t, sd, sa, sb, sc, imm⟩ := o
  simp only [fieldOf_eq_append, and_assoc, -Nat.reduceAdd]
  simp [readC3, Option.bind_eq_some_iff, readGuard_iff, readToken_iff]

theorem eq_encCI_iff {o : CI} : w = encCI op o ↔ fieldOf w 86 10 = op ∧ readCI w = some o := by
  rw [iword_eq_iff, encCI]
  show fieldOf w 0 (10 + 6 + 4 + 6 + 6 + 64) = _ ↔ _
  obtain ⟨g, sd, sa, imm⟩ := o
  simp only [fieldOf_eq_append, and_assoc, -Nat.reduceAdd]
  simp [readCI, Option.bind_eq_some_iff, readGuard_iff, readNoToken_iff]

theorem eq_encCB_iff {o : CB} : w = encCB op o ↔ fieldOf w 86 10 = op ∧ readCB w = some o := by
  rw [iword_eq_iff, encCB]
  show fieldOf w 0 (10 + 6 + 4 + 6 + 6 + 64) = _ ↔ _
  obtain ⟨g, r, off⟩ := o
  simp only [fieldOf_eq_append, and_assoc, -Nat.reduceAdd]
  simp [readCB, Option.bind_eq_some_iff, readGuard_iff, readNoToken_iff, and_left_comm]

theorem eq_encV4_iff {o : V4} : w = encV4 op o ↔ fieldOf w 86 10 = op ∧ readV4 w = some o := by
  rw [iword_eq_iff, encV4]
  show fieldOf w 0 (10 + 6 + 4 + 11 + 11 + 11 + 11 + 6 + 3 + 23) = _ ↔ _
  obtain ⟨g, t, vd, va, vb, vc, ty, rnd, mods⟩ := o
  simp only [fieldOf_eq_append, and_assoc, -Nat.reduceAdd]
  simp [readV4, Option.bind_eq_some_iff, readGuard_iff, readToken_iff, elemType_ofCode_iff, rnd_ofCode_iff, and_left_comm,
    -BitVec.extractLsb'_toNat]

theorem eq_encVS_iff {o : VS} : w = encVS op o ↔ fieldOf w 86 10 = op ∧ readVS w = some o := by
  rw [iword_eq_iff, encVS]
  show fieldOf w 0 (10 + 6 + 4 + 11 + 11 + 6 + 48) = _ ↔ _
  obtain ⟨g, vd, va, sa, imm⟩ := o
  simp only [fieldOf_eq_append, and_assoc, -Nat.reduceAdd]
  simp [readVS, Option.bind_eq_some_iff, readGuard_iff, readNoToken_iff]

theorem eq_encVM_iff {o : VM} : w = encVM op o ↔ fieldOf w 86 10 = op ∧ readVM w = some o := by
  rw [iword_eq_iff, encVM]
  show fieldOf w 0 (10 + 6 + 4 + 11 + 1 + 6 + 16 + 42) = _ ↔ _
  obtain ⟨g, v, h, base, off, mods⟩ := o
  simp only [fieldOf_eq_append, and_assoc, -Nat.reduceAdd]
  simp [readVM, Option.bind_eq_some_iff, readGuard_iff, readNoToken_iff, bit_eq_ofBool_iff]

theorem eq_encEM_iff {o : EM} : w = encEM op o ↔ fieldOf w 86 10 = op ∧ readEM w = some o := by
  rw [iword_eq_iff, encEM]
  show fieldOf w 0 (10 + 6 + 4 + 5 + 6 + 6 + 6 + 4 + 4 + 1 + 1 + 1 + 10 + 32) = _ ↔ _
  obtain ⟨t, d, sa, sb, sc, ha, hb, hau, hbu, du, mode, imm⟩ := o
  simp only [fieldOf_eq_append, and_assoc, -Nat.reduceAdd]
  simp [readEM, Option.bind_eq_some_iff, readNoGuard_iff, readToken_iff, bit_eq_ofBool_iff]

theorem eq_encPX_iff {o : PX} : w = encPX op o ↔ fieldOf w 86 10 = op ∧ readPX w = some o := by
  rw [iword_eq_iff, encPX]
  show fieldOf w 0 (10 + 6 + 4 + 16 + 6 + 6 + 6 + 6 + 36) = _ ↔ _
  obtain ⟨count, k0, k1, k2, k3⟩ := o
  simp only [fieldOf_eq_append, and_assoc, -Nat.reduceAdd]
  simp [readPX, Option.bind_eq_some_iff, readNoGuard_iff, readNoToken_iff, and_comm (a := fieldOf w 0 36 = 0#36), and_assoc]

end

/-! ### The opcode map (R41) -/

/-- The maker makes the instruction from fields that stand in the word under the opcode. -/
def Maker.Writes (op : BitVec 10) (i : Instr) (w : IWord) : Maker → Prop
  | .c3 f => ∃ o, f o = i ∧ w = encC3 op o
  | .ci f => ∃ o, f o = i ∧ w = encCI op o
  | .cb f => ∃ o, f o = i ∧ w = encCB op o
  | .v4 f => ∃ o, f o = i ∧ w = encV4 op o
  | .vs f => ∃ o, f o = i ∧ w = encVS op o
  | .vm f => ∃ o, f o = i ∧ w = encVM op o
  | .em f => ∃ o, f o = i ∧ w = encEM op o
  | .px f => ∃ o, f o = i ∧ w = encPX op o

/-- A maker reads from a word what it writes there. -/
theorem Maker.writes_iff {op : BitVec 10} {i : Instr} {w : IWord} {m : Maker} :
    m.Writes op i w ↔ fieldOf w 86 10 = op ∧ m.read w = some i := by
  cases m <;> simp only [Maker.Writes, Maker.read, Option.map_eq_some_iff, eq_encC3_iff, eq_encCI_iff, eq_encCB_iff, eq_encV4_iff,
    eq_encVS_iff, eq_encVM_iff, eq_encEM_iff, eq_encPX_iff, ← exists_and_left, and_comm, and_left_comm]

/-- The words that the maker writes under the opcode are the encoder's. -/
def Maker.Encodes (op : BitVec 10) (m : Maker) : Prop := ∀ i w, m.Writes op i w → encode i = some w

/-- Every MTS has the same opcode. -/
theorem mkMts_encodes : (Maker.c3 mkMts).Encodes 0x0A1#10 := by
  rintro _ _ ⟨o, rfl, rfl⟩
  unfold mkMts
  dsimp only
  split_ifs <;> rfl

theorem mkProbe_encodes : (Maker.c3 mkProbe).Encodes 0x0A6#10 := by
  rintro _ _ ⟨o, rfl, rfl⟩
  unfold mkProbe
  split <;> rfl

theorem mkPut_encodes : (Maker.em mkPut).Encodes 0x208#10 := by
  rintro _ _ ⟨o, rfl, rfl⟩
  unfold mkPut
  split <;> rfl

theorem mkScls_encodes : (Maker.v4 mkScls).Encodes 0x30B#10 := by
  rintro _ _ ⟨o, rfl, rfl⟩
  unfold mkScls
  split <;> rfl

/-- The encoder agrees with the opcode map. -/
theorem makers_encode : ∀ p ∈ makers, p.2.Encodes (BitVec.ofNat 10 p.1) := by
  simp only [makers, List.forall_mem_append, makersControl, makersSystem, makersFloat, makersVector, makersAccess, makersMatrix,
    makersSync, List.forall_mem_cons, List.not_mem_nil, false_imp_iff, implies_true, and_true, true_and, mkMts_encodes,
    mkProbe_encodes, mkPut_encodes, mkScls_encodes]
  and_intros <;> exact fun _ _ ⟨_, hi, hw⟩ => hi ▸ hw ▸ rfl

/-- The maker of a word's opcode stands in the opcode map. -/
theorem encodes_of_lookup {w : IWord} {m : Maker} (h : makers.lookup (opOf w) = some m) : m.Encodes (fieldOf w 86 10) := by
  obtain ⟨l, l', hl, -⟩ := List.lookup_eq_some_iff.mp h
  have hm := makers_encode (opOf w, m) (by rw [hl]; exact List.mem_append_right _ List.mem_cons_self)
  rwa [opOf, BitVec.ofNat_toNat, BitVec.setWidth_eq] at hm

/-- Settles O2: the word's maker reads the fields that the encoder writes under the same opcode. -/
theorem encodeOfDecode : Obligations.EncodeOfDecode := by
  unfold Obligations.EncodeOfDecode
  intro w i h
  obtain ⟨hraw, -⟩ := Option.filter_eq_some_iff.mp h
  obtain ⟨m, hm, hread⟩ := Option.bind_eq_some_iff.mp hraw
  exact encodes_of_lookup hm i w (Maker.writes_iff.mpr ⟨rfl, hread⟩)

/-! ### Decoding what was encoded -/

/-- A well-formed instruction that the opcode's maker writes is decoded. -/
theorem decode_of_writes {op : BitVec 10} {w : IWord} {m : Maker} {i : Instr} (hm : makers.lookup op.toNat = some m)
    (hw : m.Writes op i w) (hf : WellFormed i) : decode w = some i := by
  obtain ⟨rfl, hread⟩ := Maker.writes_iff.mp hw
  have hraw : decodeRaw w = some i := by rw [decodeRaw, opOf, hm, Option.bind_some, hread]
  rw [decode, hraw, Option.filter_some]
  exact if_pos hf

/-- A bit outside the mask of a field that holds nothing else is not set. -/
theorem fieldOf_ne_one_of_mask {n k : Nat} {x m : BitVec n} (h : x &&& ~~~m = 0) (hk : m.getLsbD k = false) :
    fieldOf x k 1 ≠ 1 := by
  refine of_decide_eq_false ?_
  rw [bit_eq_getLsbD]
  by_cases hkn : k < n
  · have hb := congrArg (BitVec.getLsbD · k) h
    rw [BitVec.getLsbD_eq_getElem hkn] at hk
    simpa [hk, hkn] using hb
  · exact BitVec.getLsbD_of_ge x k (Nat.le_of_not_lt hkn)

theorem C3.imm_of_uses {o : C3} {d a b c t : Bool} {m : BitVec 52} (h : o.uses d a b c t m = true) : o.imm &&& ~~~m = 0 :=
  beq_iff_eq.mp (Bool.and_eq_true_iff.mp h).2

theorem EM.mode_of_uses {o : EM} {a b c ha hb d : Bool} {m : BitVec 10} {v : BitVec 32} (h : o.uses a b c ha hb d m v = true) :
    o.mode &&& ~~~m = 0 :=
  beq_iff_eq.mp (Bool.and_eq_true_iff.mp (Bool.and_eq_true_iff.mp h).1).2

theorem V4.mods_of_stream {o : V4} {a b c : Bool} {m : BitVec 23} (h : o.stream a b c m = true) : o.mods &&& ~~~m = 0 :=
  beq_iff_eq.mp (Bool.and_eq_true_iff.mp h).2

theorem mkProbe_probe {o : C3} (hf : WellFormed (.probe o)) : mkProbe o = .probe o :=
  if_neg (fieldOf_ne_one_of_mask (C3.imm_of_uses hf) (by decide))

theorem mkProbe_probeF {o : C3} (hf : WellFormed (.probeF o)) : mkProbe o = .probeF o :=
  if_pos (beq_iff_eq.mp (Bool.and_eq_true_iff.mp hf).2)

theorem mkPut_put {o : EM} (hf : WellFormed (.put o)) : mkPut o = .put o :=
  if_neg (fieldOf_ne_one_of_mask (EM.mode_of_uses (Bool.and_eq_true_iff.mp hf).1) (by decide))

theorem mkPut_collective {o : EM} (hf : WellFormed (.collectiveContribution o)) : mkPut o = .collectiveContribution o :=
  if_pos (of_decide_eq_true (Bool.and_eq_true_iff.mp hf).2)

theorem mkScls_scls {o : V4} (hf : WellFormed (.scls o)) : mkScls o = .scls o := by
  simp only [WellFormed, Instr.fieldsOk, Bool.and_eq_true] at hf
  obtain ⟨⟨⟨hs, -⟩, -⟩, -⟩ := hf
  exact if_neg (fieldOf_ne_one_of_mask (V4.mods_of_stream hs) (by decide))

theorem mkScls_sclsV {o : V4} (hf : WellFormed (.sclsV o)) : mkScls o = .sclsV o :=
  if_pos (beq_iff_eq.mp (Bool.and_eq_true_iff.mp hf).2)

/-- Settles O1, a case for each format: the opcode map finds the format's maker again, and that reads what the encoder wrote. -/
theorem decodeOfEncode : Obligations.DecodeOfEncode := by
  unfold Obligations.DecodeOfEncode
  intro i w hf hw
  cases i with
  | add o | sub o | mul o | mulh o | mulhn o | div o | divn o | rem o | remn o | and o | or o | xor o | andn o | shl o | shra o | shrl o
  | rol o | clz o | ctz o | popc o | min o | max o | minn o | maxn o | sel o | cmp o | extr o | ins o | ret o | jfrag o | done o | yield o
  | sld o | sst o | await o | amo o | amof o | mfs o | trap o | brkpt o | rtt o | fence o | sflush o | nop o | binit o | arrive o
  | bwait o | twait o | tread o | join o | leave o | barg o | spawn o | jdec o =>
    exact decode_of_writes (m := .c3 _) rfl ⟨o, rfl, (Option.some.inj hw).symm⟩ hf
  | addi o | li o | lih o | lea o => exact decode_of_writes (m := .ci _) rfl ⟨o, rfl, (Option.some.inj hw).symm⟩ hf
  | br o | bc o | call o | jtab o => exact decode_of_writes (m := .cb _) rfl ⟨o, rfl, (Option.some.inj hw).symm⟩ hf
  | vadd o | vsub o | vmul o | vfma o | vfms o | vfnma o | vmin o | vmax o | vabs o | vneg o | vrcp o | vrsq o | vexp2 o | vlog2 o
  | vcmp o | vsel o | viadd o | visub o | vimul o | vimulh o | vimad o | vimin o | vimax o | vishl o | vishr o | viabs o | visat o
  | vicmp o | vlop3 o | vfshl o | vfshr o | vpopc o | vclz o | vcvt o | vpack o | vunpk o | vqnt o | vdqnt o | vpermb o | vperml o
  | vrot o | vrmrg o | viota o | vrsum o | vrmax o | vrmin o | vrargmax o | vscan o | vbsort o | vbmerge o | vbstep o | vmergek o
  | visect o | vunion o | xclr o | xadd o | xacc o | xrnd o | xmov o | vexit o | pand o | por o | pxor o | pnot o | pmov o | sgen o
  | sand o | sxnor o | sor o | snot o | smux o | smaj o | scnt o | s2b o | sregen o | slen o =>
    exact decode_of_writes (m := .v4 _) rfl ⟨o, rfl, (Option.some.inj hw).symm⟩ hf
  | vbcast o | vinsl o | vextl o | rrbset o | pset o | ppopc o =>
    exact decode_of_writes (m := .vs _) rfl ⟨o, rfl, (Option.some.inj hw).symm⟩ hf
  | vld o | vst o | vldh o | vsth o | hadvc o | hadvp o =>
    exact decode_of_writes (m := .vm _) rfl ⟨o, rfl, (Option.some.inj hw).symm⟩ hf
  | vloop o | ldt o | stt o | cpy o | cpya o | rowg o | mcast o | puth o | get o | pft o | ixg o | ixs o | ixsa o | mma o | mmv o | mmg o
  | matt o | mpbld o | aclr o | adrain o | bset o | bsamp o | bread o | pred o | pchk o | pstat o | accept o | fragset o =>
    exact decode_of_writes (m := .em _) rfl ⟨o, rfl, (Option.some.inj hw).symm⟩ hf
  | rep o => exact decode_of_writes (m := .px _) rfl ⟨o, rfl, (Option.some.inj hw).symm⟩ hf
  | mts o | mtsTmr o | mtsSrseed o | mtsSeed o | mtsRotsz o | mtsRrb o | mtsHandleLow o | mtsHandleHigh o | mtsFrag o | mtsStw3 o
  | mtsStw o | mtsHeatcfg o =>
    exact decode_of_writes (m := .c3 mkMts) rfl ⟨o, beq_iff_eq.mp (Bool.and_eq_true_iff.mp hf).2, (Option.some.inj hw).symm⟩ hf
  | probe o => exact decode_of_writes (m := .c3 mkProbe) rfl ⟨o, mkProbe_probe hf, (Option.some.inj hw).symm⟩ hf
  | probeF o => exact decode_of_writes (m := .c3 mkProbe) rfl ⟨o, mkProbe_probeF hf, (Option.some.inj hw).symm⟩ hf
  | put o => exact decode_of_writes (m := .em mkPut) rfl ⟨o, mkPut_put hf, (Option.some.inj hw).symm⟩ hf
  | collectiveContribution o => exact decode_of_writes (m := .em mkPut) rfl ⟨o, mkPut_collective hf, (Option.some.inj hw).symm⟩ hf
  | scls o => exact decode_of_writes (m := .v4 mkScls) rfl ⟨o, mkScls_scls hf, (Option.some.inj hw).symm⟩ hf
  | sclsV o => exact decode_of_writes (m := .v4 mkScls) rfl ⟨o, mkScls_sclsV hf, (Option.some.inj hw).symm⟩ hf
  | _ => cases hw

/-- Settles O3: each word is its instruction's, and the last three are refused. -/
theorem knownWordsDecode : Obligations.KnownWordsDecode := by
  unfold Obligations.KnownWordsDecode
  refine ⟨?_, ?_, ?_, ?_, ?_, ?_, ?_, ?_, ?_, ?_, ?_, ?_, by decide, by decide, by decide⟩
  all_goals exact decodeOfEncode _ _ rfl (by decide)

end Sys2Proof
end

section
/-! SUPPORT. A step of a queue at the word that its head, its loop body or its REP gives. -/

namespace Sys2Proof

open Sys2Proof.Machine
variable {s : State}

/-! ### A queue's turn at a word (R35, R154, R157) -/

/-- What a queue's turn runs is what the step runs, and results are withheld from what it leaves (R88). -/
theorem step_queue {c : CoreId} {b : BankId} {k : Kind} {i : Instr} {t : State} (h : s.turn = .queue c b k)
    (hr : queueTurn (turnState s c b (.queue k)) k = .run i t) : step s = s.after (exec i t) := by
  have hb : s.begin = .run i t := by
    unfold State.begin
    rw [h]
    exact hr
  unfold step
  rw [hb]
  dsimp only
  cases exec i t <;> rfl

@[simp] theorem landAt_cur (s : State) (c : CoreId) (b : BankId) (u : FixUnit) : (s.landAt c b u).cur = s.cur := by
  unfold State.landAt
  split <;> rfl

/-- The word that a queue comes to: the next one of its loop's body, or the one at its head where no word is skipped. -/
def AtWord (x : Ctx) (k : Kind) (q : QWord) : Prop :=
  match (x.queue k).cur.loop with
  | some l => l.body[l.idx]? = some q
  | none => (x.queue k).head x.trapMode = some q ∧ (x.queue k).cur.skip = 0

/-- A queue that nothing stops comes to its word. -/
theorem queueTurn_atWord {k : Kind} {x y : Ctx} {q : QWord} {u t : State} (hc : k ≠ .c)
    (ho : k = .x → s.myCore.owners[0] = some s.cur.bank)
    (hu : (if k = .x then s.landAt s.cur.core s.cur.bank .vec else s) = u) (hy : u.ctx? = some y) (hx : y.abandon k = x)
    (ht : u.putCtx x = t)
    (hm : x.midClk = true ∨ (x.parkStop = false ∧ x.fatal = none ∧
      (k = .x → t.myCore.engineMust t.cur.bank x true (Ctx.vecReady t.myCore) = false)))
    (hs : x.queueStopped k = false) (hn : (x.queue k).cur.nop = 0) (hq : AtWord x k q) : queueTurn s k = issueWord s t x k q := by
  have hown : ¬ (k = .c ∨ k = .x ∧ s.myCore.owners[0] ≠ some s.cur.bank) := fun h => h.elim hc fun h => h.2 (ho h.1)
  have hgo : ((x.parkStop || x.fatal.isSome || (decide (k = .x) && t.myCore.engineMust t.cur.bank x true (Ctx.vecReady t.myCore)))
      && !x.midClk) = false := by
    rcases hm with hm | ⟨hp, hf, he⟩
    · simp [hm]
    · by_cases hk : k = .x
      · simp [hp, hf, hk, he hk]
      · simp [hp, hf, hk]
  unfold queueTurn
  simp only [if_neg hown, hu, hy, hx, ht, hgo, hs, hn, ne_eq, not_true_eq_false, if_false, Bool.false_eq_true]
  unfold AtWord at hq
  split at hq
  next l hl => simp only [hl, hq]
  next hl =>
    obtain ⟨hhead, hskip⟩ := hq
    simp only [hl, hhead, hskip, not_true_eq_false, if_false]

/-- A word whose section is open, or is not recorded, issues. -/
theorem issueWord_open {s₀ : State} {x : Ctx} {k : Kind} {q : QWord} (h : ∀ e, x.secs.find? (·.uid == q.uid) = some e → e.open_ = true) :
    issueWord s₀ s x k q = issueWord.go x k q { s with cur := { s.cur with word := some q } } := by
  cases he : x.secs.find? (·.uid == q.uid) with
  | none => simp only [issueWord, he]
  | some e => simp only [issueWord, he, h e he, if_true]

/-- A word that no REP runs is what it decodes to. -/
theorem issueWord_go_single {x : Ctx} {k : Kind} {q : QWord} {i : Instr} (hr : (x.queue k).cur.rep = none) (hd : decode q.w = some i) :
    issueWord.go x k q s = .run i s := by
  simp only [issueWord.go, hr, hd]

/-- A REP's repetition is the word moved by its strides (R157). -/
theorem issueWord_go_rep {x : Ctx} {k : Kind} {q : QWord} {i : Instr} {r : RepSt} (hr : (x.queue k).cur.rep = some r)
    (ht : repTarget q.w = true) (hc : r.px.count ≠ 0) (hd : decode (strideWord q.w r.px r.i) = some i)
    (ha : inAllot x ((decodeRaw q.w).getD .powerOff) r.px r.i = true) :
    issueWord.go x k q s = .run i { s with cur := { s.cur with rep := r.i } } := by
  simp only [issueWord.go, hr, ht, hc, hd, ha, if_false]

/-- Settles O5: the queue's turn comes to its word, whose section is open, and runs it once or as a repetition. -/
theorem stepRunsQueueWord : Obligations.StepRunsQueueWord := by
  unfold Obligations.StepRunsQueueWord
  intro s c b k x y q i u t ht hc ho hu hy hx htx hm hs hn hq hsec
  have hcur : t.cur = (turnState s c b (.queue k)).cur := by
    rw [htx, State.putCtx_cur, hu]
    split
    · exact landAt_cur ..
    · rfl
  have hturn : queueTurn (turnState s c b (.queue k)) k = issueWord.go x k q { t with cur := { t.cur with word := some q } } :=
    (queueTurn_atWord (s := turnState s c b (.queue k)) hc ho hu.symm hy hx.symm htx.symm
      (by rw [State.myCore, hcur]; exact hm) hs hn hq).trans (issueWord_open fun e he => by rw [he] at hsec; exact hsec)
  exact ⟨fun hr hd => step_queue ht (hturn.trans (issueWord_go_single hr hd)),
    fun r hr htar hcount hd ha => step_queue ht (hturn.trans (issueWord_go_rep hr htar hcount hd ha))⟩

end Sys2Proof
end

section
/-! SUPPORT. Control words that do not execute: a guard that fails, a thirteenth result, and PEND (R16, R81, R82, R91). -/

namespace Sys2Proof

open Sys2Proof.Machine
variable {s : State} {x : Ctx} {g : Guard} {reads : List SReg} {makes : Ctx → Bool} {k : Ctx → Out}

/-! ### The tests of a control word -/

/-- A control word with a guard that is pending under PENDR raises PEND. -/
theorem ctlWord_guardPends (hv : CtlView s x) (hi : x.issue = none) (hr : x.pendr = true) (hp : x.guardPending g = true) :
    ctlWord g reads s k = .next (s.trapP x .pend) := by
  obtain ⟨y, hy, rfl⟩ := Option.map_eq_some_iff.mp hv
  simp [ctlWord, hy, hi, hr, hp]

/-- A word with a result that has room, makes none, or does not issue is a control word like any other. -/
theorem ctlWordRes_eq (hv : CtlView s x)
    (h : makes x = false ∨ x.room .ctl = true ∨ ((x.pendr && x.guardPending g) || x.guardOk g) = false) :
    ctlWordRes g reads makes s k = ctlWord g reads s k := by
  obtain ⟨y, hy, rfl⟩ := Option.map_eq_some_iff.mp hv
  simp only [ctlWordRes, hy]
  refine if_neg ?_
  rcases h with h | h | h <;> simp [h]

/-- One whose guard fails takes its clk and makes nothing. -/
theorem ctlWordRes_guardFails (hv : CtlView s x) (hi : x.issue = none) (hp : x.pendr = true → x.guardPending g = false)
    (hg : x.guardOk g = false) : ctlWordRes g reads makes s k = .next (s.ctlDone x) := by
  rw [ctlWordRes_eq hv (.inr (.inr (by rw [not_pends hp, hg]; rfl))), ctlWord_guardFails hv hi hp hg]

/-! ### What the words are -/

/-- The words from registers to a register with a fixed latency (R92 to R95). -/
def aluWords (o : C3) : List Instr := [.add o, .sub o, .mul o, .mulh o, .mulhn o, .and o, .or o, .xor o, .andn o, .shl o, .shra o,
  .shrl o, .rol o, .clz o, .ctz o, .popc o, .min o, .max o, .minn o, .maxn o, .sel o, .cmp o, .extr o, .ins o]

/-- The divisions (R96). -/
def divWords (o : C3) : List Instr := [.div o, .divn o, .rem o, .remn o]

/-- The words with a 64-bit immediate (R97). -/
def immWords (o : CI) : List Instr := [.addi o, .li o, .lih o, .lea o]

/-- Every C3 word with a result of fixed latency. -/
def resultWords (o : C3) : List Instr := aluWords o ++ divWords o ++ [.mfs o, .tread o]

/-- The other C3 words of a C section alone that have a guard. -/
def plainWords (o : C3) : List Instr := [.ret o, .jfrag o, .done o, .yield o, .sld o, .sst o, .await o, .amo o, .amof o, .trap o,
  .brkpt o, .rtt o, .fence o, .sflush o, .probe o, .probeF o, .binit o, .join o, .leave o, .barg o, .spawn o, .jdec o]

theorem exec_plainWord (s : State) (o : C3) : ∀ w ∈ plainWords o, ∃ reads k, exec w s = ctlWord o.g reads s k := by
  simp only [plainWords, List.forall_mem_cons, List.not_mem_nil, false_imp_iff, implies_true, and_true]
  and_intros <;> exact ⟨_, _, by
    dsimp only [exec, execTrap, execBrkpt, trapWord, execProbe, execProbeF, probeWord, execJoin, execLeave, execBarg, groupWord] <;>
    rfl⟩

/-- The word reads these registers for a result in sd, unless sd is s0. -/
def WritesScalar (s : State) (g : Guard) (reads : List SReg) (sd : SReg) (w : Instr) : Prop :=
  ∃ k, exec w s = ctlWordRes g reads (fun _ => sd != 0) s k

theorem aluWords_write (s : State) (o : C3) : ∀ w ∈ aluWords o, WritesScalar s o.g [o.sa, o.sb, o.sc] o.sd w := by
  simp only [aluWords, List.forall_mem_cons, List.not_mem_nil, false_imp_iff, implies_true, and_true]
  and_intros <;> exact ⟨_, rfl⟩

theorem divWords_write (s : State) (o : C3) : ∀ w ∈ divWords o, WritesScalar s o.g [o.sa, o.sb] o.sd w := by
  simp only [divWords, List.forall_mem_cons, List.not_mem_nil, false_imp_iff, implies_true, and_true]
  and_intros <;> exact ⟨_, rfl⟩

theorem immWords_write (s : State) (o : CI) : ∀ w ∈ immWords o, WritesScalar s o.g [o.sa] o.sd w := by
  simp only [immWords, List.forall_mem_cons, List.not_mem_nil, false_imp_iff, implies_true, and_true]
  and_intros <;> exact ⟨_, rfl⟩

theorem tread_writes (s : State) (o : C3) : WritesScalar s o.g [] o.sd (.tread o) := ⟨_, rfl⟩

/-- MFS makes a result of a register that it may read. -/
theorem execMfs_eq (s : State) (o : C3) : exec (.mfs o) s =
    ctlWordRes o.g [] (fun x => o.sd != 0 && (sysAccess o.sysNum).any fun a => x.id.priv || a.ur) s fun x =>
      match sysAccess o.sysNum with
      | none => .next (s.trapP x .illegal)
      | some a => if !x.id.priv && !a.ur then .next (s.trapP x .perm) else .next (s.ctlResult x o.sd (s.sysRead x o.sysNum)) := rfl

/-- The word is a control word with a result that, where there is one, goes to sd. -/
def MakesScalar (s : State) (g : Guard) (sd : SReg) (w : Instr) : Prop :=
  ∃ reads makes k, exec w s = ctlWordRes g reads makes s k ∧ ∀ x, sd = 0 → makes x = false

theorem WritesScalar.toMakes {sd : SReg} {w : Instr} (h : WritesScalar s g reads sd w) : MakesScalar s g sd w := by
  obtain ⟨k, hk⟩ := h
  exact ⟨_, _, _, hk, fun _ h0 => by simp [h0]⟩

theorem resultWords_make (s : State) (o : C3) : ∀ w ∈ resultWords o, MakesScalar s o.g o.sd w := by
  simp only [resultWords, List.forall_mem_append, List.forall_mem_cons, List.not_mem_nil, false_imp_iff, implies_true, and_true]
  exact ⟨⟨fun w hw => (aluWords_write s o w hw).toMakes, fun w hw => (divWords_write s o w hw).toMakes⟩,
    ⟨_, _, _, execMfs_eq s o, fun _ h0 => by simp [h0]⟩, (tread_writes s o).toMakes⟩

/-! ### The three reasons -/

section
variable {sd : SReg} {w : Instr}

theorem MakesScalar.guardFails (h : MakesScalar s g sd w) (hv : CtlView s x) (hi : x.issue = none)
    (hp : x.pendr = true → x.guardPending g = false) (hg : x.guardOk g = false) : ∃ t, exec w s = .next t ∧ Advances s x 1 t := by
  obtain ⟨_, _, _, hw, -⟩ := h
  exact ⟨_, hw.trans (ctlWordRes_guardFails hv hi hp hg), ctlDone_advances _ _ _⟩

theorem MakesScalar.guardPends (h : MakesScalar s g sd w) (hv : CtlView s x) (hi : x.issue = none) (hr : x.pendr = true)
    (hp : x.guardPending g = true) (hroom : x.hasRoom sd) : exec w s = .next (s.trapP x .pend) := by
  obtain ⟨_, _, _, hw, hm⟩ := h
  rw [hw, ctlWordRes_eq hv (hroom.elim (fun h0 => .inl (hm x h0)) fun h1 => .inr (.inl h1)), ctlWord_guardPends hv hi hr hp]

theorem WritesScalar.waits (h : WritesScalar s g reads sd w) (hv : CtlView s x) (hroom : x.room .ctl = false) (hd : sd ≠ 0)
    (hg : (x.pendr = true ∧ x.guardPending g = true) ∨ x.guardOk g = true) : ∃ t, exec w s = .next t ∧ Waits s x .full t := by
  obtain ⟨_, hw⟩ := h
  exact ⟨_, hw.trans (ctlWordRes_waits hv hroom (bne_iff_ne.mpr hd) hg), ctlHold_waits _ _ _⟩

theorem WritesScalar.sourcePends (h : WritesScalar s g reads sd w) (hv : CtlView s x) (hi : x.issue = none) (hr : x.pendr = true)
    (hp : x.guardPending g = false) (hg : x.guardOk g = true) (hroom : x.hasRoom sd) (hs : reads.any x.scalarPending = true) :
    exec w s = .next (s.trapP x .pend) := by
  obtain ⟨_, hw⟩ := h
  rw [hw, ctlWordRes_eq hv (hroom.elim (fun h0 => .inl (by simp [h0])) fun h1 => .inr (.inl h1)), ctlWord_pends hv hi hr hp hg hs]

end

/-- MFS of a register that may be read waits with its result. -/
theorem execMfs_waits {o : C3} {a : SysAccess} (hv : CtlView s x) (hroom : x.room .ctl = false) (hd : o.sd ≠ 0)
    (hg : (x.pendr = true ∧ x.guardPending o.g = true) ∨ x.guardOk o.g = true) (ha : sysAccess o.sysNum = some a)
    (hp : x.id.priv = true ∨ a.ur = true) : ∃ t, exec (.mfs o) s = .next t ∧ Waits s x .full t :=
  ⟨_, (execMfs_eq s o).trans (ctlWordRes_waits hv hroom (by rcases hp with hp | hp <;> simpa [ha, hp] using hd) hg),
    ctlHold_waits _ _ _⟩

/-- CALL of an aligned target waits with its link's result (log 10). -/
theorem execCall_waits {o : CB} (hv : CtlView s x) (hroom : x.room .ctl = false) (hd : o.r ≠ 0)
    (hg : (x.pendr = true ∧ x.guardPending o.g = true) ∨ x.guardOk o.g = true) (ht : (x.ctl.pc + o.off).toNat % 8 = 0) :
    ∃ t, exec (.call o) s = .next t ∧ Waits s x .full t := by
  have hlow : fieldNat (x.ctl.pc + o.off) 0 3 = 0 := by simpa using ht
  have hm : (o.r != 0 && fieldNat (x.ctl.pc + o.off) 0 3 == 0) = true := by simpa [hlow] using hd
  have hw : execCall o s = .next (s.ctlHold x .full) :=
    ctlWordRes_waits (makes := fun x => o.r != 0 && fieldNat (x.ctl.pc + o.off) 0 3 == 0) hv hroom hm hg
  exact ⟨_, hw, ctlHold_waits _ _ _⟩

/-- Settles O15, a lemma for each of the three reasons, which ask a word only for its guard, its sources and its result. -/
theorem controlWordsThatDoNotExecute : Obligations.ControlWordsThatDoNotExecute := by
  unfold Obligations.ControlWordsThatDoNotExecute
  intro alu div imm res others
  refine ⟨fun s x hv hi => ⟨fun o hp hg => ?_, fun o hp hg w hw => (immWords_write s o w hw).toMakes.guardFails hv hi hp hg⟩,
    fun s x hv hroom => ⟨fun o hd hg => ⟨?_, fun a => execMfs_waits hv hroom hd hg⟩,
      fun o hd hg w hw => (immWords_write s o w hw).waits hv hroom hd hg, fun o hd hg => execCall_waits hv hroom hd hg⟩,
    fun s x hv hi hr => ⟨fun o hp => ⟨fun w hw => ?_, fun hroom w hw => (resultWords_make s o w hw).guardPends hv hi hr hp hroom⟩,
      fun o hp hroom w hw => (immWords_write s o w hw).toMakes.guardPends hv hi hr hp hroom,
      fun o hp hg hroom => ⟨fun hs w hw => (aluWords_write s o w hw).sourcePends hv hi hr hp hg hroom (by simpa using hs),
        fun hs w hw => (divWords_write s o w hw).sourcePends hv hi hr hp hg hroom (by simpa using hs)⟩,
      fun o hp hg hroom hs w hw => (immWords_write s o w hw).sourcePends hv hi hr hp hg hroom (by simpa using hs)⟩⟩
  · refine List.forall_mem_append.mpr ⟨fun w hw => (resultWords_make s o w hw).guardFails hv hi hp hg, fun w hw => ?_⟩
    obtain ⟨_, _, hk⟩ := exec_plainWord s o w hw
    exact ⟨_, hk.trans (ctlWord_guardFails hv hi hp hg), ctlDone_advances _ _ _⟩
  · refine List.forall_mem_append.mpr ⟨List.forall_mem_append.mpr ⟨fun w hw => (aluWords_write s o w hw).waits hv hroom hd hg,
      fun w hw => (divWords_write s o w hw).waits hv hroom hd hg⟩, List.forall_mem_singleton.mpr ?_⟩
    exact (tread_writes s o).waits hv hroom hd hg
  · obtain ⟨_, _, hk⟩ := exec_plainWord s o w hw
    exact hk.trans (ctlWord_guardPends hv hi hr hp)

end Sys2Proof
end

section
/-! SUPPORT. Vector words that do not issue, or issue and do nothing (R16, R81, R82, R158). -/

namespace Sys2Proof

open Sys2Proof.Machine
variable {s : State} {x : Ctx} {g : Guard} {es : List EReg} {vs : List VReg} {ps : List PReg} {k : Ctx → QWord → Out}

/-! ### The tests of a vector word -/

/-- A word that tests bit 0 of its guard, and finds it clear, issues and does nothing. -/
theorem xWord0_guardFails (hx : s.ctx? = some x) (hr : x.pendr = false) (hg : x.guardOk g = false) :
    xWord0 s g es k = .next (s.putCtx (x.xDone false 0)) := by
  simp [xWord0, hx, hr, hg]

/-- One whose guard is pending under PENDR raises PEND. -/
theorem xWord0_guardPends (hx : s.ctx? = some x) (hr : x.pendr = true) (hp : x.guardPending g = true) :
    xWord0 s g es k = s.trapQ x .pend := by
  simp [xWord0, hx, hr, hp]

/-- A source or a guard with a result in flight raises PEND under PENDR. -/
theorem xReads_pends (hx : s.ctx? = some x) (hq : s.cur.word.isSome = true) (hr : x.pendr = true)
    (hp : VecReads.pending ⟨g, vs, ps, es⟩ x = true) : xReads s g vs ps es k = s.trapQ x .pend := by
  obtain ⟨q, hq⟩ := Option.isSome_iff_exists.mp hq
  unfold VecReads.pending at hp
  simp only [xReads, hx, hq, hr, hp, Bool.and_self, if_true]

/-- So does a word with a result, once that has room. -/
theorem xWord_pends (hx : s.ctx? = some x) (hroom : x.room .vec = true) (hq : s.cur.word.isSome = true) (hr : x.pendr = true)
    (hp : VecReads.pending ⟨g, vs, ps, es⟩ x = true) : xWord s g vs ps es k = s.trapQ x .pend := by
  simp only [xWord, hx, hroom, if_true]
  exact xReads_pends hx hq hr hp

section
variable {ok : Ctx → Bool}

/-- A word whose result hangs on one bit of its guard makes none where the test fails. -/
theorem xWordRes_guardFails (hx : s.ctx? = some x) (hr : x.pendr = false) (hg : ok x = false) :
    xWordRes s g ok vs es k = .next (s.putCtx (x.xDone false 0)) := by
  simp [xWordRes, hx, hr, hg]

/-- Where it passes, the word waits for room. -/
theorem xWordRes_waits (hx : s.ctx? = some x) (hg : ok x = true) (hroom : x.room .vec = false) :
    xWordRes s g ok vs es k = .next (s.putCtx x.xTick) := by
  simp [xWordRes, hx, hg, hroom]

/-- With room, it raises PEND for its guard or a source under PENDR. -/
theorem xWordRes_pends (hx : s.ctx? = some x) (hg : ok x = true) (hroom : x.room .vec = true) (hq : s.cur.word.isSome = true)
    (hr : x.pendr = true) (hp : VecReads.pending ⟨g, vs, [], es⟩ x = true) : xWordRes s g ok vs es k = s.trapQ x .pend := by
  simp only [xWordRes, hx, hroom, hg, hr, Bool.not_true, Bool.false_and, Bool.true_and, Bool.false_eq_true, if_false, if_true]
  split
  · rfl
  next hgp =>
    refine xReads_pends hx hq hr ?_
    rw [VecReads.pending, Bool.eq_false_of_not_eq_true hgp] at hp
    exact hp

end

/-! ### What each word reads -/

/-- The word is one with a result that reads these registers. -/
def ReadsVec (s : State) (r : VecReads) (w : Instr) : Prop := ∃ k, exec w s = xWord s r.g r.vs r.ps r.es k

theorem immBit_eq (o : V4) : o.immBit = o.mods.getLsbD 1 := bit_eq_getLsbD _ _

theorem ffmt?_isSome {t : ElemType} (h : t.isFloat = true) : ∃ f, t.ffmt? = some f := by
  refine Option.isSome_iff_exists.mp ?_
  revert h
  cases t <;> decide

theorem vecFloat_reads {o : V4} {srcs : List VReg} {lat lat64 : Nat} {f : Rnd → List FVal → Near} (h : o.ty.isFloat = true) :
    ∃ k, vecFloat o srcs lat lat64 f s = xWord s o.g srcs [] [] k := by
  obtain ⟨fmt, hf⟩ := ffmt?_isSome h
  unfold vecFloat
  rw [hf]
  exact ⟨_, rfl⟩

theorem isFloat_of_arith {o : V4} {b c r : Bool} (h : o.arith b c r = true) : o.ty.isFloat = true :=
  (Bool.and_eq_true_iff.mp (Bool.and_eq_true_iff.mp h).1).2

theorem vecShift_reads {o : V4} {sat : Bool} {f : Int → Nat → Int} :
    ∃ k, vecShift o sat f s = xWord s o.g (if o.mods.getLsbD 1 then [o.va] else [o.va, o.vb]) [] [] k := by
  unfold vecShift
  rw [immBit_eq]
  cases o.mods.getLsbD 1 <;> exact ⟨_, rfl⟩

theorem isFloat_of_reduce {o : V4} (h : o.reduceOk false = true) : o.ty.isFloat = true := by
  simpa [V4.reduceOk] using (Bool.and_eq_true_iff.mp h).2

theorem vecFunnel_reads {o : V4} {f : Nat → Nat → Nat} :
    ∃ k, vecFunnel o f s = xWord s o.g (if o.mods.getLsbD 1 then [o.va, o.vb] else [o.va, o.vb, o.vc]) [] [] k := by
  unfold vecFunnel
  rw [immBit_eq]
  cases o.mods.getLsbD 1 <;> exact ⟨_, rfl⟩

theorem amountReg_eq (o : V4) : amountReg o = if o.mods.getLsbD 1 then [] else [o.vc] := by
  rw [amountReg, immBit_eq]

/-- A check of a coded type accepts only an assigned code. -/
theorem isSome_of_check {t : Option ElemType} {f : ElemType → Bool} (h : (match t with | none => false | some t => f t) = true) :
    ∃ c, t = some c := by
  cases t with
  | none => cases h
  | some t => exact ⟨t, rfl⟩

theorem execVqnt_reads (s : State) (o : V4) :
    ReadsVec s (if o.ty.isDB then ⟨none, [o.va], [], []⟩ else ⟨o.g, [o.va, o.vb], [], []⟩) (.vqnt o) := by
  unfold ReadsVec
  dsimp only [exec, execVqnt]
  split <;> exact ⟨_, rfl⟩

theorem execVdqnt_reads (s : State) {o : V4} {t : ElemType} (h : o.src = some t) :
    ReadsVec s ⟨o.g, if t.isDB then [o.va] else [o.va, o.vb], [], []⟩ (.vdqnt o) := by
  unfold ReadsVec
  dsimp only [exec, execVdqnt]
  rw [h]
  dsimp only
  split <;> exact ⟨_, rfl⟩

theorem exec_readsVec {w : Instr} {r : VecReads} (h : vecReads w = some r) (hf : WellFormed w) : ReadsVec s r w := by
  unfold ReadsVec
  cases w with
  | vadd o | vsub o | vmul o | vfma o | vfms o | vfnma o | vmin o | vmax o | vrcp o | vrsq o | vexp2 o | vlog2 o =>
    cases h
    dsimp only [exec, execVadd, execVsub, execVmul, execVfma, execVfms, execVfnma, execVmin, execVmax, execVrcp, execVrsq, execVexp2,
      execVlog2]
    exact vecFloat_reads (isFloat_of_arith hf)
  | vishl o | vishr o =>
    cases h
    dsimp only [exec, execVishl, execVishr]
    exact vecShift_reads
  | vabs o | vneg o | viadd o | visub o | vimul o | vimulh o | vimad o | vimin o | vimax o | viabs o | visat o | vicmp o | vlop3 o
  | vsel o | vpopc o | vclz o | vpermb o | vperml o | viota o | vrsum o | vscan o | vbsort o | vbmerge o | vbstep o | vmergek o
  | visect o | vunion o | xadd o | xacc o | xrnd o | pand o | por o | pxor o | pnot o | pmov o | pset o | ppopc o | vld o | vldh o
  | vst o | vsth o =>
    cases h
    exact ⟨_, by
      dsimp only [exec, execVabs, execVneg, vecSign, execViadd, execVisub, execVimul, execVimulh, execVimad, execVimin, execVimax,
        execViabs, execVisat, vecInt, execVicmp, execVlop3, execVsel, execVpopc, execVclz, vecCount, execVpermb, execVperml, execViota,
        execVrsum, execVscan, execVbsort, execVbmerge, execVbstep, execVmergek, execVisect, execVunion, execXadd, execXacc, execXrnd,
        execPand, execPor, execPxor, execPnot, execPmov, predBin, predUn, predWord, execPset, execPpopc, execVld, execVldh, execVst,
        execVsth] <;> rfl⟩
  | vcmp o =>
    cases h
    simp only [WellFormed, Instr.fieldsOk, Bool.and_eq_true] at hf
    obtain ⟨⟨⟨⟨⟨-, hfloat⟩, -⟩, -⟩, -⟩, -⟩ := hf
    obtain ⟨f, hfmt⟩ := ffmt?_isSome hfloat
    dsimp only [exec, execVcmp]
    rw [hfmt]
    exact ⟨_, rfl⟩
  | vrmax o | vrmin o | vrargmax o =>
    cases h
    obtain ⟨f, hfmt⟩ := ffmt?_isSome (isFloat_of_reduce hf)
    dsimp only [exec, execVrmax, execVrmin, vecBest, execVrargmax]
    rw [hfmt]
    exact ⟨_, rfl⟩
  | vfshl o | vfshr o =>
    cases h
    dsimp only [exec, execVfshl, execVfshr]
    exact vecFunnel_reads
  | vrot o | vrmrg o =>
    cases h
    dsimp only [exec, execVrot, execVrmrg]
    rw [amountReg_eq]
    cases o.mods.getLsbD 1 <;> exact ⟨_, rfl⟩
  | vcvt o | vpack o | vunpk o =>
    cases h
    obtain ⟨t, ht⟩ := isSome_of_check hf
    dsimp only [exec, execVcvt, execVpack, execVunpk]
    rw [ht]
    exact ⟨_, rfl⟩
  | vqnt o =>
    cases h
    exact execVqnt_reads s o
  | vdqnt o =>
    obtain ⟨t, ht, rfl⟩ := Option.map_eq_some_iff.mp h
    exact execVdqnt_reads s ht
  | vbcast o | vinsl o =>
    cases h
    have hty := (Bool.and_eq_true_iff.mp hf).2
    split at hty
    next t ht =>
      dsimp only [exec, execVbcast, execVinsl]
      rw [ht]
      exact ⟨_, rfl⟩
    next => cases hty
  | _ => cases h

/-! ### The obligation's words -/

/-- XCLR, VEXIT, HADVC, HADVP and RRBSET test bit 0 of their guard before anything else (log 65). -/
def TestsBit (s : State) (g : Guard) (w : Instr) : Prop := ∃ k, exec w s = xWord0 s g [] k

theorem v4Words_testBit (s : State) (o : V4) : ∀ w ∈ [Instr.xclr o, .vexit o], TestsBit s o.g w := by
  simp only [List.forall_mem_cons, List.not_mem_nil, false_imp_iff, implies_true, and_true]
  exact ⟨⟨_, rfl⟩, ⟨_, rfl⟩⟩

theorem vmWords_testBit (s : State) (o : VM) : ∀ w ∈ [Instr.hadvc o, .hadvp o], TestsBit s o.g w := by
  simp only [List.forall_mem_cons, List.not_mem_nil, false_imp_iff, implies_true, and_true]
  exact ⟨⟨_, rfl⟩, ⟨_, rfl⟩⟩

theorem rrbset_testsBit (s : State) (o : VS) : TestsBit s o.g (.rrbset o) := ⟨_, rfl⟩

theorem TestsBit.guardFails {w : Instr} (h : TestsBit s g w) (hx : s.ctx? = some x) (hr : x.pendr = false) (hg : x.guardOk g = false) :
    exec w s = .next (s.putCtx (x.xDone false 0)) := by
  obtain ⟨k, hk⟩ := h
  exact hk.trans (xWord0_guardFails hx hr hg)

theorem TestsBit.guardPends {w : Instr} (h : TestsBit s g w) (hx : s.ctx? = some x) (hr : x.pendr = true)
    (hp : x.guardPending g = true) : exec w s = s.trapQ x .pend := by
  obtain ⟨k, hk⟩ := h
  exact hk.trans (xWord0_guardPends hx hr hp)

theorem execXmov_eq (s : State) (o : V4) : ∃ k, exec (.xmov o) s = xWordRes s o.g (·.guardOk o.g) [] [exactOf o.va] k :=
  ⟨_, rfl⟩

theorem execVextl_eq (s : State) {o : VS} {t : ElemType} (h : o.ty = some t) :
    ∃ k, exec (.vextl o) s = xWordRes s o.g (fun x => x.active o.g t.width o.imm32.toNat) [o.va] [] k := by
  dsimp only [exec, execVextl]
  rw [h]
  exact ⟨_, rfl⟩

/-- The repetition that ends a clk, or takes one of its own, is followed in the next (R158). -/
theorem xDone_next_clk {r : RepSt} {solo : Bool} {bank : Nat} (hr : x.qx.cur.rep = some r) (hi : r.i + 1 < r.px.count.toNat)
    (h : (solo || r.half != 0) = true) : (x.xDone solo bank).qx.cur.rep = some { r with i := r.i + 1, half := 0 } ∧
      (x.xDone solo bank).xclk = x.xclk + 1 := by
  simp only [Ctx.xDone, hr, if_neg (Nat.not_le.mpr hi), h, if_true]
  exact ⟨rfl, rfl⟩

/-- The first of two that share a clk leaves the clk to the second. -/
theorem xDone_same_clk {r : RepSt} {bank : Nat} (hr : x.qx.cur.rep = some r) (hi : r.i + 1 < r.px.count.toNat) (h : r.half = 0) :
    (x.xDone false bank).qx.cur.rep = some { r with i := r.i + 1, half := 1, bank := bank } ∧
      (x.xDone false bank).xclk = x.xclk := by
  simp only [Ctx.xDone, hr, if_neg (Nat.not_le.mpr hi), h, bne_self_eq_false, Bool.or_self, Bool.false_eq_true, if_false,
    and_self]

/-- Settles O47: each word is one of three tests, and each test has its reasons not to issue; REP's clks are `xDone`'s. -/
theorem vectorWordsThatDoNotIssue : Obligations.VectorWordsThatDoNotIssue := by
  unfold Obligations.VectorWordsThatDoNotIssue
  refine ⟨fun s x o m v hx hr => ⟨fun hg => ?_, fun hg w hw => (vmWords_testBit s m w hw).guardFails hx hr hg,
      (rrbset_testsBit s v).guardFails hx hr⟩,
    fun s x w r hw hf hx => ?_, fun s x w r passes hw hx hpass => ?_,
    fun s x o m v hx hr => ⟨fun hp w hw => (v4Words_testBit s o w hw).guardPends hx hr hp,
      fun hp w hw => (vmWords_testBit s m w hw).guardPends hx hr hp, (rrbset_testsBit s v).guardPends hx hr⟩,
    fun x r hr hi => ⟨?_, xDone_next_clk hr hi rfl⟩⟩
  · obtain ⟨_, hmov⟩ := execXmov_eq s o
    have hbit := v4Words_testBit s o
    simp only [List.forall_mem_cons, List.not_mem_nil, false_imp_iff, implies_true, and_true] at hbit ⊢
    exact ⟨hbit.1.guardFails hx hr hg, hmov.trans (xWordRes_guardFails hx hr hg), hbit.2.guardFails hx hr hg⟩
  · obtain ⟨_, hk⟩ := exec_readsVec hw hf (s := s)
    exact ⟨fun hroom => hk.trans (xWord_waits hx hroom), fun hroom hq hr hp => hk.trans (xWord_pends hx hroom hq hr hp)⟩
  · rcases hw with ⟨o, rfl, rfl, rfl⟩ | ⟨o, t, rfl, ht, rfl, rfl⟩
    · obtain ⟨_, hk⟩ := execXmov_eq s o
      exact ⟨fun hroom => hk.trans (xWordRes_waits hx hpass hroom),
        fun hroom hq hr hp => hk.trans (xWordRes_pends hx hpass hroom hq hr hp)⟩
    · obtain ⟨_, hk⟩ := execVextl_eq s (o := o) ht
      exact ⟨fun hroom => hk.trans (xWordRes_waits hx hpass hroom),
        fun hroom hq hr hp => hk.trans (xWordRes_pends hx hpass hroom hq hr hp)⟩
  · by_cases h : r.half = 0
    · rw [if_pos h, if_pos h, if_pos h]
      exact xDone_same_clk hr hi h
    · have hnext := xDone_next_clk (solo := false) (bank := 0) hr hi (by simpa using h)
      rw [if_neg h, if_neg h, if_neg h]
      exact hnext

end Sys2Proof
end

section
/-! A word that has issued and holds the control core, when the back-reference of its section is satisfied (R36, R91). -/

namespace Sys2Proof

open Sys2Proof.Machine
variable {s : State} {x : Ctx}

/-- The control core that enters its section holds nothing any more: the word that had issued is gone with the hold. -/
theorem execBackReferenceSatisfied_ctl (hu : s.cur.unit = .ctl) (hx : s.ctx? = some x) :
    exec .backReferenceSatisfied s = .next (s.putCtx { x.unheld with ctl := { x.ctl with phase := .inside } }) := by
  change execBackReferenceSatisfied s = _
  simp only [execBackReferenceSatisfied, hx, hu]

/-- An outcome that puts the executing context back determines the context. -/
theorem eq_of_next_putCtx {y z : Ctx} (h : (.next (s.putCtx y) : Out) = .next (s.putCtx z)) : y = z := by
  have hs : s.putCtx y = s.putCtx z := Host.Outcome.next.inj h
  exact Option.some.inj (by rw [← ctx?_putCtx s y, hs, ctx?_putCtx])

/-- A context whose control core is held by a word that has issued. -/
def heldByWord : Ctx := { placeCtx with hold := .busy, issue := some { word := 0, s := placeCtx.regs.s } }

/-- Its control core executes in bank 0 of core 0. -/
def heldByWordState : State := ({ State.reset with cur := { core := 0, bank := 0, unit := .ctl } } : State).putCtx heldByWord

theorem heldByWordState_ctx? : heldByWordState.ctx? = some heldByWord := ctx?_putCtx _ _

/-- Refutes O53: its clause on a satisfied back-reference of the control core leaves `issue` as it was, and the model clears it
with the rest of the hold (`Ctx.unheld`). In `heldByWordState` a word has issued, so the two differ. -/
theorem not_pipelineEvents : ¬ Obligations.PipelineEvents := by
  unfold Obligations.PipelineEvents
  rintro ⟨hsec, -⟩
  obtain ⟨-, -, hsat, -⟩ := hsec heldByWordState heldByWord 0 heldByWordState_ctx?
  obtain ⟨y, hy, rfl⟩ := hsat rfl
  have hmodel := execBackReferenceSatisfied_ctl (s := heldByWordState) rfl heldByWordState_ctx?
  have hissue := congrArg Ctx.issue (eq_of_next_putCtx (hy.symm.trans hmodel))
  change some _ = none at hissue
  exact Option.some_ne_none _ hissue

end Sys2Proof
end

section
/-! SUPPORT. MTS to the registers of plain fields, and the generators' resets. -/

namespace Sys2Proof

open Sys2Proof.Machine
variable {s : State} {x : Ctx} {o : C3}

/-! ### The register map and the fields of a value (R72) -/

theorem sysAccess_bfmt {n : Nat} (h1 : 0x040 ≤ n) (h2 : n ≤ 0x05F) : sysAccess n = some ⟨true, true, true⟩ := by
  grind [sysAccess]

theorem sysAccess_ageus {n : Nat} (h1 : 0x070 ≤ n) (h2 : n ≤ 0x077) : sysAccess n = some ⟨false, false, true⟩ := by
  grind [sysAccess]

theorem sysAccess_desc {n : Nat} (h1 : 0x200 ≤ n) (h2 : n < 0x400) (h3 : n % 16 < 13) : sysAccess n = some ⟨true, true, true⟩ := by
  grind [sysAccess]

/-- The bits from lo up are zero where the value is below 2^lo. -/
theorem highField_zero (v : Word) {lo n : Nat} (h : lo + n = 64) : (fieldNat v lo n == 0) = decide (v.toNat < 2 ^ lo) := by
  have hv : v.toNat < 2 ^ lo * 2 ^ n := by rw [← pow_add, h]; exact v.isLt
  have hd : v.toNat / 2 ^ lo < 2 ^ n := Nat.div_lt_of_lt_mul hv
  simp only [fieldNat, BitVec.extractLsb'_toNat, Nat.shiftRight_eq_div_pow, Nat.mod_eq_of_lt hd, beq_eq_decide,
    Nat.div_eq_zero_iff_lt (Nat.two_pow_pos lo)]

theorem lowField_zero (v : Word) (n : Nat) : (fieldNat v 0 n == 0) = (v.toNat % 2 ^ n == 0) := by
  simp only [fieldNat, BitVec.extractLsb'_toNat, Nat.shiftRight_zero]

theorem fieldNat_beq_zero (v : Word) (lo n : Nat) : (fieldNat v lo n == 0) = (v.extractLsb' lo n == 0) := by
  rw [Bool.eq_iff_iff, beq_iff_eq, beq_iff_eq]
  exact BitVec.toNat_inj (y := 0)

/-! ### MTS (R72, R113) -/

/-- The register takes values from the control core in the view of the context. -/
def Writable (x : Ctx) (n : Nat) : Prop := ∃ a, sysAccess n = some a ∧ a.pw = true ∧ (a.uw = true ∨ (x.id.priv = true ∧ a.ur = false))

theorem writable_of_rw {n : Nat} (h : sysAccess n = some ⟨true, true, true⟩) : Writable x n := ⟨_, h, rfl, .inl rfl⟩

theorem writable_of_priv {n : Nat} (h : sysAccess n = some ⟨false, false, true⟩) (hp : x.id.priv = true) : Writable x n :=
  ⟨_, h, rfl, .inr ⟨hp, rfl⟩⟩

/-- MTS to a register that the context may write: the value is written, or refused. -/
theorem mtsWord_runs (h : CtlRuns s o.g [o.sa] x) (ha : Writable x o.sysNum) {ok : Ctx → Word → Bool} {k : Ctx → Word → Out} :
    mtsWord o s ok k = if ok x (x.rd o.sa) then k x (x.rd o.sa) else .next (s.trapP x .illegal) := by
  obtain ⟨a, ha, hpw, hview⟩ := ha
  unfold mtsWord
  rw [ctlWord_runs h, ha]
  rcases hview with huw | ⟨hpriv, -⟩ <;> cases hok : ok x (x.rd o.sa) <;> simp [*]

/-- A word that takes effect in its clk with the context y where its value is accepted, and else raises ILLEGAL. -/
def MtsSets (w : Instr) (s : State) (x : Ctx) (ok : Bool) (y : Ctx) : Prop :=
  (ok = true → ∃ t, exec w s = .next t ∧ Advances s y 1 t) ∧ (ok = false → exec w s = .next (s.trapP x .illegal))

theorem mtsSets_of_ite {w : Instr} {ok : Bool} {y : Ctx}
    (h : exec w s = if ok then .next (s.ctlDone y) else .next (s.trapP x .illegal)) : MtsSets w s x ok y := by
  refine ⟨fun hok => ⟨_, ?_, ctlDone_advances s y 1⟩, fun hok => ?_⟩
  · rw [h, hok, if_pos rfl]
  · rw [h, hok]; rfl

/-- MTS to a register without a write behaviour of its own. -/
theorem execMts_runs (h : CtlRuns s o.g [o.sa] x) {n : Nat} (hn : o.sysNum = n) (ha : Writable x n) :
    exec (.mts o) s = if mtsPlainOk n (x.rd o.sa) then
      .next ((sysWrite s x n (x.rd o.sa)).1.ctlDone (sysWrite s x n (x.rd o.sa)).2) else .next (s.trapP x .illegal) := by
  subst hn
  exact mtsWord_runs h ha (ok := fun _ v => mtsPlainOk o.sysNum v)
    (k := fun x v => .next ((sysWrite s x o.sysNum v).1.ctlDone (sysWrite s x o.sysNum v).2))

theorem execMts_sets (h : CtlRuns s o.g [o.sa] x) {n : Nat} (hn : o.sysNum = n) (ha : Writable x n) {ok : Bool} {z : Sys}
    (hok : mtsPlainOk n (x.rd o.sa) = ok) (hw : sysWrite s x n (x.rd o.sa) = (s, { x with sys := z })) :
    MtsSets (.mts o) s x ok { x with sys := z } :=
  mtsSets_of_ite (by rw [execMts_runs h hn ha, hok, hw])


theorem sysWrite_bfmt (k : Fin 32) (v : Word) :
    sysWrite s x (0x040 + k.val) v = (s, { x with sys := { x.sys with bfmt := x.sys.bfmt.set k v } }) := by
  grind [sysWrite, vset]

theorem sysWrite_ageus (p : Fin 8) (v : Word) :
    sysWrite s x (0x070 + p.val) v = ({ s with firm := { s.firm with ageus := s.firm.ageus.set p v.toNat } }, x) := by
  grind [sysWrite, vset]

theorem sysWrite_desc (d : DReg) (k : Fin 13) (v : Word) : sysWrite s x (0x200 + 16 * d.toNat + k.val) v =
    (s, { x with regs := { x.regs with d := x.regs.d.set d.toNat ((x.desc d).set k v) } }) := by
  have hd : BitVec.ofNat 5 ((0x200 + 16 * d.toNat + k.val - 0x200) / 16) = d := by
    rw [show (0x200 + 16 * d.toNat + k.val - 0x200) / 16 = d.toNat by omega, BitVec.ofNat_toNat, BitVec.setWidth_eq]
  have hk : (0x200 + 16 * d.toNat + k.val) % 16 = k.val := by omega
  unfold sysWrite
  rw [hd, hk]
  grind [vset]

theorem mtsPlainOk_bfmt (k : Fin 32) (v : Word) : mtsPlainOk (0x040 + k.val) v = bfmtOk v := by
  grind [mtsPlainOk]

theorem mtsPlainOk_ageus (p : Fin 8) (v : Word) : mtsPlainOk (0x070 + p.val) v = decide (v.toNat < 2 ^ 32) := by
  rw [← highField_zero v (n := 32) rfl]
  grind [mtsPlainOk]

/-- Bounds stand in 32 bits, strides take the whole word. -/
theorem mtsPlainOk_desc {d : DReg} {k : Fin 13} {v : Word} (h : k.val % 2 = 1 → v.toNat < 2 ^ 32) :
    mtsPlainOk (0x200 + 16 * d.toNat + k.val) v = true := by
  have hv := highField_zero v (lo := 32) (n := 32) rfl
  grind [mtsPlainOk]

theorem desc_set (d e : DReg) (k j : Fin 13) (v : Word) :
    ((({ x with regs := { x.regs with d := x.regs.d.set d.toNat ((x.desc d).set k v) } } : Ctx).desc e)[j]) =
      if e = d ∧ j = k then v else (x.desc e)[j] := by
  by_cases he : e = d
  · subst he
    simp only [Ctx.desc, Vector.getElem_set_self, Fin.getElem_fin, Vector.getElem_set, true_and, Fin.ext_iff, eq_comm]
  · have hne : d.toNat ≠ e.toNat := fun h => he (BitVec.eq_of_toNat_eq h.symm)
    simp only [Ctx.desc, Vector.getElem_set_ne _ _ hne, he, false_and, if_false]

/-- MTS to a descriptor word (R153). -/
theorem execMts_desc (h : CtlRuns s o.g [o.sa] x) (d : DReg) (k : Fin 13) (hn : o.sysNum = 0x200 + 16 * d.toNat + k.val)
    (hv : k.val % 2 = 1 → (x.rd o.sa).toNat < 2 ^ 32) :
    ∃ t z, exec (.mts o) s = .next t ∧ Advances s z 1 t ∧ (z.desc d)[k] = x.rd o.sa ∧
      ∀ (e : DReg) (j : Fin 13), ¬ (e = d ∧ j = k) → (z.desc e)[j] = (x.desc e)[j] := by
  have hd := d.isLt
  have ha : Writable x (0x200 + 16 * d.toNat + k.val) :=
    writable_of_rw (sysAccess_desc (by omega) (by omega) (by omega))
  refine ⟨_, _, ?_, ctlDone_advances s { x with regs := { x.regs with d := x.regs.d.set d.toNat ((x.desc d).set k (x.rd o.sa)) } } 1,
    ?_, fun e j hne => ?_⟩
  · rw [execMts_runs h hn ha, mtsPlainOk_desc hv, sysWrite_desc, if_pos rfl]
  · rw [desc_set, if_pos ⟨rfl, rfl⟩]
  · rw [desc_set, if_neg hne]

/-- MTS to AGEUS (R290). -/
theorem execMts_ageus (h : CtlRuns s o.g [o.sa] x) (p : Fin 8) (hn : o.sysNum = 0x070 + p.val) (hp : x.id.priv = true)
    (hv : (x.rd o.sa).toNat < 2 ^ 32) :
    ∃ t, exec (.mts o) s = .next t ∧ t.firm.ageus = s.firm.ageus.set p (x.rd o.sa).toNat ∧ SameMemory s t := by
  have ha : Writable x (0x070 + p.val) := writable_of_priv (sysAccess_ageus (by omega) (by omega)) hp
  refine ⟨({ s with firm := { s.firm with ageus := s.firm.ageus.set p (x.rd o.sa).toNat } } : State).ctlDone x, ?_, rfl, ?_⟩
  · rw [execMts_runs h hn ha, mtsPlainOk_ageus, decide_eq_true hv, sysWrite_ageus, if_pos rfl]
  · exact (ctlDone_advances { s with firm := { s.firm with ageus := s.firm.ageus.set p (x.rd o.sa).toNat } } x 1).2

/-! ### TMR (R87) -/

/-- One clk of TMR: 1 becomes 0 and a TIMER is pending; 0 stays. -/
theorem countTmr_one (y : Ctx) (active : Bool) :
    let counts := active && !y.trapMode
    (y.countTmr active 1).sys.tmr.toNat = (if counts then y.sys.tmr.toNat - 1 else y.sys.tmr.toNat) ∧
      (y.countTmr active 1).pendE = if counts = true ∧ y.sys.tmr = 1 then y.pendE ++ [{ code := .timer, cls := .e }] else y.pendE := by
  unfold Ctx.countTmr
  have h1 : y.sys.tmr.toNat ≤ 1 → y.sys.tmr ≠ 0 → y.sys.tmr = 1 := by bv_omega
  cases hc : active && !y.trapMode with
  | false => simp
  | true =>
    by_cases h0 : y.sys.tmr = 0#64
    · simp [h0]
    · by_cases hle : y.sys.tmr.toNat ≤ 1
      · simp [h1 hle h0]
      · have hne : y.sys.tmr ≠ 1#64 := by rintro h; simp [h] at hle
        have hsub : (y.sys.tmr - BitVec.ofNat 64 1).toNat = y.sys.tmr.toNat - 1 := by bv_omega
        simp [h0, hle, hne, hsub]

/-- MTS to TMR: the value, less the clk that passes. -/
theorem execMtsTmr_sets (h : CtlRuns s o.g [o.sa] x) (hn : o.sysNum = 0x013) :
    let v := x.rd o.sa
    let counts := decide (s.myCore.active = some s.cur.bank) && !x.trapMode
    let left := if v = 0 then x.pendE.filter (·.code != .timer) else x.pendE
    ∃ t y, exec (.mtsTmr o) s = .next t ∧ Advances s { x with sys := { x.sys with tmr := v }, pendE := left } 1 t ∧ t = s.putCtx y ∧
      y.sys.tmr.toNat = (if counts then v.toNat - 1 else v.toNat) ∧
      y.pendE = if counts = true ∧ v = 1 then left ++ [{ code := .timer, cls := .e }] else left := by
  intro v counts left
  have hcounts : counts = ((s.myCore.active == some s.cur.bank) && !x.trapMode) := by rw [beq_eq_decide]
  rw [hcounts]
  have hrun : exec (.mtsTmr o) s = .next (s.ctlDone { x with sys := { x.sys with tmr := v }, pendE := left }) := by
    change execMtsTmr o s = _
    rw [execMtsTmr, mtsWord_runs h (writable_of_rw (hn ▸ rfl)), if_pos rfl]
  obtain ⟨htmr, hpend⟩ := countTmr_one
    { ({ x with sys := { x.sys with tmr := v }, pendE := left } : Ctx).issued with ctl := x.ctl.step, cclk := x.cclk + 1 }
    (s.myCore.active == some s.cur.bank)
  exact ⟨_, _, hrun, ctlDone_advances _ _ _, rfl, htmr, hpend⟩

/-! ### SRSEED, SEED, ROTSZ, RRB and FRAG (R64, R75, R101, R203) -/

theorem execMtsSrseed_sets (h : CtlRuns s o.g [o.sa] x) (hn : o.sysNum = 0x028) : MtsSets (.mtsSrseed o) s x (decide ((x.rd o.sa).toNat < 2 ^ 32))
    { x.reseed (fieldOf (x.rd o.sa) 0 32) with sys := { x.sys with srseed := x.rd o.sa } } :=
  mtsSets_of_ite (by
    change execMtsSrseed o s = _
    rw [execMtsSrseed, mtsWord_runs h (writable_of_rw (hn ▸ rfl)), highField_zero _ rfl])

theorem execMtsSeed_sets (h : CtlRuns s o.g [o.sa] x) (hn : o.sysNum = 0x029) : MtsSets (.mtsSeed o) s x true
    { x.rimeReset (fieldOf (x.rd o.sa) 32 32) with sys := { x.sys with seed := x.rd o.sa } } :=
  mtsSets_of_ite (by
    change execMtsSeed o s = _
    rw [execMtsSeed, mtsWord_runs h (writable_of_rw (hn ▸ rfl))])

theorem execMtsRotsz_sets (h : CtlRuns s o.g [o.sa] x) (hn : o.sysNum = 0x021) : MtsSets (.mtsRotsz o) s x (decide ((x.rd o.sa).toNat ≤ x.vlen))
    { x with sys := { x.sys with rotsz := (x.rd o.sa).toNat, rrb := 0 } } :=
  mtsSets_of_ite (by
    change execMtsRotsz o s = _
    rw [execMtsRotsz, mtsWord_runs h (writable_of_rw (hn ▸ rfl))])

theorem execMtsRrb_sets (h : CtlRuns s o.g [o.sa] x) (hn : o.sysNum = 0x020) :
    MtsSets (.mtsRrb o) s x (decide ((x.rd o.sa).toNat < x.sys.rotsz) || x.rd o.sa == 0)
      { x with sys := { x.sys with rrb := (x.rd o.sa).toNat } } :=
  mtsSets_of_ite (by
    change execMtsRrb o s = _
    rw [execMtsRrb, mtsWord_runs h (writable_of_rw (hn ▸ rfl))])

theorem execMtsFrag_sets (h : CtlRuns s o.g [o.sa] x) (hn : o.sysNum = 0x022) : MtsSets (.mtsFrag o) s x (decide ((x.rd o.sa).toNat < 2 ^ 6))
    { x with sys := { x.sys with frag := x.rd o.sa } } :=
  mtsSets_of_ite (by
    change execMtsFrag o s = _
    rw [execMtsFrag, mtsWord_runs h (writable_of_rw (hn ▸ rfl)), highField_zero _ rfl])

/-! ### Generators before and after a reset (R64, R203) -/

/-- A filter on keys keeps what a key that passes finds. -/
theorem lookup_filter_key {α β : Type} [BEq α] [LawfulBEq α] (p : α → Bool) {k : α} (hk : p k = true) :
    ∀ l : List (α × β), (l.filter fun e => p e.1).lookup k = l.lookup k
  | [] => rfl
  | (a, b) :: l => by
    by_cases ha : k = a
    · subst ha; simp [hk]
    · have hne : (k == a) = false := by simpa using ha
      cases hp : p a <;> simp [hp, hne, List.lookup_cons, lookup_filter_key p hk l]

/-- What the words pushed before a reset find: the generators as they stood, kept under their number while a word uses them. -/
theorem lookup_kept {α β γ : Type} [DecidableEq α] {num : γ → α} {drawers : List γ} {q : γ} (hq : q ∈ drawers) (n : α) (g d d' : β)
    (old : List (α × β)) (h : num q = n ∨ (old.lookup (num q)).isSome = true) :
    ((((n, g) :: old).filter fun p => drawers.any fun r => num r == p.1).lookup (num q)).getD d' =
      if num q = n then g else (old.lookup (num q)).getD d := by
  have hk : (drawers.any fun r => num r == num q) = true := List.any_eq_true.mpr ⟨q, hq, beq_self_eq_true _⟩
  rw [lookup_filter_key (fun k => drawers.any fun r => num r == k) hk, List.lookup_cons]
  by_cases hn : num q = n
  · simp [hn]
  · obtain ⟨v, hv⟩ := Option.isSome_iff_exists.mp (h.resolve_left hn)
    have hne : (num q == n) = false := by simpa using hn
    simp [hn, hne, hv]

theorem reseed_gensAt_old (v : BitVec 32) {q : QWord} (hq : q ∈ x.drawers) (hle : q.cap.gen ≤ x.genNum)
    (h : q.cap.gen = x.genNum ∨ (x.oldGens.lookup q.cap.gen).isSome = true) :
    (x.reseed v).gensAt q.cap.gen = x.gensAt q.cap.gen := by
  have hne : q.cap.gen ≠ x.genNum + 1 := by omega
  refine (if_neg hne).trans ?_
  exact lookup_kept (num := fun q : QWord => q.cap.gen) hq x.genNum x.gens x.gens _ x.oldGens h

theorem rimeReset_rimeAt_old (v : BitVec 32) {q : QWord} (hq : q ∈ x.drawers) (hle : q.cap.rime ≤ x.rimeNum)
    (h : q.cap.rime = x.rimeNum ∨ (x.oldRime.lookup q.cap.rime).isSome = true) :
    (x.rimeReset v).rimeAt q.cap.rime = x.rimeAt q.cap.rime := by
  have hne : q.cap.rime ≠ x.rimeNum + 1 := by omega
  refine (if_neg hne).trans ?_
  exact lookup_kept (num := fun q : QWord => q.cap.rime) hq x.rimeNum x.rime x.rime _ x.oldRime h

theorem reseed_gensAt_new (v : BitVec 32) : (x.reseed v).gensAt (x.genNum + 1) = (x.reseed v).gens := if_pos rfl

theorem rimeReset_rimeAt_new (v : BitVec 32) (c : Fin 16) : ((x.rimeReset v).rimeAt (x.rimeNum + 1))[c] =
    if v ^^^ BitVec.ofNat 32 (c.val * 0x9E3779B9) = 0 then 1 else v ^^^ BitVec.ofNat 32 (c.val * 0x9E3779B9) := by
  have hnew : (x.rimeReset v).rimeAt (x.rimeNum + 1) = rimeSeeds v := if_pos rfl
  simp [hnew, rimeSeeds]

/-- Settles O25: MTS tests the value's reserved fields, and each write is its register's; a reset keeps the generators in use. -/
theorem mtsRegisters : Obligations.MtsRegisters := by
  refine ⟨fun s x o h => ?_, fun s x o h => ?_, fun x v w => ?_⟩
  · intro n v sets
    have sets_rw : ∀ {m : Nat} {ok : Bool} {z : Sys}, sysAccess m = some ⟨true, true, true⟩ → mtsPlainOk m v = ok →
        sysWrite s x m v = (s, { x with sys := z }) → n = m → sets ok z :=
      fun ha hok hw hn => execMts_sets h hn (writable_of_rw ha) hok hw
    have sets_priv : ∀ {m : Nat} {ok : Bool} {z : Sys}, sysAccess m = some ⟨false, false, true⟩ → mtsPlainOk m v = ok →
        sysWrite s x m v = (s, { x with sys := z }) → n = m → x.id.priv = true → sets ok z :=
      fun ha hok hw hn hp => execMts_sets h hn (writable_of_priv ha hp) hok hw
    refine ⟨sets_rw rfl rfl rfl, sets_rw rfl (highField_zero v rfl) rfl, sets_rw rfl ?_ rfl, sets_rw rfl (fieldNat_beq_zero v 19 5) rfl,
      sets_rw rfl (highField_zero v rfl) rfl, sets_rw rfl ?_ rfl, sets_rw rfl ?_ rfl, sets_rw rfl (highField_zero v rfl) rfl,
      sets_rw rfl (highField_zero v rfl) rfl, sets_rw rfl (highField_zero v rfl) rfl, sets_rw rfl (highField_zero v rfl) rfl,
      fun k => sets_rw (sysAccess_bfmt (by omega) (by omega)) (mtsPlainOk_bfmt k v) (sysWrite_bfmt k v),
      sets_priv rfl (highField_zero v rfl) rfl, sets_priv rfl (highField_zero v rfl) rfl, fun d k hn hv => execMts_desc h d k hn hv,
      fun p hn hp hv => execMts_ageus h p hn hp hv⟩
    · rw [← fieldNat_beq_zero, ← fieldNat_beq_zero, ← fieldNat_beq_zero, ← fieldNat_beq_zero]
      rfl
    · exact congrArg₂ (· && ·) (highField_zero v rfl) (lowField_zero v 5)
    · exact congrArg₂ (· && ·) (highField_zero v rfl) (lowField_zero v 3)
  · intro n v illegal
    refine ⟨fun hn => execMtsTmr_sets h hn, fun hn => ?_, fun hn => (execMtsSeed_sets h hn).1 rfl, fun hn => ?_, fun hn => ?_, fun hn => ?_⟩
    · exact ⟨fun hv => (execMtsSrseed_sets h hn).1 (decide_eq_true hv),
        fun hv => (execMtsSrseed_sets h hn).2 (decide_eq_false (Nat.not_lt.mpr hv))⟩
    · exact ⟨fun hv => (execMtsRotsz_sets h hn).1 (decide_eq_true hv),
        fun hv => (execMtsRotsz_sets h hn).2 (decide_eq_false (Nat.not_le.mpr hv))⟩
    · exact ⟨fun hv => (execMtsRrb_sets h hn).1 (by simpa using hv),
        fun hv hv0 => (execMtsRrb_sets h hn).2 (by simpa using ⟨hv, hv0⟩)⟩
    · exact ⟨fun hv => (execMtsFrag_sets h hn).1 (decide_eq_true hv),
        fun hv => (execMtsFrag_sets h hn).2 (decide_eq_false (Nat.not_lt.mpr hv))⟩
  · refine ⟨rfl, rfl, rfl, ?_, rfl, fun c => rimeReset_rimeAt_new v c, fun q hq => ⟨reseed_gensAt_old v hq, rimeReset_rimeAt_old v hq⟩⟩
    rw [reseed_gensAt_new]
    simp [Ctx.reseed]

end Sys2Proof
end

section
/-! SUPPORT. What the results of vector words write: elements, the low bits of a register, and draws of the rounding generator. -/

namespace Sys2Proof.Machine

variable {x : Ctx}

/-! ### Numbers made of elements (R46) -/

theorem ofElems_cons (b v : Nat) (vs : List Nat) : ofElems b (v :: vs) = ofElems b vs * 2 ^ b + v % 2 ^ b := rfl

/-- Element j of a number made of elements. -/
theorem ofElems_elem (b : Nat) : ∀ (vs : List Nat) (j : Nat), ofElems b vs / 2 ^ (b * j) % 2 ^ b = vs.getD j 0 % 2 ^ b
  | [], j => by simp [ofElems]
  | v :: vs, 0 => by simp [ofElems_cons, Nat.add_mod]
  | v :: vs, j + 1 => by
    have hv : (ofElems b vs * 2 ^ b + v % 2 ^ b) / 2 ^ b = ofElems b vs := by
      rw [Nat.mul_comm, Nat.mul_add_div (Nat.two_pow_pos b), Nat.div_eq_of_lt (Nat.mod_lt _ (Nat.two_pow_pos b)), Nat.add_zero]
    rw [ofElems_cons, Nat.mul_succ, Nat.pow_add, Nat.mul_comm (2 ^ (b * j)), ← Nat.div_div_eq_div_mul, hv, ofElems_elem b vs j]
    simp

/-- A number of n elements of b bits stands in b · n bits. -/
theorem ofElems_lt (b : Nat) : ∀ vs : List Nat, ofElems b vs < 2 ^ (b * vs.length)
  | [] => by simp [ofElems]
  | v :: vs => by
    have hv : v % 2 ^ b < 2 ^ b := Nat.mod_lt _ (Nat.two_pow_pos b)
    have hvs : ofElems b vs + 1 ≤ 2 ^ (b * vs.length) := ofElems_lt b vs
    rw [ofElems_cons, List.length_cons, Nat.mul_succ, Nat.pow_add]
    calc ofElems b vs * 2 ^ b + v % 2 ^ b < (ofElems b vs + 1) * 2 ^ b := by rw [Nat.succ_mul]; omega
      _ ≤ 2 ^ (b * vs.length) * 2 ^ b := Nat.mul_le_mul_right _ hvs

/-- An element inside a word is not touched by the word's bound. -/
theorem elemOf_ofNat {w b j : Nat} (n : Nat) (h : b * j + b ≤ w) : elemOf b (BitVec.ofNat w n) j = n / 2 ^ (b * j) % 2 ^ b := by
  rw [elemOf, BitVec.toNat_ofNat, Nat.shiftRight_eq_div_pow, ← Nat.mod_mul_right_div_self, ← Nat.mod_mul_right_div_self, ← Nat.pow_add,
    Nat.mod_mod_of_dvd _ (Nat.pow_dvd_pow 2 h)]

theorem elemOf_lt {w : Nat} (b : Nat) (v : BitVec w) (j : Nat) : elemOf b v j < 2 ^ b := Nat.mod_lt _ (Nat.two_pow_pos b)

/-- Elements put behind `first` others. -/
theorem elemOf_shifted {b first j : Nat} (vs : List Nat) (hj : b * j + b ≤ 1024) (h : first ≤ j) :
    elemOf b (BitVec.ofNat 1024 (ofElems b vs <<< (b * first))) j = vs.getD (j - first) 0 % 2 ^ b := by
  obtain ⟨d, rfl⟩ := Nat.exists_eq_add_of_le h
  rw [elemOf_ofNat _ hj, Nat.shiftLeft_eq, Nat.mul_add, Nat.pow_add, Nat.mul_comm, Nat.mul_div_mul_left _ _ (Nat.two_pow_pos _), ofElems_elem,
    Nat.add_sub_cancel_left]

theorem byteEnable_getLsbD (b : Nat) (f : Nat → Bool) {y : Nat} (hy : y < 128) : (byteEnable b f).getLsbD y = f (8 * y / b) := by
  have h := ofElems_elem 1 ((List.range 128).map fun y => if f (8 * y / b) then 1 else 0) y
  have hbit : ∀ c : Bool, decide ((if c = true then 1 else 0) % 2 = 1) = c := by decide
  simp only [byteEnable, BitVec.getLsbD_ofNat, hy, decide_true, Bool.true_and, Nat.testBit_eq_decide_div_mod_eq]
  simp only [Nat.one_mul, pow_one] at h
  simp [h, hy, hbit]

/-! ### What a result writes (R120) -/

/-- WritesElems speaks of the elements of the register only. -/
theorem WritesElems.congr {vd : VReg} {b : Nat} {on on' : Nat → Bool} {val val' : Nat → Nat} {v : FlightVal}
    (h : WritesElems x vd b on val v) (hdvd : b ∣ 1024) (hon : ∀ j, j < 1024 / b → on j = on' j)
    (hval : ∀ j, j < 1024 / b → on' j = true → val j % 2 ^ b = val' j % 2 ^ b) : WritesElems x vd b on' val' v := by
  obtain ⟨en, w, rfl, hen, hw⟩ := h
  refine ⟨en, w, rfl, fun y hy => ?_, fun j hj hj' => ?_⟩
  · rw [hen y hy, hon _ (Nat.div_lt_div_of_lt_of_dvd hdvd (by omega))]
  · rw [hw j hj (by rw [hon j hj, hj']), hval j hj hj']

/-- The values from element `first` on, where the lane is active. -/
theorem outElems_writes (g : Guard) (b : Nat) (vd : VReg) (vals : List Nat) (first : Nat) :
    WritesElems x vd b (fun j => decide (first ≤ j) && decide (j < first + vals.length) && x.active g b j)
      (fun j => vals.getD (j - first) 0) (x.outElems g b vd vals first) := by
  refine ⟨_, _, rfl, fun y hy => byteEnable_getLsbD b _ hy, fun j hj hon => ?_⟩
  have hin : b * j + b ≤ 1024 := (Nat.mul_succ b j) ▸ (Nat.mul_le_mul_left b hj).trans (Nat.mul_div_le 1024 b)
  simp only [Bool.and_eq_true, decide_eq_true_eq] at hon
  exact elemOf_shifted vals hin hon.1.1

/-- The n values of a function from element `first` on. -/
theorem outElems_writes_range (f : Nat → Nat) {g : Guard} {b : Nat} {vd : VReg} {n first : Nat} (hdvd : b ∣ 1024) :
    WritesElems x vd b (fun j => decide (first ≤ j) && decide (j < first + n) && x.active g b j) (fun j => f (j - first))
      (x.outElems g b vd ((List.range n).map f) first) := by
  refine (outElems_writes g b vd _ first).congr hdvd (fun j _ => by simp) fun j _ hj => ?_
  simp only [Bool.and_eq_true, decide_eq_true_eq] at hj
  have hlt : j - first < n := by omega
  simp [hlt]

/-- Values for every element of the register. -/
theorem outElems_writes_all (f : Nat → Nat) {g : Guard} {b : Nat} {vd : VReg} (hdvd : b ∣ 1024) :
    WritesElems x vd b (x.active g b) f (x.outElems g b vd ((List.range (1024 / b)).map f)) :=
  (outElems_writes_range f hdvd).congr hdvd (fun j hj => by simp [hj]) fun _ _ _ => rfl

/-- The low bits of a number fit a word that has them. -/
theorem toNat_ofNat_mod {w k : Nat} (n : Nat) (h : k ≤ w) : (BitVec.ofNat w (n % 2 ^ k)).toNat = n % 2 ^ k := by
  rw [BitVec.toNat_ofNat, Nat.mod_eq_of_lt ((Nat.mod_lt _ (Nat.two_pow_pos k)).trans_le (Nat.pow_le_pow_right Nat.two_pos h))]

/-- Whole bytes from bit 0 on. -/
theorem outAt_writes (vd : VReg) {bits : Nat} (n : Nat) (h8 : 8 ∣ bits) (hle : bits ≤ 1024) : WritesBits x vd bits n (x.outAt vd 0 bits n) := by
  obtain ⟨k, rfl⟩ := h8
  refine ⟨_, _, rfl, fun y hy => ?_, ?_⟩
  · have hk : 8 * k / 8 = k := by omega
    simp only [Nat.zero_div, Nat.shiftLeft_zero, BitVec.getLsbD_ofNat, hy, decide_true, Bool.true_and, Nat.testBit_two_pow_sub_one, hk]
    exact decide_eq_decide.mpr (by omega)
  · rw [Nat.shiftLeft_zero, toNat_ofNat_mod n hle]

theorem width_pos (t : ElemType) : 0 < t.width := by cases t <;> decide
theorem width_dvd (t : ElemType) : t.width ∣ 1024 := by cases t <;> decide

/-! ### Draws (R64) -/

theorem drawn_zero (r : Rnd) (g : BitVec 32) : drawn r g 0 = g := by simp [drawn]

theorem drawn_succ (r : Rnd) (g : BitVec 32) (n : Nat) : drawn r g (n + 1) = drawn r (if r = .sr then srNext g else g) n := by
  unfold drawn
  split <;> rfl

/-- Element j of a list takes the draw after those of the elements before it. -/
theorem mapDraw_eq {α : Type} (r : Rnd) (f : Nat → α → Nat) : ∀ (g : BitVec 32) (vs : List α),
    mapDraw r f g vs = (vs.zipIdx.map fun (v, j) => f (drawn r g (j + 1)).toNat v, drawn r g vs.length)
  | g, [] => by simp [mapDraw, drawn_zero]
  | g, v :: vs => by
    simp [mapDraw, mapDraw_eq r f _ vs, List.zipIdx_succ, Function.comp_def, drawn_succ r g, drawn_zero]

theorem mapDraw_range {α : Type} (r : Rnd) (f : Nat → α → Nat) (g : BitVec 32) (h : Nat → α) (n : Nat) :
    mapDraw r f g ((List.range n).map h) = ((List.range n).map fun k => f (drawn r g (k + 1)).toNat (h k), drawn r g n) := by
  rw [mapDraw_eq, List.length_map, List.length_range]
  congr 1
  exact List.ext_getElem (by simp) fun i _ _ => by simp

end Sys2Proof.Machine
end

section
/-! SUPPORT. The exact accumulators: the words of R145 and R146, and what a term on the grid adds. -/

namespace Sys2Proof

open Sys2Proof.Machine
variable {s : State} {x : Ctx} {q : QWord} {o : V4}

/-- A word with a result that tests bit 0 of its guard is its effect where that passes, no register is pending and there is room. -/
theorem xWordRes_runs {g : Guard} {ok : Ctx → Bool} {vs : List VReg} {es : List EReg} {k : Ctx → QWord → Out}
    (h : XRuns s g vs [] es x q) (hg : ok x = true) (hroom : x.room .vec = true) : xWordRes s g ok vs es k = k x q := by
  obtain ⟨hx, hq, hp⟩ := h
  have hreads : XRuns s none vs [] es x q := ⟨hx, hq, fun hr => ⟨rfl, (hp hr).2⟩⟩
  simp only [xWordRes, hx, hroom, hg, not_pends fun hr => (hp hr).1, Bool.not_true, Bool.false_and, Bool.false_eq_true, if_false, if_true]
  exact xReads_runs hreads

/-! ### A term on the grid (R67) -/

theorem signedOf_toNat {n : Nat} (v : BitVec n) : signedOf n v.toNat = v.toInt := by
  rcases Nat.eq_zero_or_pos n with rfl | hn
  · simp [signedOf, BitVec.toInt, Subsingleton.elim v 0]
  · have hp : 2 ^ n = 2 * 2 ^ (n - 1) := by rw [← Nat.pow_succ', Nat.succ_eq_add_one, Nat.sub_add_cancel hn]
    rw [signedOf, Nat.mod_eq_of_lt v.isLt, BitVec.toInt_eq_toNat_cond]
    exact if_congr (by omega) rfl rfl

/-- Two's complement of n bits holds the integers of its range. -/
theorem toInt_wrapInt {n : Nat} {i : Int} (hlo : -2 ^ n ≤ i) (hhi : i < 2 ^ n) : (BitVec.ofNat (n + 1) (wrapInt (n + 1) i)).toInt = i := by
  have hwrap : BitVec.ofNat (n + 1) (wrapInt (n + 1) i) = BitVec.ofInt (n + 1) i := by
    apply BitVec.eq_of_toNat_eq
    rw [BitVec.toNat_ofNat, BitVec.toNat_ofInt, wrapInt]
    exact Nat.mod_eq_of_lt (by have := Int.emod_lt_of_pos i (Int.natCast_pos.mpr (Nat.two_pow_pos (n + 1))); omega)
  rw [hwrap, BitVec.toInt_ofInt_eq_self (Nat.succ_pos n) hlo hhi]

/-- The low n bits of a word as two's complement. -/
theorem signedOf_low {w : Nat} (n : Nat) (v : BitVec w) : signedOf n v.toNat = (v.extractLsb' 0 n).toInt := by
  rw [← signedOf_toNat, BitVec.extractLsb'_toNat, Nat.shiftRight_zero]
  simp [signedOf]

/-- XVAL is the low field of an accumulator. -/
theorem xval_eq (e : BitVec 4352) : xval e = (e.extractLsb' 0 4348).toInt := signedOf_low 4348 e

theorem grid_eq {t : ETerm} (h : -2148 ≤ t.ex) :
    t.grid = (if t.neg then -1 else 1) * ((t.mag * 2 ^ (t.ex + 2148).toNat : Nat) : Int) := by
  rw [ETerm.grid, if_neg (Int.not_lt.mpr h), Nat.shiftLeft_eq]
  split <;> simp

theorem not_outOfRange {n : Nat} {v : Int} (hlo : -2 ^ n ≤ v) (hhi : v < 2 ^ n) :
    (decide (v < -((2 ^ n : Nat) : Int)) || decide (((2 ^ n : Nat) : Int) ≤ v)) = false := by
  push_cast
  simp [hlo, hhi]

/-- An accumulator that is made of flags, and of a value in range. -/
theorem mkExact_inRange (nan pinf ninf ovf : Bool) {v : Int} (hlo : -2 ^ 4347 ≤ v) (hhi : v < 2 ^ 4347) :
    mkExact nan pinf ninf ovf v = BitVec.ofBool nan ++ BitVec.ofBool pinf ++ BitVec.ofBool ninf ++ BitVec.ofBool ovf
      ++ BitVec.ofNat 4348 (wrapInt 4348 v) := by
  have hout := not_outOfRange hlo hhi
  simp only [mkExact, hout, Bool.or_false]

/-- The four flags of an accumulator, from the highest down. -/
theorem exactFlags_eq (e : BitVec 4352) : BitVec.ofBool (e.getLsbD 4351) ++ BitVec.ofBool (e.getLsbD 4350) ++ BitVec.ofBool (e.getLsbD 4349)
    ++ BitVec.ofBool (e.getLsbD 4348) = e.extractLsb' 4348 4 := by
  ext i hi
  have hcases : i = 0 ∨ i = 1 ∨ i = 2 ∨ i = 3 := by omega
  simp only [BitVec.getElem_append, BitVec.getElem_extractLsb', BitVec.getElem_ofBool]
  rcases hcases with rfl | rfl | rfl | rfl <;> rfl

/-- A term on the grid adds its value and keeps the flags (R67, R145). -/
theorem addTerms_finite {e : BitVec 4352} {t : ETerm} (hcls : t.cls = 0) (hex : -2148 ≤ t.ex) :
    let v := (e.extractLsb' 0 4348).toInt + (if t.neg then -1 else 1) * ((t.mag * 2 ^ (t.ex + 2148).toNat : Nat) : Int)
    (-2 ^ 4347 ≤ v ∧ v < 2 ^ 4347) →
      ((addTerms e [t]).extractLsb' 0 4348).toInt = v ∧ (addTerms e [t]).extractLsb' 4348 4 = e.extractLsb' 4348 4 := by
  rintro v ⟨hlo, hhi⟩
  have hsum : xval e + (([t].filter (·.cls == 0)).map ETerm.grid).foldr (· + ·) 0 = v := by
    have hfilter : [t].filter (·.cls == 0) = [t] := by simp [hcls]
    rw [hfilter, xval_eq, List.map_cons, List.map_nil, List.foldr_cons, List.foldr_nil, Int.add_zero, grid_eq hex]
  have hadd : addTerms e [t] = e.extractLsb' 4348 4 ++ BitVec.ofNat 4348 (wrapInt 4348 v) := by
    have hany : ∀ c, 0 ≠ c → [t].any (·.cls == c) = false := fun c hc => by simp [hcls, hc]
    rw [addTerms, hsum, mkExact_inRange _ _ _ _ hlo hhi, ← exactFlags_eq, hany 1 (by decide), hany 2 (by decide), hany 3 (by decide)]
    simp only [Bool.or_false]
  rw [hadd, BitVec.extractLsb'_append_eq_left, BitVec.extractLsb'_append_eq_right]
  exact ⟨toInt_wrapInt hlo hhi, rfl⟩

/-! ### XRND (R145) -/

/-- The rounding generator after the draw of a word that rounds once. -/
theorem drawn_one (r : Rnd) (g : BitVec 32) : drawn r g 1 = if r = .sr then srNext g else g := by rw [drawn_succ, drawn_zero]

/-- XRND: one element, of lane pair 0. -/
theorem execXrnd_runs (hroom : x.room .vec = true) (h : XRuns s o.g [] [] [exactOf o.va] x q) :
    ∃ v, XResult (.xrnd o) s (x.withDraws q o.rnd 1) q 8 false v ∧
      WritesElems x o.vd 64 (fun j => j == 0 && x.active o.g 64 0)
        (fun _ => roundExact o.rnd (drawn o.rnd (x.vecGen q) 1).toNat (x.exact (exactOf o.va))) v := by
  refine ⟨x.outElems o.g 64 o.vd [roundExact o.rnd (drawn o.rnd (x.vecGen q) 1).toNat (x.exact (exactOf o.va))], ?_, ?_⟩
  · change execXrnd o s = _
    rw [execXrnd, xWord_runs h hroom, Ctx.withDraws, drawn_one]
    rfl
  · refine (outElems_writes o.g 64 o.vd _ 0).congr (by decide) (fun j _ => ?_) fun j _ hj => ?_
    · cases j <;> simp
    · have hj0 : j = 0 := by simp_all
      rw [hj0]
      rfl

/-- Settles O44: each word is its effect, with its terms or its value on the way; a finite term on the grid adds its value. -/
theorem exactWords : Obligations.ExactWords := by
  refine ⟨fun s x q o => ?_, fun e t hcls hex => addTerms_finite hcls hex⟩
  intro d a f terms
  refine ⟨fun h hg => ?_, fun hroom h => ?_, fun hroom h => ?_, fun hroom h => ⟨execXrnd_runs hroom h, fun hg => ?_⟩⟩
  · exact xWord0_runs h hg
  · exact xWord_runs h hroom
  · exact xWord_runs h hroom
  · exact xWordRes_runs h hg hroom

end Sys2Proof
end

section
/-! SUPPORT. Conversion and quantisation words: where each element is read and written, and its value (R130 to R134). -/

namespace Sys2Proof

open Sys2Proof.Machine
variable {s : State} {x : Ctx} {q : QWord} {o : V4} {t : ElemType}

/-! ### Integers in elements (R55) -/

/-- What an integer element stands for. -/
def intElem (t : ElemType) (e : Nat) : Int := if t.isSigned then (BitVec.ofNat t.width e).toInt else (e : Int)

/-- A number of b bits read as two's complement. -/
theorem signedOf_eq_toInt {b : Nat} (hb : 0 < b) (v : Nat) : signedOf b v = (BitVec.ofNat b v).toInt := by
  have hp : 2 ^ b = 2 * 2 ^ (b - 1) := by rw [← Nat.pow_succ', Nat.succ_eq_add_one, Nat.sub_add_cancel hb]
  rw [signedOf, BitVec.toInt_eq_toNat_cond, BitVec.toNat_ofNat]
  exact if_congr (by omega) rfl rfl

theorem intElem_eq (t : ElemType) (e : Nat) : (if t.isSigned then signedOf t.width e else (e : Int)) = intElem t e := by
  rw [intElem, signedOf_eq_toInt (width_pos t)]

theorem wrapInt_eq (b : Nat) (i : Int) : wrapInt b i = (i % 2 ^ b).toNat := by
  rw [wrapInt, Nat.cast_pow, Nat.cast_ofNat]

theorem fieldNat_eq {w : Nat} (v : BitVec w) (lo n : Nat) : fieldNat v lo n = v.toNat / 2 ^ lo % 2 ^ n := by
  rw [fieldNat, BitVec.extractLsb'_toNat, Nat.shiftRight_eq_div_pow]

/-! ### The frame (R130) -/

/-- VUNPK takes elements of half the width of its results. -/
theorem unpk_widths (hw : WellFormed (.vunpk o)) (ht : o.src = some t) : o.ty.width = 2 * t.width := by
  have h : o.unpkOk = true := hw
  simp only [V4.unpkOk, ht, Bool.and_eq_true, beq_iff_eq] at h
  exact h.1.1.1.2

/-- VPACK takes elements of twice the width of its results. -/
theorem pack_widths (hw : WellFormed (.vpack o)) (ht : o.src = some t) : t.width = 2 * o.ty.width := by
  have h : o.packOk = true := hw
  simp only [V4.packOk, ht, Bool.and_eq_true, beq_iff_eq] at h
  exact h.1.1.1.2

/-- Half as wide elements are twice as many. -/
theorem elems_half {a b : Nat} (hb : b ∣ 1024) (h : b = 2 * a) (ha : 0 < a) : 1024 / a = 1024 / b + 1024 / b := by
  obtain ⟨c, hc⟩ := hb
  subst h
  have h1 : 1024 / (2 * a) = c := Nat.div_eq_of_eq_mul_right (by omega) hc
  have h2 : 1024 / a = c + c := Nat.div_eq_of_eq_mul_right ha (by rw [hc]; ring)
  rw [h1, h2]

/-! ### The words -/

/-- The k-th element that VCVT converts (R131). -/
def cvtElem (s : State) (x : Ctx) (q : QWord) (o : V4) (t : ElemType) (k : Nat) : Nat :=
  encodeElem o.ty o.rnd o.sat (drawn o.rnd (x.vecGen q) (k + 1)).toNat t.isAnyInt
    (decodeElem t (q.f4x o.bank) (s.elem x o.va t.width ((convFrame o t.width o.ty.width).src0 + k)))

/-- VCVT (R131). -/
theorem execVcvt_runs (ht : o.src = some t) (hroom : x.room .vec = true) (h : XRuns s o.g [o.va] [] [] x q) :
    let f := convFrame o t.width o.ty.width
    ∃ v, XResult (.vcvt o) s (x.withDraws q o.rnd f.n) q 3 false v ∧
      WritesElems x o.vd o.ty.width (fun j => decide (f.dst0 ≤ j) && decide (j < f.dst0 + f.n) && x.active o.g o.ty.width j)
        (fun j => cvtElem s x q o t (j - f.dst0)) v := by
  refine ⟨_, ?_, outElems_writes_range (cvtElem s x q o t) (width_dvd _)⟩
  change execVcvt o s = _
  simp only [execVcvt, ht]
  rw [xWord_runs h hroom, mapDraw_range]
  rfl

/-- The j-th element that VPACK converts, of the elements of both sources in order (R132). -/
def packElem (s : State) (x : Ctx) (o : V4) (t : ElemType) (j : Nat) : Nat :=
  encodeInt o.ty o.sat (intElem t 
    (let n := (convFrame o t.width o.ty.width).n
     if j < n then s.elem x o.va t.width j else s.elem x o.vb t.width (j - n)))

/-- The elements of two sources, in order. -/
theorem elemsOf_append {α : Type} (b : Nat) (u v : VWord) (f : Nat → α) : ((elemsOf b u ++ elemsOf b v).map f) =
    (List.range (1024 / b + 1024 / b)).map fun j => f (if j < 1024 / b then elemOf b u j else elemOf b v (j - 1024 / b)) := by
  refine List.ext_getElem (by simp [elemsOf]) fun i _ _ => ?_
  simp only [elemsOf, List.getElem_map, List.getElem_append, List.length_map, List.length_range, List.getElem_range]
  split <;> rfl

/-- VPACK (R132). -/
theorem execVpack_runs (hw : WellFormed (.vpack o)) (ht : o.src = some t) (hroom : x.room .vec = true)
    (h : XRuns s o.g [o.va, o.vb] [] [] x q) : ∃ v, XResult (.vpack o) s x q 3 false v ∧
      WritesElems x o.vd o.ty.width (x.active o.g o.ty.width) (packElem s x o t) v := by
  refine ⟨_, ?_, outElems_writes_all (packElem s x o t) (width_dvd _)⟩
  have hn : (convFrame o t.width o.ty.width).n = 1024 / t.width := by
    rw [convFrame, Nat.max_eq_left (by rw [pack_widths hw ht]; omega)]
  unfold packElem
  rw [hn]
  change execVpack o s = _
  simp only [execVpack, ht, intElem_eq]
  rw [xWord_runs h hroom, elems_half (width_dvd t) (pack_widths hw ht) (width_pos _), elemsOf_append]
  rfl

/-- The k-th element that VUNPK widens (R132). -/
def unpkElem (s : State) (x : Ctx) (o : V4) (t : ElemType) (k : Nat) : Nat :=
  (intElem t (s.elem x o.va t.width ((convFrame o t.width o.ty.width).src0 + k)) % 2 ^ o.ty.width).toNat

/-- VUNPK (R132). -/
theorem execVunpk_runs (hw : WellFormed (.vunpk o)) (ht : o.src = some t) (hroom : x.room .vec = true)
    (h : XRuns s o.g [o.va] [] [] x q) : ∃ v, XResult (.vunpk o) s x q 3 false v ∧
      WritesElems x o.vd o.ty.width (x.active o.g o.ty.width) (unpkElem s x o t) v := by
  refine ⟨_, ?_, outElems_writes_all (unpkElem s x o t) (width_dvd _)⟩
  have hn : (convFrame o t.width o.ty.width).n = 1024 / o.ty.width := by
    rw [convFrame, Nat.max_eq_right (by rw [unpk_widths hw ht]; omega)]
  change execVunpk o s = _
  simp only [execVunpk, ht, intElem_eq, hn, wrapInt_eq]
  rw [xWord_runs h hroom]
  rfl

/-- The k-th element that VQNT makes of lane k (R133). -/
def qntElem (s : State) (x : Ctx) (q : QWord) (o : V4) (k : Nat) : Nat :=
  quantise o.ty o.rnd (decodeF bf16F (quantScale (s.vread x o.vb))) (quantZero (s.vread x o.vb)) (drawn o.rnd (x.vecGen q) (k + 1)).toNat
    (decodeF f32F (s.elem x o.va 32 k))

theorem lanes_eq {α : Type} (v : VWord) (f : Nat → α) : (elemsOf 32 v).map f = (List.range 32).map fun k => f (elemOf 32 v k) :=
  List.map_map

/-- VQNT to I4 and N4 (R133). -/
theorem execVqnt_runs (hdb : o.ty.isDB = false) (hroom : x.room .vec = true)
    (h : XRuns s o.g [o.va, o.vb] [] [] x q) : ∃ v, XResult (.vqnt o) s (x.withDraws q o.rnd 32) q 3 false v ∧
      WritesElems x o.vd 4 (fun j => decide (32 * o.part ≤ j) && decide (j < 32 * o.part + 32) && x.active o.g 4 j)
        (fun j => qntElem s x q o (j - 32 * o.part)) v := by
  refine ⟨_, ?_, outElems_writes_range (qntElem s x q o) (by decide)⟩
  change execVqnt o s = _
  rw [execVqnt, hdb, if_neg Bool.false_ne_true, xWord_runs h hroom]
  simp only [lanes_eq, mapDraw_range]
  rfl

/-- VQNT to a block format: the codes, and the sidecar behind them (R54, R133). -/
theorem execVqnt_runs_block (hdb : o.ty.isDB = true) (hroom : x.room .vec = true) (h : XRuns s none [o.va] [] [] x q) :
    let r := encodeDB o.ty o.rnd o.sat (x.vecGen q) ((List.range 32).map fun k => decodeF f32F (s.elem x o.va 32 k))
    ∃ v, XResult (.vqnt o) s (x.setVecGen q r.2.2) q 3 false v ∧
      WritesBits x o.vd 1024 (ofElems o.ty.width r.1 + r.2.1 % 2 ^ 16 * 2 ^ (32 * o.ty.width)) v := by
  refine ⟨_, ?_, outAt_writes o.vd _ (by decide) le_rfl⟩
  change execVqnt o s = _
  rw [execVqnt, if_pos hdb, xWord_runs h hroom]
  simp only [lanes_eq]
  rfl

/-- What VDQNT makes of element k of a block (R134). -/
def dqntBlock (s : State) (x : Ctx) (o : V4) (t : ElemType) (k : Nat) : Nat :=
  encodeF f32F .rne false 0 (decodeDB t ((s.vread x o.va).toNat / 2 ^ (32 * t.width) % 2 ^ 16) (s.elem x o.va t.width k))

/-- What VDQNT makes of element k of its part of I4 and N4 (R134). -/
def dqntElem (s : State) (x : Ctx) (o : V4) (t : ElemType) (k : Nat) : Nat :=
  let e := s.elem x o.va 4 (32 * o.part + k)
  encodeF f32F .rne false 0 ((FVal.ofInt (if t = .n4 then (e : Int) - quantZero (s.vread x o.vb) else (BitVec.ofNat 4 e).toInt)).mul
    (decodeF bf16F (quantScale (s.vread x o.vb))))

/-- VDQNT of a block (R134). -/
theorem execVdqnt_runs_block (ht : o.src = some t) (hdb : t.isDB = true) (hroom : x.room .vec = true)
    (h : XRuns s o.g [o.va] [] [] x q) : ∃ v, XResult (.vdqnt o) s x q 3 false v ∧
      WritesElems x o.vd 32 (x.active o.g 32) (dqntBlock s x o t) v := by
  refine ⟨_, ?_, outElems_writes_all (dqntBlock s x o t) (by decide)⟩
  change execVdqnt o s = _
  simp only [execVdqnt, ht, hdb, if_true, fieldNat_eq]
  rw [xWord_runs h hroom]
  rfl

/-- VDQNT of I4 and N4 (R134). -/
theorem execVdqnt_runs (ht : o.src = some t) (hdb : t.isDB = false) (hroom : x.room .vec = true)
    (h : XRuns s o.g [o.va, o.vb] [] [] x q) : ∃ v, XResult (.vdqnt o) s x q 3 false v ∧
      WritesElems x o.vd 32 (x.active o.g 32) (dqntElem s x o t) v := by
  refine ⟨_, ?_, outElems_writes_all (dqntElem s x o t) (by decide)⟩
  change execVdqnt o s = _
  simp only [execVdqnt, ht, hdb, Bool.false_eq_true, if_false, signedOf_eq_toInt (b := 4) (by decide)]
  rw [xWord_runs h hroom]
  rfl

/-- Settles O41, a lemma for each word and each kind of format. -/
theorem conversionWords : Obligations.ConversionWords := by
  intro s x q o t ht hroom
  have hsat : o.mods.getLsbD 0 = o.sat := (bit_eq_getLsbD o.mods 0).symm
  rw [hsat]
  exact ⟨fun _ h => execVcvt_runs ht hroom h, fun hw h => execVpack_runs hw ht hroom h, fun hw h => execVunpk_runs hw ht hroom h,
    fun _ hdb h => execVqnt_runs hdb hroom h, fun _ hdb h => execVqnt_runs_block hdb hroom h,
    fun _ hdb h => execVdqnt_runs_block ht hdb hroom h, fun _ hdb h => execVdqnt_runs ht hdb hroom h⟩

end Sys2Proof
end

section
/-! SUPPORT. Compare-exchange networks on Boolean sequences: a bitonic merge puts a block in order, and so a bitonic sort of 2^m places
does (R142, R143). A sequence is a function of the place; a block is 2^r places from a multiple of 2^r on. -/

namespace Sys2Proof

/-! ### Places of a block -/

theorem blockXor {r b i j : Nat} (hb : 2 ^ r ∣ b) (hi : i < 2 ^ r) (hj : j < 2 ^ r) : (b + i) ^^^ j = b + (i ^^^ j) := by
  obtain ⟨c, rfl⟩ := hb
  have hx := Nat.xor_lt_two_pow hi hj
  have hdiv : ((2 ^ r * c + i) ^^^ j) / 2 ^ r = c := by
    rw [Nat.xor_div_two_pow, Nat.mul_add_div (Nat.two_pow_pos r), Nat.div_eq_of_lt hi, Nat.div_eq_of_lt hj, Nat.add_zero, Nat.xor_zero]
  have hmod : ((2 ^ r * c + i) ^^^ j) % 2 ^ r = i ^^^ j := by
    rw [Nat.xor_mod_two_pow, Nat.mul_add_mod, Nat.mod_eq_of_lt hi, Nat.mod_eq_of_lt hj]
  rw [← Nat.div_add_mod ((2 ^ r * c + i) ^^^ j) (2 ^ r), hdiv, hmod]

theorem xor_two_pow_low {r i : Nat} (hi : i < 2 ^ r) : i ^^^ 2 ^ r = i + 2 ^ r := by
  have h := Nat.two_pow_add_eq_or_of_lt hi 1
  rw [Nat.add_comm, ← Nat.mul_one (2 ^ r), h]
  refine Nat.eq_of_testBit_eq fun n => ?_
  have hn : r = n → i.testBit n = false := fun hn => Nat.testBit_lt_two_pow (hn ▸ hi)
  simp only [Nat.mul_one, Nat.testBit_xor, Nat.testBit_or, Nat.testBit_two_pow]
  by_cases h : r = n <;> simp [h, hn]

theorem xor_two_pow_high {r i : Nat} (hi : i < 2 ^ r) : (i + 2 ^ r) ^^^ 2 ^ r = i := by
  rw [← xor_two_pow_low hi, Nat.xor_assoc, Nat.xor_self, Nat.xor_zero]

/-! ### Steps -/

/-- The direction of place i in a phase of blocks of k places: upwards, unless DESC or the place turns it (R142). -/
def upAt (k : Nat) (desc : Bool) (i : Nat) : Bool := (i &&& k == 0) != desc

/-- One compare-exchange step on a Boolean sequence: the lower place of a pair that goes up takes the smaller value. -/
def boolStep (j k : Nat) (desc : Bool) (f : Nat → Bool) (i : Nat) : Bool :=
  if decide (i < i ^^^ j) == upAt k desc (min i (i ^^^ j)) then f i && f (i ^^^ j) else f i || f (i ^^^ j)

/-- Steps in turn. -/
def boolSteps (desc : Bool) (steps : List (Nat × Nat)) (f : Nat → Bool) : Nat → Bool :=
  steps.foldl (fun f jk => boolStep jk.1 jk.2 desc f) f

theorem boolSteps_append (desc : Bool) (l l' : List (Nat × Nat)) (f : Nat → Bool) :
    boolSteps desc (l ++ l') f = boolSteps desc l' (boolSteps desc l f) := List.foldl_append

/-! ### Bitonic sequences -/

/-- The places that hold 1 are consecutive among the first n, or those that hold 0 are. -/
def Bitonic (f : Nat → Bool) (n : Nat) : Prop :=
  ∃ lo hi, (∀ i, i < n → f i = decide (lo ≤ i ∧ i < hi)) ∨ ∀ i, i < n → f i = !decide (lo ≤ i ∧ i < hi)

/-- The first n places are in order. -/
def Ordered (up : Bool) (f : Nat → Bool) (n : Nat) : Prop := ∀ i j, i < j → j < n → f i = up → f j = up

/-- The first n places all hold c. -/
def Constant (c : Bool) (f : Nat → Bool) (n : Nat) : Prop := ∀ i, i < n → f i = c

theorem Bitonic.congr {f g : Nat → Bool} {n : Nat} (h : Bitonic f n) (hg : ∀ i, i < n → g i = f i) : Bitonic g n := by
  obtain ⟨lo, hi, h⟩ := h
  exact ⟨lo, hi, h.imp (fun h i hi => (hg i hi).trans (h i hi)) fun h i hi => (hg i hi).trans (h i hi)⟩

theorem Constant.congr {c : Bool} {f g : Nat → Bool} {n : Nat} (h : Constant c f n) (hg : ∀ i, i < n → g i = f i) : Constant c g n :=
  fun i hi => (hg i hi).trans (h i hi)

theorem Bitonic.not {f : Nat → Bool} {n : Nat} (h : Bitonic f n) : Bitonic (fun i => !f i) n := by
  obtain ⟨lo, hi, h | h⟩ := h
  · exact ⟨lo, hi, .inr fun i hi' => congrArg _ (h i hi')⟩
  · exact ⟨lo, hi, .inl fun i hi' => (congrArg _ (h i hi')).trans (Bool.not_not _)⟩

/-- A half-cleaner makes two bitonic halves of a bitonic sequence, and the smaller one is all 0 or the larger all 1. -/
def HalfCleans (f : Nat → Bool) (n : Nat) : Prop :=
  Bitonic (fun i => f i && f (n + i)) n ∧ Bitonic (fun i => f i || f (n + i)) n ∧
    (Constant false (fun i => f i && f (n + i)) n ∨ Constant true (fun i => f i || f (n + i)) n)

theorem halfCleans_ones {f : Nat → Bool} {n lo hi : Nat} (h : ∀ i, i < 2 * n → f i = decide (lo ≤ i ∧ i < hi)) : HalfCleans f n := by
  have hand : ∀ i, i < n → (f i && f (n + i)) = decide (lo ≤ i ∧ i < hi - n) := fun i hi' => by
    rw [h i (by omega), h (n + i) (by omega), Bool.eq_iff_iff]
    simp only [Bool.and_eq_true, decide_eq_true_eq]
    omega
  have hor : ∀ i, i < n → (f i || f (n + i)) = decide ((lo ≤ i ∧ i < hi) ∨ (lo ≤ n + i ∧ n + i < hi)) := fun i hi' => by
    rw [h i (by omega), h (n + i) (by omega), Bool.decide_or]
  refine ⟨⟨lo, hi - n, .inl hand⟩, ?_, ?_⟩
  · rcases Nat.lt_or_ge lo n with hlo | hlo
    · rcases Nat.lt_or_ge n hi with hhi | hhi
      · refine ⟨hi - n, lo, .inr fun i hi' => (hor i hi').trans ?_⟩
        rw [← decide_not]
        exact decide_eq_decide.mpr (by omega)
      · exact ⟨lo, hi, .inl fun i hi' => (hor i hi').trans (decide_eq_decide.mpr (by omega))⟩
    · exact ⟨lo - n, hi - n, .inl fun i hi' => (hor i hi').trans (decide_eq_decide.mpr (by omega))⟩
  · rcases Nat.lt_or_ge lo (min n (hi - n)) with hlo | hlo
    · exact .inr fun i hi' => (hor i hi').trans (decide_eq_true (by omega))
    · exact .inl fun i hi' => (hand i hi').trans (decide_eq_false (by omega))

/-- With 0 and 1 exchanged, the halves change places. -/
theorem HalfCleans.of_not {f : Nat → Bool} {n : Nat} (h : HalfCleans (fun i => !f i) n) : HalfCleans f n := by
  obtain ⟨hand, hor, hconst⟩ := h
  have hand' : ∀ i, (f i && f (n + i)) = !(!f i || !f (n + i)) := fun i => by rw [Bool.not_or, Bool.not_not, Bool.not_not]
  have hor' : ∀ i, (f i || f (n + i)) = !(!f i && !f (n + i)) := fun i => by rw [Bool.not_and, Bool.not_not, Bool.not_not]
  unfold HalfCleans
  simp only [hand', hor']
  exact ⟨hor.not, hand.not, hconst.symm.imp (fun hc i hi => congrArg _ (hc i hi)) fun hc i hi => congrArg _ (hc i hi)⟩

theorem Bitonic.halfCleans {f : Nat → Bool} {n : Nat} (h : Bitonic f (2 * n)) : HalfCleans f n := by
  obtain ⟨lo, hi, h | h⟩ := h
  · exact halfCleans_ones h
  · exact .of_not (halfCleans_ones fun i hi' => by rw [h i hi', Bool.not_not])

/-- A sequence in order changes once. -/
theorem Ordered.threshold {up : Bool} {f : Nat → Bool} {n : Nat} (h : Ordered up f n) : ∃ t, t ≤ n ∧ ∀ i, i < n → (f i = up ↔ t ≤ i) := by
  by_cases hex : ∃ i, i < n ∧ f i = up
  · obtain ⟨hlt, hup⟩ := Nat.find_spec hex
    refine ⟨Nat.find hex, hlt.le, fun i hi => ⟨fun hf => Nat.find_min' hex ⟨hi, hf⟩, fun hle => ?_⟩⟩
    rcases hle.eq_or_lt with heq | hgt
    · exact heq ▸ hup
    · exact h _ _ hgt hi hup
  · exact ⟨n, le_rfl, fun i hi => ⟨fun hf => absurd ⟨i, hi, hf⟩ hex, fun hle => absurd hi (Nat.not_lt.mpr hle)⟩⟩

/-- A part in order and a part in the other order are bitonic together. -/
theorem bitonic_of_ordered {up : Bool} {f : Nat → Bool} {n : Nat} (h1 : Ordered up f n) (h2 : Ordered (!up) (fun i => f (n + i)) n) :
    Bitonic f (2 * n) := by
  obtain ⟨t, ht, h1⟩ := h1.threshold
  obtain ⟨u, hu, h2⟩ := h2.threshold
  have hf : ∀ i, i < 2 * n → (f i = up ↔ t ≤ i ∧ i < n + u) := fun i hi => by
    rcases Nat.lt_or_ge i n with hlt | hge
    · rw [h1 i hlt]; omega
    · obtain ⟨j, rfl⟩ := Nat.exists_eq_add_of_le hge
      have hj := not_congr (h2 j (by omega))
      rw [Bool.not_eq_not] at hj
      rw [hj]; omega
  cases up with
  | true => exact ⟨t, n + u, .inl fun i hi => by rw [Bool.eq_iff_iff, hf i hi, decide_eq_true_eq]⟩
  | false => exact ⟨t, n + u, .inr fun i hi => by rw [← decide_not, Bool.eq_iff_iff, decide_eq_true_eq, ← hf i hi, Bool.not_eq_false]⟩

/-! ### Merges and sorts -/

/-- The steps that merge blocks of 2^r places, in a phase of blocks of k. -/
def mergeSteps (k : Nat) : Nat → List (Nat × Nat)
  | 0 => []
  | r + 1 => (2 ^ r, k) :: mergeSteps k r

/-- The steps that sort 2^m places. -/
def sortSteps : Nat → List (Nat × Nat)
  | 0 => []
  | m + 1 => sortSteps m ++ mergeSteps (2 ^ (m + 1)) (m + 1)

/-- Within a block of one direction, a step sees that direction. -/
theorem boolStep_block {k b r i j : Nat} {desc up : Bool} (f : Nat → Bool) (hb : 2 ^ r ∣ b) (hup : ∀ i, i < 2 ^ r → upAt k desc (b + i) = up)
    (hi : i < 2 ^ r) (hj : j < 2 ^ r) : boolStep j k desc f (b + i) =
      if decide (i < i ^^^ j) == up then f (b + i) && f (b + (i ^^^ j)) else f (b + i) || f (b + (i ^^^ j)) := by
  have hx := Nat.xor_lt_two_pow hi hj
  have hmin : min (b + i) (b + (i ^^^ j)) = b + min i (i ^^^ j) := by omega
  rw [boolStep, blockXor hb hi hj, hmin, hup _ (by omega)]
  simp only [Nat.add_lt_add_iff_left]

/-- Blocks of one value keep it. -/
theorem constant_boolSteps {c : Bool} {k b r : Nat} {desc up : Bool} (hb : 2 ^ r ∣ b) (hup : ∀ i, i < 2 ^ r → upAt k desc (b + i) = up) :
    ∀ (r' : Nat) (f : Nat → Bool), r' ≤ r → Constant c (fun i => f (b + i)) (2 ^ r) →
      Constant c (fun i => boolSteps desc (mergeSteps k r') f (b + i)) (2 ^ r)
  | 0, _, _, h => h
  | r' + 1, f, hr, h => by
    refine constant_boolSteps hb hup r' _ (by omega) fun i hi => ?_
    have hj : 2 ^ r' < 2 ^ r := Nat.pow_lt_pow_right (by decide) hr
    have h1 := h i hi
    have h2 := h (i ^^^ 2 ^ r') (Nat.xor_lt_two_pow hi hj)
    dsimp only at h1 h2 ⊢
    rw [boolStep_block f hb hup hi hj, h1, h2]
    simp

/-- The first step of a merge is a half-cleaner in the block's direction. -/
theorem boolStep_halves {k b r : Nat} {desc up : Bool} {f : Nat → Bool} (hb : 2 ^ (r + 1) ∣ b)
    (hup : ∀ i, i < 2 ^ (r + 1) → upAt k desc (b + i) = up) (hf : Bitonic (fun i => f (b + i)) (2 ^ (r + 1))) :
    let g := boolStep (2 ^ r) k desc f
    let lower := fun i => g (b + i)
    let upper := fun i => g (b + 2 ^ r + i)
    Bitonic lower (2 ^ r) ∧ Bitonic upper (2 ^ r) ∧ (Constant (!up) lower (2 ^ r) ∨ Constant up upper (2 ^ r)) := by
  intro g lower upper
  have hn : 2 ^ (r + 1) = 2 * 2 ^ r := Nat.pow_succ'
  have hlower : ∀ i, i < 2 ^ r → lower i = if up then f (b + i) && f (b + (2 ^ r + i)) else f (b + i) || f (b + (2 ^ r + i)) := fun i hi => by
    have hstep := boolStep_block f hb hup (show i < 2 ^ (r + 1) by omega) (show 2 ^ r < 2 ^ (r + 1) by omega)
    rw [xor_two_pow_low hi, decide_eq_true (by omega), Nat.add_comm i] at hstep
    cases up <;> exact hstep
  have hupper : ∀ i, i < 2 ^ r → upper i = if up then f (b + i) || f (b + (2 ^ r + i)) else f (b + i) && f (b + (2 ^ r + i)) := fun i hi => by
    have hstep := boolStep_block f hb hup (show i + 2 ^ r < 2 ^ (r + 1) by omega) (show 2 ^ r < 2 ^ (r + 1) by omega)
    rw [xor_two_pow_high hi, decide_eq_false (by omega), Nat.add_comm i, Bool.and_comm, Bool.or_comm] at hstep
    change g (b + 2 ^ r + i) = _
    rw [Nat.add_assoc]
    cases up <;> exact hstep
  obtain ⟨hand, hor, hconst⟩ := (hn ▸ hf).halfCleans
  cases up with
  | true => exact ⟨hand.congr hlower, hor.congr hupper, hconst.imp (·.congr hlower) (·.congr hupper)⟩
  | false => exact ⟨hor.congr hlower, hand.congr hupper, hconst.symm.imp (·.congr hlower) (·.congr hupper)⟩

/-- Two parts in order are in order together where all of the first, or all of the second, is at its end of the order. -/
theorem ordered_of_halves {up : Bool} {f : Nat → Bool} {n : Nat} (h1 : Ordered up f n) (h2 : Ordered up (fun i => f (n + i)) n)
    (h : Constant (!up) f n ∨ Constant up (fun i => f (n + i)) n) : Ordered up f (2 * n) := by
  intro i j hij hj hi
  rcases Nat.lt_or_ge j n with hjn | hjn
  · exact h1 i j hij hjn hi
  · obtain ⟨d, rfl⟩ := Nat.exists_eq_add_of_le hjn
    rcases Nat.lt_or_ge i n with hin | hin
    · refine h.elim (fun hc => ?_) fun hc => hc d (by omega)
      exact ((Bool.eq_not_self up).mp (hi.symm.trans (hc i hin))).elim
    · obtain ⟨c, rfl⟩ := Nat.exists_eq_add_of_le hin
      exact h2 c d (by omega) (by omega) hi

/-- A merge puts a bitonic block in order (R143). -/
theorem ordered_mergeSteps {k : Nat} {desc up : Bool} : ∀ (r b : Nat) (f : Nat → Bool), 2 ^ r ∣ b →
    (∀ i, i < 2 ^ r → upAt k desc (b + i) = up) → Bitonic (fun i => f (b + i)) (2 ^ r) →
    Ordered up (fun i => boolSteps desc (mergeSteps k r) f (b + i)) (2 ^ r)
  | 0, _, _, _, _, _ => fun i j hij hj => by omega
  | r + 1, b, f, hb, hup, hf => by
    have hn : 2 ^ (r + 1) = 2 * 2 ^ r := Nat.pow_succ'
    have hb1 : 2 ^ r ∣ b := (Nat.pow_dvd_pow 2 (Nat.le_succ r)).trans hb
    have hup1 : ∀ i, i < 2 ^ r → upAt k desc (b + i) = up := fun i hi => hup i (by omega)
    have hb2 : 2 ^ r ∣ b + 2 ^ r := Nat.dvd_add hb1 (Nat.dvd_refl _)
    have hup2 : ∀ i, i < 2 ^ r → upAt k desc (b + 2 ^ r + i) = up := fun i hi => by rw [Nat.add_assoc]; exact hup _ (by omega)
    obtain ⟨hlower, hupper, hconst⟩ := boolStep_halves hb hup hf
    have h1 := ordered_mergeSteps r b _ hb1 hup1 hlower
    have h2 := ordered_mergeSteps r (b + 2 ^ r) _ hb2 hup2 hupper
    have hc := hconst.imp (constant_boolSteps hb1 hup1 r _ le_rfl) (constant_boolSteps hb2 hup2 r _ le_rfl)
    simp only [Nat.add_assoc] at h2 hc
    rw [hn]
    exact ordered_of_halves h1 h2 hc

/-- The bit of a place that turns its direction (R142). -/
theorem upAt_block {m c i : Nat} (desc : Bool) (hi : i < 2 ^ m) : upAt (2 ^ m) desc (2 ^ m * c + i) = (!c.testBit 0 != desc) := by
  have hbit : (2 ^ m * c + i).testBit m = c.testBit 0 := by
    rw [Nat.testBit_two_pow_mul_add c hi, if_neg (Nat.lt_irrefl m), Nat.sub_self]
  rw [upAt, Nat.and_two_pow, hbit]
  have hk : (2 ^ m == 0) = false := beq_eq_false_iff_ne.mpr (Nat.two_pow_pos m).ne'
  cases c.testBit 0 <;> simp [hk]

/-- A sort puts every block in order, upwards and downwards in turn (R143). -/
theorem ordered_sortSteps (desc : Bool) (f : Nat → Bool) : ∀ m c : Nat,
    Ordered (!c.testBit 0 != desc) (fun i => boolSteps desc (sortSteps m) f (2 ^ m * c + i)) (2 ^ m)
  | 0, _ => fun i j hij hj => by omega
  | m + 1, c => by
    have hn : 2 ^ (m + 1) = 2 * 2 ^ m := Nat.pow_succ'
    have hlo : 2 ^ m * (2 * c) = 2 ^ (m + 1) * c := by rw [hn, Nat.mul_left_comm, Nat.mul_assoc]
    have hhi : 2 ^ m * (2 * c + 1) = 2 ^ (m + 1) * c + 2 ^ m := by rw [Nat.mul_succ, hlo]
    have heven : (!(2 * c).testBit 0 != desc) = !desc := by simp
    have hodd : (!(2 * c + 1).testBit 0 != desc) = !!desc := by simp
    have h1 := ordered_sortSteps desc f m (2 * c)
    have h2 := ordered_sortSteps desc f m (2 * c + 1)
    rw [heven, hlo] at h1
    simp only [hodd, hhi, Nat.add_assoc] at h2
    simp only [sortSteps, boolSteps_append]
    refine ordered_mergeSteps (m + 1) _ _ (Nat.dvd_mul_right _ _) (fun i hi => upAt_block desc hi) ?_
    have hbitonic := bitonic_of_ordered h1 h2
    rwa [← hn] at hbitonic

end Sys2Proof
end

section
/-! SUPPORT. Sorting networks on key–value pairs: a threshold on the keys turns them into the Boolean ones (R141 to R143). -/

namespace Sys2Proof

open Sys2Proof.Machine
variable {t : ElemType} {desc : Bool}

/-! ### Keys (R141) -/

/-- The order of keys as integers and floating-point numbers have it, on keys of 32 bits. -/
def pairKey (t : ElemType) (p : KV) : Nat :=
  match t with
  | .i32 => p.1 ^^^ 2 ^ 31
  | .f32 => if p.1.testBit 31 then 2 ^ 32 - 1 - p.1 else p.1 + 2 ^ 31
  | _ => p.1

theorem xor_all_ones {n k : Nat} (h : k < 2 ^ n) : k ^^^ (2 ^ n - 1) = 2 ^ n - 1 - k := by
  have hsub : 2 ^ n - 1 - k = 2 ^ n - (k + 1) := by omega
  refine Nat.eq_of_testBit_eq fun i => ?_
  rw [hsub, Nat.testBit_two_pow_sub_succ h, Nat.testBit_xor, Nat.testBit_two_pow_sub_one]
  by_cases hi : i < n
  · simp [hi]
  · simp [hi, Nat.testBit_lt_two_pow (h.trans_le (Nat.pow_le_pow_right Nat.two_pos (Nat.le_of_not_lt hi)))]

theorem lt_of_testBit_false {n k : Nat} (h : k < 2 ^ (n + 1)) (hk : k.testBit n = false) : k < 2 ^ n := by
  by_contra hge
  have hbit : k.testBit n = true := by
    rw [Nat.testBit_eq_decide_div_mod_eq, Nat.div_eq_of_lt_le (k := 1) (by omega) (by rw [Nat.pow_succ] at h; omega)]
    rfl
  exact Bool.false_ne_true (hk.symm.trans hbit)

theorem pairKey_eq {p : KV} (h : p.1 < 2 ^ 32) : pairKey t p = keyOf t p.1 := by
  cases t with
  | f32 =>
    simp only [pairKey, keyOf]
    split
    · exact (xor_all_ones h).symm
    next hbit => exact (xor_two_pow_low (lt_of_testBit_false h (Bool.eq_false_iff.mpr hbit))).symm
  | _ => rfl

/-! ### A step (R142) -/

/-- The two places of a pair are exchanged. -/
def swaps (t : ElemType) (j k : Nat) (desc : Bool) (p : List KV) (i : Nat) : Bool :=
  let lo := p.getD (min i (i ^^^ j)) (0, 0)
  let hi := p.getD (max i (i ^^^ j)) (0, 0)
  if upAt k desc (min i (i ^^^ j)) then decide (keyOf t hi.1 < keyOf t lo.1) else decide (keyOf t lo.1 < keyOf t hi.1)

/-- The place from which a step takes what it leaves at place i. -/
def sourceOf (t : ElemType) (j k : Nat) (desc : Bool) (p : List KV) (i : Nat) : Nat := if swaps t j k desc p i then i ^^^ j else i

theorem sortStep_eq (j k : Nat) (p : List KV) :
    sortStep t j k desc p = (List.range p.length).map fun i => p.getD (sourceOf t j k desc p i) (0, 0) := by
  refine List.map_congr_left fun i _ => ?_
  simp only [sourceOf, swaps, upAt, List.getD_eq_getElem?_getD]
  rcases Nat.lt_or_ge i (i ^^^ j) with h | h
  · simp only [h, if_true, Nat.min_eq_left h.le, Nat.max_eq_right h.le, apply_ite (fun n : Nat => (p[n]?).getD (0, 0))]
  · simp only [Nat.not_lt.mpr h, if_false, Nat.min_eq_right h, Nat.max_eq_left h, apply_ite (fun n : Nat => (p[n]?).getD (0, 0))]

theorem sortStep_length (j k : Nat) (p : List KV) : (sortStep t j k desc p).length = p.length := by simp [sortStep_eq]

theorem sortStep_getD {j k i : Nat} {p : List KV} (hi : i < p.length) :
    (sortStep t j k desc p).getD i (0, 0) = p.getD (sourceOf t j k desc p i) (0, 0) := by
  simp [sortStep_eq, hi]

theorem swaps_partner (j k : Nat) (p : List KV) (i : Nat) : swaps t j k desc p (i ^^^ j) = swaps t j k desc p i := by
  have hi : (i ^^^ j) ^^^ j = i := by rw [Nat.xor_assoc, Nat.xor_self, Nat.xor_zero]
  simp only [swaps, hi, Nat.min_comm (i ^^^ j), Nat.max_comm (i ^^^ j)]

theorem sourceOf_sourceOf (j k : Nat) (p : List KV) (i : Nat) : sourceOf t j k desc p (sourceOf t j k desc p i) = i := by
  unfold sourceOf
  cases h : swaps t j k desc p i with
  | false => simp [h]
  | true => simp [swaps_partner, h]

theorem sourceOf_lt {m j k : Nat} (p : List KV) {i : Nat} (hj : j < 2 ^ m) (hi : i < 2 ^ m) : sourceOf t j k desc p i < 2 ^ m := by
  unfold sourceOf
  split
  · exact Nat.xor_lt_two_pow hi hj
  · exact hi

theorem map_range_getD {α : Type} (p : List α) (d : α) : ((List.range p.length).map fun i => p.getD i d) = p :=
  List.ext_getElem (by simp) fun i _ hi => by simp [hi]

/-- A step keeps the pairs. -/
theorem sortStep_perm {m j k : Nat} {p : List KV} (hp : p.length = 2 ^ m) (hj : j < 2 ^ m) : (sortStep t j k desc p).Perm p := by
  have hinj : Function.Injective (sourceOf t j k desc p) := Function.LeftInverse.injective (sourceOf_sourceOf j k p)
  have hperm : ((List.range p.length).map (sourceOf t j k desc p)).Perm (List.range p.length) := by
    refine (List.perm_ext_iff_of_nodup (List.nodup_range.map hinj) List.nodup_range).mpr fun a => ?_
    rw [List.mem_map, List.mem_range, hp]
    constructor
    · rintro ⟨i, hi, rfl⟩
      exact sourceOf_lt p hj (List.mem_range.mp hi)
    · exact fun ha => ⟨_, List.mem_range.mpr (sourceOf_lt p hj ha), sourceOf_sourceOf j k p a⟩
  have h := hperm.map fun i => p.getD i (0, 0)
  rw [map_range_getD, List.map_map] at h
  rw [sortStep_eq]
  exact h

/-! ### Thresholds -/

/-- The places whose keys are T or more. -/
def keysFrom (t : ElemType) (T : Nat) (p : List KV) (i : Nat) : Bool := decide (T ≤ keyOf t (p.getD i (0, 0)).1)

/-- Seen through a threshold, a step is the Boolean step. -/
theorem keysFrom_sortStep {m j k T i : Nat} {p : List KV} (hp : p.length = 2 ^ m) (hi : i < 2 ^ m) :
    keysFrom t T (sortStep t j k desc p) i = boolStep j k desc (keysFrom t T p) i := by
  rw [keysFrom, sortStep_getD (hp ▸ hi)]
  unfold sourceOf swaps boolStep keysFrom
  rcases Nat.lt_or_ge i (i ^^^ j) with h | h
  · rw [Nat.min_eq_left h.le, Nat.max_eq_right h.le, decide_eq_true h]
    cases upAt k desc i <;> grind
  · rw [Nat.min_eq_right h, Nat.max_eq_left h, decide_eq_false (Nat.not_lt.mpr h)]
    cases upAt k desc (i ^^^ j) <;> grind

/-- Boolean steps on the first 2^m places look at these alone. -/
theorem boolStep_congr {m j k i : Nat} {f g : Nat → Bool} (h : ∀ i, i < 2 ^ m → f i = g i) (hj : j < 2 ^ m) (hi : i < 2 ^ m) :
    boolStep j k desc f i = boolStep j k desc g i := by
  simp only [boolStep, h i hi, h _ (Nat.xor_lt_two_pow hi hj)]

theorem boolSteps_congr {m : Nat} : ∀ {steps : List (Nat × Nat)} {f g : Nat → Bool}, (∀ jk ∈ steps, jk.1 < 2 ^ m) →
    (∀ i, i < 2 ^ m → f i = g i) → ∀ i, i < 2 ^ m → boolSteps desc steps f i = boolSteps desc steps g i
  | [], _, _, _, h => h
  | jk :: _, f, g, hj, h => boolSteps_congr (f := boolStep jk.1 jk.2 desc f) (g := boolStep jk.1 jk.2 desc g)
      (fun e he => hj e (List.mem_cons_of_mem _ he)) fun _ hi => boolStep_congr h (hj jk List.mem_cons_self) hi

/-! ### Networks (R143) -/

/-- Steps on pairs, in turn. -/
def network (t : ElemType) (desc : Bool) (steps : List (Nat × Nat)) (p : List KV) : List KV :=
  steps.foldl (fun p jk => sortStep t jk.1 jk.2 desc p) p

theorem network_perm {m : Nat} : ∀ {steps : List (Nat × Nat)} {p : List KV}, (∀ jk ∈ steps, jk.1 < 2 ^ m) → p.length = 2 ^ m →
    (network t desc steps p).Perm p
  | [], _, _, _ => .refl _
  | jk :: _, _, hj, hp => (network_perm (fun e he => hj e (List.mem_cons_of_mem _ he)) ((sortStep_length ..).trans hp)).trans
      (sortStep_perm hp (hj jk List.mem_cons_self))

theorem keysFrom_network {m T : Nat} : ∀ {steps : List (Nat × Nat)} {p : List KV}, (∀ jk ∈ steps, jk.1 < 2 ^ m) → p.length = 2 ^ m →
    ∀ i, i < 2 ^ m → keysFrom t T (network t desc steps p) i = boolSteps desc steps (keysFrom t T p) i
  | [], _, _, _, _, _ => rfl
  | jk :: _, p, hj, hp, i, hi => by
    have hrest := fun e he => hj e (List.mem_cons_of_mem jk he)
    exact (keysFrom_network hrest ((sortStep_length ..).trans hp) i hi).trans
      (boolSteps_congr hrest (fun _ hi => keysFrom_sortStep hp hi) i hi)

/-- Pairs in the order of their keys. -/
def KeyOrder (t : ElemType) (desc : Bool) (p : List KV) : Prop :=
  p.Pairwise fun a b => if desc then keyOf t b.1 ≤ keyOf t a.1 else keyOf t a.1 ≤ keyOf t b.1

theorem keysFrom_eq {T i : Nat} {p : List KV} (hi : i < p.length) : keysFrom t T p i = decide (T ≤ keyOf t p[i].1) := by
  simp [keysFrom, hi]

/-- Pairs are in order where every threshold finds them in order. -/
theorem keyOrder_iff {p : List KV} : KeyOrder t desc p ↔ ∀ T, Ordered (!desc) (keysFrom t T p) p.length := by
  rw [KeyOrder, List.pairwise_iff_getElem]
  constructor
  · intro h T i j hij hj
    have hkey := h i j (hij.trans hj) hj hij
    rw [keysFrom_eq (hij.trans hj), keysFrom_eq hj]
    cases desc with
    | false => exact fun hT => decide_eq_true ((of_decide_eq_true hT).trans hkey)
    | true => exact fun hT => decide_eq_false fun hle => of_decide_eq_false hT (hle.trans hkey)
  · intro h i j hi hj hij
    cases desc with
    | false =>
      have hT := h (keyOf t p[i].1) i j hij hj
      rw [keysFrom_eq hi, keysFrom_eq hj] at hT
      exact of_decide_eq_true (hT (decide_eq_true le_rfl))
    | true =>
      have hT := h (keyOf t p[j].1) i j hij hj
      rw [keysFrom_eq hi, keysFrom_eq hj] at hT
      by_contra hlt
      exact of_decide_eq_false (hT (decide_eq_false hlt)) le_rfl

theorem keyOrder_reverse {p : List KV} : KeyOrder t (!desc) p.reverse ↔ KeyOrder t desc p := by
  rw [KeyOrder, List.pairwise_reverse, KeyOrder]
  cases desc <;> simp

theorem mergeSteps_lt {k : Nat} : ∀ {r m : Nat}, r ≤ m → ∀ jk ∈ mergeSteps k r, jk.1 < 2 ^ m
  | r + 1, m, hr, jk, h => by
    rcases List.mem_cons.mp h with rfl | h
    · exact Nat.pow_lt_pow_right (by decide) hr
    · exact mergeSteps_lt (by omega) jk h

theorem sortSteps_lt : ∀ {r m : Nat}, r ≤ m → ∀ jk ∈ sortSteps r, jk.1 < 2 ^ m
  | r + 1, m, hr, jk, h => (List.mem_append.mp h).elim (sortSteps_lt (by omega) jk) (mergeSteps_lt hr jk)

/-- VBSORT's network sorts. -/
theorem keyOrder_sortNetwork {m : Nat} {p : List KV} (hp : p.length = 2 ^ m) : KeyOrder t desc (network t desc (sortSteps m) p) := by
  have hj := sortSteps_lt (le_refl m)
  refine keyOrder_iff.mpr fun T => ?_
  rw [(network_perm hj hp).length_eq, hp]
  intro i j hij hlt
  rw [keysFrom_network hj hp i (hij.trans hlt), keysFrom_network hj hp j hlt]
  have h := ordered_sortSteps desc (keysFrom t T p) m 0 i j hij hlt
  simpa using h

/-- VBMERGE's network merges a sorted list and one that is sorted the other way. -/
theorem keyOrder_mergeNetwork {m : Nat} {p r : List KV} (hp : p.length = 2 ^ m) (hr : r.length = 2 ^ m) (op : KeyOrder t desc p)
    (or : KeyOrder t (!desc) r) : KeyOrder t desc (network t desc (mergeSteps (2 ^ (m + 1)) (m + 1)) (p ++ r)) := by
  have hlen : (p ++ r).length = 2 ^ (m + 1) := by rw [List.length_append, hp, hr, Nat.pow_succ, Nat.mul_two]
  have hj := mergeSteps_lt (k := 2 ^ (m + 1)) (le_refl (m + 1))
  refine keyOrder_iff.mpr fun T => ?_
  rw [(network_perm hj hlen).length_eq, hlen]
  intro i j hij hlt
  rw [keysFrom_network hj hlen i (hij.trans hlt), keysFrom_network hj hlen j hlt]
  have hleft : ∀ i, i < 2 ^ m → keysFrom t T (p ++ r) i = keysFrom t T p i := fun i hi => by
    rw [keysFrom, List.getD_append _ _ _ _ (hp ▸ hi), keysFrom]
  have hright : ∀ i, keysFrom t T (p ++ r) (2 ^ m + i) = keysFrom t T r i := fun i => by
    rw [keysFrom, ← hp, List.getD_append_right _ _ _ _ (Nat.le_add_right _ _), Nat.add_sub_cancel_left, keysFrom]
  have hbitonic : Bitonic (keysFrom t T (p ++ r)) (2 * 2 ^ m) := by
    refine bitonic_of_ordered (up := !desc) (fun i j hij hj => ?_) fun i j hij hj => ?_
    · rw [hleft i (hij.trans hj), hleft j hj]
      exact keyOrder_iff.mp op T i j hij (hp ▸ hj)
    · simp only [hright]
      exact keyOrder_iff.mp or T i j hij (hr ▸ hj)
  rw [← Nat.pow_succ'] at hbitonic
  have hup : ∀ i, i < 2 ^ (m + 1) → upAt (2 ^ (m + 1)) desc (0 + i) = !desc := fun i hi => by
    have h := upAt_block (c := 0) desc hi
    simpa using h
  have h := ordered_mergeSteps (up := !desc) (m + 1) 0 _ (Nat.dvd_zero _) hup (by simpa using hbitonic) i j hij hlt
  simpa using h

end Sys2Proof
end

section
/-! SUPPORT. The merge of two sets whose keys rise (R144). -/

namespace Sys2Proof

open Sys2Proof.Machine
variable {comb : Nat}

/-- Keys that rise. -/
def Ascends (ps : List KV) : Prop := ps.Pairwise fun p r => p.1 < r.1

theorem mergeSets_length_le (u : Bool) (n : Nat) (as bs : List KV) : (mergeSets u comb n as bs).length ≤ n := by
  fun_induction mergeSets u comb n as bs <;> grind

/-- An intersection has no more pairs than its first set. -/
theorem intersect_length_le (n : Nat) (as bs : List KV) : (mergeSets false comb n as bs).length ≤ as.length := by
  fun_induction mergeSets false comb n as bs <;> grind

/-- A key below those of both sets is below those of their merge. -/
theorem below_mergeSets {u : Bool} {n k : Nat} {as bs : List KV} (ha : ∀ p ∈ as, k < p.1) (hb : ∀ p ∈ bs, k < p.1) :
    ∀ p ∈ mergeSets u comb n as bs, k < p.1 := by
  fun_induction mergeSets u comb n as bs <;> grind

theorem ascends_cons_mergeSets {u : Bool} {n : Nat} {as bs : List KV} {p : KV} (ha : ∀ r ∈ as, p.1 < r.1) (hb : ∀ r ∈ bs, p.1 < r.1)
    (h : Ascends (mergeSets u comb n as bs)) : Ascends (p :: mergeSets u comb n as bs) :=
  List.pairwise_cons.mpr ⟨below_mergeSets ha hb, h⟩

theorem ascends_mergeSets {u : Bool} {n : Nat} {as bs : List KV} (ha : Ascends as) (hb : Ascends bs) : Ascends (mergeSets u comb n as bs) := by
  have hcons : ∀ {p : KV} {ps : List KV}, Ascends (p :: ps) ↔ (∀ r ∈ ps, p.1 < r.1) ∧ Ascends ps := List.pairwise_cons
  have hnil : Ascends [] := List.Pairwise.nil
  fun_induction mergeSets u comb n as bs <;> grind [ascends_cons_mergeSets]

/-- The key stands in both sets, and the value is made of both values. -/
def Common (comb : Nat) (as bs : List KV) (p : KV) : Prop := ∃ v w, (p.1, v) ∈ as ∧ (p.1, w) ∈ bs ∧ p.2 = combine comb v w

/-- The pair stands in a set, and its key not in the other. -/
def Alone (as bs : List KV) (p : KV) : Prop := p ∈ as ∧ ∀ w, (p.1, w) ∉ bs

theorem mem_intersect {n : Nat} {as bs : List KV} (ha : Ascends as) (hb : Ascends bs) (hn : as.length + bs.length ≤ n) (p : KV) :
    p ∈ mergeSets false comb n as bs ↔ Common comb as bs p := by
  unfold Ascends at *
  fun_induction mergeSets false comb n as bs <;> grind [List.pairwise_cons, Common]

theorem mem_union {n : Nat} {as bs : List KV} (ha : Ascends as) (hb : Ascends bs) (hn : as.length + bs.length ≤ n) (p : KV) :
    p ∈ mergeSets true comb n as bs ↔ Common comb as bs p ∨ Alone as bs p ∨ Alone bs as p := by
  unfold Ascends at *
  fun_induction mergeSets true comb n as bs <;> grind [List.pairwise_cons, Common, Alone]

end Sys2Proof
end

section
/-! SUPPORT. The reductions, the sorting words and the set words (R140 to R144). -/

namespace Sys2Proof

open Sys2Proof.Machine
variable {s : State} {x : Ctx} {q : QWord} {o : V4}

/-! ### Reductions and scans (R140) -/

theorem width_bytes_of_ffmt {t : ElemType} {fmt : FFmt} (h : t.ffmt? = some fmt) : 8 ∣ t.width := by
  cases t <;> simp [ElemType.ffmt?] at h <;> decide

theorem width_le (t : ElemType) : t.width ≤ 64 := by cases t <;> decide

theorem width_bytes_of_reduceOk (h : o.reduceOk true = true) : 8 ∣ o.ty.width := by
  have hty := (Bool.and_eq_true_iff.mp h).2
  generalize o.ty = t at hty ⊢
  revert hty
  cases t <;> decide

theorem execVrsum_runs (hw : WellFormed (.vrsum o)) (hroom : x.room .vec = true) (h : XRuns s o.g [o.va] [] [] x q) :
    ∃ v, XResult (.vrsum o) s x q 6 false v ∧ WritesBits x o.vd o.ty.width
      (treeSum o.ty (1024 / o.ty.width).log2 (x.participants s o (sumIdentity o.ty))) v :=
  ⟨_, xWord_runs h hroom, outAt_writes o.vd _ (width_bytes_of_reduceOk hw) ((width_le _).trans (by decide))⟩

theorem execVscan_runs (hroom : x.room .vec = true) (h : XRuns s o.g [o.va] [] [] x q) :
    ∃ v, XResult (.vscan o) s x q 6 false v ∧ WritesBits x o.vd 1024
      (ofElems o.ty.width (scanSteps o.ty 1 (1024 / o.ty.width).log2 (x.participants s o (sumIdentity o.ty)))) v :=
  ⟨_, xWord_runs h hroom, outAt_writes o.vd _ (by decide) le_rfl⟩

/-- VRMAX and VRMIN. -/
theorem vecBest_runs {fmt : FFmt} {neg : Bool} {f : FVal → FVal → FVal} {w : Instr} (hw : exec w s = vecBest o neg f s)
    (hfmt : o.ty.ffmt? = some fmt) (hroom : x.room .vec = true) (h : XRuns s o.g [o.va] [] [] x q) :
    ∃ v, XResult w s x q 6 false v ∧ WritesBits x o.vd o.ty.width
      (encodeF fmt .rne false 0 (((x.participants s o (infBits fmt neg)).map (decodeF fmt)).foldl f (.inf neg))) v := by
  refine ⟨_, ?_, outAt_writes o.vd _ (width_bytes_of_ffmt hfmt) ((width_le _).trans (by decide))⟩
  rw [XResult, hw]
  simp only [vecBest, hfmt]
  rw [xWord_runs h hroom]
  rfl

/-- VRARGMAX: the value, and its index above it. -/
theorem execVrargmax_runs {fmt : FFmt} (hfmt : o.ty.ffmt? = some fmt) (hroom : x.room .vec = true) (h : XRuns s o.g [o.va] [] [] x q) :
    let r := (argmax fmt (((List.range (1024 / o.ty.width)).filter (x.active o.g o.ty.width)).map fun j =>
      (s.elem x o.va o.ty.width j, j))).getD (infBits fmt true, 2 ^ 32 - 1)
    ∃ v, XResult (.vrargmax o) s x q 6 false v ∧ WritesBits x o.vd (max o.ty.width 32 + 32) (r.1 + r.2 * 2 ^ max o.ty.width 32) v := by
  have h8 : 8 ∣ max o.ty.width 32 + 32 := by
    generalize o.ty = t
    cases t <;> decide
  have hle : max o.ty.width 32 + 32 ≤ 1024 := by have := width_le o.ty; omega
  refine ⟨_, ?_, outAt_writes o.vd _ h8 hle⟩
  change execVrargmax o s = _
  simp only [execVrargmax, hfmt]
  rw [xWord_runs h hroom]
  rfl

/-! ### Sorting (R141 to R143) -/

theorem desc_eq (o : V4) : o.desc = o.mods.getLsbD 0 := bit_eq_getLsbD o.mods 0

theorem pairsOf_length (v : VWord) : (pairsOf v).length = 2 ^ 4 := by simp [pairsOf]

theorem key_lt_of_mem_pairsOf {v : VWord} {p : KV} (h : p ∈ pairsOf v) : p.1 < 2 ^ 32 := by
  obtain ⟨i, -, rfl⟩ := List.mem_map.mp h
  exact elemOf_lt 32 v (2 * i)

/-- On keys of 32 bits, the order of the keys is that of R141. -/
theorem keyOrder_iff_pairKey {t : ElemType} {desc : Bool} {ps : List KV} (h : ∀ p ∈ ps, p.1 < 2 ^ 32) :
    KeyOrder t desc ps ↔ ps.Pairwise fun p r => if desc then pairKey t r ≤ pairKey t p else pairKey t p ≤ pairKey t r :=
  List.Pairwise.iff_of_mem fun hp hr => by rw [pairKey_eq (h _ hp), pairKey_eq (h _ hr)]

theorem bitonicSort_eq (t : ElemType) (desc : Bool) (ps : List KV) : bitonicSort t desc ps = network t desc (sortSteps 4) ps := rfl

theorem bitonicMerge_eq (t : ElemType) (desc : Bool) (as bs : List KV) :
    bitonicMerge t desc as bs = network t desc (mergeSteps (2 ^ 5) 5) (as ++ bs.reverse) := rfl

theorem bitonicSort_perm (t : ElemType) (desc : Bool) (v : VWord) : (bitonicSort t desc (pairsOf v)).Perm (pairsOf v) := by
  rw [bitonicSort_eq]
  exact network_perm (sortSteps_lt (le_refl 4)) (pairsOf_length v)

theorem bitonicSort_inOrder (t : ElemType) (desc : Bool) (v : VWord) : (bitonicSort t desc (pairsOf v)).Pairwise fun p r =>
    if desc then pairKey t r ≤ pairKey t p else pairKey t p ≤ pairKey t r := by
  refine (keyOrder_iff_pairKey fun p hp => key_lt_of_mem_pairsOf ((bitonicSort_perm t desc v).mem_iff.mp hp)).mp ?_
  rw [bitonicSort_eq]
  exact keyOrder_sortNetwork (pairsOf_length v)

theorem bitonicMerge_perm (t : ElemType) (desc : Bool) (u v : VWord) :
    (bitonicMerge t desc (pairsOf u) (pairsOf v)).Perm (pairsOf u ++ pairsOf v) := by
  have hlen : (pairsOf u ++ (pairsOf v).reverse).length = 2 ^ 5 := by simp [pairsOf_length]
  rw [bitonicMerge_eq]
  exact (network_perm (mergeSteps_lt (le_refl 5)) hlen).trans ((List.reverse_perm _).append_left _)

theorem bitonicMerge_inOrder {t : ElemType} {desc : Bool} {u v : VWord}
    (hu : (pairsOf u).Pairwise fun p r => if desc then pairKey t r ≤ pairKey t p else pairKey t p ≤ pairKey t r)
    (hv : (pairsOf v).Pairwise fun p r => if desc then pairKey t r ≤ pairKey t p else pairKey t p ≤ pairKey t r) :
    (bitonicMerge t desc (pairsOf u) (pairsOf v)).Pairwise fun p r =>
      if desc then pairKey t r ≤ pairKey t p else pairKey t p ≤ pairKey t r := by
  have hlt : ∀ v : VWord, ∀ p ∈ pairsOf v, p.1 < 2 ^ 32 := fun _ _ => key_lt_of_mem_pairsOf
  refine (keyOrder_iff_pairKey fun p hp => ?_).mp ?_
  · exact (List.mem_append.mp ((bitonicMerge_perm t desc u v).mem_iff.mp hp)).elim (hlt u p) (hlt v p)
  · rw [bitonicMerge_eq]
    exact keyOrder_mergeNetwork (pairsOf_length u) ((List.length_reverse ..).trans (pairsOf_length v))
      ((keyOrder_iff_pairKey (hlt u)).mpr hu) (keyOrder_reverse.mpr ((keyOrder_iff_pairKey (hlt v)).mpr hv))

/-- A result that writes sixteen pairs. -/
theorem outPairs_writes {vd : VReg} {ps : List KV} (h : ps.length ≤ 16) : WritesBits x vd 1024 (ofPairs ps) (x.outPairs vd ps) := by
  rw [Ctx.outPairs, List.take_of_length_le h]
  exact outAt_writes vd _ (by decide) le_rfl

/-- What a step leaves at the two places of a pair (R142). -/
theorem sortStep_pair {t : ElemType} {j k i : Nat} {desc : Bool} {ps : List KV} (hlen : ps.length = 2 ^ 4) (hlt : ∀ p ∈ ps, p.1 < 2 ^ 32)
    (hj : j < 2 ^ 4) (hi : i < 2 ^ 4) (hil : i < i ^^^ j) :
    let a := ps.getD i (0, 0)
    let b := ps.getD (i ^^^ j) (0, 0)
    ((sortStep t j k desc ps).getD i (0, 0), (sortStep t j k desc ps).getD (i ^^^ j) (0, 0)) =
      if (upAt k desc i = true ∧ pairKey t b < pairKey t a) ∨ (upAt k desc i = false ∧ pairKey t a < pairKey t b) then (b, a) else (a, b) := by
  intro a b
  have hl : i ^^^ j < 2 ^ 4 := Nat.xor_lt_two_pow hi hj
  have hkey : ∀ n, n < 2 ^ 4 → keyOf t (ps.getD n (0, 0)).1 = pairKey t (ps.getD n (0, 0)) := fun n hn => by
    rw [← hlen] at hn
    refine (pairKey_eq (hlt _ ?_)).symm
    simp [hn]
  have hswaps : swaps t j k desc ps i = decide ((upAt k desc i = true ∧ pairKey t b < pairKey t a) ∨
      (upAt k desc i = false ∧ pairKey t a < pairKey t b)) := by
    simp only [swaps, Nat.min_eq_left hil.le, Nat.max_eq_right hil.le, hkey i hi, hkey _ hl]
    cases upAt k desc i <;> simp [a, b]
  rw [sortStep_getD (hlen ▸ hi), sortStep_getD (hlen ▸ hl), sourceOf, sourceOf, swaps_partner, hswaps, Nat.xor_assoc, Nat.xor_self,
    Nat.xor_zero]
  simp only [decide_eq_true_eq]
  split <;> rfl

/-- VBSTEP (R142). -/
theorem execVbstep_runs (hroom : x.room .vec = true) (h : XRuns s none [o.va] [] [] x q) :
    let ps := sortStep o.ty o.stepJ o.stepK o.desc (pairsOf (s.vread x o.va))
    ∃ v, XResult (.vbstep o) s x q 2 false v ∧ WritesBits x o.vd 1024 (ofPairs ps) v :=
  ⟨_, xWord_runs h hroom, outPairs_writes (by rw [sortStep_length, pairsOf_length]; decide)⟩

theorem stepJ_lt (o : V4) : o.stepJ < 2 ^ 4 := Nat.pow_lt_pow_right (by decide) (o.mods.extractLsb' 1 2).isLt

/-- VBSORT (R143). -/
theorem execVbsort_runs (hroom : x.room .vec = true) (h : XRuns s none [o.va] [] [] x q) :
    ∃ v, XResult (.vbsort o) s x q 20 false v ∧ WritesBits x o.vd 1024 (ofPairs (bitonicSort o.ty o.desc (pairsOf (s.vread x o.va)))) v :=
  ⟨_, xWord_runs h hroom, outPairs_writes (by rw [(bitonicSort_perm ..).length_eq, pairsOf_length]; decide)⟩

/-- VMERGEK (R143). -/
theorem execVmergek_runs (hroom : x.room .vec = true) (h : XRuns s none [o.va, o.vb] [] [] x q) :
    ∃ v, XResult (.vmergek o) s x q 10 false v ∧ WritesBits x o.vd 1024
      (ofPairs ((bitonicMerge o.ty o.desc (pairsOf (s.vread x o.va)) (pairsOf (s.vread x o.vb))).take 16)) v :=
  ⟨_, xWord_runs h hroom, outAt_writes o.vd _ (by decide) le_rfl⟩

/-! ### Sets (R144) -/

theorem setOf_length_le (v : VWord) : (setOf v).length ≤ 16 :=
  (List.takeWhile_sublist _).length_le.trans (pairsOf_length v).le

/-- VISECT (R144). -/
theorem execVisect_runs (hroom : x.room .vec = true) (h : XRuns s none [o.va, o.vb] [] [] x q) :
    ∃ v, XResult (.visect o) s x q 10 false v ∧ WritesBits x o.vd 1024
      (ofPairs (padPairs 16 (mergeSets false o.comb 32 (setOf (s.vread x o.va)) (setOf (s.vread x o.vb))))) v :=
  ⟨_, xWord_runs h hroom, outPairs_writes (List.length_take_le ..)⟩

/-- The intersection of two sets of a register each. -/
theorem intersect_spec {comb : Nat} {u v : VWord} (hu : Ascends (setOf u)) (hv : Ascends (setOf v)) :
    let ps := mergeSets false comb 32 (setOf u) (setOf v)
    Ascends ps ∧ ps.length ≤ 16 ∧ ∀ p, p ∈ ps ↔ Common comb (setOf u) (setOf v) p :=
  ⟨ascends_mergeSets hu hv, (intersect_length_le ..).trans (setOf_length_le u),
    mem_intersect hu hv (Nat.add_le_add (setOf_length_le u) (setOf_length_le v))⟩

/-- Their union. -/
theorem union_spec {comb : Nat} {u v : VWord} (hu : Ascends (setOf u)) (hv : Ascends (setOf v)) :
    let ps := mergeSets true comb 32 (setOf u) (setOf v)
    Ascends ps ∧ ps.length ≤ 32 ∧ ∀ p, p ∈ ps ↔
      Common comb (setOf u) (setOf v) p ∨ Alone (setOf u) (setOf v) p ∨ Alone (setOf v) (setOf u) p :=
  ⟨ascends_mergeSets hu hv, mergeSets_length_le ..,
    mem_union hu hv (Nat.add_le_add (setOf_length_le u) (setOf_length_le v))⟩

/-- Settles O43: a lemma for each word; the networks are bitonic, and what a merge of sets holds follows its recursion. -/
theorem reductionAndSortWords : Obligations.ReductionAndSortWords := by
  intro s x q o hroom b part id0 desc pairs flat both
  have hdesc : desc = o.desc := (desc_eq o).symm
  refine ⟨fun hw h => execVrsum_runs hw hroom h, fun _ h => execVscan_runs hroom h, fun fmt hfmt h => ?_, ?_⟩
  · refine ⟨vecBest_runs rfl hfmt hroom h, vecBest_runs rfl hfmt hroom h, ?_⟩
    obtain ⟨v, hv, hbits⟩ := execVrargmax_runs hfmt hroom h
    exact ⟨v, _, hv, hbits, rfl⟩
  intro key inOrder
  have hkey : ∀ p, key p = pairKey o.ty p := fun _ => rfl
  have hin : ∀ ps, inOrder ps ↔ ps.Pairwise fun p r => if o.desc then pairKey o.ty r ≤ pairKey o.ty p else pairKey o.ty p ≤ pairKey o.ty r :=
    fun ps => by simp only [inOrder, hdesc, hkey]
  have hpairs : ∀ r, pairs r = pairsOf (s.vread x r) := fun _ => rfl
  clear_value key inOrder desc
  subst hdesc
  refine ⟨fun h => ⟨⟨execVbsort_runs hroom h, bitonicSort_perm o.ty o.desc _, (hin _).mpr (bitonicSort_inOrder o.ty o.desc _)⟩, ?_⟩,
    fun h => ⟨bitonicMerge_perm o.ty o.desc _ _, fun ha hb => ?_, fun ha hb => ⟨intersect_spec ha hb, union_spec ha hb⟩,
      xWord_runs h hroom, execVmergek_runs hroom h, execVisect_runs hroom h, xWord_runs h hroom⟩⟩
  · obtain ⟨v, hv, hbits⟩ := execVbstep_runs hroom h
    refine ⟨v, _, hv, hbits, (sortStep_length ..).trans (pairsOf_length _), fun i hi => ?_⟩
    intro l hil
    simp only [hkey, hpairs]
    exact sortStep_pair (pairsOf_length _) (fun _ => key_lt_of_mem_pairsOf) (stepJ_lt o) hi hil
  · exact (hin _).mpr (bitonicMerge_inOrder ((hin _).mp ha) ((hin _).mp hb))

end Sys2Proof
end

section
/-! SUPPORT. Reading part of what was read whole: bytes, sidecars and spans of elements (R53, R56, R261, R262). -/

namespace Sys2Proof.Machine

variable {k : Core} {x : Ctx} {q : QWord} {t : ElemType}

/-! ### Lists of parts that may fault -/

theorem mapM_ok_iff {ε α β : Type} {f : α → Except ε β} : ∀ {l : List α} {ys : List β},
    l.mapM f = .ok ys ↔ List.Forall₂ (fun a b => f a = .ok b) l ys
  | [], ys => by simp [pure, Except.pure, eq_comm]
  | a :: l, ys => by
    rw [List.mapM_cons, List.forall₂_cons_left_iff]
    cases hf : f a with
    | error e => simp [bind, Except.bind]
    | ok b =>
      cases hl : l.mapM f with
      | error e =>
        have hnone : ∀ u, ¬ List.Forall₂ (fun a b => f a = .ok b) l u := fun u hu => by simpa [hl] using mapM_ok_iff.mpr hu
        simp [bind, Except.bind, hnone]
      | ok bs =>
        have hsome : ∀ u, List.Forall₂ (fun a b => f a = .ok b) l u ↔ bs = u := fun u => by rw [← mapM_ok_iff, hl, Except.ok.injEq]
        simp [bind, Except.bind, pure, Except.pure, hsome, eq_comm]

/-- The parts of a range, as a function of the place. -/
theorem mapM_range_ok {ε β : Type} {f : Nat → Except ε β} {n : Nat} {g : Nat → β} (h : ∀ i, i < n → f i = .ok (g i)) :
    (List.range n).mapM f = .ok ((List.range n).map g) := by
  rw [mapM_ok_iff, List.forall₂_map_right_iff, List.forall₂_same]
  exact fun i hi => h i (List.mem_range.mp hi)

theorem eq_of_mapM_range {ε β : Type} {f : Nat → Except ε β} {n : Nat} {ys : List β} (h : (List.range n).mapM f = .ok ys) (d : β) :
    ys = (List.range n).map (fun i => ys.getD i d) ∧ ∀ i, i < n → f i = .ok (ys.getD i d) := by
  have hf := mapM_ok_iff.mp h
  have hlen : ys.length = n := by simpa using hf.length_eq.symm
  refine ⟨List.ext_getElem (by simp [hlen]) fun i hi _ => by simp [hi], fun i hi => ?_⟩
  have hget := (List.forall₂_iff_get.mp hf).2 i (by simpa using hi) (hlen ▸ hi)
  simpa [hlen, hi] using hget

/-! ### Bits of the scratchpad (R235) -/

/-- A row as a macro reads it, where it may. -/
def rowSeen (k : Core) (x : Ctx) (r : Nat) : Row := match readRow k x r with | .ok v => v | .error _ => 0

theorem rowSeen_eq {r : Nat} {v : Row} (h : readRow k x r = .ok v) : rowSeen k x r = v := by rw [rowSeen, h]

/-- Bit m of the scratchpad. -/
def bitSeen (k : Core) (x : Ctx) (m : Nat) : Bool := (rowSeen k x (m / 2048)).getLsbD (m % 2048)

theorem ofElems_testBit {b : Nat} (hb : 0 < b) (vs : List Nat) (m : Nat) :
    (ofElems b vs).testBit m = (vs.getD (m / b) 0).testBit (m % b) := by
  have h := congrArg (·.testBit (m % b)) (ofElems_elem b vs (m / b))
  simp only [Nat.testBit_mod_two_pow, Nat.mod_lt m hb, decide_true, Bool.true_and, Nat.testBit_div_two_pow, Nat.mod_add_div] at h
  exact h

/-- The bits of bytes that a macro reads are those of the scratchpad. -/
theorem readBytes_testBit {a n v : Nat} (h : readBytes k x a n = .ok v) (m : Nat) :
    v.testBit m = (decide (m < 8 * n) && bitSeen k x (8 * a + m)) := by
  unfold readBytes readRows at h
  cases hrows : (List.range ((a % 256 + n + 255) / 256)).mapM (fun i => readRow k x (a / 256 + i)) with
  | error e => rw [hrows] at h; cases h
  | ok rows =>
    rw [hrows] at h
    obtain ⟨hlist, hget⟩ := eq_of_mapM_range hrows 0
    obtain rfl := Except.ok.inj h
    rw [Nat.testBit_mod_two_pow, Nat.testBit_shiftRight, ofElems_testBit (by decide)]
    by_cases hm : m < 8 * n
    · have hi : (8 * (a % 256) + m) / 2048 < (a % 256 + n + 255) / 256 := by omega
      have hdiv : (8 * a + m) / 2048 = a / 256 + (8 * (a % 256) + m) / 2048 := by omega
      have hmod : (8 * a + m) % 2048 = (8 * (a % 256) + m) % 2048 := by omega
      rw [bitSeen, hdiv, hmod, rowSeen_eq (hget _ hi), hlist]
      simp [hm, hi]
      exact BitVec.testBit_toNat _
    · simp [hm]

/-- A field that two reads of bytes hold is the same in both. -/
theorem readBytes_field {a n v a' n' v' i i' w : Nat} (h : readBytes k x a n = .ok v) (h' : readBytes k x a' n' = .ok v')
    (hi : i + w ≤ 8 * n) (hi' : i' + w ≤ 8 * n') (heq : 8 * a + i = 8 * a' + i') : (v >>> i) % 2 ^ w = (v' >>> i') % 2 ^ w := by
  refine Nat.eq_of_testBit_eq fun m => ?_
  rw [Nat.testBit_mod_two_pow, Nat.testBit_mod_two_pow, Nat.testBit_shiftRight, Nat.testBit_shiftRight, readBytes_testBit h,
    readBytes_testBit h']
  by_cases hm : m < w
  · rw [decide_eq_true (show i + m < 8 * n by omega), decide_eq_true (show i' + m < 8 * n' by omega), ← Nat.add_assoc, ← Nat.add_assoc, heq]
  · simp [hm]

/-! ### Sidecars, scales and zero points -/

/-- The elements that one sidecar, or one scale, stands for. -/
def sideSpan (q : QWord) (t : ElemType) (row : Nat) : Nat := if t.isDB then 32 else 32 * 2 ^ (q.fmt row).gsz

/-- The number of the first element of a row in its bank. -/
def rowFirst (t : ElemType) (row : Nat) : Nat := row % 256 * (2048 / t.width)

/-- The elements of the row have sidecars or scales. -/
def hasSides (q : QWord) (t : ElemType) (row : Nat) : Bool := t.isDB || (q.fmt row).grouped

theorem sideSpan_pos (q : QWord) (t : ElemType) (row : Nat) : 0 < sideSpan q t row := by
  unfold sideSpan
  split
  · decide
  · exact Nat.mul_pos (by decide) (Nat.two_pow_pos _)

/-- What is read for elements lo to hi − 1: the first block's number, the sidecars, and the zero points. -/
theorem sideOf_eq {row lo hi : Nat} {side : List Nat} (h : sideOf k x q t row lo hi = .ok side) (hlt : lo < hi) (hs : hasSides q t row = true) :
    let b := (rowFirst t row + lo) / sideSpan q t row
    let n := (rowFirst t row + hi + sideSpan q t row - 1) / sideSpan q t row - b
    ∃ e z, side = [b, e, z >>> (4 * (b % 2))] ∧ readBytes k x ((q.fmt row).aux * 256 + 2 * b) (2 * n) = .ok e ∧
      (if t = .n4 then readBytes k x ((q.fmt row).zp * 256 + b / 2) ((b + n + 1) / 2 - b / 2) = .ok z else z = 0) := by
  intro b n
  have hcond : ¬ (decide (hi ≤ lo) || !hasSides q t row) = true := by rw [decide_eq_false (Nat.not_le.mpr hlt), hs]; exact Bool.false_ne_true
  replace h := (if_neg hcond).symm.trans h
  obtain ⟨e, he, h⟩ := mac_bind_ok h
  by_cases ht : t = .n4
  · obtain ⟨z, hz, h⟩ := mac_bind_ok ((if_pos (by subst ht; rfl)).symm.trans h)
    exact ⟨e, z, (Except.ok.inj h).symm, he, by rwa [if_pos ht]⟩
  · replace h := (if_neg (by rw [decide_eq_false ht, Bool.and_false]; exact Bool.false_ne_true)).symm.trans h
    exact ⟨e, 0, (Except.ok.inj h).symm, he, by rw [if_neg ht]⟩

theorem sideOf_none {row lo hi : Nat} (hs : hi ≤ lo ∨ hasSides q t row = false) : sideOf k x q t row lo hi = .ok [0, 0, 0] := by
  have hcond : (decide (hi ≤ lo) || !hasSides q t row) = true := by
    rcases hs with h | h <;> simp [h]
  exact if_pos hcond

/-- What a row is decoded with is three numbers. -/
theorem sideOf_length {row lo hi : Nat} {side : List Nat} (h : sideOf k x q t row lo hi = .ok side) : side.length = 3 := by
  by_cases hs : hi ≤ lo ∨ hasSides q t row = false
  · obtain rfl := Except.ok.inj ((sideOf_none hs).symm.trans h)
    rfl
  · obtain ⟨hlt, hsides⟩ := not_or.mp hs
    obtain ⟨e, z, rfl, -⟩ := sideOf_eq h (Nat.not_le.mp hlt) (Bool.not_eq_false _ ▸ hsides)
    rfl

/-- Element j of a row finds the same sidecar, and the same zero point, in two readings. -/
def SidesAgree (q : QWord) (t : ElemType) (row j : Nat) (side side' : List Nat) : Prop :=
  let at_ := fun s : List Nat => (rowFirst t row + j) / sideSpan q t row - s.getD 0 0
  (side.getD 1 0 >>> (16 * at_ side)) % 2 ^ 16 = (side'.getD 1 0 >>> (16 * at_ side')) % 2 ^ 16 ∧
    (side.getD 2 0 >>> (4 * at_ side)) % 2 ^ 4 = (side'.getD 2 0 >>> (4 * at_ side')) % 2 ^ 4

/-- What is read for part of a row is in what is read for more of it. -/
theorem sideOf_agree {row lo hi lo' hi' j : Nat} {side side' : List Nat} (h : sideOf k x q t row lo hi = .ok side)
    (h' : sideOf k x q t row lo' hi' = .ok side') (hs : hasSides q t row = true) (hlo : lo ≤ j) (hhi : j < hi) (hlo' : lo' ≤ j)
    (hhi' : j < hi') : SidesAgree q t row j side side' := by
  obtain ⟨e, z, rfl, he, hz⟩ := sideOf_eq h (by omega) hs
  obtain ⟨e', z', rfl, he', hz'⟩ := sideOf_eq h' (by omega) hs
  have hpos := sideSpan_pos q t row
  have hfst : ∀ {l}, l ≤ j → (rowFirst t row + l) / sideSpan q t row ≤ (rowFirst t row + j) / sideSpan q t row :=
    fun hl => Nat.div_le_div_right (by omega)
  have hlst : ∀ {u}, j < u → (rowFirst t row + j) / sideSpan q t row < (rowFirst t row + u + sideSpan q t row - 1) / sideSpan q t row :=
    fun hu => by
      rw [Nat.lt_iff_add_one_le, ← Nat.add_div_right _ hpos]
      exact Nat.div_le_div_right (by omega)
  have h1 := hfst hlo
  have h2 := hfst hlo'
  have h3 := hlst hhi
  have h4 := hlst hhi'
  simp only [SidesAgree, List.getD_cons_zero, List.getD_cons_succ]
  generalize (rowFirst t row + j) / sideSpan q t row = blk at h1 h2 h3 h4 ⊢
  generalize (rowFirst t row + lo) / sideSpan q t row = b at he hz h1 ⊢
  generalize (rowFirst t row + lo') / sideSpan q t row = b' at he' hz' h2 ⊢
  refine ⟨readBytes_field he he' (by omega) (by omega) (by omega), ?_⟩
  rw [← Nat.shiftRight_add, ← Nat.shiftRight_add]
  by_cases ht : t = .n4
  · rw [if_pos ht] at hz hz'
    exact readBytes_field hz hz' (by omega) (by omega) (by omega)
  · rw [if_neg ht] at hz hz'
    rw [hz, hz', Nat.zero_shiftRight, Nat.zero_shiftRight]

/-! ### Rows decoded -/

theorem decodeWith_length (q : QWord) (t : ElemType) (row : Nat) (v : Row) (side : List Nat) : (decodeWith q t row v side).length = 2048 / t.width := by
  simp only [decodeWith]
  split
  · simp [elemsOf]
  · split <;> simp [elemsOf]

/-- An element looks at what a row is decoded with through its own sidecar and zero point only. -/
theorem decodeWith_congr {row j : Nat} {v : Row} {side side' : List Nat} (h : hasSides q t row = true → SidesAgree q t row j side side') :
    (decodeWith q t row v side)[j]? = (decodeWith q t row v side')[j]? := by
  simp only [SidesAgree, rowFirst] at h
  simp only [decodeWith]
  split
  next hdb =>
    obtain ⟨he, -⟩ := h (by rw [hasSides, hdb]; rfl)
    rw [sideSpan, if_pos hdb] at he
    simp only [List.getElem?_map, List.getElem?_zipIdx, Option.map_map, Function.comp_def, Nat.zero_add, he]
  next hdb =>
    split
    next hg =>
      obtain ⟨he, hz⟩ := h (by rw [hasSides, hg, Bool.or_true])
      rw [sideSpan, if_neg hdb] at he hz
      simp only [List.getElem?_map, List.getElem?_zipIdx, Option.map_map, Function.comp_def, Nat.zero_add, he]
      exact congrArg (Option.map · _) (funext fun e => by simpa using congrArg (groupWeight _ _ · _) hz)
    next => rfl

/-! ### Chunks of one length -/

section
variable {α : Type} {per : Nat}

theorem flatten_range_length (g : Nat → List α) : ∀ m, (∀ i, i < m → (g i).length = per) → ((List.range m).map g).flatten.length = per * m
  | 0, _ => rfl
  | m + 1, h => by
    rw [List.range_succ, List.map_append, List.flatten_append, List.length_append, flatten_range_length g m fun i hi => h i (by omega)]
    simp [h m (by omega), Nat.mul_succ]

/-- Place j of chunk i. -/
theorem flatten_range_getElem? (g : Nat → List α) {i j : Nat} (hj : j < per) : ∀ m, (∀ i, i < m → (g i).length = per) → i < m →
    ((List.range m).map g).flatten[per * i + j]? = (g i)[j]?
  | m + 1, h, hi => by
    have hlen := flatten_range_length g m fun i hi => h i (by omega)
    rw [List.range_succ, List.map_append, List.flatten_append]
    by_cases him : i < m
    · rw [List.getElem?_append_left (by rw [hlen]; calc per * i + j < per * (i + 1) := by rw [Nat.mul_succ]; omega
          _ ≤ per * m := Nat.mul_le_mul_left _ him)]
      exact flatten_range_getElem? g hj m (fun i hi => h i (by omega)) him
    · obtain rfl : i = m := by omega
      rw [List.getElem?_append_right (by omega), hlen]
      simp

/-- Two lists of chunks that agree in a window. -/
theorem window_congr (g g' : Nat → List α) {m d n : Nat} (hper : 0 < per) (h : ∀ i, i < m → (g i).length = per) (h' : ∀ i, i < m → (g' i).length = per)
    (hwin : ∀ i j, i < m → j < per → d ≤ per * i + j → per * i + j < d + n → (g i)[j]? = (g' i)[j]?) :
    ((((List.range m).map g).flatten).drop d).take n = ((((List.range m).map g').flatten).drop d).take n := by
  refine List.ext_getElem? fun p => ?_
  rw [List.getElem?_take, List.getElem?_take, List.getElem?_drop, List.getElem?_drop]
  split
  next hp =>
    have hj := Nat.mod_lt (d + p) hper
    have hsplit := Nat.div_add_mod (d + p) per
    by_cases hi : (d + p) / per < m
    · rw [← hsplit, flatten_range_getElem? g hj m h hi, flatten_range_getElem? g' hj m h' hi]
      exact hwin _ _ hi hj (by omega) (by omega)
    · have hge : per * m ≤ d + p := (Nat.mul_le_mul_left per (Nat.not_lt.mp hi)).trans (Nat.mul_div_le _ _)
      rw [List.getElem?_eq_none (by rw [flatten_range_length g m h]; exact hge), List.getElem?_eq_none (by rw [flatten_range_length g' m h']; exact hge)]
  next => rfl

theorem chunk_eq (g : Nat → List α) {m i : Nat} (h : ∀ i, i < m → (g i).length = per) (hi : i < m) :
    ((((List.range m).map g).flatten).drop (per * i)).take per = g i := by
  refine List.ext_getElem? fun p => ?_
  rw [List.getElem?_take, List.getElem?_drop]
  split
  next hp => exact flatten_range_getElem? g hp m h hi
  next hp => rw [List.getElem?_eq_none (by rw [h i hi]; omega)]

end

/-! ### Spans -/

theorem per_pos (t : ElemType) : 0 < 2048 / t.width := by cases t <;> decide

/-- The part of row i that a span within the first kk elements wants lies in the part that all of them want. -/
theorem spanPart_subset {per first n kk i j : Nat} (hkk : first + n ≤ kk) (hj : j < per) (hlo : first ≤ per * i + j) (hhi : per * i + j < first + n) :
    (spanPart per first n i).1 ≤ j ∧ j < (spanPart per first n i).2 ∧ (spanPart per 0 kk i).1 ≤ j ∧ j < (spanPart per 0 kk i).2 := by
  simp only [spanPart]
  omega

/-- A span decoded with what was read before, for all of the operand row, is the span (R261, R262). -/
theorem decodeSpanWith_eq {row first n kk : Nat} {sides : List Nat} {vs : List FVal} (hkk : first + n ≤ kk)
    (hs : spanSides k x q t row kk = .ok sides) (hv : decodeSpan k x q t row first n = .ok vs) :
    decodeSpanWith k x q t row first n sides = .ok vs := by
  have hper := per_pos t
  obtain ⟨chunks, hchunks, rfl⟩ := except_map_ok hs
  obtain ⟨hlist, hside⟩ := eq_of_mapM_range hchunks []
  obtain ⟨rows, hrows, hvs⟩ := mac_bind_ok hv
  obtain ⟨hrlist, hpart⟩ := eq_of_mapM_range hrows []
  obtain rfl := Except.ok.inj hvs
  unfold decodeSpanWith
  extract_lets per lo hi
  have hread : ∀ i, i < hi - lo → ∃ side, readRow k x (row + lo + i) = .ok (rowSeen k x (row + lo + i)) ∧
      sideOf k x q t (row + lo + i) (spanPart per first n (lo + i)).1 (spanPart per first n (lo + i)).2 = .ok side ∧
      decodeWith q t (row + lo + i) (rowSeen k x (row + lo + i)) side = rows.getD i [] := fun i hi' => by
    obtain ⟨v, hv, h⟩ := mac_bind_ok (hpart i hi')
    obtain ⟨side, hside, h⟩ := mac_bind_ok h
    obtain rfl := rowSeen_eq hv
    exact ⟨side, hv, hside, Except.ok.inj h⟩
  have hin : ∀ i, i < hi - lo → lo + i < (kk + per - 1) / per := fun i hi' => by
    have : hi ≤ (kk + per - 1) / per := Nat.div_le_div_right (by omega)
    omega
  have htriple : ∀ i, i < (kk + per - 1) / per → ((chunks.flatten.drop (3 * i)).take 3) = chunks.getD i [] := fun i hi' => by
    conv_lhs => rw [hlist]
    exact chunk_eq _ (fun i hi' => sideOf_length (hside i hi')) hi'
  rw [mapM_range_ok (g := fun i => decodeWith q t (row + lo + i) (rowSeen k x (row + lo + i)) (chunks.getD (lo + i) [])) fun i hi' => by
    obtain ⟨side, hrow, -⟩ := hread i hi'
    rw [hrow, htriple _ (hin i hi')]
    rfl]
  refine congrArg Except.ok ?_
  rw [hrlist]
  refine window_congr _ _ hper (fun _ _ => decodeWith_length ..) (fun i hi' => ?_) fun i j hi' hj hd hn => ?_
  · obtain ⟨side, -, -, h⟩ := hread i hi'
    rw [← h, decodeWith_length]
  · obtain ⟨side, -, hsd, h⟩ := hread i hi'
    have hlo : lo * per ≤ first := Nat.div_mul_le_self first per
    replace hd : first - lo * per ≤ per * i + j := hd
    replace hn : per * i + j < first - lo * per + n := hn
    have hmul : per * (lo + i) = lo * per + per * i := by rw [Nat.mul_add, Nat.mul_comm per lo]
    obtain ⟨h1, h2, h3, h4⟩ := spanPart_subset (i := lo + i) hkk hj (by rw [hmul]; omega) (by rw [hmul]; omega)
    rw [← h]
    refine decodeWith_congr fun hs => sideOf_agree ?_ hsd hs h3 h4 h1 h2
    rw [Nat.add_assoc]
    exact hside _ (hin i hi')

end Sys2Proof.Machine
end

section
/-! SUPPORT. Sums by column (R65), and the bytes of a brim slot (R193). -/

namespace Sys2Proof.Machine

/-! ### Sums by column -/

theorem map_of_length {α β : Type} {l : List α} {n : Nat} (h : l.length = n) (f : α → β) (d : α) :
    l.map f = (List.range n).map fun c => f (l.getD c d) :=
  List.ext_getElem (by simp [h]) fun i hi _ => by
    have hl : i < l.length := by simpa using hi
    simp [hl]

theorem zipWith_range {α β γ : Type} (f : α → β → γ) (g : Nat → α) (h : Nat → β) (n : Nat) :
    ((List.range n).map g).zipWith f ((List.range n).map h) = (List.range n).map fun c => f (g c) (h c) := by
  rw [List.zipWith_map, List.zipWith_self]

/-- The sums of products that follow are added to the columns' sums so far. -/
theorem colSums_go : ∀ (rest : List (FVal × List FVal)) (g : Nat → FVal), (∀ p ∈ rest, p.2.length = 256) →
    rest.foldl (fun acc q => acc.zipWith (FVal.add .rne) (q.2.map q.1.mul)) ((List.range 256).map g) =
      (List.range 256).map fun c => (rest.map fun p => p.1.mul (p.2.getD c .nan)).foldl (FVal.add .rne) (g c)
  | [], _, _ => rfl
  | q :: rest, g, h => by
    obtain ⟨hq, hrest⟩ := List.forall_mem_cons.mp h
    rw [List.foldl_cons, map_of_length hq q.1.mul .nan, zipWith_range, colSums_go rest _ hrest]
    rfl

theorem colSums_eq {ps : List (FVal × List FVal)} (hne : ps ≠ []) (h : ∀ p ∈ ps, p.2.length = 256) :
    colSums ps = (List.range 256).map fun c => FVal.sum (ps.map fun p => p.1.mul (p.2.getD c .nan)) := by
  cases ps with
  | nil => exact absurd rfl hne
  | cons p rest =>
    obtain ⟨hp, hrest⟩ := List.forall_mem_cons.mp h
    rw [colSums, map_of_length hp p.1.mul .nan, colSums_go rest _ hrest]
    rfl

/-! ### The bytes of a slot -/

/-- The first 64 words of a slot. -/
def BrimSlot.headWords (z : BrimSlot) : List Nat :=
  [z.candV.toNat, z.candI.toNat, z.m.toNat, z.l.toNat, bits32 z.lse, z.heap.length, z.pos.toNat] ++ List.replicate 57 0

/-- The two words of place j of its heap. -/
def BrimSlot.heapWords (z : BrimSlot) (j : Nat) : List Nat :=
  match z.heap[j]? with | some e => [e.1.toNat, e.2.toNat] | none => [0xFF800000, 0xFFFFFFFF]

/-- All its words. -/
def BrimSlot.words (z : BrimSlot) : List Nat := z.headWords ++ ((List.range 64).map z.heapWords).flatten

variable (z : BrimSlot)

theorem BrimSlot.bytes_word (j : Nat) : z.bytes / 2 ^ (32 * j) % 2 ^ 32 = z.words.getD j 0 % 2 ^ 32 := by
  rw [← ofElems_elem]
  rfl

theorem BrimSlot.words_head {j : Nat} (h : j < 64) : z.words.getD j 0 = z.headWords.getD j 0 := List.getD_append _ _ _ _ h

theorem BrimSlot.heapWords_length (j : Nat) : (z.heapWords j).length = 2 := by
  unfold BrimSlot.heapWords
  split <;> rfl

theorem BrimSlot.words_heap {j i : Nat} (hj : j < 64) (hi : i < 2) : z.words.getD (64 + (2 * j + i)) 0 = (z.heapWords j).getD i 0 := by
  rw [BrimSlot.words, List.getD_append_right _ _ _ _ (Nat.le_add_right 64 _), List.getD_eq_getElem?_getD, List.getD_eq_getElem?_getD]
  exact congrArg (Option.getD · 0) ((congrArg _ (Nat.add_sub_cancel_left ..)).trans
    (flatten_range_getElem? z.heapWords hi 64 (fun i _ => z.heapWords_length i) hj))

theorem BrimSlot.heapWords_lt (j i : Nat) : (z.heapWords j).getD i 0 < 2 ^ 32 := by
  unfold BrimSlot.heapWords
  split
  next e _ => match i with
    | 0 => exact e.1.isLt
    | 1 => exact e.2.isLt
    | _ + 2 => exact Nat.two_pow_pos 32
  next => exact match i with
    | 0 | 1 => by decide
    | _ + 2 => Nat.two_pow_pos 32

theorem BrimSlot.bytes_head {j : Nat} (h : j < 64) : z.bytes / 2 ^ (32 * j) % 2 ^ 32 = z.headWords.getD j 0 % 2 ^ 32 := by
  rw [z.bytes_word, z.words_head h]

theorem BrimSlot.bytes_zero {j : Nat} (h7 : 7 ≤ j) (h : j < 64) : z.bytes / 2 ^ (32 * j) % 2 ^ 32 = 0 := by
  rw [z.bytes_head h, BrimSlot.headWords, List.getD_append_right _ _ _ _ h7, List.getD_eq_getElem?_getD, List.getElem?_replicate]
  split <;> rfl

theorem BrimSlot.bytes_heap {j i : Nat} (hj : j < 64) (hi : i < 2) :
    z.bytes / 2 ^ (32 * (64 + (2 * j + i))) % 2 ^ 32 = (z.heapWords j).getD i 0 := by
  rw [z.bytes_word, z.words_heap hj hi, Nat.mod_eq_of_lt (z.heapWords_lt j i)]

/-- What BREAD writes of a slot (R193). -/
theorem BrimSlot.bytes_spec (hz : z.heap.length ≤ 64) :
    let w := fun j : Nat => z.bytes / 2 ^ (32 * j) % 2 ^ 32
    w 0 = z.candV.toNat ∧ w 1 = z.candI.toNat ∧ w 2 = z.m.toNat ∧ w 3 = z.l.toNat ∧ w 4 = bits32 z.lse % 2 ^ 32 ∧ w 5 = z.heap.length ∧
      w 6 = z.pos.toNat ∧ (∀ j, 7 ≤ j → j < 64 → w j = 0) ∧
      ∀ j, j < 64 → w (64 + 2 * j) = (z.heapWords j).getD 0 0 ∧ w (65 + 2 * j) = (z.heapWords j).getD 1 0 := by
  have hword : ∀ {j : Nat}, j < 64 → z.headWords.getD j 0 < 2 ^ 32 → z.bytes / 2 ^ (32 * j) % 2 ^ 32 = z.headWords.getD j 0 :=
    fun hj hlt => (z.bytes_head hj).trans (Nat.mod_eq_of_lt hlt)
  refine ⟨hword (j := 0) (by decide) z.candV.isLt, hword (j := 1) (by decide) z.candI.isLt, hword (j := 2) (by decide) z.m.isLt,
    hword (j := 3) (by decide) z.l.isLt, z.bytes_head (j := 4) (by decide), hword (j := 5) (by decide) (hz.trans_lt (by decide)),
    hword (j := 6) (by decide) z.pos.isLt, fun j h7 hj => z.bytes_zero h7 hj, fun j hj => ⟨z.bytes_heap (i := 0) hj (by decide), ?_⟩⟩
  have hplace : 65 + 2 * j = 64 + (2 * j + 1) := by omega
  simp only [hplace]
  exact z.bytes_heap hj (by decide)

end Sys2Proof.Machine
end

section
/-! SUPPORT. A unit of a macro at its engine: the slots and formats of its handle sides (R164, R165), and the words that set and read the
mask block, the accumulators and the brim unit (R185, R187, R191, R193, R279). -/

namespace Sys2Proof.Machine

/-- Macro r of context x performs a progress unit. -/
def UnitRuns (s : State) (x : Ctx) (r : Run) : Prop := ∀ f : Ctx → Run → Out, macroWord s f = f x r

theorem EngRuns.unitRuns {s : State} {x : Ctx} {e : Eng} {r : Run} (h : EngRuns s x e r) : UnitRuns s x { r with started := true } :=
  fun _ => macroWord_runs h

variable {s : State} {x : Ctx} {r r' : Run} {o : EM}

/-! ### Handle sides -/

theorem srcSide_prod {d : Side} (h : r.srcSide o = some d) : d.prod = false := by
  unfold Run.srcSide at h
  split at h
  · obtain rfl := Option.some.inj h
    rfl
  · cases h

theorem dstSide_prod {d : Side} (h : r.dstSide o = some d) : d.prod = true := by
  unfold Run.dstSide at h
  split at h
  · obtain rfl := Option.some.inj h
    rfl
  · cases h

theorem takeSlot_takes {d : Side} {i n : Nat} (h : TakesSlot x r d i n r') : takeSlot s x r d i n = s.putRun x r' := by
  obtain rfl := h
  unfold takeSlot
  split <;> rfl

variable {sd : Option Side} {i n v : Nat}

/-- A side that has no slot takes one, or waits. -/
theorem withSlot_take {d : Side} {k : Nat → Out} (hv : r.slotAt i = none) (h : TakesSlot x r d i n r') :
    withSlot s x r (some d) i n k = s.putRun x r' := by
  simp only [withSlot, hv]
  exact takeSlot_takes h

/-- A side whose further slots are not there waits for them. -/
theorem withSlot_wait {d : Side} {k : Nat → Out} (hv : r.slotAt i = some v) (h1 : 1 < n) (hn : d.ready x < n) :
    withSlot s x r (some d) i n k = s.putRun x { r with wait := some (d.h, d.prod, n) } := by
  simp only [withSlot, hv]
  rw [if_pos (by simp [h1, hn])]

theorem withSlot_goes {k : Nat → Out} (hv : SideSlot r sd i v) (hn : ∀ d, sd = some d → n ≤ 1 ∨ n ≤ d.ready x) :
    withSlot s x r sd i n k = k v := by
  cases sd with
  | none => obtain rfl := hv; rfl
  | some d =>
    simp only [withSlot, show r.slotAt i = some v from hv]
    rw [if_neg (by have := hn d rfl; simp only [Bool.and_eq_true, decide_eq_true_eq]; omega)]

/-- What a unit that wants n slots of a side does while they are not there. -/
theorem withSlot_stands {out : Out} {k : Nat → Out} (hout : out = withSlot s x r sd i n k) : ∀ d, sd = some d →
    (∀ r', r.slotAt i = none → TakesSlot x r d i n r' → out = s.putRun x r') ∧
    (∀ v, r.slotAt i = some v → 1 < n → d.ready x < n → out = s.putRun x { r with wait := some (d.h, d.prod, n) }) := by
  rintro d rfl
  exact ⟨fun r' hv ht => hout.trans (withSlot_take hv ht), fun v hv h1 hn => hout.trans (withSlot_wait hv h1 hn)⟩

theorem withFmt_goes {rf : Run} {base : Nat} {f : Fmt} {k : Fmt → Out} (h : SideFmt x r sd base f) : withFmt s x r rf sd base i k = k f := by
  cases sd with
  | none => rw [withFmt, show govFmt x r.q base = .ok f from h, orFault_ok]
  | some d =>
    simp only [SideFmt] at h
    unfold withFmt
    cases hrow : (if d.prod then r.dstRow else r.srcRow) with
    | none => rw [hrow] at h; simp only [hrow, show operandFmt x r.q d.geo.firstRow (d.geo.slots * d.geo.rps) = .ok f from h]
    | some row => rw [hrow] at h; simp only [hrow, show govFmt x r.q row = .ok f from h, orFault_ok]

/-- A side whose ring has no one format takes its first slot before anything is looked at. -/
theorem withFmt_take {rf : Run} {base : Nat} {d : Side} {k : Fmt → Out} (hrow : (if d.prod then r.dstRow else r.srcRow) = none)
    (hf : ∀ f, operandFmt x r.q d.geo.firstRow (d.geo.slots * d.geo.rps) ≠ .ok f) (h : TakesSlot x r d i 1 r') :
    withFmt s x r rf (some d) base i k = s.putRun x r' := by
  unfold withFmt
  cases hop : operandFmt x r.q d.geo.firstRow (d.geo.slots * d.geo.rps) with
  | ok f => exact absurd hop (hf f)
  | error e => simp only [hrow, hop]; exact takeSlot_takes h

/-! ### The mask block and the accumulators -/

/-- Record i of a mask block. -/
def maskRecord (m i : Nat) : MaskRow :=
  let w := BitVec.ofNat 128 (m >>> (128 * i))
  { anc := fieldOf w 0 64, pre := fieldOf w 64 32, pos := fieldOf w 96 32 }

theorem execMpbld_runs (h : UnitRuns s x r) {m : Nat} (hm : readBytes s.myCore x (r.q.cap.sa.toNat / 16 * 16) (16 * o.nq) = .ok m) :
    ∃ y : Brim, execMpbld o s = .next (s.putCtx (({ x with brim := y } : Ctx).setRun (r.did true))) ∧ y = { x.brim with mask := y.mask } ∧
      y.mask.length = o.nq ∧ ∀ i, i < o.nq → ∃ w, y.mask[i]? = some w ∧ w.anc.toNat = m >>> (128 * i) % 2 ^ 64 ∧
        w.pre.toNat = m >>> (128 * i + 64) % 2 ^ 32 ∧ w.pos.toNat = m >>> (128 * i + 96) % 2 ^ 32 := by
  have hfield : ∀ i lo n, lo + n ≤ 128 → (fieldOf (BitVec.ofNat 128 (m >>> (128 * i))) lo n).toNat = m >>> (128 * i + lo) % 2 ^ n := by
    intro i lo n hn
    rw [fieldOf, BitVec.extractLsb'_toNat, BitVec.toNat_ofNat, Nat.shiftRight_add]
    refine Nat.eq_of_testBit_eq fun b => ?_
    simp only [Nat.testBit_mod_two_pow, Nat.testBit_shiftRight]
    by_cases hb : b < n
    · rw [decide_eq_true (show lo + b < 128 by omega), Bool.true_and]
    · simp [hb]
  rw [execMpbld, h, hm, orFault_ok]
  refine ⟨{ x.brim with mask := (List.range o.nq).map (maskRecord m) }, rfl, rfl, by simp, fun i hi => ⟨maskRecord m i, by simp [hi], ?_⟩⟩
  exact ⟨hfield i 0 64 (by decide), hfield i 64 32 (by decide), hfield i 96 32 (by decide)⟩

theorem execAclr_runs (h : UnitRuns s x r) {p : Nat} (hlt : r.done < o.n10) (hp : x.accAt (o.acc + r.done) = .ok p) :
    execAclr o s = (s.putCore (s.myCore.putAcc p 0)).putRun x (r.did (r.done + 1 == o.n10)) := by
  rw [execAclr, h, if_neg (Nat.not_le.mpr hlt), hp, orFault_ok]

theorem execMmg_start (h : UnitRuns s x r) {c : Nat} (haux : r.aux = []) (hc : listWord s.myCore x r.q.cap.sc 0 = .ok c) :
    execMmg o s = if o.dir = false ∧ 256 < c then .next (s.putCtx (x.setRun (r.faulted .illegal 6 0 0)))
      else .next (s.putCtx (x.setRun { r with aux := [c] })) := by
  rw [execMmg, h, haux, hc, orFault_ok]
  refine ite_congr (by simp) (fun _ => runFault_faulted ..) fun _ => rfl

/-! ### BSET, BSAMP and BREAD -/

theorem fieldNat_eq_zero {w lo n : Nat} {v : BitVec w} : fieldNat v lo n = 0 ↔ v.extractLsb' lo n = 0 := by
  rw [← BitVec.toNat_inj, BitVec.ofNat_eq_ofNat, BitVec.toNat_ofNat, Nat.zero_mod]

theorem execBset_zero (h : UnitRuns s x r) (hsa : o.sa = 0) :
    execBset o s = s.putRun { x with brim := { x.brim with prog := o.brimSteps, param := 0 } } (r.did true) := by
  rw [execBset, h, if_pos hsa]

theorem execBset_row (h : UnitRuns s x r) {p : Row} (hsa : o.sa ≠ 0) (hp : readRow s.myCore x (rowOf r.q.cap.sa) = .ok p) :
    execBset o s = if p.extractLsb' 80 1968 = 0 then
        s.putRun { x with brim := { x.brim with prog := o.brimSteps, param := p } } (r.did true)
      else .next (s.putCtx (x.setRun (r.faulted .illegal 6 0 0))) := by
  rw [execBset, h, if_neg hsa, hp, orFault_ok]
  by_cases hz : p.extractLsb' 80 1968 = 0
  · rw [if_pos hz, if_neg (not_not.mpr (fieldNat_eq_zero.mpr hz))]
  · rw [if_neg hz, if_pos (mt fieldNat_eq_zero.mp hz), runFault_faulted]

theorem execBread_runs (h : UnitRuns s x r) {k : Core} (hlt : r.done < o.slots)
    (hk : writeBytes s.myCore x (rowOf r.q.cap.sa * 256 + 768 * r.done) 768
      (x.brim.slots[(o.first + r.done) % 64]'(Nat.mod_lt _ (by decide))).bytes = .ok k) :
    execBread o s = (s.putCore k).putRun x (r.did (r.done + 1 == o.slots)) := by
  rw [execBread, h, if_neg (Nat.not_le.mpr hlt)]
  dsimp only
  rw [hk, orFault_ok]

/-- A slot as BSAMP sets it. -/
def sampleSlot (x : Ctx) (r : Run) (o : EM) (i : Nat) : BrimSlot :=
  { kh := o.kh, invt := inverseTemp r.q.cap.temp, seed := fieldOf r.q.cap.seed 0 32,
    pos := if o.possrc then (match x.brim.mask[i]? with | some m => m.pos | none => 0) else BitVec.ofNat 32 (r.q.cap.sa.toNat + (i - o.first)) }

theorem sampleSlot_counted (i : Nat) (h : o.possrc = false) : (sampleSlot x r o i).pos = BitVec.ofNat 32 (r.q.cap.sa.toNat + (i - o.first)) := by
  rw [sampleSlot, h]
  rfl

theorem sampleSlot_masked {i : Nat} (h : o.possrc = true) (hi : i < x.brim.mask.length) :
    ∃ m, x.brim.mask[i]? = some m ∧ (sampleSlot x r o i).pos = m.pos := by
  refine ⟨_, List.getElem?_eq_getElem hi, ?_⟩
  simp only [sampleSlot, h, if_true, List.getElem?_eq_getElem hi]

theorem execBsamp_runs (h : UnitRuns s x r) (hpos : o.possrc = true → ∀ i, i < o.slots → o.first + i < x.brim.mask.length) :
    ∃ y : Brim, execBsamp o s = .next (s.putCtx (({ x with brim := y } : Ctx).setRun (r.did true))) ∧ y = { x.brim with slots := y.slots } ∧
      ∀ i : Fin 64, y.slots[i] = if o.first ≤ i.val ∧ i.val < o.first + o.slots then sampleSlot x r o i.val else x.brim.slots[i] := by
  have hcond : ¬ (o.possrc && ((List.range o.slots).map (o.first + ·)).any fun i => decide (x.brim.mask.length ≤ i)) = true := by
    simp only [Bool.and_eq_true, List.any_map, List.any_eq_true, List.mem_range, Function.comp_apply, decide_eq_true_eq]
    rintro ⟨hp, i, hi, hle⟩
    exact absurd hle (Nat.not_le.mpr (hpos hp i hi))
  have hmem : ∀ i, ((List.range o.slots).map (o.first + ·)).contains i = true ↔ o.first ≤ i ∧ i < o.first + o.slots := fun i => by
    simp only [List.contains_iff_mem, List.mem_map, List.mem_range]
    exact ⟨fun ⟨j, hj, he⟩ => by omega, fun ⟨h1, h2⟩ => ⟨i - o.first, by omega, by omega⟩⟩
  rw [execBsamp, h, if_neg hcond]
  refine ⟨_, rfl, rfl, fun i => ?_⟩
  simp only [Fin.getElem_fin, Vector.getElem_ofFn]
  exact ite_congr (propext (hmem i.val)) (fun _ => rfl) fun _ => rfl

end Sys2Proof.Machine
end

section
/-! SUPPORT. Tile steps of the matrix macros by weight rows: MMA, MMV and MMG with DIR = 1 (R65, R180). -/

namespace Sys2Proof.Machine

variable {s : State} {x : Ctx} {r r' : Run} {o : EM} {q : QWord}

theorem mac_ok_bind {α β : Type} (a : α) (f : α → Mac β) : ((Except.ok a : Mac α) >>= f) = f a := rfl

theorem mac_pure_bind {α β : Type} (a : α) (f : α → Mac β) : ((pure a : Mac α) >>= f) = f a := rfl

/-- A chain of parts over a range. -/
theorem foldlM_range_ok {ε α : Type} {f : α → Nat → Except ε α} {ks : Nat → α} : ∀ n, (∀ m, m < n → f (ks m) m = .ok (ks (m + 1))) →
    (List.range n).foldlM f (ks 0) = .ok (ks n)
  | 0, _ => rfl
  | n + 1, h => by
    rw [List.range_succ, List.foldlM_append, foldlM_range_ok n fun m hm => h m (by omega)]
    simp [bind, Except.bind, h n (by omega), pure, Except.pure]

/-- The weight rows of a tile step, and row m of accumulators after it: its sums of products are added, and rounded once (R65). -/
def AddsRow (s : State) (x : Ctx) (q : QWord) (o : EM) (a w : MatOp) (slot off m first n : Nat) (sides : List Nat) (k k' : Core) : Prop :=
  ∃ av ws old,
    decodeSpanWith k x q a.t (a.at_ 0 (m * a.rows)) first n sides = .ok av ∧
    (List.range n).mapM (fun i => decodeSpan s.myCore x q w.t (w.at_ slot (off + i * w.rows)) 0 256) = .ok ws ∧
    readAcc k x (o.acc + m) = .ok old ∧
    writeAcc k x (o.acc + m) (old.zipWith accAdd (colSums (av.zip ws))) = .ok k'

theorem AddsRow.weights {a w : MatOp} {slot off m first n : Nat} {sides : List Nat} {k k' : Core}
    (h : AddsRow s x q o a w slot off m first n sides k k') :
    ∃ ws, weightTile s.myCore x q w slot off n = .ok ws ∧ addTile k x q a m first n (o.acc + m) sides ws = .ok k' := by
  obtain ⟨av, ws, old, hav, hws, hold, hk⟩ := h
  refine ⟨ws, hws, ?_⟩
  rw [addTile, hav, mac_ok_bind, hold, mac_ok_bind, hk]

theorem Run.stepped_eq (r : Run) (p : Prop) [Decidable p] (b : Bool) :
    r.stepped (decide p) b = if p then r.did b else { r with tstep := r.tstep + 1 } := by
  simp only [Run.stepped, decide_eq_true_eq]

/-! ### MMA -/

theorem execMma_runs (h : UnitRuns s x r) {a w : MatOp} {sides : List Nat} {k : Core} (hlt : r.done < o.mRows)
    (ha : matScalar x r.q (rowOf r.q.cap.sa) o.k o.mRows = .ok a) (hw : matScalar x r.q (rowOf r.q.cap.sb) 256 o.k = .ok w)
    (hs : if r.tstep = 0 then spanSides s.myCore x r.q a.t (a.at_ 0 (r.done * a.rows)) o.k = .ok sides else sides = r.aux)
    (hadd : AddsRow s x r.q o a w 0 (128 * r.tstep * w.rows) r.done (128 * r.tstep) (min 128 (o.k - 128 * r.tstep)) sides s.myCore k) :
    execMma o s = (s.putCore k).putRun x (if o.k ≤ 128 * (r.tstep + 1) then ({ r with aux := sides } : Run).did (r.done + 1 == o.mRows)
      else { r with aux := sides, tstep := r.tstep + 1 }) := by
  obtain ⟨ws, hws, htile⟩ := hadd.weights
  rw [execMma, h, if_neg (Nat.not_le.mpr hlt)]
  simp only [ha, hw, mac_ok_bind, tileLen]
  by_cases ht : r.tstep = 0
  · rw [if_pos ht] at hs
    simp only [if_pos ht, hs, mac_ok_bind, hws, htile, Except.map, orFault_ok, Run.stepped_eq]
  · rw [if_neg ht] at hs
    subst hs
    simp only [if_neg ht, mac_pure_bind, hws, mac_ok_bind, htile, Except.map, orFault_ok, Run.stepped_eq]

/-! ### Weight rows one after another: MMV and MMG with DIR = 1 -/

/-- The place in its slot of the row of weights at which the next tile step begins. -/
def streamOff (r : Run) (sd : Option Side) (w : MatOp) : Nat :=
  match sd with | some d => r.done * w.rows % d.geo.rps | none => r.done * w.rows

/-- What the activation rows are decoded with: it is read before the first step. -/
def StreamSides (s : State) (x : Ctx) (r : Run) (o : EM) (a : MatOp) (kk : Nat) (sides : List Nat) : Prop :=
  if r.aux.drop 2 = [] then
    ((List.range o.b6).mapM fun m => spanSides s.myCore x r.q a.t (a.at_ 0 (m * a.rows)) kk).map List.flatten = .ok sides
  else sides = r.aux.drop 2

variable {a w : MatOp} {f : Fmt} {kk : Nat}

theorem streamStep_starts (hlt : r.done < kk) (ha : matScalar x r.q (rowOf r.q.cap.sa) kk o.b6 = .ok a) {d : Side}
    (hd : r.srcSide o = some d) (hrow : r.srcRow = none) (hf : ∀ f, operandFmt x r.q d.geo.firstRow (d.geo.slots * d.geo.rps) ≠ .ok f)
    (ht : TakesSlot x r d 1 1 r') : streamStep s x r o kk = s.putRun x r' := by
  rw [streamStep]
  dsimp only
  rw [if_neg (Nat.not_le.mpr hlt), ha, orFault_ok, hd]
  exact withFmt_take (by rw [srcSide_prod hd]; exact hrow) hf ht

section
variable (hlt : r.done < kk) (ha : matScalar x r.q (rowOf r.q.cap.sa) kk o.b6 = .ok a)
  (hf : SideFmt x r (r.srcSide o) (rowOf r.q.cap.sb) f) (hw : matOp x r.q (r.srcSide o) f (rowOf r.q.cap.sb) 256 kk = .ok w)
include hlt ha hf hw

/-- With the operands' formats known, a step wants the slots of its weight rows. -/
theorem streamStep_slot : ∃ go, streamStep s x r o kk =
    withSlot s x r (r.srcSide o) 1 (slotsOf (r.srcSide o) (streamOff r (r.srcSide o) w) (min 128 (kk - r.done) * w.rows)) go := by
  rw [streamStep]
  dsimp only
  rw [if_neg (Nat.not_le.mpr hlt), ha, orFault_ok, withFmt_goes hf, hw, orFault_ok]
  exact ⟨_, rfl⟩

theorem streamStep_goes {sd : Option Side} {off n slot : Nat} {ks : Nat → Core} {sides : List Nat} (hsd : sd = r.srcSide o)
    (hoff : off = streamOff r sd w) (hn : n = min 128 (kk - r.done)) (hslot : SideSlot r sd 1 slot)
    (hready : ∀ d, sd = some d → slotsOf sd off (n * w.rows) ≤ 1 ∨ slotsOf sd off (n * w.rows) ≤ d.ready x)
    (hagree : w.agree x r.q f slot off (n * w.rows) = .ok ()) (hk0 : ks 0 = s.myCore) (hs : StreamSides s x r o a kk sides)
    (hadd : ∀ m, m < o.b6 → AddsRow s x r.q o a w slot off m r.done n (sides.drop (3 * a.rows * m)) (ks m) (ks (m + 1))) :
    streamStep s x r o kk = (s.putCore (ks o.b6)).putRun (sideAdvance sd x (slotsDone sd off (n * w.rows)))
      { r.did (r.done + n == kk) n with
        wait := nextNeed sd w.rows (off + n * w.rows) (kk - (r.done + n))
        aux := [r.aux.headD 0, slotAfter sd slot off (n * w.rows)] ++ sides } := by
  subst hsd
  obtain ⟨ws, hws, -⟩ := (hadd 0 (Nat.succ_pos _)).weights
  have hfold : (List.range o.b6).foldlM (fun k m => addTile k x r.q a m r.done n (o.acc + m) (sides.drop (3 * a.rows * m)) ws) s.myCore =
      .ok (ks o.b6) := by
    rw [← hk0]
    refine foldlM_range_ok _ fun m hm => ?_
    obtain ⟨ws', hws', htile⟩ := (hadd m hm).weights
    rwa [Except.ok.inj (hws.symm.trans hws')]
  rw [streamStep]
  rw [if_neg (Nat.not_le.mpr hlt), ha, orFault_ok, withFmt_goes hf, hw, orFault_ok, ← hn]
  extract_lets off'
  have hoff' : off' = off := hoff.symm
  clear_value off'
  subst hoff'
  rw [withSlot_goes hslot hready, hagree, mac_ok_bind]
  unfold StreamSides at hs
  cases hd : r.aux.drop 2 with
  | nil =>
    rw [if_pos hd] at hs
    dsimp only
    rw [hs, mac_ok_bind, hws, mac_ok_bind, hfold, mac_ok_bind]
    rfl
  | cons u us =>
    rw [if_neg (by rw [hd]; exact List.cons_ne_nil _ _), hd] at hs
    subst hs
    dsimp only
    rw [mac_pure_bind, hws, mac_ok_bind, hfold, mac_ok_bind]
    rfl

end

end Sys2Proof.Machine
end

section
/-! SUPPORT. Tile steps of the matrix macros by activation rows: MMG with DIR = 0 and MATT (R65, R181, R184). -/

namespace Sys2Proof.Machine

variable {s : State} {x : Ctx} {r r' : Run} {o : EM} {kk ms n : Nat} {on : Nat → Nat → Bool} {init : Nat → Option (List FVal)}
variable {a g : MatOp} {f : Fmt} {sd : Option Side}

theorem columnStep_starts (hlt : r.done < ms) (ha : matScalar x r.q (rowOf r.q.cap.sa) kk ms = .ok a) (hn : n ≠ 0) {d : Side}
    (hd : r.srcSide o = some d) (hrow : r.srcRow = none) (hf : ∀ f, operandFmt x r.q d.geo.firstRow (d.geo.slots * d.geo.rps) ≠ .ok f)
    (ht : TakesSlot x r d 1 1 r') : columnStep s x r o kk ms n on init = s.putRun x r' := by
  rw [columnStep]
  dsimp only
  rw [if_neg (Nat.not_le.mpr hlt), ha, orFault_ok, if_neg hn, if_neg hn, hd]
  exact withFmt_take (by rw [srcSide_prod hd]; exact hrow) hf ht

/-- The operand rows of a step, whose number may be 0 (R181). -/
def ColumnOperand (x : Ctx) (r : Run) (sd : Option Side) (f : Fmt) (kk n : Nat) (g : MatOp) : Prop :=
  if n = 0 then g = ⟨none, 0, .f32, 0⟩ else matOp x r.q sd f (rowOf r.q.cap.sb) kk n = .ok g

/-- What the activation row m and then the operand rows are decoded with, which is read before the row's first step. -/
def ColumnSides (s : State) (x : Ctx) (r : Run) (a g : MatOp) (row : Nat → Nat) (on : Nat → Bool) (kk n : Nat) (sides ga : List Nat)
    (gs : Nat → List Nat) : Prop :=
  if r.tstep = 0 then spanSides s.myCore x r.q a.t (a.at_ 0 (r.done * a.rows)) kk = .ok ga ∧
    (∀ j, j < n → if on j then spanSides s.myCore x r.q g.t (row j) kk = .ok (gs j) else gs j = List.replicate (3 * g.rows) 0) ∧
    sides = ga ++ ((List.range n).map gs).flatten
  else sides = r.aux.drop 2

theorem columnSides_eq {row : Nat → Nat} {on : Nat → Bool} {sides ga : List Nat} {gs : Nat → List Nat}
    (h : ColumnSides s x r a g row on kk n sides ga gs) :
    (if r.tstep = 0 then (do
        let av ← spanSides s.myCore x r.q a.t (a.at_ 0 (r.done * a.rows)) kk
        let gs ← (List.range n).mapM fun j => if on j then spanSides s.myCore x r.q g.t (row j) kk else pure (List.replicate (3 * g.rows) 0)
        pure (av ++ gs.flatten))
      else pure (r.aux.drop 2) : Mac (List Nat)) = .ok sides := by
  unfold ColumnSides at h
  split at h
  next ht =>
    obtain ⟨hga, hgs, rfl⟩ := h
    have hmap : ∀ j, j < n →
        (if on j then spanSides s.myCore x r.q g.t (row j) kk else pure (List.replicate (3 * g.rows) 0) : Mac (List Nat)) = .ok (gs j) :=
      fun j hj => by
        have hgj := hgs j hj
        split at hgj
        next hon => rw [if_pos hon, hgj]
        next hon => rw [if_neg hon, hgj]; rfl
    rw [if_pos ht, hga, mac_ok_bind, mapM_range_ok hmap]
    rfl
  next ht => rw [if_neg ht, h]; rfl

/-- A part of two forms that goes on in one way. -/
theorem ite_bind {α β : Type} {c : Prop} [Decidable c] {e e' : Mac α} {v : α} {go : α → Mac β} (h : (if c then e else e') = .ok v) :
    (if c then e >>= go else e' >>= go) = go v := by
  split at h
  next hc => rw [if_pos hc, h, mac_ok_bind]
  next hc => rw [if_neg hc, h, mac_ok_bind]

/-- The accumulator row to which a step adds. -/
def ColumnOld (s : State) (x : Ctx) (row : Nat) (init : Option (List FVal)) (old : List FVal) : Prop :=
  match init with | some vs => old = vs | none => readAcc s.myCore x row = .ok old

/-- The format and the operand rows of a step; with none of them, a format that nothing looks at. -/
theorem columnOperand_goes {go : Fmt → MatOp → Out} (hf : n ≠ 0 → SideFmt x r sd (rowOf r.q.cap.sb) f) (hg : ColumnOperand x r sd f kk n g) :
    (if n = 0 then fun k => k (r.q.fmt 0) else withFmt s x r r sd (rowOf r.q.cap.sb) 1) (fun f =>
      orFault s x r (if n = 0 then pure ⟨none, 0, .f32, 0⟩ else matOp x r.q sd f (rowOf r.q.cap.sb) kk n) (go f)) =
      go (if n = 0 then r.q.fmt 0 else f) g := by
  unfold ColumnOperand at hg
  by_cases hn : n = 0
  · rw [if_pos hn] at hg
    subst hg
    simp only [if_pos hn]
    rfl
  · rw [if_neg hn] at hg
    simp only [if_neg hn]
    rw [withFmt_goes (hf hn), hg, orFault_ok]

/-- No operand row, and nothing whose format must agree. -/
theorem columnOperand_agree {slot off m : Nat} {h : Fmt} (hg : ColumnOperand x r sd f kk n g) (hagree : g.agree x r.q f slot off m = .ok ()) :
    g.agree x r.q (if n = 0 then h else f) slot off m = .ok () := by
  unfold ColumnOperand at hg
  split
  next hn => rw [if_pos hn] at hg; subst hg; rfl
  next => exact hagree

/-- The sums that a step adds, by column. -/
theorem columnSums_eq {len slot : Nat} {av : List FVal} {rows : Nat → List FVal} {sides : List Nat} {m : Nat}
    (hrows : ∀ j, j < n → on m j = true →
      decodeSpanWith s.myCore x r.q g.t (g.at_ slot (j * g.rows)) (128 * r.tstep) len (sides.drop (3 * (a.rows + g.rows * j))) = .ok (rows j)) :
    ((List.range n).mapM fun j =>
      if on m j then (decodeSpanWith s.myCore x r.q g.t (g.at_ slot (j * g.rows)) (128 * r.tstep) len
        (sides.drop (3 * (a.rows + g.rows * j)))).map fun b => some (dotProduct av b) else pure none) =
      (.ok ((List.range n).map fun j => if on m j then some (dotProduct av (rows j)) else none) : Mac (List (Option FVal))) :=
  mapM_range_ok fun j hj => by
    by_cases hon : on m j = true
    · rw [if_pos hon, if_pos hon, hrows j hj hon]
      rfl
    · rw [if_neg hon, if_neg hon]
      rfl

/-- An entry to which a sum is added where its column takes part. -/
theorem columnSums_add (m : Nat) (old : List FVal) (sum : Nat → FVal) :
    (old.zipIdx.map fun (v, j) => match ((List.range n).map fun j => if on m j then some (sum j) else none).getD j none with
      | some d => accAdd v d
      | none => v) = old.zipIdx.map fun (v, j) => if j < n ∧ on m j = true then accAdd v (sum j) else v := by
  refine List.map_congr_left fun (v, j) _ => ?_
  by_cases hj : j < n <;> by_cases hon : on m j = true <;> simp [hj, hon]

section
variable (hlt : r.done < ms) (ha : matScalar x r.q (rowOf r.q.cap.sa) kk ms = .ok a) (hsd : sd = if n = 0 then none else r.srcSide o)
  (hf : n ≠ 0 → SideFmt x r sd (rowOf r.q.cap.sb) f) (hg : ColumnOperand x r sd f kk n g)
include hlt ha hsd hf hg

/-- With the operands' formats known, a step wants the slots of its operand rows. -/
theorem columnStep_slot : ∃ go, columnStep s x r o kk ms n on init = withSlot s x r sd 1 (slotsOf sd 0 (n * g.rows)) go := by
  rw [columnStep]
  dsimp only
  rw [if_neg (Nat.not_le.mpr hlt), ha, orFault_ok, ← hsd, columnOperand_goes hf hg]
  exact ⟨_, rfl⟩

theorem columnStep_goes {len slot : Nat} {av old : List FVal} {k : Core} {rows : Nat → List FVal} {sides ga : List Nat} {gs : Nat → List Nat}
    (hlen : len = min 128 (kk - 128 * r.tstep)) (hslot : SideSlot r sd 1 slot)
    (hready : ∀ d, sd = some d → slotsOf sd 0 (n * g.rows) ≤ 1 ∨ slotsOf sd 0 (n * g.rows) ≤ d.ready x)
    (hagree : g.agree x r.q f slot 0 (n * g.rows) = .ok ())
    (hs : ColumnSides s x r a g (fun j => g.at_ slot (j * g.rows)) (on r.done) kk n sides ga gs)
    (hav : decodeSpanWith s.myCore x r.q a.t (a.at_ 0 (r.done * a.rows)) (128 * r.tstep) len sides = .ok av)
    (hold : ColumnOld s x (o.acc + r.done) (if r.tstep = 0 then init r.done else none) old)
    (hrows : ∀ j, j < n → on r.done j = true →
      decodeSpanWith s.myCore x r.q g.t (g.at_ slot (j * g.rows)) (128 * r.tstep) len (sides.drop (3 * (a.rows + g.rows * j))) = .ok (rows j))
    (hk : writeAcc s.myCore x (o.acc + r.done) (old.zipIdx.map fun (v, j) =>
      if j < n ∧ on r.done j = true then accAdd v (dotProduct av (rows j)) else v) = .ok k) :
    columnStep s x r o kk ms n on init =
      (s.putCore k).putRun (sideAdvance sd x (if kk ≤ 128 * (r.tstep + 1) ∧ r.done + 1 = ms then slotsDone sd 0 (n * g.rows) else 0))
        (if kk ≤ 128 * (r.tstep + 1) then ({ r with aux := [r.aux.headD 0, r.aux.getD 1 0] ++ sides } : Run).did (r.done + 1 == ms)
         else { r with tstep := r.tstep + 1, aux := [r.aux.headD 0, r.aux.getD 1 0] ++ sides }) := by
  unfold ColumnOld at hold
  rw [columnStep]
  dsimp only
  rw [if_neg (Nat.not_le.mpr hlt), ha, orFault_ok, ← hsd, columnOperand_goes hf hg, withSlot_goes hslot hready, columnOperand_agree hg hagree,
    mac_ok_bind]
  rw [ite_bind (columnSides_eq hs), show tileLen kk r.tstep = len from hlen.symm, hav, mac_ok_bind]
  simp only [columnSums_eq hrows, mac_ok_bind]
  refine (congrArg (fun e => orFault s x r e _) (?part : _ = Except.ok (k, sides))).trans ?_
  case part =>
    replace hk := (congrArg (writeAcc s.myCore x (o.acc + r.done)) (columnSums_add (n := n) (on := on) r.done old fun j => dotProduct av (rows j))).trans hk
    cases hi : (if r.tstep = 0 then init r.done else none) with
    | some vs =>
      rw [hi] at hold
      obtain rfl := hold
      exact congrArg (· >>= fun k => pure (k, sides)) hk
    | none =>
      rw [hi] at hold
      dsimp only
      rw [show readAcc s.myCore x (o.acc + r.done) = .ok old from hold, mac_ok_bind]
      exact congrArg (· >>= fun k => pure (k, sides)) hk
  rw [orFault_ok]
  simp only [Run.stepped_eq, Bool.and_eq_true, decide_eq_true_eq, beq_iff_eq]

end

end Sys2Proof.Machine
end

section
/-! SUPPORT. ADRAIN: an accumulator row through the program's steps into the scratchpad, or slot by slot into a handle's slots (R192). -/

namespace Sys2Proof.Machine

variable {s : State} {x : Ctx} {r r' : Run} {o : EM}

theorem gensAt_setGensAt (x : Ctx) (n : Nat) (g : RndGens) : (x.setGensAt n g).gensAt n = g := by
  unfold Ctx.setGensAt Ctx.gensAt
  by_cases hn : n = x.genNum <;> simp [hn]

/-- The slot of the brim unit that drained row i uses. -/
def drainState (o : EM) (i : Nat) : Nat := if o.one then o.state else o.state + i

/-- The vocabulary index of entry c of drained row i. -/
def drainIndex (r : Run) (o : EM) (c : Nat) : BitVec 32 :=
  BitVec.ofNat 32 (r.q.cap.sc.toNat + (if o.one then 256 * r.done else 0) + c)

/-- The slot and the entries after the program's steps. -/
def drainOut (x : Ctx) (r : Run) (o : EM) (ys : List FVal) (p : BrimRows) : BrimSlot × List FVal :=
  x.brim.prog.foldl (fun (a : BrimSlot × List FVal) c => brimStep x.brim (drainState o r.done) (drainIndex r o) p a.1 a.2 c)
    (x.brim.slots[drainState o r.done % 64]'(Nat.mod_lt _ (by decide)), ys)

/-- Accumulator row i is drained: its entries, what the program's steps read, and the core where the row has been cleared. -/
def Drains (s : State) (x : Ctx) (r : Run) (o : EM) (ys : List FVal) (p : BrimRows) (k0 : Core) : Prop :=
  r.aux.drop 2 = [] ∧
  (x.brim.prog.contains 6 = true → drainState o r.done < x.brim.mask.length) ∧
  readAcc s.myCore x (o.acc + r.done) = .ok ys ∧ brimRows s.myCore x r.q r.done = .ok p ∧
  (if o.clr then writeAcc s.myCore x (o.acc + r.done) (List.replicate 256 (.fin false 0 0)) = .ok k0 else k0 = s.myCore)

/-- The context after a row has been drained. -/
def drained (x : Ctx) (r : Run) (o : EM) (z : BrimSlot) (g : BitVec 32) : Ctx :=
  let y := x.setGensAt r.q.cap.gen { x.gensAt r.q.cap.gen with brim := g }
  { y with brim := { y.brim with slots := y.brim.slots.set (drainState o r.done % 64) z (Nat.mod_lt _ (by decide)) } }

variable {ys : List FVal} {p : BrimRows} {k0 : Core}

/-! ### The destination -/

/-- The format of a drained row and its type in the scratchpad; a program that ends in NOWRITE has no destination. -/
def DrainFmt (x : Ctx) (r : Run) (write : Bool) (dd : Option Side) (gov : Fmt) (ty : ElemType) (f : Fmt) : Prop :=
  if write then SideFmt x r dd (rowOf r.q.cap.sa) gov ∧ gov.drain = some (ty, f) else gov = r.q.fmt 0 ∧ ty = .f32 ∧ f = gov

variable {write : Bool} {dd : Option Side} {gov f : Fmt} {ty : ElemType}

theorem drainFmt_goes {k : Fmt → Out} (hf : DrainFmt x r write dd gov ty f) : execAdrain.withFmt' s x r write dd k = k gov := by
  unfold DrainFmt at hf
  unfold execAdrain.withFmt'
  split at hf
  next hw => rw [if_pos hw, withFmt_goes hf.1]
  next hw => rw [if_neg hw, hf.1]

theorem drainFmt_type (hf : DrainFmt x r write dd gov ty f) : (if write then gov.drain else some (.f32, gov)) = some (ty, f) := by
  unfold DrainFmt at hf
  split at hf
  next hw => rw [if_pos hw, hf.2]
  next hw =>
    obtain ⟨-, rfl, rfl⟩ := hf
    rw [if_neg hw]

theorem execAdrain_starts (h : UnitRuns s x r) (hlt : r.done < o.n10) (hprog : x.brim.prog.contains 12 = false) {d : Side}
    (hd : r.dstSide o = some d) (hrow : r.dstRow = none) (hop : ∀ f, operandFmt x r.q d.geo.firstRow (d.geo.slots * d.geo.rps) ≠ .ok f)
    (ht : TakesSlot x r d 1 1 r') : execAdrain o s = s.putRun x r' := by
  rw [execAdrain, h]
  simp only [hprog, Bool.not_false, if_true, hd]
  rw [if_neg (Nat.not_le.mpr hlt), execAdrain.withFmt', if_pos rfl]
  exact withFmt_take (by rw [dstSide_prod hd]; exact hrow) hop ht

/-- Up to which byte a unit drains: the end of the row, or that of the slot. -/
def drainHi (r : Run) (dd : Option Side) (len : Nat) : Nat :=
  match dd with
  | none => (r.done + 1) * len
  | some d => min ((r.done + 1) * len) (((r.done * len + r.aux.headD 0) / (256 * d.geo.rps) + 1) * (256 * d.geo.rps))

/-- A slot ends where a unit has drained up to byte hi. -/
def drainEnds (dd : Option Side) (hi : Nat) : Bool := hi % 256 == 0 && slotEnds dd (hi / 256)

/-- The macro after bytes up to hi stand, with the bytes of the row that follow. -/
def drainRun (r : Run) (o : EM) (dd : Option Side) (len ds hi rest : Nat) : Run :=
  let whole := hi == (r.done + 1) * len
  let r' := if whole then r.did (r.done + 1 == o.n10) else { r with wait := none }
  { r' with aux := [if whole then 0 else hi - r.done * len, if drainEnds dd hi then 0 else ds + 1] ++ if whole then [] else [rest] }

/-- A slot holds whole rows of what is drained. -/
def DrainFits (o : EM) (dd : Option Side) (len : Nat) : Prop := ∀ d, dd = some d → o.n10 * len % 256 = 0 ∧ sideFits dd (o.n10 * len / 256) = true

theorem DrainFits.not_refused {len : Nat} (h : DrainFits o dd len) :
    ¬ (dd.isSome && (o.n10 * len % 256 != 0 || !sideFits dd (o.n10 * len / 256))) = true := by
  cases dd with
  | none => exact Bool.false_ne_true
  | some d =>
    obtain ⟨hrow, hside⟩ := h d rfl
    simp [hrow, hside]

/-- What a row of entries ys' leaves: the core, the generator, and the bytes that follow those that land at a. -/
def DrainWrites (x : Ctx) (r : Run) (write : Bool) (ty : ElemType) (f : Fmt) (a n : Nat) (ys' : List FVal) (k0 k : Core) (g : BitVec 32)
    (rest : Nat) : Prop :=
  let e := encodeSpan ty f false (x.gensAt r.q.cap.gen).brim ys'
  if write then writeSpan k0 x r.q ty a (e.1.take n) e.2.1 = .ok k ∧ g = e.2.2 ∧ rest = ofElems ty.width (e.1.drop n)
  else k = k0 ∧ g = (x.gensAt r.q.cap.gen).brim ∧ rest = 0

/-- The banks of the rows that a unit writes have the format that governs the side. -/
def DrainAgrees (x : Ctx) (r : Run) (dd : Option Side) (gov : Fmt) (lo hi ds : Nat) : Prop :=
  dd ≠ none → agreeRows x r.q gov ((rowsTouched lo hi).map fun p => sideRow dd 0 ds p.1) = .ok ()

theorem DrainAgrees.agree {lo hi ds : Nat} (h : DrainAgrees x r dd gov lo hi ds) :
    (if dd.isSome then agreeRows x r.q gov ((rowsTouched lo hi).map fun p => sideRow dd 0 ds p.1) else pure ()) = (.ok () : Mac Unit) := by
  cases dd with
  | none => rfl
  | some d => exact h nofun

/-- One part and then the others. -/
theorem bind_step {α β : Type} {e : Mac α} {go : α → Mac β} {a : α} {b : Mac β} (h : e = .ok a) (hgo : go a = b) : (e >>= go) = b := by
  rw [h, mac_ok_bind, hgo]

theorem drained_slot (z : BrimSlot) (g : BitVec 32) :
    (drained x r o z g).brim.slots[drainState o r.done % 64]'(Nat.mod_lt _ (by decide)) = z :=
  Vector.getElem_set_self ..

theorem drained_gensAt (z : BrimSlot) (g : BitVec 32) :
    (drained x r o z g).gensAt r.q.cap.gen = { x.gensAt r.q.cap.gen with brim := g } :=
  gensAt_setGensAt x r.q.cap.gen _

theorem drainRun_whole {len ds hi rest : Nat} (h : hi = (r.done + 1) * len) :
    (drainRun r o dd len ds hi rest).done = r.done + 1 ∧ ((drainRun r o dd len ds hi rest).fin = true ↔ r.done + 1 = o.n10) := by
  simp only [drainRun, h, beq_self_eq_true, if_true, Run.did, beq_iff_eq, and_self]

theorem drainRun_part {len ds hi rest : Nat} (h : hi ≠ (r.done + 1) * len) :
    (drainRun r o dd len ds hi rest).done = r.done ∧ (drainRun r o dd len ds hi rest).aux.headD 0 = hi - r.done * len ∧
      (drainRun r o dd len ds hi rest).aux.drop 2 = [rest] := by
  simp [drainRun, h]

section
variable (h : UnitRuns s x r) (hlt : r.done < o.n10) (hwrite : write = !x.brim.prog.contains 12) (hdd : dd = if write then r.dstSide o else none)
  (hf : DrainFmt x r write dd gov ty f) (hfits : DrainFits o dd (256 * ty.width / 8))
include h hlt hwrite hdd hf hfits

/-- With the destination's format known, a unit wants a slot. -/
theorem execAdrain_slot : ∃ go, execAdrain o s = withSlot s x r dd 1 1 go := by
  rw [execAdrain, h]
  simp only [← hwrite, ← hdd]
  rw [if_neg (Nat.not_le.mpr hlt), drainFmt_goes hf, drainFmt_type hf]
  dsimp only
  rw [if_neg hfits.not_refused]
  exact ⟨_, rfl⟩

/-- The first bytes of a row land, and what of it waits for the next slot is kept. -/
theorem execAdrain_row {ds a lo hi rest : Nat} {ys : List FVal} {p : BrimRows} {k0 k : Core} {g : BitVec 32} (hslot : SideSlot r dd 1 ds)
    (hlo : lo = r.done * (256 * ty.width / 8) + r.aux.headD 0) (hhi : hi = drainHi r dd (256 * ty.width / 8))
    (ha : a = sideRow dd (rowOf r.q.cap.sa) ds (lo / 256) * 256 + lo % 256) (hagree : DrainAgrees x r dd gov lo hi ds)
    (hop : write = true → dd = none → ∃ h, operandFmt x r.q (rowOf r.q.cap.sa) ((o.n10 * (256 * ty.width / 8) + 255) / 256) = .ok h)
    (hd : Drains s x r o ys p k0)
    (hw : DrainWrites x r write ty f a (8 * (hi - lo) / ty.width) (drainOut x r o ys p).2 k0 k g rest) :
    execAdrain o s = (s.putCore k).putRun (sideEnd dd (drained x r o (drainOut x r o ys p).1 g) (drainEnds dd hi))
      (drainRun r o dd (256 * ty.width / 8) ds hi rest) := by
  subst hlo hhi ha
  obtain ⟨haux, hmask, hys, hp, hclr⟩ := hd
  have hcond : ¬ (x.brim.prog.contains 6 && decide (x.brim.mask.length ≤ drainState o r.done)) = true := by
    simp only [Bool.and_eq_true, decide_eq_true_eq, not_and, Nat.not_le]
    exact hmask
  have hcore : (if o.clr then writeAcc s.myCore x (o.acc + r.done) (List.replicate 256 (.fin false 0 0)) else pure s.myCore : Mac Core) = .ok k0 := by
    split at hclr
    next hc => rw [if_pos hc, hclr]
    next hc => rw [if_neg hc, hclr]; rfl
  have hfirst : ∃ h, (if write && dd.isNone then operandFmt x r.q (rowOf r.q.cap.sa) ((o.n10 * (256 * ty.width / 8) + 255) / 256) else pure f) =
      (.ok h : Mac Fmt) := by
    split
    next hc =>
      obtain ⟨hwr, hnone⟩ := Bool.and_eq_true_iff.mp hc
      exact hop hwr (Option.isNone_iff_eq_none.mp hnone)
    next => exact ⟨f, rfl⟩
  obtain ⟨first, hfirst⟩ := hfirst
  rw [execAdrain, h]
  simp only [← hwrite, ← hdd]
  rw [if_neg (Nat.not_le.mpr hlt), drainFmt_goes hf, drainFmt_type hf]
  dsimp only
  rw [if_neg hfits.not_refused]
  refine (withSlot_goes hslot fun _ _ => .inl le_rfl).trans ?_
  rw [haux]
  dsimp only
  refine (if_neg hcond).trans ?_
  refine (congrArg (fun e => orFault s x r e _) (?part : _ = Except.ok (k, (drainOut x r o ys p).1, g, rest))).trans rfl
  refine (ite_bind hfirst).trans (bind_step hagree.agree (bind_step hys (bind_step hp ((ite_bind hcore).trans ?_))))
  unfold DrainWrites at hw
  split at hw
  next hwr =>
    obtain ⟨hk, rfl, rfl⟩ := hw
    rw [if_pos hwr]
    exact bind_step hk rfl
  next hwr =>
    obtain ⟨rfl, rfl, rfl⟩ := hw
    rw [if_neg hwr]
    rfl

/-- What waits of a row lands in the next slot. -/
theorem execAdrain_rest {ds a lo hi rest : Nat} {more : List Nat} {k : Core} (hslot : SideSlot r dd 1 ds)
    (hlo : lo = r.done * (256 * ty.width / 8) + r.aux.headD 0) (hhi : hi = drainHi r dd (256 * ty.width / 8))
    (ha : a = sideRow dd (rowOf r.q.cap.sa) ds (lo / 256) * 256 + lo % 256) (hagree : DrainAgrees x r dd gov lo hi ds)
    (haux : r.aux.drop 2 = rest :: more) (hk : writeBytes s.myCore x a (hi - lo) rest = .ok k) :
    execAdrain o s = (s.putCore k).putRun (sideEnd dd x (drainEnds dd hi))
      (drainRun r o dd (256 * ty.width / 8) ds hi (rest / 2 ^ (8 * (hi - lo)))) := by
  subst hlo hhi ha
  rw [execAdrain, h]
  simp only [← hwrite, ← hdd]
  rw [if_neg (Nat.not_le.mpr hlt), drainFmt_goes hf, drainFmt_type hf]
  dsimp only
  rw [if_neg hfits.not_refused]
  refine (withSlot_goes hslot fun _ _ => .inl le_rfl).trans ?_
  rw [haux]
  exact (congrArg (fun e => orFault s x r e _) (bind_step hagree.agree hk)).trans rfl

end

end Sys2Proof.Machine
end

section
/-! SUPPORT. The matrix macros as their tile steps, and the theorem on the matrix and brim macros (R164, R165, R180 to R193). -/

namespace Sys2Proof.Machine

variable {s : State} {x : Ctx} {r : Run} {o : EM}

theorem execMmv_stream (h : UnitRuns s x r) : execMmv o s = streamStep s x r o o.k := h _

theorem execMmg_stream (h : UnitRuns s x r) {c : Nat} (hdir : o.dir = true) (hc : r.aux.head? = some c) : execMmg o s = streamStep s x r o c := by
  obtain ⟨l, hl⟩ := List.head?_eq_some_iff.mp hc
  rw [execMmg, h, hl]
  exact if_pos hdir

theorem execMmg_column (h : UnitRuns s x r) {c : Nat} (hdir : o.dir = false) (hc : r.aux.head? = some c) :
    execMmg o s = columnStep s x r o o.k o.b6 c (fun _ _ => true) fun _ => none := by
  obtain ⟨l, hl⟩ := List.head?_eq_some_iff.mp hc
  rw [execMmg, h, hl]
  exact if_neg (by rw [hdir]; exact Bool.false_ne_true)

/-- Key c takes part in MATT's row m. -/
def mattSees (x : Ctx) (r : Run) (o : EM) (m c : Nat) : Bool :=
  decide (c < o.nk) && (!o.msk || x.brim.visible m ((fieldNat r.q.cap.sc 0 32 + c) % 2 ^ 32))

/-- The accumulator row to which MATT's first step adds: a masked score is −∞. -/
def mattInit (x : Ctx) (r : Run) (o : EM) (m : Nat) : List FVal :=
  (List.range 256).map fun c => if mattSees x r o m c then .fin false 0 0 else .inf true

theorem execMatt_column (h : UnitRuns s x r) (hmask : o.msk = true → o.b6 ≤ x.brim.mask.length) :
    execMatt o s = columnStep s x r o o.kc o.b6 o.nk (mattSees x r o) fun m => some (mattInit x r o m) := by
  rw [execMatt, h]
  exact if_neg (by simp only [Bool.and_eq_true, decide_eq_true_eq, not_and, Nat.not_lt]; exact hmask)

end Sys2Proof.Machine

namespace Sys2Proof
open Machine

/-- Settles O51: a lemma for each macro's unit; what is read once for an operand row holds the sidecars of each of its spans. -/
theorem matrixAndBrimMacros : Obligations.MatrixAndBrimMacros := by
  refine ⟨fun s x e r0 o heng => ?_, fun _ _ _ _ _ _ _ _ _ _ hkk hs hv => decodeSpanWith_eq hkk hs hv, fun _ hne h => colSums_eq hne h, fun z hz => ?_⟩
  rotate_left
  · obtain ⟨h0, h1, h2, h3, h4, h5, h6, h7, hheap⟩ := z.bytes_spec hz
    refine ⟨h0, h1, h2, h3, h4, h5, h6, h7, fun j hj => ?_⟩
    obtain ⟨hv, hi⟩ := hheap j hj
    refine ⟨hv.trans ?_, hi.trans ?_⟩ <;> unfold BrimSlot.heapWords <;> cases z.heap[j]? <;> rfl
  intro r q t brim ends addRow stands waits starts
  have h : UnitRuns s x r := heng.unitRuns
  refine ⟨fun a w sides k hlt ha hw hs hadd => execMma_runs h hlt ha hw hs hadd, ?stream, ?column, fun c haux hc => execMmg_start h haux hc,
    fun v hv => execMpbld_runs h hv, fun p hlt hp => execAclr_runs h hlt hp, ?adrain,
    ⟨fun hsa => execBset_zero h hsa, fun p hsa hp => execBset_row h hsa hp⟩, ?bsamp, ?bread⟩
  case stream =>
    intro i kk hi sd n a hlt ha
    have hexec : exec i s = streamStep s x r o kk := by
      obtain ⟨rfl, rfl⟩ | ⟨rfl, hdir, hc⟩ := hi
      · exact execMmv_stream h
      · exact execMmg_stream h hdir hc
    refine ⟨fun d r' hd hrow hf ht => hexec.trans (streamStep_starts hlt ha hd hrow hf ht), ?_⟩
    intro f w hf hw off slots
    obtain ⟨go, hgo⟩ := streamStep_slot (s := s) hlt ha hf hw
    exact ⟨withSlot_stands (hexec.trans hgo), fun ks sides slot hslot hready hagree hk0 hs hadd =>
      hexec.trans (streamStep_goes hlt ha hf hw rfl rfl rfl hslot hready hagree hk0 hs hadd)⟩
  case column =>
    intro i kk n on fresh hi sd m len a hlt ha
    obtain ⟨init, hexec, hinit⟩ : ∃ init, exec i s = columnStep s x r o kk o.b6 n on init ∧
        ∀ old, (if fresh then old = (List.range 256).map fun c => if on m c then FVal.fin false 0 0 else .inf true
          else readAcc s.myCore x (o.acc + m) = .ok old) → ColumnOld s x (o.acc + m) (if t = 0 then init m else none) old := by
      obtain ⟨rfl, hdir, hc, rfl, rfl, hon⟩ | ⟨rfl, rfl, rfl, rfl, hmask, hon⟩ := hi
      · obtain rfl : on = fun _ _ => true := funext fun m => funext fun j => hon m j
        refine ⟨_, execMmg_column h hdir hc, fun old hold => ?_⟩
        rw [ite_self]
        exact hold
      · obtain rfl : on = mattSees x r o := funext fun m => funext fun j => hon m j
        refine ⟨_, execMatt_column h hmask, fun old hold => ?_⟩
        by_cases ht : t = 0
        · rw [if_pos ht]
          rwa [if_pos (decide_eq_true ht)] at hold
        · rw [if_neg ht]
          rwa [if_neg (by rw [decide_eq_false ht]; exact Bool.false_ne_true)] at hold
    refine ⟨fun hn d r' hd hrow hf ht => hexec.trans (columnStep_starts hlt ha hn hd hrow hf ht), ?_⟩
    intro f g hf hg slots
    obtain ⟨go, hgo⟩ := columnStep_slot (s := s) (o := o) (on := on) (init := init) hlt ha rfl hf hg
    refine ⟨fun hn d hd => withSlot_stands (hexec.trans hgo) d ((if_neg hn).trans hd), ?_⟩
    intro av old k rows sides ga gs slot hslot hready hagree row hs hav hold hrows hk last
    refine ⟨_, hexec.trans (columnStep_goes hlt ha rfl hf hg rfl hslot hready hagree hs hav (hinit old hold) hrows hk), ?_⟩
    by_cases hlast : last
    · rw [if_pos hlast, if_pos hlast]
      exact ⟨rfl, rfl, beq_iff_eq⟩
    · rw [if_neg hlast, if_neg hlast]
  case adrain =>
    intro dd i si v slotAfter_ z drains out
    refine ⟨fun ys p k0 hlt hprog hd => ?_, fun hlt hprog => ⟨fun d r' hd hrow hf ht => ?_, ?_⟩⟩
    · obtain ⟨hdone, hfin⟩ := drainRun_whole (r := r) (o := o) (dd := none) (ds := 0) (rest := 0) (len := 1024) rfl
      exact ⟨_, _, execAdrain_row (write := false) (dd := none) (f := q.fmt 0) (ty := .f32) h hlt (by rw [hprog]; rfl) rfl ⟨rfl, rfl, rfl⟩ nofun rfl rfl rfl
        rfl nofun nofun hd ⟨rfl, rfl, rfl⟩, hdone, hfin, drained_slot ..⟩
    · exact execAdrain_starts h hlt hprog hd hrow hf ht
    intro gov ty f hf hty len w lo hi whole moves goes hfits
    have hwrite : true = !x.brim.prog.contains 12 := by rw [hprog]; rfl
    obtain ⟨go, hgo⟩ := execAdrain_slot (write := true) h hlt hwrite rfl ⟨hf, hty⟩ hfits
    have hgoes : ∀ ds rest, goes (drainRun r o dd len ds hi rest) rest := fun ds rest => ⟨drainRun_whole, drainRun_part⟩
    refine ⟨fun d r' hd hv ht => (withSlot_stands hgo d hd).1 r' hv ht, ?_⟩
    intro ds hds a hagree
    refine ⟨?_, fun rest more k haux hk => ?_⟩
    · intro ys p k0 k hd hop e n hk
      exact ⟨_, _, execAdrain_row (write := true) h hlt hwrite rfl ⟨hf, hty⟩ hfits hds rfl rfl rfl hagree (fun _ => hop) hd ⟨hk, rfl, rfl⟩,
        hgoes ds _, drained_slot .., drained_gensAt ..⟩
    · exact ⟨_, execAdrain_rest (write := true) h hlt hwrite rfl ⟨hf, hty⟩ hfits hds rfl rfl rfl hagree haux hk, hgoes ds _⟩
  case bsamp =>
    intro hpos
    obtain ⟨y, hy, hframe, hslots⟩ := execBsamp_runs h hpos
    refine ⟨y, hy, hframe, fun i => ?_⟩
    rw [hslots]
    split
    next hin =>
      refine ⟨rfl, rfl, rfl, rfl, rfl, rfl, rfl, rfl, fun hp => ?_, fun hp => ?_⟩
      · exact sampleSlot_counted i.val hp
      · exact sampleSlot_masked hp (by have := hpos hp (i.val - o.first) (by omega); omega)
    next => rfl
  case bread =>
    intro k hlt z hk
    exact execBread_runs h hlt hk

end Sys2Proof
end

section
/-! SUPPORT. Results that land: what they leave of a core and a context, and the scalar registers that they write (R79, R80). -/

namespace Sys2Proof

open Sys2Proof.Machine
variable {x : Ctx} {k : Core}

/-! ### Scalar registers -/

theorem reg_wr (x : Ctx) (r q : SReg) (v : Word) : (x.wr r v).reg q = if q = r ∧ q ≠ 0 then v else x.reg q := by
  unfold Ctx.wr Ctx.reg
  by_cases hr : r = 0
  · by_cases hq : q = 0 <;> simp [hr, hq]
  · by_cases hq : q = 0
    · simp [hq]
    · have hne : q = r ↔ r.toNat = q.toNat := by rw [BitVec.toNat_inj, eq_comm]
      simp only [hr, hq, if_false, Vector.getElem_set, hne, ne_eq, not_false_eq_true, and_true]

/-- A word reads its registers as they stand, unless it holds the control core (R91). -/
theorem rd_eq_reg (h : x.issue = none) (q : SReg) : x.rd q = x.reg q := by
  simp only [Ctx.rd, Ctx.reg, h]

theorem rd_issued {i : Issued} (h : x.issue = some i) (q : SReg) : x.rd q = if q = 0 then 0 else i.s[q.toNat]'q.isLt := by
  simp only [Ctx.rd, h]

/-! ### What a result that lands changes -/

/-- Of its context, registers only. -/
theorem land_ctx (v : FlightVal) (k : Core) (x : Ctx) : (land v k x).2 = { x with regs := (land v k x).2.regs } := by
  cases v with
  | scalar r w =>
    simp only [land, Ctx.wr]
    split <;> rfl
  | row r ln w =>
    simp only [land]
    split <;> rfl
  | vec _ _ _ | pair _ _ _ _ | pred _ _ _ | terms _ _ | exact _ _ => rfl

/-- Of its core, the scratchpad with its marks and the vector registers only. -/
theorem land_core (v : FlightVal) (k : Core) (x : Ctx) :
    (land v k x).1 = { k with spad := (land v k x).1.spad, spadBad := (land v k x).1.spadBad, vregs := (land v k x).1.vregs } := by
  cases v with
  | row r ln w =>
    simp only [land]
    split
    · unfold Core.putRowBytes
      split <;> rfl
    · rfl
  | scalar _ _ | vec _ _ _ | pair _ _ _ _ | pred _ _ _ | terms _ _ | exact _ _ => rfl

/-- Of the scalar registers, the one that it names. -/
theorem land_reg_ne {v : FlightVal} {q : SReg} (h : ∀ w, v ≠ .scalar q w) (k : Core) (x : Ctx) : (land v k x).2.reg q = x.reg q := by
  cases v with
  | scalar r w =>
    have hne : q ≠ r := fun he => h w (he ▸ rfl)
    exact (reg_wr x r q w).trans (if_neg fun hq => hne hq.1)
  | row r ln w =>
    simp only [land]
    split <;> rfl
  | vec _ _ _ | pair _ _ _ _ | pred _ _ _ | terms _ _ | exact _ _ => rfl

theorem foldl_land_ctx (l : List Flight) (a : Core × Ctx) : (l.foldl (fun a f => land f.val a.1 a.2) a).2 =
    { a.2 with regs := (l.foldl (fun a f => land f.val a.1 a.2) a).2.regs } := by
  induction l generalizing a with
  | nil => rfl
  | cons f l ih =>
    rw [List.foldl_cons, ih, land_ctx]

theorem foldl_land_core (l : List Flight) (a : Core × Ctx) :
    let b := (l.foldl (fun a f => land f.val a.1 a.2) a).1
    b = { a.1 with spad := b.spad, spadBad := b.spadBad, vregs := b.vregs } := by
  induction l generalizing a with
  | nil => rfl
  | cons f l ih =>
    dsimp only at ih ⊢
    rw [List.foldl_cons, ih, land_core]

theorem foldl_land_reg_ne {q : SReg} (l : List Flight) (a : Core × Ctx) (h : ∀ f ∈ l, ∀ w, f.val ≠ .scalar q w) :
    (l.foldl (fun a f => land f.val a.1 a.2) a).2.reg q = a.2.reg q := by
  induction l generalizing a with
  | nil => rfl
  | cons f l ih =>
    rw [List.foldl_cons, ih _ fun g hg => h g (List.mem_cons_of_mem f hg), land_reg_ne (h f List.mem_cons_self)]

/-- A register that just one of the results names takes its value, whatever the order. -/
theorem foldl_land_reg_eq {r : SReg} {v : Word} (hr : r ≠ 0) (l : List Flight) (a : Core × Ctx)
    (h : ∀ f ∈ l, ∀ w, f.val = .scalar r w → w = v) (hv : ∃ f ∈ l, f.val = .scalar r v) :
    (l.foldl (fun a f => land f.val a.1 a.2) a).2.reg r = v := by
  induction l generalizing a with
  | nil => obtain ⟨f, hf, -⟩ := hv; cases hf
  | cons f l ih =>
    rw [List.foldl_cons]
    by_cases hl : ∃ g ∈ l, g.val = .scalar r v
    · exact ih _ (fun g hg => h g (List.mem_cons_of_mem f hg)) hl
    · obtain ⟨g, hg, hgv⟩ := hv
      obtain rfl : g = f := (List.mem_cons.mp hg).resolve_right fun hgl => hl ⟨g, hgl, hgv⟩
      rw [foldl_land_reg_ne l _ fun e he w hw => hl ⟨e, he, by rw [hw, h e (List.mem_cons_of_mem g he) w hw]⟩, hgv]
      exact (reg_wr a.2 r r v).trans (if_pos ⟨rfl, hr⟩)

/-! ### Landing what is due of a unit -/

theorem mem_insertFlight {f g : Flight} : ∀ {l : List Flight}, g ∈ insertFlight f l ↔ g = f ∨ g ∈ l
  | [] => by simp [insertFlight]
  | e :: l => by
    unfold insertFlight
    split
    · rw [List.mem_cons, mem_insertFlight, List.mem_cons]
      tauto
    · simp

/-- Results in the order in which they land are the same results. -/
theorem mem_landOrder {g : Flight} (l acc : List Flight) : g ∈ l.foldl (fun acc f => insertFlight f acc) acc ↔ g ∈ l ∨ g ∈ acc := by
  induction l generalizing acc with
  | nil => simp
  | cons f l ih => rw [List.foldl_cons, ih, mem_insertFlight, List.mem_cons]; tauto

/-- The result of a unit lands below the bound. -/
def Machine.Flight.due (f : Flight) (u : FixUnit) (n : Nat) : Bool := f.unit == u && decide (f.land < n)

theorem flight_due_iff {f : Flight} {u : FixUnit} {n : Nat} : f.due u n = true ↔ f.unit = u ∧ f.land < n := by
  rw [Flight.due, Bool.and_eq_true, beq_iff_eq, decide_eq_true_iff]

/-- Of the context, the results that have landed are gone from flight, and its registers are written. -/
theorem landBefore_ctx (u : FixUnit) (n : Nat) (k : Core) (x : Ctx) : (landBefore u n k x).2 =
    { x with flights := x.flights.filter fun f => !f.due u n, regs := (landBefore u n k x).2.regs } :=
  foldl_land_ctx _ _

theorem landBefore_core (u : FixUnit) (n : Nat) (k : Core) (x : Ctx) :
    (landBefore u n k x).1 = { k with spad := (landBefore u n k x).1.spad, spadBad := (landBefore u n k x).1.spadBad,
                                      vregs := (landBefore u n k x).1.vregs } :=
  foldl_land_core _ _

/-- With nothing due, nothing changes. -/
theorem landBefore_none {u : FixUnit} {n : Nat} (k : Core) (h : ∀ f ∈ x.flights, f.unit = u → n ≤ f.land) : landBefore u n k x = (k, x) := by
  have hdue : ∀ f ∈ x.flights, (f.unit == u && decide (f.land < n)) = false := fun f hf => by
    rw [Bool.and_eq_false_imp, beq_iff_eq]
    exact fun hu => decide_eq_false (Nat.not_lt.mpr (h f hf hu))
  unfold landBefore
  rw [List.filter_eq_nil_iff.mpr fun f hf => by simp [hdue f hf], List.filter_eq_self.mpr fun f hf => by simp [hdue f hf]]
  rfl

theorem landBefore_reg_ne {u : FixUnit} {n : Nat} {q : SReg} (k : Core) (h : ∀ f ∈ x.flights, f.due u n = true → ∀ w, f.val ≠ .scalar q w) :
    (landBefore u n k x).2.reg q = x.reg q :=
  foldl_land_reg_ne _ _ fun f hf =>
    h f (List.mem_of_mem_filter (((mem_landOrder _ []).mp hf).resolve_right List.not_mem_nil))
      (List.mem_filter.mp (((mem_landOrder _ []).mp hf).resolve_right List.not_mem_nil)).2

theorem landBefore_reg_eq {u : FixUnit} {n : Nat} {r : SReg} {v : Word} (hr : r ≠ 0) (k : Core)
    (h : ∀ f ∈ x.flights, ∀ w, f.val = .scalar r w → w = v) {f : Flight} (hf : f ∈ x.flights) (hdue : f.due u n = true)
    (hv : f.val = .scalar r v) : (landBefore u n k x).2.reg r = v :=
  foldl_land_reg_eq hr _ _
    (fun g hg => h g (List.mem_of_mem_filter (((mem_landOrder _ []).mp hg).resolve_right List.not_mem_nil)))
    ⟨f, (mem_landOrder _ []).mpr (.inl (List.mem_filter.mpr ⟨hf, hdue⟩)), hv⟩

/-- What a control word sees of the word that holds its control core. -/
theorem landed_issue (x : Ctx) (k : Core) : (x.landed k).issue = x.issue := congrArg (·.issue) (landBefore_ctx .ctl _ k x)

/-- Settles O16: a control word lands what is due by its clk, and just one result in flight names the register. -/
theorem fixedLatencyLanding : Obligations.FixedLatencyLanding := by
  unfold Obligations.FixedLatencyLanding
  intro x k r v a lat fl hr hfl hother
  have honly : ∀ f ∈ x.flights, ∀ w, f.val = .scalar r w → w = v := fun f hf w hw => by
    rw [hfl, List.mem_append, List.mem_singleton] at hf
    rcases hf with hf | rfl
    · exact absurd hw (hother f hf w)
    · exact (FlightVal.scalar.inj hw).2.symm
  refine ⟨?_, fun q hq hfree => ?_, fun hi q => rd_eq_reg ((landed_issue x k).trans hi) q,
    fun h hi q => rd_issued ((landed_issue x k).trans hi) q, fun v' => if_pos rfl⟩
  · split
    next hle =>
      exact landBefore_reg_eq hr k honly (hfl ▸ List.mem_append_right fl (List.mem_singleton_self _))
        (flight_due_iff.mpr ⟨rfl, Nat.lt_succ_of_le hle⟩) rfl
    next hlt =>
      refine landBefore_reg_ne k fun f hf hdue w hw => ?_
      rw [hfl, List.mem_append, List.mem_singleton] at hf
      rcases hf with hf | rfl
      · exact hother f hf w hw
      · exact hlt (Nat.le_of_lt_succ (flight_due_iff.mp hdue).2)
  · refine landBefore_reg_ne k fun f hf _ w hw => ?_
    rw [hfl, List.mem_append, List.mem_singleton] at hf
    rcases hf with hf | rfl
    · exact hfree f hf w hw
    · exact hq (FlightVal.scalar.inj hw).1.symm

end Sys2Proof
end

section
/-! SUPPORT. The traps of scalar accesses (R82, R105, R106). -/

namespace Sys2Proof

open Sys2Proof.Machine
variable {s : State} {x : Ctx} {o : C3}

theorem Machine.CtlRuns.mono {g : Guard} {reads reads' : List SReg} (h : CtlRuns s g reads x) (hsub : reads' ⊆ reads) : CtlRuns s g reads' x := by
  obtain ⟨hv, hg, hp⟩ := h
  exact ⟨hv, hg, fun hr => ⟨(hp hr).1, fun r hm => (hp hr).2 r (hsub hm)⟩⟩

/-! ### Where an access goes (R106) -/

theorem scalarPlace_watch {acc : AccKind} {k : Loc → State → Out} (h : x.watched o = true) :
    scalarPlace s x o acc k = .next (s.trapP x .watch 0 0 (scalarAddr x o)) := if_pos h

theorem scalarPlace_mem {acc : AccKind} {k : Loc → State → Out} (hw : x.watched o = false) (ht : x.tokFull o.tok = false)
    (hsp : o.sp = false) : scalarPlace s x o acc k = withXlat s x (s.xlat x (scalarAddr x o) acc) (scalarAddr x o) k := by
  simp [scalarPlace, hw, ht, hsp]

theorem scalarPlace_outside {acc : AccKind} {k : Loc → State → Out} (hw : x.watched o = false) (ht : x.tokFull o.tok = false)
    (hsp : o.sp = true) (ha : x.spadAddr (scalarAddr x o) = none) :
    scalarPlace s x o acc k = .next (s.trapP x .allot 0 0 (scalarAddr x o)) := by
  simp [scalarPlace, hw, ht, hsp, ha]

/-- A scalar access that runs goes on with its place. -/
theorem scalarWord_runs {w : Instr} {acc : AccKind} (h : CtlRuns s o.g [o.sa, o.sb] x) (hw : w = .sld o ∧ acc = .read ∨ w = .sst o ∧ acc = .write) :
    ∃ k, exec w s = scalarPlace s x o acc k := by
  rcases hw with ⟨rfl, rfl⟩ | ⟨rfl, rfl⟩
  · have hsa : CtlRuns s o.g [o.sa] x := h.mono (by simp)
    apply Exists.intro
    change execSld o s = _
    rw [execSld, ctlWord_runs hsa]
  · apply Exists.intro
    change execSst o s = _
    rw [execSst, ctlWord_runs h]

/-- Settles O21: the word traps where its place does, and an access to a segment with duplicates waits. -/
theorem scalarAccessTraps : Obligations.ScalarAccessTraps := by
  unfold Obligations.ScalarAccessTraps
  intro s x o w acc h hw a
  obtain ⟨k, hrun⟩ := scalarWord_runs h hw
  refine ⟨fun hwatch => hrun.trans (scalarPlace_watch hwatch), fun hwatch htok hsp => ?_, fun hwatch htok hsp ha =>
    hrun.trans (scalarPlace_outside hwatch htok hsp ha)⟩
  have hmem : exec w s = withXlat s x (s.xlat x a acc) a k := hrun.trans (scalarPlace_mem hwatch htok hsp)
  intro s'
  refine ⟨fun he => ?_, fun he => ?_, fun ev he => ?_, fun he => ?_, fun i he => ⟨_, ?_, ctlHold_waits (s.noteSeg x.id.asid i) x _⟩⟩ <;>
    rw [hmem, he] <;> rfl

end Sys2Proof
end

section
/-! SUPPORT. The system registers that MFS reads, by number, and MTS to the segment table and to HEATCFG (R72, R113, R304 to R307, R315). -/

namespace Sys2Proof

open Sys2Proof.Machine
variable {s : State} {x : Ctx} {o : C3} {n : Nat}

/-! ### The register map by number (R72) -/

/-- The numbers that only the privileged view reaches. -/
def SysPrivileged (n : Nat) : Prop := (0x070 ≤ n ∧ n ≤ 0x077) ∨ (0x080 ≤ n ∧ n ≤ 0x08F)

/-- The numbers that no view writes, and both read. -/
def SysReadOnly (n : Nat) : Prop := n ≤ 0x004 ∨ n = 0x008 ∨ n = 0x009 ∨ (0x039 ≤ n ∧ n ≤ 0x03C) ∨ (0x060 ≤ n ∧ n ≤ 0x065)

/-- The numbers that both views read and write. -/
def SysReadWrite (n : Nat) : Prop := (0x010 ≤ n ∧ n ≤ 0x013) ∨ n = 0x018 ∨ n = 0x019 ∨ (0x020 ≤ n ∧ n ≤ 0x023) ∨ (0x028 ≤ n ∧ n ≤ 0x02A)
  ∨ (0x030 ≤ n ∧ n ≤ 0x033) ∨ (0x040 ≤ n ∧ n ≤ 0x05F) ∨ (0x100 ≤ n ∧ n ≤ 0x11F) ∨ (0x200 ≤ n ∧ n ≤ 0x3FF ∧ n % 16 ≤ 12)

theorem sysAccess_readOnly (h : SysReadOnly n) : sysAccess n = some ⟨true, false, false⟩ := by
  unfold SysReadOnly at h
  rcases h with h | rfl | rfl | h | h
  · simp (disch := omega) only [sysAccess, if_pos]
  · rfl
  · rfl
  · simp (disch := omega) only [sysAccess, if_pos, if_neg]
  · simp (disch := omega) only [sysAccess, if_pos, if_neg]

theorem sysAccess_readWrite (h : SysReadWrite n) : sysAccess n = some ⟨true, true, true⟩ := by
  unfold SysReadWrite at h
  rcases h with h | rfl | rfl | h | h | h | h | h | h
  · simp (disch := omega) only [sysAccess, if_pos, if_neg]
  · rfl
  · rfl
  all_goals simp (disch := omega) only [sysAccess, if_pos, if_neg]

theorem sysAccess_privileged (h : SysPrivileged n) : ∃ pw, sysAccess n = some ⟨false, false, pw⟩ := by
  by_cases hw : n ≤ 0x085
  · have hr : (0x070 ≤ n ∧ n ≤ 0x077) ∨ (0x080 ≤ n ∧ n ≤ 0x085) := h.imp_right fun h => ⟨h.1, hw⟩
    exact ⟨true, by simp (disch := omega) only [sysAccess, if_pos hr, if_neg]⟩
  · have hr : 0x086 ≤ n ∧ n ≤ 0x08F := by unfold SysPrivileged at h; omega
    exact ⟨false, by simp (disch := omega) only [sysAccess, if_pos hr, if_neg]⟩

theorem sysAccess_unassigned (h : ¬ (SysPrivileged n ∨ SysReadOnly n ∨ SysReadWrite n ∨ n = 0x038)) : sysAccess n = none := by
  unfold SysPrivileged SysReadOnly SysReadWrite at h
  simp (disch := omega) only [sysAccess, if_neg]

theorem sysAccess_readable (h : SysReadOnly n ∨ SysReadWrite n ∨ n = 0x038 ∨ (SysPrivileged n ∧ x.id.priv = true)) :
    ∃ a, sysAccess n = some a ∧ (x.id.priv = true ∨ a.ur = true) := by
  rcases h with h | h | rfl | ⟨h, hp⟩
  · exact ⟨_, sysAccess_readOnly h, .inr rfl⟩
  · exact ⟨_, sysAccess_readWrite h, .inr rfl⟩
  · exact ⟨_, rfl, .inr rfl⟩
  · exact ⟨_, (sysAccess_privileged h).choose_spec, .inl hp⟩

/-! ### MFS and MTS by what the map says (R113) -/

theorem execMfs_unassigned (h : CtlRuns s o.g [] x) (ha : sysAccess o.sysNum = none) : exec (.mfs o) s = .next (s.trapP x .illegal) := by
  change execMfs o s = _
  rw [execMfs, ctlWordRes_runs h (.inl (by simp [ha])), ha]

theorem execMfs_perm {a : SysAccess} (h : CtlRuns s o.g [] x) (ha : sysAccess o.sysNum = some a) (hur : a.ur = false) (hp : x.id.priv = false) :
    exec (.mfs o) s = .next (s.trapP x .perm) := by
  change execMfs o s = _
  rw [execMfs, ctlWordRes_runs h (.inl (by simp [ha, hur, hp])), ha]
  simp [hur, hp]

theorem execMfs_reads {a : SysAccess} (h : CtlRuns s o.g [] x) (ha : sysAccess o.sysNum = some a) (hv : x.id.priv = true ∨ a.ur = true)
    (hr : x.hasRoom o.sd) : ∃ t, exec (.mfs o) s = .next t ∧ Advances s (x.withScalar o.sd (s.sysRead x o.sysNum) 1) 1 t := by
  refine ⟨_, ?_, ctlResult_advances s x o.sd (s.sysRead x o.sysNum) 1 hr⟩
  change execMfs o s = _
  rw [execMfs, ctlWordRes_runs h (hr.imp_left fun h0 => by simp [h0]), ha]
  rcases hv with hv | hv <;> simp [hv]

theorem mtsWord_unassigned {ok : Ctx → Word → Bool} {k : Ctx → Word → Out} (h : CtlRuns s o.g [o.sa] x) (ha : sysAccess o.sysNum = none) :
    mtsWord o s ok k = .next (s.trapP x .illegal) := by
  rw [mtsWord, ctlWord_runs h, ha]

theorem mtsWord_readOnly {ok : Ctx → Word → Bool} {k : Ctx → Word → Out} (h : CtlRuns s o.g [o.sa] x)
    (ha : sysAccess o.sysNum = some ⟨true, false, false⟩) : mtsWord o s ok k = .next (s.trapP x .illegal) := by
  rw [mtsWord, ctlWord_runs h, ha]
  rfl

theorem mtsWord_perm {ok : Ctx → Word → Bool} {k : Ctx → Word → Out} {pw : Bool} (h : CtlRuns s o.g [o.sa] x)
    (ha : sysAccess o.sysNum = some ⟨false, false, pw⟩) (hp : x.id.priv = false) : mtsWord o s ok k = .next (s.trapP x .perm) := by
  rw [mtsWord, ctlWord_runs h, ha]
  simp [hp]

/-- MTS to a number whose write behaviour is the segment table's is MTS all the same. -/
theorem exec_mts : ∀ w ∈ [Instr.mts o, .mtsStw o, .mtsStw3 o], ∃ ok k, exec w s = mtsWord o s ok k := by
  have h1 : exec (.mts o) s = execMts o s := rfl
  have h2 : exec (.mtsStw o) s = execMtsStw o s := rfl
  have h3 : exec (.mtsStw3 o) s = execMtsStw3 o s := rfl
  rw [execMtsStw, mtsEntry] at h2
  rw [execMtsStw3, mtsEntry] at h3
  simp only [List.forall_mem_cons]
  exact ⟨⟨_, _, h1⟩, ⟨_, _, h2⟩, ⟨_, _, h3⟩, fun _ hw => absurd hw List.not_mem_nil⟩

/-! ### The values of registers that stand in an array (R72, R236) -/

theorem sysRead_bfmt (k : Fin 32) : s.sysRead x (0x040 + k.val) = x.sys.bfmt[k] := by
  have hk := k.isLt
  simp (disch := omega) only [State.sysRead, if_pos, if_neg, Nat.add_sub_cancel_left]
  simp

theorem sysRead_ageus (k : Fin 8) : s.sysRead x (0x070 + k.val) = BitVec.ofNat 64 s.firm.ageus[k] := by
  have hk := k.isLt
  simp (disch := omega) only [State.sysRead, if_pos, if_neg, Nat.add_sub_cancel_left]
  simp

theorem sysRead_zero (h1 : 0x087 ≤ n) (h2 : n ≤ 0x08F) : s.sysRead x n = 0 := by
  simp (disch := omega) only [State.sysRead, if_pos, if_neg]

theorem sysRead_entry {e : Space} (h : s.space (fieldOf x.sys.stasid 0 12) = some e) (k : Fin 4) :
    s.sysRead x (0x082 + k.val) = (e.entry (fieldNat x.sys.stidx 0 10)).word k.val := by
  have hk := k.isLt
  simp (disch := omega) only [State.sysRead, if_pos, if_neg, h, Nat.add_sub_cancel_left]

theorem sysRead_present {e : Space} (h : s.space (fieldOf x.sys.stasid 0 12) = some e) : s.sysRead x 0x086 = 1 := by
  simp [State.sysRead, h]

theorem sysRead_handle (h1 : 0x100 ≤ n) (h2 : n < 0x120) : s.sysRead x n =
    if n % 2 = 0 then (x.handle (BitVec.ofNat 4 ((n - 0x100) / 2))).low else (x.handle (BitVec.ofNat 4 ((n - 0x100) / 2))).high := by
  simp (disch := omega) only [State.sysRead, if_pos (And.intro h1 h2), if_neg]

theorem sysRead_handleLow (h : HReg) : s.sysRead x (0x100 + 2 * h.toNat) = (x.handle h).low := by
  have hlt := h.isLt
  rw [sysRead_handle (by omega) (by omega), if_pos (by omega), show (0x100 + 2 * h.toNat - 0x100) / 2 = h.toNat by omega,
    BitVec.ofNat_toNat, BitVec.setWidth_eq]

theorem sysRead_handleHigh (h : HReg) : s.sysRead x (0x101 + 2 * h.toNat) = (x.handle h).high := by
  have hlt := h.isLt
  rw [sysRead_handle (by omega) (by omega), if_neg (by omega), show (0x101 + 2 * h.toNat - 0x100) / 2 = h.toNat by omega,
    BitVec.ofNat_toNat, BitVec.setWidth_eq]

theorem sysRead_desc (d : DReg) (k : Fin 13) : s.sysRead x (0x200 + 16 * d.toNat + k.val) = (x.desc d)[k] := by
  have hd := d.isLt
  have hdesc : BitVec.ofNat 5 ((0x200 + 16 * d.toNat + k.val - 0x200) / 16) = d := by
    rw [show (0x200 + 16 * d.toNat + k.val - 0x200) / 16 = d.toNat by omega, BitVec.ofNat_toNat, BitVec.setWidth_eq]
  have hmod : (0x200 + 16 * d.toNat + k.val) % 16 = k.val := by omega
  have hk := k.isLt
  simp (disch := omega) only [State.sysRead, if_neg, hdesc, hmod]
  simp

/-- The identity word holds its fields side by side (R74). -/
theorem ctxidWord_toNat {i : Ident} (h : i.pri < 8) : (ctxidWord i).toNat = i.pri + (if i.priv then 128 else 0) + (if i.replay then 256 else 0)
    + (if i.share then 512 else 0) + i.bank.val * 1024 + i.serial.toNat * 2 ^ 32 := by
  have hb := i.bank.isLt
  have hs := i.serial.isLt
  rw [ctxidWord, BitVec.toNat_ofNat, Nat.mod_eq_of_lt]
  · norm_num
  · split_ifs <;> omega

/-- Settles O24: a word answers by what the register map says of its number, and a number is read as its register. -/
theorem systemRegisterReads : Obligations.SystemRegisterReads := by
  refine ⟨fun s x o h => ?_, fun s x => ?_⟩
  · have h0 : CtlRuns s o.g [] x := h.mono (List.nil_subset _)
    intro n privileged readOnly readWrite
    refine ⟨fun hn => ?_, fun hn hp => ?_, fun hn => ?_, fun hn hr => ?_⟩
    · have ha : sysAccess o.sysNum = none := sysAccess_unassigned hn
      obtain ⟨ok, k, hmts⟩ := exec_mts (s := s) (.mts o) List.mem_cons_self
      exact ⟨execMfs_unassigned h0 ha, hmts.trans (mtsWord_unassigned h ha)⟩
    · obtain ⟨pw, ha⟩ : ∃ pw, sysAccess o.sysNum = some ⟨false, false, pw⟩ := sysAccess_privileged hn
      refine ⟨execMfs_perm h0 ha rfl hp, fun w hw => ?_⟩
      obtain ⟨ok, k, hmts⟩ := exec_mts (s := s) w hw
      exact hmts.trans (mtsWord_perm h ha hp)
    · have ha : sysAccess o.sysNum = some ⟨true, false, false⟩ := sysAccess_readOnly hn
      obtain ⟨ok, k, hmts⟩ := exec_mts (s := s) (.mts o) List.mem_cons_self
      exact hmts.trans (mtsWord_readOnly h ha)
    · obtain ⟨a, ha, hv⟩ : ∃ a, sysAccess o.sysNum = some a ∧ (x.id.priv = true ∨ a.ur = true) := sysAccess_readable hn
      exact execMfs_reads h0 ha hv hr
  · intro r
    refine ⟨rfl, rfl, rfl, rfl, ctxidWord_toNat, fun h1 h2 => ?_, ?_, rfl, rfl, rfl, rfl, rfl, rfl, rfl, rfl, rfl, rfl, rfl, rfl, rfl, rfl, rfl,
      rfl, rfl, rfl, rfl, rfl, ⟨?_, ?_⟩, sysRead_bfmt, rfl, rfl, rfl, rfl, rfl, rfl, sysRead_ageus, rfl, rfl, fun n => sysRead_zero,
      fun e he => ⟨sysRead_present he, sysRead_entry he⟩, fun h => ⟨sysRead_handleLow h, sysRead_handleHigh h⟩, sysRead_desc⟩
    · change (vallotWord x.id).toNat = _
      rw [vallotWord, BitVec.toNat_ofNat, Nat.mod_eq_of_lt (by omega)]
    · change sallotWord x.id s.myCore.msgn = _
      rfl
    · change (BitVec.ofNat 64 _).toNat = _
      rw [BitVec.toNat_ofNat, Nat.mod_eq_of_lt (by omega)]
    · change (BitVec.ofNat 64 _).toNat = _
      rw [BitVec.toNat_ofNat, Nat.mod_eq_of_lt (by omega)]

/-! ### The segment table (R304, R306, R307) -/

/-- The entry that STASID and STIDX name takes the word where R307 admits it, and ILLEGAL is raised where it does not. -/
theorem mtsEntry_runs (h : CtlRuns s o.g [o.sa] x) (hp : x.id.priv = true) (h1 : 0x082 ≤ o.sysNum) (h2 : o.sysNum ≤ 0x085)
    {k : Ctx → BitVec 12 → Nat → SegEntry → SegEntry → Out} :
    let a := fieldOf x.sys.stasid 0 12
    let i := fieldNat x.sys.stidx 0 10
    let e := (s.entry a i).setWord (o.sysNum - 0x082) (x.rd o.sa)
    mtsEntry o s k = if (s.space a).isSome && s.entryOk e then k x a i (s.entry a i) e else .next (s.trapP x .illegal) := by
  have hr : (0x070 ≤ o.sysNum ∧ o.sysNum ≤ 0x077) ∨ (0x080 ≤ o.sysNum ∧ o.sysNum ≤ 0x085) := .inr (by omega)
  have ha : sysAccess o.sysNum = some ⟨false, false, true⟩ := by simp (disch := omega) only [sysAccess, if_pos hr, if_neg]
  intro a i e
  rw [mtsEntry, mtsWord_runs h (writable_of_priv ha hp)]

/-- STW0 to STW2 keep the old word beside the entry. -/
theorem execMtsStw_runs (h : CtlRuns s o.g [o.sa] x) (hp : x.id.priv = true) (h1 : 0x082 ≤ o.sysNum) (h2 : o.sysNum ≤ 0x085) :
    let a := fieldOf x.sys.stasid 0 12
    let i := fieldNat x.sys.stidx 0 10
    let e := (s.entry a i).setWord (o.sysNum - 0x082) (x.rd o.sa)
    let old : SegOld := { asid := a, idx := i, word := o.sysNum - 0x082, val := (s.entry a i).word (o.sysNum - 0x082), till := s.tick }
    exec (.mtsStw o) s = if (s.space a).isSome && s.entryOk e then .next ((({ s with segOld := old :: s.segOld } : State).setEntry a i e).ctlDone x)
      else .next (s.trapP x .illegal) := by
  change execMtsStw o s = _
  rw [execMtsStw, mtsEntry_runs h hp h1 h2]

/-- STW3 is written once the thread's earlier accesses are done. -/
theorem execMtsStw3_runs (h : CtlRuns s o.g [o.sa] x) (hp : x.id.priv = true) (hn : o.sysNum = 0x085)
    (hsp : (s.space (fieldOf x.sys.stasid 0 12)).isSome = true)
    (hok : s.entryOk ((s.entry (fieldOf x.sys.stasid 0 12) (fieldNat x.sys.stidx 0 10)).setWord 3 (x.rd o.sa)) = true) :
    exec (.mtsStw3 o) s = if x.ops.isEmpty && s.drained (s.cur.core, x.id.serial) then
      .next ((s.setEntry (fieldOf x.sys.stasid 0 12) (fieldNat x.sys.stidx 0 10)
        ((s.entry (fieldOf x.sys.stasid 0 12) (fieldNat x.sys.stidx 0 10)).setWord 3 (x.rd o.sa))).settle.ctlDone x)
      else .next (s.ctlBusy x) := by
  change execMtsStw3 o s = _
  rw [execMtsStw3, mtsEntry_runs h hp (by omega) (by omega), hn, if_pos (Bool.and_eq_true_iff.mpr ⟨hsp, hok⟩)]

/-! ### HEATCFG (R315) -/

theorem calveFirst_heatcfg {d : DieId} {l : List Obj} {t : State} (h : s.calveFirst d l = some t) : t.firm.heatcfg = s.firm.heatcfg := by
  induction l with
  | nil => cases h
  | cons o l ih =>
    unfold State.calveFirst at h
    split at h
    · cases h; rfl
    · exact ih h

theorem calveDie_heatcfg (d : DieId) (n : Nat) : ∀ s : State, (s.calveDie d n).firm.heatcfg = s.firm.heatcfg := by
  induction n with
  | zero => exact fun _ => rfl
  | succ n ih =>
    intro s
    unfold State.calveDie
    split
    · rfl
    · split
      next t ht => exact (ih t).trans (calveFirst_heatcfg ht)
      next => rfl

/-- Calving to the new budget leaves the value that was written. -/
theorem setHeat_heatcfg (s : State) (v : Word) : (s.setHeat v).firm.heatcfg = v := by
  simp only [State.setHeat, List.foldl_cons, List.foldl_nil, calveDie_heatcfg]

/-- Settles O27: MTS writes the entry or HEATCFG where its rules admit the value, and traps where they do not. -/
theorem mtsSegmentTableAndHeatcfg : Obligations.MtsSegmentTableAndHeatcfg := by
  unfold Obligations.MtsSegmentTableAndHeatcfg
  intro s x o h n v a i
  have hheat : exec (.mtsHeatcfg o) s = if !x.id.priv then .next (s.trapP x .perm)
      else if !heatOk v || !s.rowStoreFits (heatRsMib v) then .next (s.trapP x .illegal)
      else .next ((s.setHeat v).ctlDone x) := by
    change execMtsHeatcfg o s = _
    rw [execMtsHeatcfg, ctlWord_runs h]
  refine ⟨fun hp h1 h2 => ⟨fun hok => ?_, fun hok => ?_⟩, fun hp hn hsp hok => ⟨fun hd => ?_, fun hd => ?_⟩,
    fun hp => ?_, fun hp hbad => ?_, fun hp hgood hfits => ?_⟩
  · refine ⟨_, _, ?_, ctlDone_advances _ x 1, rfl⟩
    exact (execMtsStw_runs h hp h1 (by change n ≤ _; omega)).trans (if_pos (Bool.and_eq_true_iff.mpr hok))
  · exact (execMtsStw_runs h hp h1 (by change n ≤ _; omega)).trans (if_neg fun hand => hok (Bool.and_eq_true_iff.mp hand))
  · have hrun := execMtsStw3_runs h hp hn hsp hok
    rw [if_pos (by simp [hd.1, hd.2])] at hrun
    exact ⟨_, hrun, ctlDone_advances _ x 1⟩
  · have hrun := execMtsStw3_runs h hp hn hsp hok
    rw [if_neg (by rcases hd with hd | hd <;> simp [hd])] at hrun
    exact ⟨_, hrun, ctlHold_waits s x .busy⟩
  · rw [hheat, hp]; rfl
  · rw [hheat, hp]
    rcases hbad with hbad | hbad <;> simp [hbad]
  · exact ⟨_, by rw [hheat, hp, hgood, hfits]; rfl, ctlDone_advances _ x 1, setHeat_heatcfg s v⟩

end Sys2Proof
end

section
/-! SUPPORT. Timeline waits, in a C section and in a queue, and the held faults that they deliver (R78, R86, R217, R218). -/

namespace Sys2Proof

open Sys2Proof.Machine
variable {s : State} {x : Ctx} {o : C3}

/-! ### Words that stand in a C section or in a queue (R42) -/

theorem syncWord_control {reads : List SReg} {ctl : Ctx → Out} {queue : Ctx → QWord → Kind → Out} (h : SyncCtl s o.g reads x) :
    syncWord o reads s ctl queue = ctl x := by
  obtain ⟨hrun, hunit⟩ := h
  unfold syncWord
  split
  next k hk => exact absurd hk (hunit k)
  next => exact ctlWord_runs hrun

theorem syncWord_queue {reads : List SReg} {ctl : Ctx → Out} {queue : Ctx → QWord → Kind → Out} {q : QWord} {k : Kind}
    (h : SyncRuns s o.g x q k) : syncWord o reads s ctl queue = queue x q k := by
  obtain ⟨hx, hunit, hq, hg, hp⟩ := h
  simp only [syncWord, hunit, hx, hq, not_pends hp, hg, Bool.false_eq_true, if_false, if_true]

/-! ### Held faults that a wait delivers (R86) -/

theorem deliverOr_none {want : Eng → Bool} {k : State} (h : x.trapMode = true ∨ x.faultOn want = none) : s.deliverOr x want k = k := by
  unfold State.deliverOr
  split
  · rfl
  next ht => rw [h.resolve_left ht]; rfl

theorem deliverOr_fault {want : Eng → Bool} {k : State} {r : Run} {f : Cause} (ht : x.trapMode = false) (hr : x.faultOn want = some r)
    (hf : r.fault = some f) : s.deliverOr x want k = s.takeTrap x f := by
  simp only [State.deliverOr, ht, hr, Option.bind_some, hf, Bool.false_eq_true, if_false]

theorem mem_allEngines (e : Eng) : e ∈ allEngines := by cases e <;> decide

/-- An engine is marked that was so before, or that is asked for and holds a fault. -/
theorem mem_deliverFor {want : Eng → Bool} {e : Eng} : e ∈ (x.deliverFor want).deliver ↔
    e ∈ x.deliver ∨ (want e = true ∧ ∃ r ∈ x.eng.get e, r.fault.isSome = true) := by
  simp only [Ctx.deliverFor, List.mem_append, List.mem_filter, mem_allEngines, true_and, Bool.and_eq_true, Bool.not_eq_true',
    List.contains_eq_mem, decide_eq_false_iff_not, List.any_eq_true]
  tauto

/-! ### TWAIT and TREAD (R217, R218) -/

theorem ctr_eq {c : Ctr} (h : Ctr.ofCode (o.imm.extractLsb' 0 3).toNat = some c) : C3.ctr o = c := by
  rw [C3.ctr, fieldNat, h, Option.getD_some]

/-- The engines whose held faults a wait on the counter delivers. -/
def counterUsers (x : Ctx) (c : Ctr) : Eng → Bool := x.enginesOf fun q => ctrOf (opOf q.w) q.kind == some c

theorem execTwait_control {c : Ctr} (hc : C3.ctr o = c) (h : SyncCtl s o.g [o.sa] x) : exec (.twait o) s =
    if (x.tl.get c).pushed < (x.rd o.sa).toNat then .next (s.trapP x .illegal 0x01)
    else .next (s.deliverOr x (counterUsers x c) (if (x.rd o.sa).toNat ≤ (x.tl.get c).value && !x.posted then s.ctlDone x
      else s.ctlHold x (.wait (.timeline c (x.rd o.sa).toNat)))) := by
  subst hc
  change execTwait o s = _
  rw [execTwait, syncWord_control h]
  dsimp only
  split
  · rfl
  · split <;> rfl

theorem execTwait_queue {c : Ctr} (hc : C3.ctr o = c) {q : QWord} {k : Kind} (h : SyncRuns s o.g x q k) : exec (.twait o) s =
    if q.cap.sa.toNat ≤ (x.tl.get c).value && !x.postedBefore q then .next (s.putCtx (((x.deliverFor (counterUsers x c)).qNext k).qTick k))
    else .next (s.putCtx ((x.deliverFor (counterUsers x c)).qIdle k)) := by
  subst hc
  change execTwait o s = _
  rw [execTwait, syncWord_queue h]
  rfl

theorem execTread_runs {c : Ctr} (hc : C3.ctr o = c) (h : CtlRuns s o.g [] x) (hr : x.hasRoom o.sd) :
    ∃ t, exec (.tread o) s = .next t ∧ Advances s (x.withScalar o.sd (BitVec.ofNat 64 (x.tl.get c).pushed) 1) 1 t := by
  subst hc
  refine ⟨_, ?_, ctlResult_advances s x o.sd _ 1 hr⟩
  change execTread o s = _
  rw [execTread, ctlWordRes_runs h (hr.imp_left fun h0 => by simp [h0])]

/-- Settles O35: TWAIT delivers a fault of its counter's engines, ended or not, and goes on where its number is reached. -/
theorem timelineWords : Obligations.TimelineWords := by
  refine ⟨fun x want => ⟨rfl, fun e => mem_deliverFor⟩, fun s x o c hcode => ?_⟩
  have hc := ctr_eq hcode
  intro uses
  refine ⟨fun h => ?_, fun q k h => ?_, execTread_runs hc⟩
  · have hrun := execTwait_control hc h
    intro n
    refine ⟨fun hn => hrun.trans (if_pos hn), fun hle hv hpost hquiet => ?_, fun hle hwait hquiet => ?_, fun r f hle ht hr hf => ?_⟩
    all_goals rw [if_neg (Nat.not_lt.mpr hle)] at hrun
    · have hover : (decide (n ≤ (x.tl.get c).value) && !x.posted) = true := by simp [hv, hpost]
      rw [deliverOr_none (want := counterUsers x c) hquiet, if_pos hover] at hrun
      exact ⟨_, hrun, ctlDone_advances s x 1⟩
    · have hover : ¬ (decide (n ≤ (x.tl.get c).value) && !x.posted) = true := by
        rcases hwait with hw | hw
        · simp [Nat.not_le.mpr hw]
        · simp [hw]
      rw [deliverOr_none (want := counterUsers x c) hquiet, if_neg hover] at hrun
      exact ⟨_, hrun, ctlHold_waits s x _⟩
    · rw [deliverOr_fault (want := counterUsers x c) ht hr hf] at hrun
      exact hrun
  · have hrun := execTwait_queue hc h
    refine ⟨fun hle hpost => hrun.trans (if_pos (by simp [hle, hpost])), fun hwait => hrun.trans (if_neg ?_)⟩
    rcases hwait with hw | hw
    · simp [Nat.not_le.mpr hw]
    · simp [hw]

end Sys2Proof
end

section
/-! SUPPORT. A finished macro with a token: what O48 says of its registers and of its token's count does not hold of one context. -/

namespace Sys2Proof

open Sys2Proof.Machine

/-- An LDT on token 7 that has finished at the load engine. -/
def finishedLoad : Run where
  q := { w := 0x8000F0000000000000000001, uid := 1, hdr := 0, idx := 0, kind := .l, trapm := false, num := 1,
         cap := { desc := Vector.replicate 13 0, bfmt := Vector.replicate 32 0 } }
  ctr := .tla
  fin := true

/-- A context with that macro, which its token counts. -/
def countsLoad : Ctx := { (placeCtx.tokAdd (some 7)) with eng := { load := [finishedLoad] } }

/-- The token registers stand among the registers of a context (R71): equal registers count alike (R77). -/
theorem tokCount_of_regs {x y : Ctx} (h : y.regs = x.regs) (k : BitVec 3) : y.tokCount k = x.tokCount k := by
  rw [Ctx.tokCount, h, Ctx.tokCount]

/-- Refutes O48: of a finished macro with a token it says both that no register changes and that its token's count falls; the count
is a register, and the completion of an LDT whose token counts 1 leaves 0. -/
theorem not_macroHandOverAndCompletion : ¬ Obligations.MacroHandOverAndCompletion := by
  unfold Obligations.MacroHandOverAndCompletion
  rintro ⟨-, hcompletes, -⟩
  have hone : countsLoad.tokCount 7 = 1 := by decide +kernel
  have htoken : finishedLoad.q.w.getLsbD 79 = true ∧ (7 : BitVec 3) = finishedLoad.q.w.extractLsb' 76 3 := by decide +kernel
  obtain ⟨t, y, -, -, -, -, hregs, -, -, -, -, hcount, -⟩ :=
    hcompletes (State.reset.setCtxAt 0 0 (some countsLoad)) 0 0 .load countsLoad finishedLoad (ctxAt_setCtxAt _ 0 0 _) rfl
  have hfalls := hcount 7
  rw [if_pos htoken, tokCount_of_regs hregs, hone] at hfalls
  exact absurd hfalls (by decide)

end Sys2Proof
end

section
/-! SUPPORT. Bytes of a scratchpad row, barriers among them, and of a view of module memory: what a write leaves there (R212, R213, R235,
R248, R249). -/

namespace Sys2Proof

open Sys2Proof.Machine
variable {k : Core} {s : State}

/-! ### Byte enables (R235) -/

theorem spread_getLsbD {n m : Nat} (hn : 0 < n) (w : Nat) (v : BitVec m) (i : Nat) :
    (spread n w v).getLsbD i = (decide (i < w) && v.getLsbD (i / n)) := by
  have hmod := Nat.mod_lt i hn
  rw [spread, BitVec.getLsbD_ofNat, ofElems_testBit hn]
  by_cases hi : i / n < m
  · rw [BitVec.getLsbD_eq_getElem hi]
    cases hv : v[i / n] <;> simp [hi, hv, hmod]
  · simp [hi, BitVec.getLsbD_of_ge v _ (Nat.not_lt.mp hi)]

theorem merge_getLsbD {w : Nat} (mask old new : BitVec w) (i : Nat) :
    (merge mask old new).getLsbD i = if mask.getLsbD i then new.getLsbD i else old.getLsbD i := by
  by_cases hi : i < w
  · rw [BitVec.getLsbD_eq_getElem hi]
    cases hm : mask[i] <;> simp [merge, hm, hi]
  · simp [BitVec.getLsbD_of_ge, Nat.not_lt.mp hi]

theorem merge_allOnes {w : Nat} (old new : BitVec w) : merge (BitVec.allOnes w) old new = new := by
  simp [merge]

theorem spread_allOnes : spread 8 2048 (BitVec.allOnes 256) = BitVec.allOnes 2048 := by
  refine BitVec.eq_of_getLsbD_eq fun i hi => ?_
  have h8 : i / 8 < 256 := by omega
  rw [spread_getLsbD (by decide), BitVec.getLsbD_allOnes, BitVec.getLsbD_allOnes, decide_eq_true hi, decide_eq_true h8]
  rfl

/-- The rows of the scratchpad after a byte-enabled write of one. -/
theorem read_putRowBytes (hk : Sparse.wf k.spad = true) (r q : Nat) (en : BitVec 256) (v : Row) : (k.putRowBytes r en v).spad.read q =
    if q = r then merge (spread 8 2048 en) (k.spad.read r) v else k.spad.read q := by
  unfold Core.putRowBytes
  split
  next he => rw [he, spread_allOnes, merge_allOnes]; exact Sparse.read_write _ _ _ _ hk
  next => exact Sparse.read_write _ _ _ _ hk

theorem putRowBytes_barriers (r : Nat) (en : BitVec 256) (v : Row) : (k.putRowBytes r en v).barriers = k.barriers := by
  unfold Core.putRowBytes
  split <;> rfl

/-! ### Bytes of the scratchpad -/

/-- The byte at a physical address. -/
def Machine.Core.byte (k : Core) (a : Nat) : Byte := fieldOf (k.spad.read (a / 256)) (8 * (a % 256)) 8

theorem spadBytes_one (k : Core) (a : Nat) : k.spadBytes a 1 = [k.byte a] := by
  simp [Core.spadBytes, bytesOf, Core.byte, fieldOf, BitVec.extractLsb']

theorem byte_getLsbD (a : Nat) {j : Nat} (hj : j < 8) : (k.byte a).getLsbD j = (k.spad.read (a / 256)).getLsbD (8 * (a % 256) + j) := by
  simp [Core.byte, fieldOf, hj]

/-- Bytes that a write names take its values, and every other byte stays. -/
theorem byte_putSpadBytes (hk : Sparse.wf k.spad = true) {a : Nat} {bs : List Byte} (hin : a % 256 + bs.length ≤ 256) (i : Nat) :
    (k.putSpadBytes a bs).byte i = if a ≤ i ∧ i < a + bs.length then bs.getD (i - a) 0 else k.byte i := by
  refine BitVec.eq_of_getLsbD_eq fun j hj => ?_
  rw [byte_getLsbD i hj, Core.putSpadBytes, read_putRowBytes hk]
  by_cases hrow : i / 256 = a / 256
  · have hbyte : (8 * (i % 256) + j) / 8 = i % 256 := by omega
    have hi : 8 * (i % 256) + j < 2048 := by omega
    have hc : i % 256 < 256 := by omega
    rw [if_pos hrow, merge_getLsbD, spread_getLsbD (by decide), hbyte, BitVec.getLsbD_ofNat, Nat.testBit_shiftLeft,
      Nat.testBit_two_pow_sub_one]
    by_cases hon : a ≤ i ∧ i < a + bs.length
    · have h1 : a % 256 ≤ i % 256 := by omega
      have h2 : i % 256 - a % 256 < bs.length := by omega
      have h3 : 8 * (a % 256) ≤ 8 * (i % 256) + j := by omega
      have h4 : (8 * (i % 256) + j - 8 * (a % 256)) / 8 = i - a := by omega
      have h5 : (8 * (i % 256) + j - 8 * (a % 256)) % 8 = j := by omega
      rw [if_pos (by simp [hi, hc, h1, h2]), if_pos hon, BitVec.getLsbD_ofNat, Nat.testBit_shiftLeft, natOfBytes,
        ofElems_testBit (by decide), h4, h5]
      simp [hi, h3, List.getD_eq_getElem?_getD, show i - a < bs.length by omega]
      rfl
    · rw [if_neg, if_neg hon, byte_getLsbD i hj, hrow]
      simp only [hi, hc, decide_true, Bool.true_and, Bool.and_eq_true, decide_eq_true_eq, ge_iff_le]
      omega
  · rw [if_neg hrow, if_neg (by omega), byte_getLsbD i hj]

/-! ### Barriers (R212) -/

theorem barrier_getLsbD {b : Nat} (hb : b % 16 = 0) {i : Nat} (hi : i < 128) :
    (k.barrier b).getLsbD i = (k.byte (b + i / 8)).getLsbD (i % 8) := by
  have hrow : (b + i / 8) / 256 = b / 256 := by omega
  have hbit : 8 * ((b + i / 8) % 256) + i % 8 = 8 * (b % 256) + i := by omega
  rw [byte_getLsbD _ (Nat.mod_lt i (by decide)), hrow, hbit, Core.barrier, BitVec.getLsbD_ofNat, Nat.testBit_shiftRight]
  simp [hi, BitVec.testBit_toNat]

/-- Byte i of a barrier is the scratchpad's. -/
theorem fieldOf_barrier {b : Nat} (hb : b % 16 = 0) {i : Nat} (hi : i < 16) : fieldOf (k.barrier b) (8 * i) 8 = k.byte (b + i) := by
  refine BitVec.eq_of_getLsbD_eq fun j hj => ?_
  have h1 : (8 * i + j) / 8 = i := by omega
  have h2 : (8 * i + j) % 8 = j := by omega
  have h3 := barrier_getLsbD (k := k) hb (show 8 * i + j < 128 by omega)
  rw [h1, h2] at h3
  rw [← h3]
  simp [fieldOf, hj]

/-- Barriers with the same bytes are the same. -/
theorem barrier_eq {v : BitVec 128} {b : Nat} (hb : b % 16 = 0) (h : ∀ i, i < 16 → k.byte (b + i) = fieldOf v (8 * i) 8) :
    k.barrier b = v := by
  refine BitVec.eq_of_getLsbD_eq fun i hi => ?_
  have hj : 8 * (i / 8) + i % 8 = i := Nat.div_add_mod i 8
  rw [barrier_getLsbD hb hi, h _ (by omega)]
  simp [fieldOf, hj, Nat.mod_lt i (show 8 > 0 by decide)]

theorem bytesOf_getD {n v i : Nat} (h : i < n) : (bytesOf n v).getD i 0 = BitVec.ofNat 8 (v >>> (8 * i)) := by
  simp [bytesOf, h]

theorem putBarrier_barrier (hk : Sparse.wf k.spad = true) {b : Nat} (hb : b % 16 = 0) (v : BitVec 128) : (k.putBarrier b v).barrier b = v := by
  refine barrier_eq hb fun i hi => ?_
  rw [Core.putBarrier, byte_putSpadBytes hk (by rw [bytesOf_length]; omega), bytesOf_length, if_pos (by omega), Nat.add_sub_cancel_left,
    bytesOf_getD hi]
  rfl

/-- The fields of a barrier that is put together. -/
theorem mkBarrier_fields (reload : BitVec 28) (bytes : BitVec 48) (arrivals : BitVec 28) (phase : BitVec 4) :
    let b := mkBarrier reload bytes arrivals phase
    barPhase b = phase ∧ barArrivals b = arrivals ∧ barBytes b = bytes ∧ barReload b = reload := by
  refine ⟨?_, ?_, ?_, ?_⟩ <;> refine BitVec.eq_of_getLsbD_eq fun i hi => ?_
  all_goals
    simp only [barPhase, barArrivals, barBytes, barReload, mkBarrier, fieldOf, BitVec.getLsbD_extractLsb', BitVec.getLsbD_append, hi]
    grind

/-- The completion rule: a barrier with nothing outstanding enters its next phase, and any other stays (R212). -/
theorem barComplete_fields (b : BitVec 128) : let w := barComplete b
    (barArrivals b = 0 ∧ barBytes b = 0 →
      barPhase w = barPhase b + 1 ∧ barArrivals w = barReload b ∧ barBytes w = 0 ∧ barReload w = barReload b) ∧
    (¬ (barArrivals b = 0 ∧ barBytes b = 0) →
      barPhase w = barPhase b ∧ barArrivals w = barArrivals b ∧ barBytes w = barBytes b ∧ barReload w = barReload b) := by
  refine ⟨fun h => ?_, fun h => ?_⟩
  · obtain ⟨h1, h2, h3, h4⟩ := mkBarrier_fields (barReload b) (barBytes b) (barReload b) (barPhase b + 1)
    rw [barComplete, if_pos h]
    exact ⟨h1, h2, h3.trans h.2, h4⟩
  · rw [barComplete, if_neg h]
    exact mkBarrier_fields _ _ _ _

/-- A store to the scratchpad: its bytes, and the completion rule where they lie in a barrier that is set up (R212, log 11). -/
theorem storeSpad_spec (hk : Sparse.wf k.spad = true) {a : Nat} {bs : List Byte} (hin : a % 16 + bs.length ≤ 16) :
    let b := a / 16 * 16
    let v := (k.putSpadBytes a bs).barrier b
    (∀ i, i < b ∨ b + 16 ≤ i → (k.storeSpad a bs).byte i = k.byte i) ∧
    (∀ i, i < 16 → fieldOf v (8 * i) 8 = if a ≤ b + i ∧ b + i < a + bs.length then bs.getD (b + i - a) 0
      else fieldOf (k.barrier b) (8 * i) 8) ∧
    (k.storeSpad a bs).barrier b = if b ∈ k.barriers then barComplete v else v := by
  intro b v
  have hb : b % 16 = 0 := Nat.mul_mod_left _ _
  have hput : ∀ i, (k.putSpadBytes a bs).byte i = if a ≤ i ∧ i < a + bs.length then bs.getD (i - a) 0 else k.byte i :=
    byte_putSpadBytes hk (by omega)
  have hwf : Sparse.wf (k.putSpadBytes a bs).spad = true := by
    unfold Core.putSpadBytes Core.putRowBytes
    split <;> exact Sparse.write_wf _ _ _ hk
  have hbar : (k.putSpadBytes a bs).barriers = k.barriers := putRowBytes_barriers _ _ _
  have hstore : k.storeSpad a bs = if b ∈ k.barriers then (k.putSpadBytes a bs).putBarrier b (barComplete v) else k.putSpadBytes a bs := by
    simp only [Core.storeSpad, hbar, List.contains_eq_mem, decide_eq_true_eq]
    rfl
  refine ⟨fun i hi => ?_, fun i hi => ?_, ?_⟩
  · have hplain : (k.putSpadBytes a bs).byte i = k.byte i := by rw [hput, if_neg (by omega)]
    rw [hstore]
    split
    · rw [Core.putBarrier, byte_putSpadBytes hwf (by rw [bytesOf_length]; omega), if_neg (by rw [bytesOf_length]; omega), hplain]
    · exact hplain
  · rw [fieldOf_barrier hb hi, fieldOf_barrier hb hi, hput]
  · rw [hstore]
    split
    · exact putBarrier_barrier hwf hb _
    · rfl

/-! ### Views of module memory (R235, R248, R249) -/

theorem readView_one (d : DieId) (a : Nat) : s.readView d a 1 = [Sparse.read (w := 8) s.views[d] a] := rfl

/-- The cells of a write of consecutive bytes are these bytes, in their order. -/
theorem foldl_cells_eq_writeAll (bs : List Byte) (m : Memory) (pa n : Nat) :
    ((bs.zipIdx n).map fun (b, i) => (pa + i, b)).foldl (fun m c => Sparse.write (w := 8) m c.1 c.2) m =
      Sparse.writeAll (w := 8) m (pa + n) bs := by
  induction bs generalizing m n with
  | nil => rfl
  | cons b bs ih => exact ih _ (n + 1)

/-- The last of the writes of distinct cells that name an address is the only one. -/
theorem read_foldl_cells {m : Memory} (hm : Memory.wf m = true) {cs : List Host.Cell} (hcs : (cs.map (·.1)).Nodup) {e : Host.Cell} (he : e ∈ cs) :
    Sparse.read (w := 8) (cs.foldl (fun m c => Sparse.write (w := 8) m c.1 c.2) m) e.1 = e.2 := by
  induction cs generalizing m with
  | nil => cases he
  | cons c cs ih =>
    rw [List.map_cons, List.nodup_cons] at hcs
    obtain ⟨hc, hcs⟩ := hcs
    rcases List.mem_cons.mp he with rfl | he
    · have hne : ∀ d ∈ cs, d.1 ≠ e.1 := fun d hd h => hc (h ▸ List.mem_map_of_mem hd)
      exact (Sparse.read_foldl_ne (w := 8) cs (fun c : Host.Cell => c) _ _ hne).trans (Sparse.read_write_eq (w := 8) _ _ _ hm)
    · exact ih (Sparse.write_wf (w := 8) _ _ _ hm) hcs he

/-- A write that takes its place in the home order reaches the view of its own die. -/
theorem writeMem_views {d : DieId} {pa : Nat} {bs : List Byte} {own : Option (CoreId × BitVec 32)} {u : State}
    (h : s.writeMem d pa bs own = some u) : u.views[d] = Sparse.writeAll (w := 8) s.views[d] pa bs := by
  rw [State.writeMem, State.writeCells] at h
  dsimp only at h
  split at h
  · cases h
    exact (Vector.getElem_set_self ..).trans (foldl_cells_eq_writeAll bs _ pa 0)
  · cases h

/-- What the writing die reads after a write of the low bytes of a number. -/
theorem readView_writeMem (hs : MemoryOk s) {d : DieId} {pa n v : Nat} {own : Option (CoreId × BitVec 32)} {u : State}
    (h : s.writeMem d pa (bytesOf n v) own = some u) (a : Nat) :
    u.readView d a 1 = if pa ≤ a ∧ a < pa + n then bytesOf 1 (v >>> (8 * (a - pa))) else s.readView d a 1 := by
  rw [readView_one, writeMem_views h, Sparse.read_writeAll (w := 8) _ _ _ _ (hs.view d), bytesOf_length]
  split
  next hin => rw [bytesOf_getD (show a - pa < n by omega)]; rfl
  next => rfl

/-- An operation at a bank ALU (R110, R111, R243, R249, log 55). -/
theorem bankOp_spec (hs : MemoryOk s) {d : DieId} {pa n old : Nat} {own : Option (CoreId × BitVec 32)} {f : Nat → Nat} {wr : Nat → Bool}
    {u : State} (h : s.bankOp d pa n own f wr = some (old, u)) :
    s.clockReached (homeDie pa) s.vc[d].toList = true ∧ old = natOfBytes (s.readView (homeDie pa) pa n) ∧ (wr old = false → u = s) ∧
    (wr old = true → ∀ a, u.readView (homeDie pa) a 1 = if pa ≤ a ∧ a < pa + n then bytesOf 1 (f old >>> (8 * (a - pa)))
      else s.readView (homeDie pa) a 1) := by
  rw [State.bankOp] at h
  dsimp only at h
  split at h
  next hclock =>
    refine ⟨hclock, ?_⟩
    split at h
    next hw =>
      cases h
      simp only [Bool.not_eq_true'] at hw
      exact ⟨rfl, fun _ => rfl, fun ht => by simp [hw] at ht⟩
    next hw =>
      split at h
      next hu =>
        cases h
        exact ⟨rfl, fun hf => by simp [hf] at hw, fun _ => readView_writeMem hs hu⟩
      next => cases h
  next => cases h

/-! ### Propagation (R248, R249) -/

theorem applicable_iff (w : Transit) :
    s.applicable w = true ↔ (∀ e : DieId, if e = w.src then w.stamp.getD e.val 0 = s.vc[w.dst][e] + 1
      else w.stamp.getD e.val 0 ≤ s.vc[w.dst][e]) ∧ s.appliedOf w.dst w.key + 1 = w.seq := by
  have hall : ∀ e : DieId, e ∈ ([0, 1, 2, 3] : List DieId) := by decide
  rw [State.applicable, Bool.and_eq_true, List.all_eq_true, beq_iff_eq]
  refine and_congr_left fun _ => forall_congr' fun e => ?_
  simp only [hall e, true_imp_iff]
  split <;> simp

theorem appliedOf_setApplied (d : DieId) (key n : Nat) : (s.setApplied d key n).appliedOf d key = n := by
  simp [State.appliedOf, State.setApplied]

theorem applyTransit_views (w : Transit) : (s.applyTransit w).views =
    s.views.set w.dst (w.cells.foldl (fun m c => Sparse.write (w := 8) m c.1 c.2) s.views[w.dst]) := rfl

theorem applyTransit_view (w : Transit) : (s.applyTransit w).views[w.dst] =
    w.cells.foldl (fun m c => Sparse.write (w := 8) m c.1 c.2) s.views[w.dst] := Vector.getElem_set_self ..

theorem applyTransit_view_ne (w : Transit) {d : DieId} (h : d ≠ w.dst) : (s.applyTransit w).views[d] = s.views[d] := by
  rw [applyTransit_views]
  exact Vector.getElem_set_ne _ _ fun he => h (Fin.ext he.symm)

theorem applyTransit_vc (w : Transit) (d e : DieId) :
    (s.applyTransit w).vc[d][e] = if d = w.dst ∧ e = w.src then w.stamp.getD e.val 0 else s.vc[d][e] := by
  change (s.vc.set w.dst (s.vc[w.dst].set w.src (w.stamp.getD w.src.val 0)))[d][e] = _
  by_cases hd : d = w.dst <;> by_cases he : e = w.src
  · subst hd he; simp
  · subst hd; simp [he, Fin.val_inj, Ne.symm he]
  · simp [hd, Fin.val_inj, Ne.symm hd]
  · simp [hd, Fin.val_inj, Ne.symm hd]

/-! ### The completion of a pending operation (R77, R107 to R111) -/

theorem opDone_id (x : Ctx) (p : Op) : (x.opDone p).id = x.id := by
  unfold Ctx.opDone Ctx.tokDone
  dsimp only
  split <;> split <;> rfl

section
variable {c : CoreId} {b : BankId} {n : Nat} {x : Ctx} {p : Op} {put : State → Ctx → State}

/-- The event runs the n-th pending operation of the bank's context. -/
theorem scalarAccessCompletion_runs (hx : s.ctxAt c b = some x) (hp : x.ops[n]? = some p) :
    exec (.scalarAccessCompletion c b n) s = s.opRun c x n fun s y => s.setCtxAt c b (some y) := by
  change execScalarAccessCompletion c b n s = _
  obtain ⟨hn, -⟩ := List.getElem?_eq_some_iff.mp hp
  simp only [execScalarAccessCompletion, hx, hn, decide_true, Option.filter_some, if_true]

variable (hp : x.ops[n]? = some p) (hf : opFree (x.ops.take n) p = true)
include hp hf

theorem opRun_load {sd : SReg} {sx : Bool} (hk : p.kind = .load sd sx) (hl : ∀ a, p.loc = .spad a → a / 256 ∉ (s.core c).spadBad) :
    s.opRun c x n put = .next (put s (((landBefore .ctl x.cclk (s.core c) x).2.opDone p).wr sd
      (loadValue p.size sx (s.readLoc (dieOf c) (s.core c) p.loc p.size)))) := by
  unfold State.opRun
  rw [hp]
  simp only [hf, Bool.not_true, Bool.false_eq_true, if_false, hk]
  cases hloc : p.loc with
  | spad a => simp [hl a hloc]
  | mem pa => rfl
  | heat o off => rfl

theorem opRun_storeMem {v pa : Nat} {u : State} (hk : p.kind = .store v) (hl : p.loc = .mem pa)
    (hu : s.writeMem (dieOf c) pa (bytesOf p.size v) (some (c, (landBefore .ctl x.cclk (s.core c) x).2.id.serial)) = some u) :
    s.opRun c x n put = .next (put u ((landBefore .ctl x.cclk (s.core c) x).2.opDone p)) := by
  simp [State.opRun, hp, hf, hk, hl, hu]

theorem opRun_storeSpad {v a : Nat} (hk : p.kind = .store v) (hl : p.loc = .spad a) : s.opRun c x n put =
    .next (put (s.setCore c ((s.core c).storeSpad a (bytesOf p.size v))) ((landBefore .ctl x.cclk (s.core c) x).2.opDone p)) := by
  simp [State.opRun, hp, hf, hk, hl]

theorem opRun_binit {v : BitVec 128} {a : Nat} (hk : p.kind = .binit v) (hl : p.loc = .spad a) : s.opRun c x n put =
    .next (put (s.setCore c ((s.core c).initBarrier a v)) ((landBefore .ctl x.cclk (s.core c) x).2.opDone p)) := by
  simp [State.opRun, hp, hf, hk, hl]

theorem opRun_amo {sd : SReg} {aop v w pa : Nat} (hk : p.kind = .amo sd aop v w) (hl : p.loc = .mem pa) : s.opRun c x n put =
    .next (bankDone s c put (landBefore .ctl x.cclk (s.core c) x).2 p pa sd (fun old => amoValue aop (8 * p.size) old v w)
      (fun old => amoWrites aop old w) fun _ s => s) := by
  simp [State.opRun, hp, hf, hk, hl]

theorem opRun_amof {sd : SReg} {f64 : Bool} {v pa : Nat} (hk : p.kind = .amof sd f64 v) (hl : p.loc = .mem pa) : s.opRun c x n put =
    .next (bankDone s c put (landBefore .ctl x.cclk (s.core c) x).2 p pa sd (fun old => amofValue f64 old v) (fun _ => true)
      fun _ s => s) := by
  simp [State.opRun, hp, hf, hk, hl]

theorem opRun_deliver {sd : SReg} {v : Word} {vc : List Nat} {writes : Bool} (hk : p.kind = .deliver sd v vc writes) :
    s.opRun c x n put = .next (if s.clockReached (dieOf c) vc = true
      then put s (((landBefore .ctl x.cclk (s.core c) x).2.opDone p).wr sd v) else s) := by
  simp only [State.opRun, hp, hf, hk, Bool.not_true, Bool.false_eq_true, if_false]
  split <;> rfl

end

/-- An operation that its bank ALU has done writes sd where the bank is in the thread's die, and else is on its way back. -/
theorem bankDone_done {c : CoreId} {put : State → Ctx → State} {x : Ctx} {p : Op} {pa old : Nat} {sd : SReg} {f : Nat → Nat}
    {wr : Nat → Bool} {u : State} (h : s.bankOp (dieOf c) pa p.size (some (c, x.id.serial)) f wr = some (old, u)) :
    bankDone s c put x p pa sd f wr (fun _ s => s) = put u (if homeDie pa = dieOf c then (x.opDone p).wr sd (BitVec.ofNat 64 old)
      else x.opReply p sd (BitVec.ofNat 64 old) u.vc[homeDie pa].toList (wr old)) := by
  rw [bankDone, h]
  dsimp only
  split <;> rfl

/-- Settles O23: a pending operation runs as its kind says; a write is read back from the memory it reached. -/
theorem scalarCompletionAndPropagation : Obligations.ScalarCompletionAndPropagation := by
  unfold Obligations.ScalarCompletionAndPropagation
  refine ⟨fun s c b n x p hx hp hf hs => ?_, fun s d pa n old own f wr u hs h => bankOp_spec hs h, fun k a bs hk hin => ?_,
    fun s n w hs hw => ?_⟩
  · intro z y runs
    have hid : y.id = z.id := opDone_id z p
    have hruns : runs = s.opRun c x n fun s y => s.setCtxAt c b (some y) := scalarAccessCompletion_runs hx hp
    rw [hruns, hid]
    refine ⟨fun sd sx hk hl => opRun_load hp hf hk hl,
      fun v pa u hk hl hu => ⟨opRun_storeMem hp hf hk hl hu, readView_writeMem hs hu⟩,
      fun v a hk hl => opRun_storeSpad hp hf hk hl, fun v a hk hl => opRun_binit hp hf hk hl, ?_,
      fun sd v vc writes hk => opRun_deliver hp hf hk⟩
    rintro sd f wr pa old u (⟨aop, v, w, hk, rfl, rfl⟩ | ⟨f64, v, hk, rfl, rfl⟩) hl hu
    · exact (opRun_amo hp hf hk hl).trans (congrArg Host.Outcome.next (bankDone_done hu))
    · exact (opRun_amof hp hf hk hl).trans (congrArg Host.Outcome.next (bankDone_done hu))
  · intro b v t w
    obtain ⟨hframe, hbytes, hrule⟩ := storeSpad_spec hk hin
    obtain ⟨hdone, hopen⟩ := barComplete_fields v
    refine ⟨fun i hi => ?_, hbytes, fun hb => (hrule.trans (if_neg hb) : w = v), fun hb h1 h2 => ?_, fun hb h => ?_⟩
    · rw [spadBytes_one, spadBytes_one, hframe i hi]
    · have hw : w = barComplete v := hrule.trans (if_pos hb)
      rw [hw]
      exact hdone ⟨h1, h2⟩
    · have hw : w = barComplete v := hrule.trans (if_pos hb)
      rw [hw]
      exact hopen h
  · intro u
    have hexec : exec (.writePropagation n) s = execWritePropagation n s := rfl
    refine ⟨fun h => ?_, fun h => ?_, applicable_iff w, fun hcs e he => ?_, fun a ha => ?_, fun d hd => applyTransit_view_ne w hd,
      appliedOf_setApplied _ _ _, applyTransit_vc w⟩
    · rw [hexec, execWritePropagation, hw]
      exact if_pos h
    · rw [hexec, execWritePropagation, hw]
      exact if_neg (by simp [h])
    · rw [readView_one, applyTransit_view, read_foldl_cells (hs.view w.dst) hcs he]
    · rw [readView_one, readView_one, applyTransit_view]
      exact congrArg (fun b => [b]) (Sparse.read_foldl_ne (w := 8) w.cells (fun c : Host.Cell => c) _ a ha)

end Sys2Proof
end

section
/-! SUPPORT. The trap frame: its fields stand side by side, and each is read back from its rows as it was placed (R89, log 8, 25). -/

namespace Sys2Proof

open Sys2Proof.Machine
variable {k : Core} {x : Ctx}

/-! ### Fields of a number -/

/-- A field inside a field. -/
theorem field_of_field {n lo a m : Nat} (v : Nat) (h : a + m ≤ n) : v / 2 ^ lo % 2 ^ n / 2 ^ a % 2 ^ m = v / 2 ^ (lo + a) % 2 ^ m := by
  refine Nat.eq_of_testBit_eq fun i => ?_
  simp only [Nat.testBit_mod_two_pow, Nat.testBit_div_two_pow]
  by_cases hi : i < m
  · have hn : i + a < n := by omega
    simp only [hi, hn, decide_true, Bool.true_and]
    rw [Nat.add_assoc, Nat.add_comm a lo]
  · simp [hi]

/-- Numbers with no bit in common add without a carry. -/
theorem add_eq_or_of_and_zero {a b : Nat} (h : a &&& b = 0) : a + b = a ||| b := by
  have hlt : a + b < 2 ^ (a + b) := Nat.lt_two_pow_self
  have hand : BitVec.ofNat (a + b) a &&& BitVec.ofNat (a + b) b = 0#(a + b) := by rw [← BitVec.ofNat_and, h]
  have hsum := congrArg BitVec.toNat (BitVec.add_eq_or_of_and_eq_zero _ _ hand)
  rw [← BitVec.ofNat_add, ← BitVec.ofNat_or, BitVec.toNat_ofNat, BitVec.toNat_ofNat, Nat.mod_eq_of_lt hlt] at hsum
  rw [hsum]
  exact Nat.mod_eq_of_lt (Nat.or_lt_two_pow (by omega) (by omega))

/-! ### Values side by side -/

/-- Bit i of a value at its place. -/
def placedBit (f : Nat × Nat) (i : Nat) : Bool := decide (8 * f.1 ≤ i) && f.2.testBit (i - 8 * f.1)

/-- Each value fits the bytes that its offset has, and no two of these ranges meet. -/
def SideBySide (width : Nat → Nat) (fs : List (Nat × Nat)) : Prop :=
  (∀ f ∈ fs, f.2 < 2 ^ (8 * width f.1)) ∧ (fs.map (·.1)).Pairwise fun a b => a + width a ≤ b ∨ b + width b ≤ a

theorem placedBit_within {w i : Nat} {f : Nat × Nat} (hf : f.2 < 2 ^ (8 * w)) (h : placedBit f i = true) :
    8 * f.1 ≤ i ∧ i < 8 * (f.1 + w) := by
  rw [placedBit, Bool.and_eq_true, decide_eq_true_eq] at h
  obtain ⟨hlo, hbit⟩ := h
  have hhi : i - 8 * f.1 < 8 * w := (Nat.pow_lt_pow_iff_right (by decide)).mp ((Nat.ge_two_pow_of_testBit hbit).trans_lt hf)
  omega

theorem placedBit_apart {width : Nat → Nat} {i : Nat} {f g : Nat × Nat} (hf : f.2 < 2 ^ (8 * width f.1)) (hg : g.2 < 2 ^ (8 * width g.1))
    (h : f.1 + width f.1 ≤ g.1 ∨ g.1 + width g.1 ≤ f.1) (hi : placedBit f i = true) : placedBit g i = false := by
  refine Bool.eq_false_iff.mpr fun hi' => ?_
  have h1 := placedBit_within hf hi
  have h2 := placedBit_within hg hi'
  omega

/-- The bits of values side by side are the bits of the values. -/
theorem placeAll_testBit {width : Nat → Nat} {fs : List (Nat × Nat)} (h : SideBySide width fs) (i : Nat) :
    (placeAll fs).testBit i = fs.any (placedBit · i) := by
  induction fs generalizing i with
  | nil => simp [placeAll]
  | cons f fs ih =>
    obtain ⟨hfit, hapart⟩ := h
    rw [List.map_cons, List.pairwise_cons] at hapart
    have ih := ih ⟨fun g hg => hfit g (List.mem_cons_of_mem f hg), hapart.2⟩
    have hbit : ∀ j, (f.2 <<< (8 * f.1)).testBit j = placedBit f j := fun j => Nat.testBit_shiftLeft f.2
    have hand : f.2 <<< (8 * f.1) &&& placeAll fs = 0 := by
      refine Nat.eq_of_testBit_eq fun j => ?_
      rw [Nat.testBit_and, Nat.zero_testBit, hbit, ih, Bool.and_eq_false_imp]
      refine fun hj => List.any_eq_false.mpr fun g hg => Bool.eq_false_iff.mp ?_
      exact placedBit_apart (hfit f List.mem_cons_self) (hfit g (List.mem_cons_of_mem f hg)) (hapart.1 _ (List.mem_map_of_mem hg)) hj
    calc (placeAll (f :: fs)).testBit i = (f.2 <<< (8 * f.1) + placeAll fs).testBit i := rfl
      _ = (f :: fs).any (placedBit · i) := by rw [add_eq_or_of_and_zero hand, Nat.testBit_or, hbit, ih, List.any_cons]

/-- A value side by side with others is found at its offset. -/
theorem placeAll_field {width : Nat → Nat} {fs : List (Nat × Nat)} (h : SideBySide width fs) {a v : Nat} (hv : (a, v) ∈ fs) :
    placeAll fs / 2 ^ (8 * a) % 2 ^ (8 * width a) = v := by
  obtain ⟨hfit, hapart⟩ := h
  refine Nat.eq_of_testBit_eq fun i => ?_
  rw [Nat.testBit_mod_two_pow, Nat.testBit_div_two_pow, placeAll_testBit ⟨hfit, hapart⟩]
  by_cases hi : i < 8 * width a
  · simp only [hi, decide_true, Bool.true_and]
    have hown : placedBit (a, v) (i + 8 * a) = v.testBit i := by simp [placedBit]
    cases hb : v.testBit i with
    | true => exact List.any_eq_true.mpr ⟨(a, v), hv, hown.trans hb⟩
    | false =>
      refine List.any_eq_false.mpr fun g hg hgi => ?_
      by_cases he : (a, v) = g
      · rw [← he, hown, hb] at hgi
        cases hgi
      · have _ : Std.Symm fun f g : Nat × Nat => f.1 + width f.1 ≤ g.1 ∨ g.1 + width g.1 ≤ f.1 := ⟨fun _ _ => Or.symm⟩
        have hrel := (List.pairwise_map.mp hapart).forall hv hg he
        have hin := placedBit_within (hfit g hg) hgi
        dsimp only at hrel
        omega
  · have hlt : v < 2 ^ i := (hfit _ hv).trans_le (Nat.pow_le_pow_right (by decide) (by dsimp only; omega))
    simp [hi, Nat.testBit_lt_two_pow hlt]

/-! ### The rows of a frame -/

theorem read_foldl_putRow (hk : Sparse.wf k.spad = true) (first v n r : Nat) :
    let j := (List.range n).foldl (fun k i => k.putRow (first + i) (BitVec.ofNat 2048 (v >>> (2048 * i)))) k
    Sparse.wf j.spad = true ∧ j.spad.read r =
      if first ≤ r ∧ r < first + n then BitVec.ofNat 2048 (v >>> (2048 * (r - first))) else k.spad.read r := by
  induction n with
  | zero => exact ⟨hk, (if_neg (by omega)).symm⟩
  | succ n ih =>
    obtain ⟨hwf, hread⟩ := ih
    rw [List.range_succ, List.foldl_append]
    refine ⟨Sparse.write_wf _ _ _ hwf, (Sparse.read_write _ _ _ _ hwf).trans ?_⟩
    rw [hread]
    by_cases hr : r = first + n
    · rw [if_pos hr, if_pos (by omega), hr, Nat.add_sub_cancel_left]
    · rw [if_neg hr]
      by_cases hin : first ≤ r ∧ r < first + n
      · rw [if_pos hin, if_pos (by omega)]
      · rw [if_neg hin, if_neg (by omega)]

/-- The rows of the scratchpad after a frame is written. -/
theorem read_putFrame (hk : Sparse.wf k.spad = true) (first v r : Nat) : (k.putFrame first v).spad.read r =
    if first ≤ r ∧ r < first + 15 then BitVec.ofNat 2048 (v >>> (2048 * (r - first))) else k.spad.read r :=
  (read_foldl_putRow hk first v 15 r).2

/-- Bit i of a frame. -/
theorem frame_testBit (k : Core) (first i : Nat) :
    (k.frame first).testBit i = (decide (i < 15 * 2048) && (k.spad.read (first + i / 2048)).getLsbD (i % 2048)) := by
  rw [Core.frame, ofElems_testBit (by decide)]
  by_cases hi : i < 15 * 2048
  · have hrow : i / 2048 < 15 := by omega
    simp only [List.getD_eq_getElem?_getD, List.getElem?_map, List.getElem?_range hrow, Option.map_some, Option.getD_some, hi,
      decide_true, Bool.true_and]
    rfl
  · have hrow : 15 ≤ i / 2048 := by omega
    simp [hi, List.getD_eq_getElem?_getD, hrow]

/-- A frame holds what was written to it. -/
theorem frame_putFrame (hk : Sparse.wf k.spad = true) (first v : Nat) : (k.putFrame first v).frame first = v % 2 ^ (15 * 2048) := by
  refine Nat.eq_of_testBit_eq fun i => ?_
  rw [frame_testBit, Nat.testBit_mod_two_pow]
  by_cases hi : i < 15 * 2048
  · have hbit : 2048 * (i / 2048) + i % 2048 = i := Nat.div_add_mod i 2048
    rw [read_putFrame hk, if_pos (by omega), Nat.add_sub_cancel_left, BitVec.getLsbD_ofNat, Nat.testBit_shiftRight, hbit,
      decide_eq_true (Nat.mod_lt i (by decide)), Bool.true_and]
  · simp [hi]

theorem frame_putFrame_field (hk : Sparse.wf k.spad = true) {lo n : Nat} (first v : Nat) (h : lo + n ≤ 15 * 2048) :
    (k.putFrame first v).frame first / 2 ^ lo % 2 ^ n = v / 2 ^ lo % 2 ^ n := by
  have hsub := field_of_field (lo := 0) v h
  rw [Nat.pow_zero, Nat.div_one, Nat.zero_add] at hsub
  rw [frame_putFrame hk, hsub]

/-! ### Latch slots -/

/-- The directory entry of a result that is latched. -/
def latchDir (x : Ctx) (f : Flight) : Nat :=
  let (kind, dest, dest2, mask, _) := f.val.slot x
  kind + (if f.unit = .ctl then 0 else 1) * 2 ^ 8 + (dest % 2 ^ 16) * 2 ^ 16 + ((f.land - x.clk f.unit) % 2 ^ 16) * 2 ^ 32
    + (dest2 % 2 ^ 16) * 2 ^ 48 + mask * 2 ^ 64

/-- The value of a result that is latched. -/
def latchValue (x : Ctx) (f : Flight) : Nat := (f.val.slot x).2.2.2.2 % 2 ^ 2048

theorem latchValue_lt (x : Ctx) (f : Flight) : latchValue x f < 2 ^ (8 * 256) := by
  have hmod : ∀ v n, v % 2 ^ n < 2 ^ n := fun v n => Nat.mod_lt v (Nat.two_pow_pos n)
  exact hmod _ _

theorem frameLatches_eq (x : Ctx) : frameLatches x =
    (48, 2 ^ x.latched.length - 1) :: x.latched.zipIdx.flatMap fun p => [(512 + 16 * p.2, latchDir x p.1), (768 + 256 * p.2, latchValue x p.1)] := rfl

theorem latchSlot_mem {j : Nat} {f : Flight} (h : x.latched[j]? = some f) :
    (512 + 16 * j, latchDir x f) ∈ frameLatches x ∧ (768 + 256 * j, latchValue x f) ∈ frameLatches x := by
  have hj : (f, j) ∈ x.latched.zipIdx := List.mem_zipIdx_iff_getElem?.mpr h
  rw [frameLatches_eq]
  exact ⟨List.mem_cons_of_mem _ (List.mem_flatMap.mpr ⟨_, hj, List.mem_cons_self⟩),
    List.mem_cons_of_mem _ (List.mem_flatMap.mpr ⟨_, hj, List.mem_cons_of_mem _ List.mem_cons_self⟩)⟩

/-- KIND and MASK of a latch slot fit their fields. -/
theorem slot_bounds (v : FlightVal) (x : Ctx) : (v.slot x).1 < 2 ^ 8 ∧ (v.slot x).2.2.2.1 < 2 ^ 64 := by
  cases v with
  | pair _ _ m _ | row _ m _ => exact ⟨by simp [FlightVal.slot], m.isLt⟩
  | pred _ m _ => exact ⟨by simp [FlightVal.slot], m.isLt.trans (by decide)⟩
  | vec _ b _ => exact ⟨(by decide : 2 < 2 ^ 8), (lanesOf b).isLt.trans (by decide)⟩
  | scalar _ _ | terms _ _ | exact _ _ => exact ⟨by simp [FlightVal.slot], by simp [FlightVal.slot]⟩

/-- The fields of a directory entry. -/
theorem latchDir_fields (x : Ctx) (f : Flight) : let d := latchDir x f
    d < 2 ^ 128 ∧ d / 2 ^ 0 % 2 ^ 8 = (f.val.slot x).1 ∧ d / 2 ^ 8 % 2 ^ 8 = (if f.unit = .ctl then 0 else 1) ∧
    d / 2 ^ 16 % 2 ^ 16 = (f.val.slot x).2.1 % 2 ^ 16 ∧ d / 2 ^ 32 % 2 ^ 16 = (f.land - x.clk f.unit) % 2 ^ 16 ∧
    d / 2 ^ 48 % 2 ^ 16 = (f.val.slot x).2.2.1 % 2 ^ 16 ∧ d / 2 ^ 64 % 2 ^ 64 = (f.val.slot x).2.2.2.1 := by
  obtain ⟨hk, hm⟩ := slot_bounds f.val x
  have hu : (if f.unit = .ctl then 0 else 1) < 2 := by split <;> decide
  intro d
  rcases hs : f.val.slot x with ⟨kind, dest, dest2, mask, val⟩
  have hd : d = kind + (if f.unit = .ctl then 0 else 1) * 2 ^ 8 + (dest % 2 ^ 16) * 2 ^ 16 + ((f.land - x.clk f.unit) % 2 ^ 16) * 2 ^ 32
      + (dest2 % 2 ^ 16) * 2 ^ 48 + mask * 2 ^ 64 := by rw [← show latchDir x f = d from rfl, latchDir, hs]
  rw [hs] at hk hm
  rw [hd]
  dsimp only at hk hm ⊢
  generalize (if f.unit = .ctl then 0 else 1) = u at hu ⊢
  generalize f.land - x.clk f.unit = rem
  omega

/-- A lane of a byte mask. -/
theorem lanesOf_testBit (b : BitVec 128) {i : Nat} (hi : i < 32) : (lanesOf b).toNat.testBit i = (b.extractLsb' (4 * i) 4 != 0) := by
  have hone : ∀ c : Prop, [Decidable c] → (if c then 0 else 1 : Nat).testBit 0 = !decide c := fun c _ => by split <;> simp [*]
  rw [lanesOf, BitVec.testBit_toNat, BitVec.getLsbD_ofNat, ofElems_testBit (by decide), Nat.div_one, Nat.mod_one,
    List.getD_eq_getElem?_getD, List.getElem?_map, List.getElem?_range hi, Option.map_some, Option.getD_some, hone, decide_eq_true hi,
    Bool.true_and]
  exact congrArg (!·) (decide_eq_decide.mpr (BitVec.toNat_inj (y := 0#4)))

/-- The bytes of a latch slot's value and its lanes give the byte mask back (log 25). -/
theorem latchBytes_testBit (b : BitVec 128) {i : Nat} (hi : i < 128) :
    ((lanesOf b).toNat.testBit (i / 4) && (if wholeLanes b then 2 ^ 128 - 1 else b.toNat).testBit i) = b.getLsbD i := by
  have hlane : i / 4 < 32 := by omega
  have hbit : (b.extractLsb' (4 * (i / 4)) 4).getLsbD (i % 4) = b.getLsbD i := by
    rw [BitVec.getLsbD_extractLsb', decide_eq_true (Nat.mod_lt i (by decide)), Bool.true_and, Nat.div_add_mod]
  rw [lanesOf_testBit b hlane]
  split
  next hw =>
    have hw := List.all_eq_true.mp hw _ (List.mem_range.mpr hlane)
    simp only [fieldNat, Bool.or_eq_true, beq_iff_eq] at hw
    rw [Nat.testBit_two_pow_sub_one, decide_eq_true hi, Bool.and_true, ← hbit]
    rcases hw with hw | hw
    · simp [BitVec.eq_of_toNat_eq (y := 0#4) hw]
    · have h15 := BitVec.eq_of_toNat_eq (y := BitVec.allOnes 4) hw
      rw [h15, BitVec.getLsbD_allOnes, decide_eq_true (Nat.mod_lt i (by decide))]
      rfl
  next =>
    rw [BitVec.testBit_toNat]
    cases hb : b.getLsbD i with
    | false => exact Bool.and_false _
    | true =>
      rw [Bool.and_true, bne_iff_ne]
      rintro h0
      rw [h0, hb] at hbit
      simp at hbit

/-! ### The layout of the frame (R89) -/

/-- The bytes that the field at an offset of the frame has. -/
def frameWidth (a : Nat) : Nat :=
  if a < 64 then 8 else if a < 256 then 64 else if a < 272 then 8 else if a < 336 then 64 else if a < 440 then 104
  else if a < 472 then 32 else if a < 512 then 8 else if a < 768 then 16 else 256

/-- The offsets of the directory entry and of the value of a latch slot. -/
def latchOffsets (j : Nat) : List Nat := [512 + 16 * j, 768 + 256 * j]

/-- The offsets of a frame with every field. -/
def frameLayout : List Nat :=
  [0, 8, 16, 24, 32, 40] ++ 48 :: (List.range 12).flatMap latchOffsets ++ [64, 128, 192] ++ [256, 264, 272, 336, 440, 472]

theorem frameLayout_apart : frameLayout.Pairwise fun a b => a + frameWidth a ≤ b ∨ b + frameWidth b ≤ a := by decide +kernel

/-- The macro in progress of a queue, and ROWPROG of one (R83). -/
def runOf (x : Ctx) (k : Kind) : Option Run := x.runs.find? fun r => r.q.kind == k && !r.fin
def rowprogOf : Option Run → Nat
  | some r => r.rowprog
  | none => 0

/-- A frame's fields: its head, its latches, the micro-program counters of the queues, and of class A the macro's. -/
def trapFrame (x : Ctx) (cause : Cause) (tc : Word) (src : TrapSrc) : List (Nat × Nat) :=
  frameHead cause tc x.ctl.addr src.qpc src.num ++ frameLatches x
    ++ [(64, x.ql.microOf (runOf x .l) (rowprogOf (runOf x .l))), (128, x.qx.microOf none (rowprogOf (runOf x .x))),
        (192, x.qs.microOf (runOf x .s) (rowprogOf (runOf x .s)))]
    ++ (match src.run with | some r => frameRun r | none => [])

theorem frameLatches_offsets (x : Ctx) : (frameLatches x).map (·.1) = 48 :: (List.range x.latched.length).flatMap latchOffsets := by
  rw [List.range_eq_range', ← List.zipIdx_map_snd, List.flatMap_map, frameLatches_eq, List.map_cons, List.map_flatMap]
  rfl

/-- A frame's offsets are of the layout, with as many latch slots as it needs. -/
theorem trapFrame_offsets (hx : x.latched.length ≤ 12) (cause : Cause) (tc : Word) (src : TrapSrc) :
    ((trapFrame x cause tc src).map (·.1)).Sublist frameLayout := by
  have hslots : ((List.range x.latched.length).flatMap latchOffsets).Sublist ((List.range 12).flatMap latchOffsets) := by
    obtain ⟨d, hd⟩ := Nat.exists_eq_add_of_le hx
    rw [hd, List.range_add, List.flatMap_append]
    exact List.sublist_append_left _ _
  have hrun : ((match src.run with | some r => frameRun r | none => []).map Prod.fst).Sublist [256, 264, 272, 336, 440, 472] := by
    cases src.run with
    | none => exact List.nil_sublist _
    | some r => exact List.Sublist.refl _
  rw [trapFrame, List.map_append, List.map_append, List.map_append, frameLatches_offsets]
  exact (((List.Sublist.refl _).append (hslots.cons_cons 48)).append (List.Sublist.refl _)).append hrun

theorem microBits_lt (wpc : Nat) (pos : List Nat) (body rep nop rowprog : Nat) : microBits wpc pos body rep nop rowprog < 2 ^ (8 * 64) := by
  have hpos : ofElems 32 ((pos ++ [0, 0, 0, 0, 0, 0]).take 6) < 2 ^ 192 :=
    (ofElems_lt 32 _).trans_le (Nat.pow_le_pow_right (by decide) (Nat.mul_le_mul_left 32 (List.length_take_le 6 _)))
  rw [microBits]
  generalize ofElems 32 _ = n at hpos
  omega

theorem microOf_lt (q : Queue) (run : Option Run) (rowprog : Nat) : q.microOf run rowprog < 2 ^ (8 * 64) := by
  unfold Queue.microOf
  dsimp only
  split
  · exact microBits_lt _ _ _ _ _ _
  · split <;> exact microBits_lt _ _ _ _ _ _

theorem frameWidth_micro : ∀ a ∈ [64, 128, 192, 272], frameWidth a = 64 := by decide

theorem frameHead_fit (cause : Cause) (tc pc : Word) (qpc num : Nat) :
    ∀ f ∈ frameHead cause tc pc qpc num, f.2 < 2 ^ (8 * frameWidth f.1) := by
  have hmod : ∀ n, n % 2 ^ 64 < 2 ^ 64 := fun n => Nat.mod_lt n (by decide)
  simp only [frameHead, List.mem_cons, List.not_mem_nil, or_false, forall_eq_or_imp, forall_eq]
  exact ⟨tc.isLt, pc.isLt, hmod qpc, hmod num, cause.event.isLt, cause.addr.isLt⟩

theorem frameWidth_latch {j : Nat} (hj : j < 12) : frameWidth (512 + 16 * j) = 16 ∧ frameWidth (768 + 256 * j) = 256 := by
  revert j
  decide

theorem frameLatches_fit (hx : x.latched.length ≤ 12) : ∀ f ∈ frameLatches x, f.2 < 2 ^ (8 * frameWidth f.1) := by
  intro f hf
  rw [frameLatches_eq] at hf
  rcases List.mem_cons.mp hf with rfl | hf
  · have hpow : 2 ^ x.latched.length ≤ 2 ^ 12 := Nat.pow_le_pow_right (by decide) hx
    have hw : 2 ^ (8 * frameWidth 48) = 2 ^ 64 := rfl
    dsimp only
    omega
  · obtain ⟨⟨e, j⟩, he, hf⟩ := List.mem_flatMap.mp hf
    have hj : j < 12 := by
      have := (List.getElem?_eq_some_iff.mp (List.mem_zipIdx_iff_getElem?.mp he)).1
      omega
    obtain ⟨hdir, hval⟩ := frameWidth_latch hj
    simp only [List.mem_cons, List.not_mem_nil, or_false] at hf
    rcases hf with rfl | rfl
    · rw [hdir]
      exact (latchDir_fields x e).1
    · rw [hval]
      exact latchValue_lt x e

theorem rowprog_lt (r : Run) : r.rowprog < 2 ^ 48 := by
  rw [Run.rowprog]
  omega

theorem frameRun_fit (r : Run) : ∀ f ∈ frameRun r, f.2 < 2 ^ (8 * frameWidth f.1) := by
  have hdesc := ofElems_lt 64 (r.q.cap.desc.toList.map BitVec.toNat)
  rw [List.length_map, Vector.length_toList, show 64 * 13 = 8 * frameWidth 336 from rfl] at hdesc
  simp only [frameRun, List.mem_cons, List.not_mem_nil, or_false, forall_eq_or_imp, forall_eq]
  rw [frameWidth_micro 272 (by decide)]
  exact ⟨r.q.hdr.isLt, Nat.mod_lt _ (by decide), microBits_lt _ _ _ _ _ _, hdesc, ofElems_lt 64 _, (rowprog_lt r).trans (by decide)⟩

theorem trapFrame_sideBySide (hx : x.latched.length ≤ 12) (cause : Cause) (tc : Word) (src : TrapSrc) :
    SideBySide frameWidth (trapFrame x cause tc src) := by
  refine ⟨fun f hf => ?_, frameLayout_apart.sublist (trapFrame_offsets hx cause tc src)⟩
  simp only [trapFrame, List.mem_append, List.mem_cons, List.not_mem_nil, or_false] at hf
  rcases hf with ((hf | hf) | rfl | rfl | rfl) | hf
  · exact frameHead_fit _ _ _ _ _ f hf
  · exact frameLatches_fit hx f hf
  · rw [frameWidth_micro 64 (by decide)]
    exact microOf_lt _ _ _
  · rw [frameWidth_micro 128 (by decide)]
    exact microOf_lt _ _ _
  · rw [frameWidth_micro 192 (by decide)]
    exact microOf_lt _ _ _
  · cases hr : src.run with
    | none => rw [hr] at hf; cases hf
    | some r => rw [hr] at hf; exact frameRun_fit r f hf

end Sys2Proof
end

section
/-! SUPPORT. Trap entry: the state it leaves with a handler, and the context that stops without one (R84 to R89). -/

namespace Sys2Proof

open Sys2Proof.Machine
variable {s : State} {x : Ctx} {cause : Cause}

/-! ### The executing core and its context -/

theorem setCore_self (s : State) (c : CoreId) : s.setCore c (s.core c) = s := by
  simp [State.setCore, State.core]

theorem putCore_myCore (s : State) : s.putCore s.myCore = s := setCore_self s _

theorem myCore_putCore (s : State) (k : Core) : (s.putCore k).myCore = k := (setCore_core s _ _ k).trans (if_pos rfl)

theorem myCore_putCtx (s : State) (y : Ctx) : (s.putCtx y).myCore = { s.myCore with banks := s.myCore.banks.set s.cur.bank (some y) } :=
  (setCore_core s _ _ _).trans (if_pos rfl)

theorem core_putCtx_putCore_ne (s : State) (k : Core) (y : Ctx) {c : CoreId} (h : c ≠ s.cur.core) :
    ((s.putCore k).putCtx y).core c = s.core c :=
  (setCore_core _ _ c _).trans ((if_neg (Ne.symm h)).trans ((setCore_core s _ c k).trans (if_neg (Ne.symm h))))

/-! ### What takes a latch slot (R88, R89) -/

theorem latched_length (x : Ctx) : x.latched.length = x.flights.length := by
  have hunit : (fun f : Flight => f.unit == .vec) = fun f => !(f.unit == .ctl) := funext fun f => by cases f.unit <;> rfl
  rw [Ctx.latched, List.length_append, hunit, ← List.length_eq_length_filter_add]

/-- Latching keeps the order. -/
theorem latched_latched (x : Ctx) : Ctx.latched { x with flights := x.latched } = x.latched := by
  have hnone : ∀ u v : FixUnit, u ≠ v → ∀ l : List Flight, (l.filter (·.unit == v)).filter (·.unit == u) = [] := fun u v h l =>
    List.filter_eq_nil_iff.mpr fun f hf => by
      rw [beq_iff_eq, eq_of_beq (List.mem_filter.mp hf).2]
      exact Ne.symm h
  have hself : ∀ u, ∀ l : List Flight, (l.filter (·.unit == u)).filter (·.unit == u) = l.filter (·.unit == u) := fun u l =>
    List.filter_eq_self.mpr fun f hf => (List.mem_filter.mp hf).2
  have happ : ∀ u, x.latched.filter (·.unit == u) = (x.flights.filter (·.unit == .ctl)).filter (·.unit == u)
      ++ (x.flights.filter (·.unit == .vec)).filter (·.unit == u) := fun u => List.filter_append _ _
  change x.latched.filter (·.unit == .ctl) ++ x.latched.filter (·.unit == .vec) = x.latched
  rw [happ, happ, hself, hself, hnone .ctl .vec (by decide), hnone .vec .ctl (by decide), List.append_nil, List.nil_append]
  rfl

/-- The frame does not depend on the order in which results were in flight, beyond that of the slots. -/
theorem frameLatches_latched (x : Ctx) : frameLatches { x with flights := x.latched } = frameLatches x := by
  have hslot : ∀ v : FlightVal, v.slot { x with flights := x.latched } = v.slot x := fun v => by cases v <;> rfl
  have hdir : ∀ f, latchDir { x with flights := x.latched } f = latchDir x f := fun f => by
    rw [latchDir, hslot]
    cases hu : f.unit <;> simp only [latchDir, hu] <;> rfl
  have hval : ∀ f, latchValue { x with flights := x.latched } f = latchValue x f := fun f => by rw [latchValue, hslot, latchValue]
  rw [frameLatches_eq, frameLatches_eq, latched_latched]
  simp only [hdir, hval]

theorem landOver_fits (k : Core) (h : x.flights.length ≤ maxFlights) : landOver k x = (k, { x with flights := x.latched }) := by
  have hlen : x.latched.length ≤ maxFlights := (latched_length x).trans_le h
  rw [landOver, List.drop_eq_nil_of_le hlen, List.take_of_length_le hlen]
  rfl

/-- The values of exact accumulators that are latched whole, by their slots. -/
def heldValues (fs : List (Flight × Nat)) : List (Nat × BitVec 4352) :=
  fs.filterMap fun (f, j) => match f.val with | .exact _ v => some (j, v) | _ => none

theorem heldValues_lookup {l : List Flight} {f : Flight} {r : EReg} {v : BitVec 4352} (hv : f.val = .exact r v) :
    ∀ {n j : Nat}, l[j]? = some f → (heldValues (l.zipIdx n)).lookup (n + j) = some v := by
  induction l with
  | nil => intro n j h; cases h
  | cons g l ih =>
    intro n j h
    rw [List.zipIdx_cons, heldValues, List.filterMap_cons]
    cases j with
    | zero =>
      obtain rfl : g = f := Option.some.inj h
      simp [hv]
    | succ j =>
      have hrest := ih (n := n + 1) (j := j) h
      rw [show n + 1 + j = n + (j + 1) by omega] at hrest
      have hne : (n + (j + 1) == n) = false := beq_eq_false_iff_ne.mpr (by omega)
      split
      next => exact hrest
      next p hp =>
        have hkey : p.1 = n := by
          dsimp only at hp
          split at hp
          · cases hp; rfl
          · cases hp
        obtain ⟨a, b⟩ := p
        obtain rfl : a = n := hkey
        rw [List.lookup_cons, hne]
        exact hrest

/-! ### Entry of the handler (R88) -/

theorem delivered_regs (x : Ctx) (cause : Cause) (src : TrapSrc) : (x.delivered cause src).regs = x.regs := by
  unfold Ctx.delivered
  split
  · rfl
  · split <;> rfl
  · rfl
  · split <;> rfl

/-- The engines keep their macros, but that a delivered fault leaves its macro stopped. -/
theorem delivered_eng_ne (src : TrapSrc) (h : cause.cls ≠ .a) : (x.delivered cause src).eng = x.eng := by
  unfold Ctx.delivered
  split
  · rfl
  · contradiction
  · rfl
  · split <;> rfl

theorem delivered_eng {src : TrapSrc} {r : Run} (h : cause.cls = .a) (hr : src.run = some r) :
    (x.delivered cause src).eng = (x.setRun { r with fault := none, held := true }).eng := by
  rw [Ctx.delivered, h, hr]

theorem delivered_pendQ (src : TrapSrc) (h : cause.cls = .q) : (x.delivered cause src).pendQ = none := by
  rw [Ctx.delivered, h]

/-- What the context is once its control core has entered the handler. -/
structure Entered (x : Ctx) (cause : Cause) (src : TrapSrc) (y : Ctx) : Prop where
  mode : y.trapMode = true
  tcause : y.sys.tcause = cause.tcause src.kind 0
  pos : y.ctl = { pc := x.sys.tvec }
  resume : y.trapPc = x.ctl.addr ∧ y.saved = some x.ctl
  flights : y.flights = []
  moved : y.heldMov = heldValues x.latched.zipIdx
  regs : y.regs = x.regs
  queues : y.ql.items = x.ql.items ∧ y.qx.items = x.qx.items ∧ y.qs.items = x.qs.items
  eng : y.eng = (x.delivered cause src).eng
  pendQ : y.pendQ = (x.delivered cause src).pendQ

/-- The core and the context at a trap entry: what is due has landed, and what finds no slot (R88). -/
def landedForTrap (s : State) (x : Ctx) : Core × Ctx :=
  let a := landBefore .ctl x.cclk s.myCore x
  let b := landBefore .vec a.2.xclk a.1 a.2
  landOver b.1 b.2

/-- A trap with a handler writes the frame and enters TVEC. -/
theorem takeTrap_enters (hx : s.ctx? = some x) {k : Core} {z : Ctx} (hz : landedForTrap s x = (k, z))
    (hh : (s.putCore k).noHandler z = false) (hmz : z.trapMode = false) :
    let src := s.trapSrc x cause
    ∃ y, Entered z cause src y ∧ s.takeTrap x cause = ((s.putCore k).putCore ((s.putCore k).myCore.putFrame (z.id.sbank * 256 + z.frameRow)
      (placeAll (trapFrame z cause (cause.tcause src.kind 0) src)))).putCtx y := by
  intro src
  have hsame : ({ x with flights := x.flights, regs := { x.regs with s := x.regs.s } } : Ctx) = x := rfl
  unfold landedForTrap at hz
  dsimp only at hz
  unfold State.takeTrap
  simp only [hx, hz, hh, hmz, Bool.false_and, Bool.or_false, Bool.false_eq_true, if_false]
  refine ⟨_, ?_, rfl⟩
  exact ⟨rfl, rfl, rfl, ⟨rfl, rfl⟩, rfl, rfl, delivered_regs _ _ _, ⟨rfl, rfl, rfl⟩, rfl, rfl⟩

/-- Results that are not due keep to flight until the trap entry, and all find a slot. -/
theorem landedForTrap_flying (hl : ∀ f ∈ x.flights, x.clk f.unit ≤ f.land) (hn : x.flights.length ≤ maxFlights) :
    landedForTrap s x = (s.myCore, { x with flights := x.latched }) := by
  have hctl : landBefore .ctl x.cclk s.myCore x = (s.myCore, x) := landBefore_none _ fun f hf hu => by simpa [hu, Ctx.clk] using hl f hf
  have hvec : landBefore .vec x.xclk s.myCore x = (s.myCore, x) := landBefore_none _ fun f hf hu => by simpa [hu, Ctx.clk] using hl f hf
  simp only [landedForTrap, hctl, hvec, landOver_fits _ hn]

theorem trapFrame_latched (x : Ctx) (cause : Cause) (tc : Word) (src : TrapSrc) :
    trapFrame { x with flights := x.latched } cause tc src = trapFrame x cause tc src := by
  rw [trapFrame, trapFrame, frameLatches_latched]
  rfl

/-- A trap outside trap mode with a handler and nothing due. -/
theorem takeTrap_flying (hx : s.ctx? = some x) (hm : x.trapMode = false) (hh : s.noHandler x = false)
    (hl : ∀ f ∈ x.flights, x.clk f.unit ≤ f.land) (hn : x.flights.length ≤ maxFlights) :
    let src := s.trapSrc x cause
    ∃ y, Entered { x with flights := x.latched } cause src y ∧ s.takeTrap x cause =
      (s.putCore (s.myCore.putFrame (x.id.sbank * 256 + x.frameRow) (placeAll (trapFrame x cause (cause.tcause src.kind 0) src)))).putCtx y := by
  intro src
  have hz : landedForTrap s x = (s.myCore, { x with flights := x.latched }) := landedForTrap_flying hl hn
  obtain ⟨y, hy, ht⟩ := takeTrap_enters (cause := cause) hx hz (by rw [putCore_myCore]; exact hh) hm
  refine ⟨y, hy, ht.trans ?_⟩
  rw [trapFrame_latched, putCore_myCore]
  rfl

/-- A field of the frame that was just written. -/
theorem frame_of_trapFrame {k : Core} (hk : Sparse.wf k.spad = true) (hx : x.latched.length ≤ 12) {tc : Word} {src : TrapSrc} {a v bits : Nat}
    (first : Nat) (hv : (a, v) ∈ trapFrame x cause tc src) (hb : 8 * frameWidth a = bits) (hin : 8 * a + bits ≤ 15 * 2048) :
    (k.putFrame first (placeAll (trapFrame x cause tc src))).frame first / 2 ^ (8 * a) % 2 ^ bits = v := by
  rw [frame_putFrame_field hk _ _ hin, ← hb]
  exact placeAll_field (trapFrame_sideBySide hx cause tc src) hv

theorem frameHead_mem {tc : Word} {src : TrapSrc} {f : Nat × Nat} (h : f ∈ frameHead cause tc x.ctl.addr src.qpc src.num) :
    f ∈ trapFrame x cause tc src :=
  List.mem_append_left _ (List.mem_append_left _ (List.mem_append_left _ h))

theorem frameLatches_mem {tc : Word} {src : TrapSrc} {f : Nat × Nat} (h : f ∈ frameLatches x) : f ∈ trapFrame x cause tc src :=
  List.mem_append_left _ (List.mem_append_left _ (List.mem_append_right _ h))

theorem frameRun_mem {tc : Word} {src : TrapSrc} {r : Run} {f : Nat × Nat} (hr : src.run = some r) (h : f ∈ frameRun r) :
    f ∈ trapFrame x cause tc src :=
  List.mem_append_right _ (by rw [hr]; exact h)

/-! ### The source of the trap (R84, R89) -/

/-- The kind of a class-P trap: that of the section the control core is in, else of the one that it decodes next. -/
def wordKind (s : State) (x : Ctx) : Kind :=
  match x.ctl.sec with
  | some c => c.h.kind
  | none => s.nextKind x

theorem trapSrc_word (h : cause.cls = .p) : s.trapSrc x cause = { kind := wordKind s x } := by
  rw [State.trapSrc, h]
  rfl

theorem trapSrc_event (h : cause.cls = .e) : s.trapSrc x cause = { kind := s.nextKind x } := by
  rw [State.trapSrc, h]

theorem trapSrc_queue {q : PendQ} (h : cause.cls = .q) (hq : x.pendQ = some q) :
    s.trapSrc x cause = { kind := q.kind, qpc := q.hdr.toNat * 2 ^ 12 + q.idx } := by
  rw [State.trapSrc, h, hq]
  rfl

theorem trapSrc_macro {r : Run} (h : cause.cls = .a) (hr : x.runs.find? (fun r => cause.eng == some r.ctr && r.q.num == cause.num) = some r) :
    s.trapSrc x cause = { kind := r.q.kind, qpc := r.q.hdr.toNat * 2 ^ 12 + r.q.idx, num := r.q.num, run := some r } := by
  rw [State.trapSrc, h]
  dsimp only
  rw [hr]
  rfl

/-- TVEC opens a trap-mode C section. -/
theorem tvecOk_iff : s.tvecOk x = true ↔ x.sys.tvec.toNat % 8 = 0 ∧ ∃ h u d,
    s.fetch s.cur.core x.id.asid x.begun x.sys.tvec 8 = .ok (h, u) ∧ decodeHeader (BitVec.ofNat 64 h) = some d ∧ d.kind = .c ∧
      d.trapm = true := by
  have hal : (fieldNat x.sys.tvec 0 3 == 0) = decide (x.sys.tvec.toNat % 8 = 0) := by
    rw [fieldNat, BitVec.extractLsb'_toNat, Nat.shiftRight_zero]
    rfl
  rw [State.tvecOk, hal, Bool.and_eq_true, decide_eq_true_eq]
  refine and_congr_right fun _ => ?_
  cases s.fetch s.cur.core x.id.asid x.begun x.sys.tvec 8 with
  | error e => simp
  | ok p =>
    obtain ⟨h, u⟩ := p
    cases hd : decodeHeader (BitVec.ofNat 64 h) with
    | none => simp [hd]
    | some d => simp [hd]

/-- A trap outside trap mode enters its handler where the frame fits the allotment and TVEC opens a trap-mode C section (R88). -/
theorem noHandler_eq_false_iff : s.noHandler x = false ↔ x.frameRow + 15 ≤ x.id.snb * 256 ∧ x.sys.tvec.toNat % 8 = 0 ∧ ∃ h u d,
    s.fetch s.cur.core x.id.asid x.begun x.sys.tvec 8 = .ok (h, u) ∧ decodeHeader (BitVec.ofNat 64 h) = some d ∧ d.kind = .c ∧
      d.trapm = true := by
  rw [State.noHandler, Bool.or_eq_false_iff, decide_eq_false_iff_not, Nat.not_lt, Bool.not_eq_false', tvecOk_iff]

/-! ### A fetch of code does not see what lands (R31, R305) -/

theorem setCore_setCore (s : State) (c : CoreId) (j k : Core) : (s.setCore c j).setCore c k = s.setCore c k := by
  simp [State.setCore]

theorem core_setCore_self (s : State) (c : CoreId) (k : Core) : (s.setCore c k).core c = k := (setCore_core s c c k).trans (if_pos rfl)

/-- Translation reads a core's discards only. -/
theorem translate_congr {j k : Core} (h : j.discards = k.discards) (asid : BitVec 12) (va : Nat) (acc : AccKind) :
    s.translate j asid va acc = s.translate k asid va acc := by
  have hseg : ∀ i, s.segEntry j asid i va = s.segEntry k asid i va := fun i => by simp only [State.segEntry, State.segWord, h]
  simp only [State.translate, State.findSeg, hseg]

theorem translate_setCore {c : CoreId} {k : Core} (h : k.discards = (s.core c).discards) (asid : BitVec 12) (va : Nat) (acc : AccKind) :
    (s.setCore c k).translate ((s.setCore c k).core c) asid va acc = s.translate (s.core c) asid va acc := by
  rw [core_setCore_self]
  exact translate_congr (s := s) h asid va acc

/-- No segment lies in a scratchpad. -/
theorem place_ne_spad {e : SegEntry} {off : Nat} {l : Loc} (h : s.place e off = some l) (a : Nat) : l ≠ .spad a := by
  rintro rfl
  unfold State.place at h
  split_ifs at h
  · split at h
    · split_ifs at h
      cases h
    · cases h
  · cases h
  · cases h

theorem translate_ne_spad {k : Core} {asid : BitVec 12} {va : Nat} {acc : AccKind} {l : Loc} {i : Nat} (h : s.translate k asid va acc = .ok l i) :
    ∀ a, l ≠ .spad a := by
  unfold State.translate at h
  split at h
  · cases h
  · dsimp only at h
    split_ifs at h
    split at h
    next hp =>
      cases h
      exact place_ne_spad hp
    next => cases h

theorem codeSector_setCore {c : CoreId} {k : Core} (hi : k.icache = (s.core c).icache) (asid : BitVec 12) (since va : Nat) {l : Loc}
    (hl : ∀ a, l ≠ .spad a) : (s.setCore c k).codeSector c asid since va l = s.codeSector c asid since va l := by
  have hread : ∀ n, (s.setCore c k).readLoc (dieOf c) k l n = s.readLoc (dieOf c) (s.core c) l n := fun n => by
    cases l with
    | spad a => exact absurd rfl (hl a)
    | mem pa | heat o off => rfl
  rw [State.codeSector, core_setCore_self, hread, hi]
  rfl

/-- Holding a sector concerns the instruction cache. -/
theorem holdSector_setCore {c : CoreId} {k : Core} (hi : k.icache = (s.core c).icache) (asid : BitVec 12) (va : Nat) (d : BitVec 256) :
    (s.setCore c k).holdSector c asid va d =
      (s.holdSector c asid va d).setCore c { k with icache := ((s.holdSector c asid va d).core c).icache } := by
  rw [State.holdSector, State.holdSector, core_setCore_self, core_setCore_self, setCore_setCore, setCore_setCore]
  simp only [Core.cacheSector, hi]
  rfl

/-- What is fetched depends on a core's discards and its instruction cache. -/
theorem fetch_setCore {c : CoreId} {k : Core} (hd : k.discards = (s.core c).discards) (hi : k.icache = (s.core c).icache) (asid : BitVec 12)
    (since : Nat) (va : Word) (n : Nat) :
    ((s.setCore c k).fetch c asid since va n).toOption.map (·.1) = (s.fetch c asid since va n).toOption.map (·.1) := by
  unfold State.fetch
  dsimp only
  rw [translate_setCore hd]
  cases hlo : s.translate (s.core c) asid (va.toNat / 32 * 32) .fetch with
  | ok l i =>
    have hnote : (s.setCore c k).noteUse asid i l = (s.noteUse asid i l).setCore c k := rfl
    have hhold := holdSector_setCore (s := s.noteUse asid i l) hi asid (va.toNat / 32 * 32)
      (s.codeSector c asid since (va.toNat / 32 * 32) l)
    have hdis : (((s.noteUse asid i l).holdSector c asid (va.toNat / 32 * 32)
        (s.codeSector c asid since (va.toNat / 32 * 32) l)).core c).discards = (s.core c).discards := by
      rw [State.holdSector, core_setCore_self]
      rfl
    dsimp only
    rw [codeSector_setCore hi asid since _ (translate_ne_spad hlo), hnote, hhold]
    generalize (s.noteUse asid i l).holdSector c asid (va.toNat / 32 * 32) (s.codeSector c asid since (va.toNat / 32 * 32) l) = u at hdis
    rw [translate_setCore (k := { k with icache := (u.core c).icache }) (hd.trans hdis.symm)]
    split
    · rfl
    · cases hhi : u.translate (u.core c) asid ((va.toNat + n - 1) / 32 * 32) .fetch with
      | ok l2 j =>
        dsimp only
        rw [codeSector_setCore (k := { k with icache := (u.core c).icache }) rfl asid since _ (translate_ne_spad hhi)]
        rfl
      | segv | perm | poison _ | resid | absent _ | dup _ | hole => rfl
  | segv | perm | poison _ | resid | absent _ | dup _ | hole => rfl

theorem tvecOk_setCore {k : Core} (hd : k.discards = s.myCore.discards) (hi : k.icache = s.myCore.icache) (x : Ctx) :
    (s.putCore k).tvecOk x = s.tvecOk x := by
  have h := fetch_setCore hd hi x.id.asid x.begun x.sys.tvec 8
  rw [State.tvecOk, State.tvecOk, show (s.putCore k).cur.core = s.cur.core from rfl, show s.putCore k = s.setCore s.cur.core k from rfl]
  cases h1 : (s.setCore s.cur.core k).fetch s.cur.core x.id.asid x.begun x.sys.tvec 8 with
  | error e =>
    cases h2 : s.fetch s.cur.core x.id.asid x.begun x.sys.tvec 8 with
    | error f => rfl
    | ok p => rw [h1, h2] at h; cases h
  | ok p =>
    cases h2 : s.fetch s.cur.core x.id.asid x.begun x.sys.tvec 8 with
    | error f => rw [h1, h2] at h; cases h
    | ok q =>
      rw [h1, h2] at h
      have hval : p.1 = q.1 := Option.some.inj h
      dsimp only
      rw [hval]

theorem noHandler_congr {k : Core} {z : Ctx} (hd : k.discards = s.myCore.discards) (hi : k.icache = s.myCore.icache) (hid : z.id = x.id)
    (hsys : z.sys = x.sys) (hbegun : z.begun = x.begun) : (s.putCore k).noHandler z = s.noHandler x := by
  rw [State.noHandler, State.noHandler, ← tvecOk_setCore hd hi, State.tvecOk, State.tvecOk, Ctx.frameRow, Ctx.frameRow, hid, hsys, hbegun]

/-! ### The context that stops (R88, log 28) -/

/-- Of the core, what lands changes the scratchpad, its marks and the vector registers; of the context, flights and registers. -/
theorem landedForTrap_frame (s : State) (x : Ctx) : let a := landedForTrap s x
    a.1 = { s.myCore with spad := a.1.spad, spadBad := a.1.spadBad, vregs := a.1.vregs } ∧
    a.2 = { x with flights := a.2.flights, regs := a.2.regs } := by
  refine ⟨?_, ?_⟩
  · simp only [landedForTrap, landOver]
    rw [foldl_land_core]
    dsimp only
    rw [landBefore_core .vec, landBefore_core .ctl]
  · simp only [landedForTrap, landOver]
    rw [foldl_land_ctx]
    dsimp only
    rw [landBefore_ctx .vec, landBefore_ctx .ctl]

/-- A handler is there or not whatever lands. -/
theorem noHandler_landed (s : State) (x : Ctx) : (s.putCore (landedForTrap s x).1).noHandler (landedForTrap s x).2 = s.noHandler x := by
  obtain ⟨hk, hz⟩ := landedForTrap_frame s x
  dsimp only at hk hz
  apply noHandler_congr
  · rw [hk]
  · rw [hk]
  · rw [hz]
  · rw [hz]
  · rw [hz]

theorem takeTrap_stops (hx : s.ctx? = some x) (h : x.trapMode = true ∧ cause.cls = .p ∨ s.noHandler x = true) : s.takeTrap x cause =
    (s.putCore (landedForTrap s x).1).ctxFatal s.cur.core s.cur.bank (cause.tcause (s.trapSrc x cause).kind 0) := by
  have hmode : (landedForTrap s x).2.trapMode = x.trapMode := by rw [(landedForTrap_frame s x).2]
  have hstop : ((landedForTrap s x).2.trapMode && (cause.cls == .p || cause.cls == .q)
      || (s.putCore (landedForTrap s x).1).noHandler (landedForTrap s x).2) = true := by
    rw [noHandler_landed, hmode]
    rcases h with ⟨hm, hp⟩ | hn
    · simp [hm, hp]
    · simp [hn]
  unfold State.takeTrap
  simp only [hx]
  exact if_pos hstop

variable {c : CoreId} {b : BankId} {w : Word}

/-- A context with nothing on its way gives its bank up at once, and its hosts are told. -/
theorem ctxFatal_spent (hx : s.ctxAt c b = some x) (h : x.spent = true) : (s.ctxFatal c b w).ctxAt c b = none ∧
    (s.ctxFatal c b w).cur = s.cur ∧
    (s.ctxFatal c b w).firm.events = s.firm.events ++ [{ code := 0x11, args := [x.id.copy.rec_.toNat, w.toNat] }] := by
  have hfatal : s.ctxFatal c b w = (s.freeBank c b).send 0x11 [x.id.copy.rec_.toNat, w.toNat] := by
    rw [State.ctxFatal, hx]
    exact (if_pos h).trans (by rw [State.endFatal, hx])
  rw [hfatal, State.freeBank, hx]
  refine ⟨?_, rfl, rfl⟩
  change ((s.setCore c _).core c).banks[b] = none
  rw [core_setCore_self]
  exact Vector.getElem_set_self ..

theorem ctxFatal_busy (hx : s.ctxAt c b = some x) (h : x.spent = false) : s.ctxFatal c b w = s.setCore c { s.core c with
    banks := (s.core c).banks.set b (some (x.stopped w)), active := if (s.core c).active = some b then none else (s.core c).active } := by
  rw [State.ctxFatal, hx]
  exact if_neg (by simp [h])

/-! ### The frame that trap entry writes (R89) -/

section
variable {k : Core} {tc : Word} {src : TrapSrc}

/-- The frame after trap entry, as one number. -/
def writtenFrame (k : Core) (x : Ctx) (cause : Cause) (tc : Word) (src : TrapSrc) : Nat :=
  let first := x.id.sbank * 256 + x.frameRow
  (k.putFrame first (placeAll (trapFrame x cause tc src))).frame first

theorem frameRun_inside {r : Run} {a v : Nat} (h : (a, v) ∈ frameRun r) : a + frameWidth a ≤ 512 := by
  simp only [frameRun, List.mem_cons, List.not_mem_nil, or_false, Prod.mk.injEq] at h
  rcases h with ⟨rfl, -⟩ | ⟨rfl, -⟩ | ⟨rfl, -⟩ | ⟨rfl, -⟩ | ⟨rfl, -⟩ | ⟨rfl, -⟩ <;> decide

theorem frameRun_above {r : Run} {a v : Nat} (h : (a, v) ∈ frameRun r) : 256 ≤ a := by
  simp only [frameRun, List.mem_cons, List.not_mem_nil, or_false, Prod.mk.injEq] at h
  omega

/-- A number with a macro's fields at their offsets gives its header, its word, its captured descriptor and its count of units done. -/
theorem frameRun_says {f : Nat} {r : Run} (h : ∀ {a v : Nat}, (a, v) ∈ frameRun r → f / 2 ^ (8 * a) % 2 ^ (8 * frameWidth a) = v) :
    let field := fun (at_ bits : Nat) => f / 2 ^ (8 * at_) % 2 ^ bits
    field 256 64 = r.q.hdr.toNat ∧ field 264 64 = r.q.idx % 2 ^ 64 ∧
      (∀ k : Fin 13, field (336 + 8 * k.val) 64 = r.q.cap.desc[k].toNat) ∧ field 472 32 = r.done % 2 ^ 32 := by
  intro field
  have hfield : ∀ {a v bits : Nat}, (a, v) ∈ frameRun r → 8 * frameWidth a = bits → field a bits = v := fun hv hb => hb ▸ h hv
  have hprog : field 472 64 = r.rowprog := hfield (by simp [frameRun]) rfl
  have hdesc : field 336 832 = ofElems 64 (r.q.cap.desc.toList.map BitVec.toNat) := hfield (by simp [frameRun]) rfl
  refine ⟨hfield (by simp [frameRun]) rfl, hfield (by simp [frameRun]) rfl, fun i => ?_, ?_⟩
  · have hsub := field_of_field (lo := 8 * 336) (n := 832) (a := 64 * i) (m := 64) f (by omega)
    have hat : 8 * (336 + 8 * i.val) = 8 * 336 + 64 * i := by omega
    dsimp only [field] at hdesc ⊢
    rw [hat, ← hsub, hdesc, ofElems_elem]
    simp [List.getD_eq_getElem?_getD, r.q.cap.desc[i.val].isLt]
  · have hsub := field_of_field (lo := 8 * 472) (n := 64) (a := 0) (m := 32) f (by decide)
    dsimp only [field] at hprog ⊢
    rw [hprog, Nat.add_zero] at hsub
    rw [← hsub, Run.rowprog]
    omega

variable (hk : Sparse.wf k.spad = true) (hx : x.latched.length ≤ 12)
include hk hx

theorem writtenFrame_head : let f := writtenFrame k x cause tc src
    let field := fun (at_ bits : Nat) => f / 2 ^ (8 * at_) % 2 ^ bits
    field 0 64 = tc.toNat ∧ field 8 64 = x.ctl.addr.toNat ∧ field 16 64 = src.qpc % 2 ^ 64 ∧ field 24 64 = src.num % 2 ^ 64 ∧
      field 32 64 = cause.event.toNat ∧ field 40 64 = cause.addr.toNat ∧ field 48 64 = 2 ^ x.flights.length - 1 := by
  intro f field
  have hfield : ∀ {a v : Nat}, (a, v) ∈ trapFrame x cause tc src → 8 * frameWidth a = 64 → 8 * a + 64 ≤ 15 * 2048 → field a 64 = v :=
    fun hv hb hin => frame_of_trapFrame hk hx _ hv hb hin
  have hhead : ∀ {a v : Nat}, (a, v) ∈ frameHead cause tc x.ctl.addr src.qpc src.num → 8 * frameWidth a = 64 → 8 * a + 64 ≤ 15 * 2048 →
      field a 64 = v := fun hv => hfield (frameHead_mem hv)
  refine ⟨hhead ?_ rfl (by decide), hhead ?_ rfl (by decide), hhead ?_ rfl (by decide), hhead ?_ rfl (by decide),
    hhead ?_ rfl (by decide), hhead ?_ rfl (by decide), hfield (frameLatches_mem ?_) rfl (by decide)⟩
  all_goals simp [frameHead, frameLatches_eq, latched_length]

/-- A latch slot's directory entry and value. -/
theorem writtenFrame_slot {j : Nat} {e : Flight} (he : x.latched[j]? = some e) : let f := writtenFrame k x cause tc src
    let field := fun (at_ bits : Nat) => f / 2 ^ (8 * at_) % 2 ^ bits
    field (512 + 16 * j) 128 = latchDir x e ∧ field (768 + 256 * j) 2048 = latchValue x e := by
  have hj : j < 12 := (List.getElem?_eq_some_iff.mp he).1.trans_le hx
  obtain ⟨hdir, hval⟩ := frameWidth_latch hj
  obtain ⟨hmdir, hmval⟩ := latchSlot_mem he
  exact ⟨frame_of_trapFrame hk hx _ (frameLatches_mem hmdir) (by rw [hdir]) (by omega),
    frame_of_trapFrame hk hx _ (frameLatches_mem hmval) (by rw [hval]) (by omega)⟩

/-- The macro of class A. -/
theorem writtenFrame_run {r : Run} (hr : src.run = some r) : let f := writtenFrame k x cause tc src
    let field := fun (at_ bits : Nat) => f / 2 ^ (8 * at_) % 2 ^ bits
    field 256 64 = r.q.hdr.toNat ∧ field 264 64 = r.q.idx % 2 ^ 64 ∧
      (∀ k : Fin 13, field (336 + 8 * k.val) 64 = r.q.cap.desc[k].toNat) ∧ field 472 32 = r.done % 2 ^ 32 :=
  frameRun_says fun hv => by
    refine frame_of_trapFrame hk hx _ (frameRun_mem hr hv) rfl ?_
    have hin := frameRun_inside hv
    omega

end

theorem mod_of_lt_pow {n w m : Nat} (h : n < 2 ^ w) (hw : w ≤ m) : n % 2 ^ m = n :=
  Nat.mod_eq_of_lt (h.trans_le (Nat.pow_le_pow_right (by decide) hw))

/-- Two fields side by side, in a wider one. -/
theorem low_high_mod {a b n m w : Nat} (ha : a < 2 ^ n) (hb : b < 2 ^ m) (h : n + m ≤ w) :
    (a + b * 2 ^ n) % 2 ^ w % 2 ^ n = a ∧ (a + b * 2 ^ n) % 2 ^ w / 2 ^ n = b := by
  have hlt : a + b * 2 ^ n < 2 ^ (n + m) := by
    rw [Nat.pow_add, Nat.mul_comm (2 ^ n)]
    calc a + b * 2 ^ n < 2 ^ n + b * 2 ^ n := Nat.add_lt_add_right ha _
      _ = (b + 1) * 2 ^ n := by ring
      _ ≤ 2 ^ m * 2 ^ n := Nat.mul_le_mul_right _ hb
  rw [mod_of_lt_pow hlt h, Nat.add_mul_mod_self_right, Nat.mod_eq_of_lt ha, Nat.add_mul_div_right _ _ (Nat.two_pow_pos n),
    Nat.div_eq_of_lt ha, Nat.zero_add]
  exact ⟨rfl, rfl⟩

/-- What a latch slot says of a result: its directory entry d and its value. -/
theorem latchSlot_says {j : Nat} {e : Flight} {y : Ctx} (he : x.latched[j]? = some e) (hy : y.heldMov = heldValues x.latched.zipIdx) :
    let dir := fun lo bits : Nat => latchDir x e / 2 ^ lo % 2 ^ bits
    let val := latchValue x e
    dir 8 8 = (if e.unit = .ctl then 0 else 1) ∧ dir 32 16 = (e.land - x.clk e.unit) % 2 ^ 16 ∧
      match e.val with
      | .scalar r v => dir 0 8 = 1 ∧ dir 16 16 = r.toNat ∧ val = v.toNat
      | .vec p b v => dir 0 8 = 2 ∧ dir 16 16 = (p - x.id.vbase) % 2 ^ 16 ∧ val % 2 ^ 1024 = v.toNat ∧
          (∀ i, i < 32 → (dir 64 32).testBit i = (b.extractLsb' (4 * i) 4 != 0)) ∧
          (∀ i, i < 128 → ((dir 64 32).testBit (i / 4) && (val / 2 ^ 1024).testBit i) = b.getLsbD i)
      | .pair lo hi m v => dir 0 8 = 3 ∧ dir 16 16 = (lo - x.id.vbase) % 2 ^ 16 ∧ dir 48 16 = (hi - x.id.vbase) % 2 ^ 16 ∧
          dir 64 64 = m.toNat ∧ val = v.toNat
      | .pred r m v => dir 0 8 = 4 ∧ dir 16 16 = r.toNat ∧ dir 64 32 = m.toNat ∧ val = v.toNat
      | .terms r _ => dir 0 8 = 5 ∧ dir 16 16 = r.toNat
      | .exact r v => dir 0 8 = 5 ∧ dir 16 16 = r.toNat ∧ y.heldMov.lookup j = some v
      | .row r m v => dir 0 8 = 6 ∧ dir 16 16 = r % 2 ^ 16 ∧ dir 64 64 = m.toNat ∧ val = v.toNat := by
  intro dir val
  obtain ⟨-, hkind, hunit, hdest, hrem, hdest2, hmask⟩ := latchDir_fields x e
  refine ⟨hunit, hrem, ?_⟩
  have hmask32 : (e.val.slot x).2.2.2.1 < 2 ^ 32 → dir 64 32 = (e.val.slot x).2.2.2.1 := fun h => by
    have hsub := field_of_field (lo := 64) (n := 64) (a := 0) (m := 32) (latchDir x e) (by decide)
    rw [hmask, Nat.pow_zero, Nat.div_one, Nat.mod_eq_of_lt h] at hsub
    exact hsub.symm
  cases hv : e.val with
  | scalar r v =>
    rw [hv] at hkind hdest
    refine ⟨hkind, hdest.trans (mod_of_lt_pow r.isLt (by decide)), ?_⟩
    rw [show val = _ % 2 ^ 2048 from rfl, hv]
    exact mod_of_lt_pow v.isLt (by decide)
  | vec p b v =>
    rw [hv] at hkind hdest hmask32
    have hlanes : dir 64 32 = (lanesOf b).toNat := hmask32 (lanesOf b).isLt
    have hbytes : (if wholeLanes b then 2 ^ 128 - 1 else b.toNat) < 2 ^ 128 := by
      split
      · decide
      · exact b.isLt
    obtain ⟨hlow, hhigh⟩ := low_high_mod v.isLt hbytes (w := 2048) (by decide)
    have hval : val = (v.toNat + (if wholeLanes b then 2 ^ 128 - 1 else b.toNat) * 2 ^ 1024) % 2 ^ 2048 := by
      rw [show val = _ % 2 ^ 2048 from rfl, hv]
      rfl
    refine ⟨hkind, hdest, by rw [hval]; exact hlow, fun i hi => by rw [hlanes]; exact lanesOf_testBit b hi, fun i hi => ?_⟩
    rw [hlanes, hval, hhigh]
    exact latchBytes_testBit b hi
  | pair lo hi m v =>
    rw [hv] at hkind hdest hdest2 hmask
    refine ⟨hkind, hdest, hdest2, hmask, ?_⟩
    rw [show val = _ % 2 ^ 2048 from rfl, hv]
    exact mod_of_lt_pow v.isLt (by decide)
  | pred r m v =>
    rw [hv] at hkind hdest hmask32
    refine ⟨hkind, hdest.trans (mod_of_lt_pow r.isLt (by decide)), hmask32 m.isLt, ?_⟩
    rw [show val = _ % 2 ^ 2048 from rfl, hv]
    exact mod_of_lt_pow v.isLt (by decide)
  | terms r ts =>
    rw [hv] at hkind hdest
    exact ⟨hkind, hdest.trans (mod_of_lt_pow r.isLt (by decide))⟩
  | exact r v =>
    rw [hv] at hkind hdest
    refine ⟨hkind, hdest.trans (mod_of_lt_pow r.isLt (by decide)), ?_⟩
    have hlook := heldValues_lookup hv (n := 0) he
    rw [Nat.zero_add] at hlook
    rw [hy]
    exact hlook
  | row r m v =>
    rw [hv] at hkind hdest hmask
    refine ⟨hkind, hdest, hmask, ?_⟩
    rw [show val = _ % 2 ^ 2048 from rfl, hv]
    exact mod_of_lt_pow v.isLt (by decide)

/-! ### The obligation -/

theorem spad_putCtx_putCore (s : State) (k : Core) (y : Ctx) : ((s.putCore k).putCtx y).myCore.spad = k.spad := by
  rw [myCore_putCtx, myCore_putCore]

theorem frame_congr {j k : Core} (h : j.spad = k.spad) (first : Nat) : j.frame first = k.frame first := by
  rw [Core.frame, Core.frame, h]

/-- The trap has a handler: what is in flight is latched, and the control core enters it. -/
theorem takeTrap_handled (hs : MemoryOk s) (hx : s.ctx? = some x) (hm : x.trapMode = false) (hh : s.noHandler x = false)
    (hl : ∀ f ∈ x.flights, x.clk f.unit ≤ f.land) (hn : x.flights.length ≤ 12) : let src := s.trapSrc x cause
    ∃ t y, exec (.trapEntry cause) s = .next t ∧ t.ctx? = some y ∧ Entered { x with flights := x.latched } cause src y ∧
      t.myCore.frame (x.id.sbank * 256 + x.frameRow) = writtenFrame s.myCore x cause (cause.tcause src.kind 0) src ∧
      t.views = s.views ∧
      (∀ c r, (c ≠ s.cur.core ∨ r < x.id.sbank * 256 + x.frameRow ∨ x.id.sbank * 256 + x.frameRow + 15 ≤ r) →
        (t.core c).spad.read r = (s.core c).spad.read r) := by
  intro src
  obtain ⟨y, hy, ht⟩ := takeTrap_flying (cause := cause) hx hm hh hl hn
  have hexec : exec (.trapEntry cause) s = .next (s.takeTrap x cause) := by
    change execTrapEntry cause s = _
    rw [execTrapEntry, hx]
  refine ⟨_, y, hexec, ?_⟩
  rw [ht]
  refine ⟨ctx?_putCtx _ y, hy, frame_congr (spad_putCtx_putCore s _ y) _, rfl, fun c r h => ?_⟩
  · by_cases hc : c = s.cur.core
    · subst hc
      have hread := read_putFrame (hs.core s.cur.core).1 (x.id.sbank * 256 + x.frameRow)
        (placeAll (trapFrame x cause (cause.tcause src.kind 0) src)) r
      rw [if_neg (by simp only [ne_eq, not_true_eq_false, false_or] at h; omega)] at hread
      rw [← hread]
      exact congrArg (·.read r) (spad_putCtx_putCore s _ y)
    · rw [core_putCtx_putCore_ne s _ y hc]

/-- The context stops: it gives its bank up at once, or once what it had issued has completed. -/
theorem trapEntry_stops (hx : s.ctx? = some x) (h : x.trapMode = true ∧ cause.cls = .p ∨ s.noHandler x = true) :
    let tc := cause.tcause (s.trapSrc x cause).kind 0
    ∃ t, exec (.trapEntry cause) s = .next t ∧
      (x.spent = true → t.ctx? = none ∧
        t.firm.events = s.firm.events ++ [{ code := 0x11, args := [x.id.copy.rec_.toNat, tc.toNat] }]) ∧
      (x.spent = false → t.firm = s.firm ∧ t.myCore.active ≠ some s.cur.bank ∧ ∃ y, t.ctx? = some y ∧ y = x.stopped tc) := by
  intro tc
  have hexec : exec (.trapEntry cause) s = .next (s.takeTrap x cause) := by
    change execTrapEntry cause s = _
    rw [execTrapEntry, hx]
  have hcore : (s.putCore (landedForTrap s x).1).core s.cur.core = (landedForTrap s x).1 := myCore_putCore s _
  have hctx : (s.putCore (landedForTrap s x).1).ctxAt s.cur.core s.cur.bank = some x := by
    rw [State.ctxAt, hcore, (landedForTrap_frame s x).1]
    exact hx
  refine ⟨_, hexec, fun hsp => ?_, fun hsp => ?_⟩
  · rw [takeTrap_stops hx h]
    obtain ⟨hnone, hcur, hev⟩ := ctxFatal_spent (w := tc) hctx hsp
    refine ⟨?_, hev⟩
    rw [State.ctx?, hcur]
    exact hnone
  · have hstop := (takeTrap_stops hx h).trans (ctxFatal_busy (w := tc) hctx hsp)
    rw [hstop]
    have hnew := core_setCore_self (s.putCore (landedForTrap s x).1) s.cur.core
      { (s.putCore (landedForTrap s x).1).core s.cur.core with
        banks := ((s.putCore (landedForTrap s x).1).core s.cur.core).banks.set s.cur.bank (some (x.stopped tc)),
        active := if ((s.putCore (landedForTrap s x).1).core s.cur.core).active = some s.cur.bank then none
          else ((s.putCore (landedForTrap s x).1).core s.cur.core).active }
    refine ⟨rfl, ?_, _, ?_, rfl⟩
    · refine (congrArg (fun k : Core => k.active) hnew).trans_ne ?_
      dsimp only
      split
      · simp
      · assumption
    · exact (congrArg (fun k : Core => k.banks[s.cur.bank]) hnew).trans (Vector.getElem_set_self ..)

/-- Settles O31: the frame is read back field by field from the trap entry that has a handler; the others stop the context. -/
theorem trapEntryEffect : Obligations.TrapEntryEffect := by
  unfold Obligations.TrapEntryEffect
  intro s x cause hx hs first fits opens kindP
  refine ⟨fun kind qpc num run hsrc hm hfit hopen hl hn => ?_, fun hcls hstop => ?_⟩
  · have hrun : s.trapSrc x cause = { kind := kind, qpc := qpc, num := num, run := run } ∧ (∀ r, run = some r → cause.cls = .a) := by
      rcases hsrc with ⟨hcls, rfl, rfl, rfl⟩ | ⟨q, hcls, hq, rfl, rfl, rfl, rfl⟩ | ⟨r, hcls, hr, rfl, rfl, rfl, rfl⟩
      · refine ⟨?_, fun _ hr => by cases hr⟩
        exact hcls.elim (fun h => h.2 ▸ trapSrc_word h.1) fun h => h.2 ▸ trapSrc_event h.1
      · exact ⟨trapSrc_queue hcls hq, fun _ hr => by cases hr⟩
      · exact ⟨trapSrc_macro hcls hr, fun _ _ => hcls⟩
    obtain ⟨hsrc, hrun⟩ := hrun
    have hh : s.noHandler x = false := noHandler_eq_false_iff.mpr ⟨hfit, hopen⟩
    have hlat : x.latched.length ≤ 12 := (latched_length x).trans_le hn
    have hspad : Sparse.wf s.myCore.spad = true := (hs.core s.cur.core).1
    obtain ⟨t, y, hexec, hy, hent, hframe, hviews, hrows⟩ := takeTrap_handled (cause := cause) hs hx hm hh hl hn
    rw [hsrc] at hent hframe
    have heng := hent.eng
    intro tc slots
    refine ⟨t, y, hexec, hy, hent.mode, hent.tcause, congrArg CtlPos.pc hent.pos, congrArg CtlPos.phase hent.pos, hent.resume.1,
      hent.resume.2, hent.flights, hent.regs, hent.queues.1, hent.queues.2.1, hent.queues.2.2, fun hc => heng.trans (delivered_eng_ne _ hc),
      fun hc => hent.pendQ.trans (delivered_pendQ _ hc), fun r hr => heng.trans (delivered_eng (hrun r hr) hr), ?_⟩
    intro f field
    have hf : f = writtenFrame s.myCore x cause tc { kind := kind, qpc := qpc, num := num, run := run } := hframe
    obtain ⟨h0, h8, h16, h24, h32, h40, h48⟩ := writtenFrame_head (cause := cause) (tc := tc)
      (src := { kind := kind, qpc := qpc, num := num, run := run }) hspad hlat
    rw [← hf] at h0 h8 h16 h24 h32 h40 h48
    refine ⟨h0, h8, h16, h24, h32, h40, h48, fun j e he => ?_, fun r hr => ?_, fun d a => ?_, hrows⟩
    · obtain ⟨hdir, hval⟩ := writtenFrame_slot (cause := cause) (tc := tc)
        (src := { kind := kind, qpc := qpc, num := num, run := run }) hspad hlat he
      rw [← hf] at hdir hval
      have hsays := latchSlot_says (y := y) he (hent.moved.trans (by rw [latched_latched]))
      rw [← hdir, ← hval] at hsays
      exact hsays
    · have hr' := writtenFrame_run (cause := cause) (tc := tc)
        (src := { kind := kind, qpc := qpc, num := num, run := run }) hspad hlat hr
      rw [← hf] at hr'
      exact hr'
    · rw [State.readView, State.readView, hviews]
  · intro tc
    have hkind : (s.trapSrc x cause).kind = if cause.cls = .p then kindP else s.nextKind x := by
      rcases hcls with hp | he
      · rw [if_pos hp]
        exact congrArg TrapSrc.kind (trapSrc_word hp)
      · rw [if_neg (by simp [he])]
        exact congrArg TrapSrc.kind (trapSrc_event he)
    have htc : cause.tcause (s.trapSrc x cause).kind 0 = tc := congrArg (cause.tcause · 0) hkind
    have hno : x.trapMode = true ∧ cause.cls = .p ∨ s.noHandler x = true := by
      refine hstop.imp_right fun h => (Bool.not_eq_false _).mp fun hh => h.2 ?_
      obtain ⟨hfit, hopen⟩ := noHandler_eq_false_iff.mp hh
      exact ⟨hfit, hopen⟩
    obtain ⟨t, hexec, hspent, hbusy⟩ := trapEntry_stops hx hno
    rw [htc] at hspent hbusy
    refine ⟨t, hexec, hspent, fun hsp => ?_⟩
    obtain ⟨hfirm, hact, y, hy, rfl⟩ := hbusy hsp
    exact ⟨hfirm, hact, _, hy, rfl, rfl, rfl, rfl, rfl, rfl, rfl⟩

end Sys2Proof
end

section
/-! SUPPORT. Return from a trap: the latch slots read back, the resuming thread, the chained fault; and the timer (R87, R90, R115). -/

namespace Sys2Proof

open Sys2Proof.Machine
variable {s : State} {x : Ctx}

/-! ### Lists of partial answers -/

theorem mapM_eq_none {α β : Type} {f : α → Option β} {l : List α} {a : α} (ha : a ∈ l) (h : f a = none) : l.mapM f = none := by
  induction l with
  | nil => cases ha
  | cons b l ih =>
    rw [List.mapM_cons]
    rcases List.mem_cons.mp ha with rfl | ha
    · rw [h]
      rfl
    · rw [ih ha]
      cases f b <;> rfl

/-- A partial function that has an answer for each member, whose image under g is the list es. -/
theorem mapM_of_images {α β γ : Type} {f : α → Option β} {g : β → γ} : ∀ {l : List α} {es : List γ}, es.length = l.length →
    (∀ (i : Nat) (a : α) (e : γ), l[i]? = some a → es[i]? = some e → ∃ b, f a = some b ∧ g b = e) → ∃ bs, l.mapM f = some bs ∧ bs.map g = es
  | [], es, hlen, _ => ⟨[], rfl, (List.length_eq_zero_iff.mp hlen).symm⟩
  | a :: l, [], hlen, _ => by cases hlen
  | a :: l, e :: es, hlen, h => by
    obtain ⟨b, hb, hg⟩ := h 0 a e rfl rfl
    obtain ⟨bs, hbs, hgs⟩ := mapM_of_images (f := f) (g := g) (Nat.succ.inj hlen) fun i a' e' ha he => h (i + 1) a' e' ha he
    refine ⟨b :: bs, ?_, by rw [List.map_cons, hg, hgs]⟩
    rw [List.mapM_cons, hb, hbs]
    rfl

/-! ### A latch slot read back (R90) -/

/-- The directory entry and the value of a frame's latch slot. -/
def slotDir (f j : Nat) : Nat := f / 2 ^ (8 * (512 + 16 * j)) % 2 ^ 128
def slotVal (f j : Nat) : Nat := f / 2 ^ (8 * (768 + 256 * j)) % 2 ^ 2048

/-- The value of a latch slot with directory entry d; `none` where validation rejects it. -/
def Machine.Ctx.slotValue (x : Ctx) (d val j : Nat) : Option FlightVal :=
  let dest := d / 2 ^ 16 % 2 ^ 16
  let dest2 := d / 2 ^ 48 % 2 ^ 16
  let mask := d / 2 ^ 64
  match d / 2 ^ 0 % 2 ^ 8 with
  | 1 => if dest < 64 then some (.scalar (BitVec.ofNat 6 dest) (BitVec.ofNat 64 val)) else none
  | 2 => if dest < x.vlen then some (.vec (x.id.vbase + dest) (BitVec.ofNat 128 (val / 2 ^ 1024) &&& spread 4 128 (BitVec.ofNat 32 mask))
      (BitVec.ofNat 1024 val)) else none
  | 3 => if dest < x.vlen ∧ dest2 < x.vlen then
      some (.pair (x.id.vbase + dest) (x.id.vbase + dest2) (BitVec.ofNat 64 mask) (BitVec.ofNat 2048 val)) else none
  | 4 => if dest < 16 then some (.pred (BitVec.ofNat 4 dest) (BitVec.ofNat 32 mask) (BitVec.ofNat 32 val)) else none
  | 5 => if dest < 4 ∧ BitVec.ofNat 6 (val / 2 ^ 122) = (x.latchRec.lookup j).getD 0 then
      match x.heldMov.lookup j with
      | some m => some (.exact (BitVec.ofNat 2 dest) m)
      | none => some (.terms (BitVec.ofNat 2 dest) ((List.range 16).map fun i => ETerm.ofBits (val / 2 ^ (128 * i) % 2 ^ 128)))
    else none
  | 6 => if dest < x.id.snb * 256 then some (.row dest (BitVec.ofNat 64 mask) (BitVec.ofNat 2048 val)) else none
  | _ => none

theorem readSlot_eq (x : Ctx) (f j : Nat) : x.readSlot f j =
    if 2 ≤ slotDir f j / 2 ^ 8 % 2 ^ 8 ∨ 20 ≤ slotDir f j / 2 ^ 32 % 2 ^ 16 then none
    else (x.slotValue (slotDir f j) (slotVal f j) j).map fun v =>
      (if slotDir f j / 2 ^ 8 % 2 ^ 8 = 0 then .ctl else .vec, slotDir f j / 2 ^ 32 % 2 ^ 16, v) := by
  simp only [Ctx.readSlot, Ctx.slotValue, slotDir, slotVal, Nat.shiftRight_eq_div_pow, Nat.pow_zero, Nat.div_one]
  rfl

section
variable {d val j : Nat}

theorem ofNat_eq_of_toNat {w n : Nat} {v : BitVec w} (h : n = v.toNat) : BitVec.ofNat w n = v := by
  rw [h, BitVec.ofNat_toNat, BitVec.setWidth_eq]

theorem ofNat_eq_of_mod {w n : Nat} {v : BitVec w} (h : v.toNat = n % 2 ^ w) : BitVec.ofNat w n = v :=
  BitVec.eq_of_toNat_eq ((BitVec.toNat_ofNat n w).trans h.symm)

theorem slotValue_scalar {r : SReg} {v : Word} (hk : d / 2 ^ 0 % 2 ^ 8 = 1) (hd : d / 2 ^ 16 % 2 ^ 16 = r.toNat) (hv : v.toNat = val % 2 ^ 64) :
    x.slotValue d val j = some (.scalar r v) := by
  simp only [Ctx.slotValue, hk, hd, r.isLt, if_true, ofNat_eq_of_toNat rfl, ofNat_eq_of_mod hv]

theorem slotValue_vec {p : Nat} {b : BitVec 128} {v : VWord} (hk : d / 2 ^ 0 % 2 ^ 8 = 2) (hd : d / 2 ^ 16 % 2 ^ 16 < x.vlen)
    (hp : p = x.id.vbase + d / 2 ^ 16 % 2 ^ 16) (hv : v.toNat = val % 2 ^ 1024)
    (hb : ∀ i, i < 128 → b.getLsbD i = ((d / 2 ^ 64 % 2 ^ 32).testBit (i / 4) && (val / 2 ^ 1024).testBit i)) :
    x.slotValue d val j = some (.vec p b v) := by
  have hbytes : BitVec.ofNat 128 (val / 2 ^ 1024) &&& spread 4 128 (BitVec.ofNat 32 (d / 2 ^ 64)) = b := by
    refine BitVec.eq_of_getLsbD_eq fun i hi => ?_
    have h4 : i / 4 < 32 := by omega
    rw [BitVec.getLsbD_and, BitVec.getLsbD_ofNat, spread_getLsbD (by decide), BitVec.getLsbD_ofNat, hb i hi, Nat.testBit_mod_two_pow,
      decide_eq_true hi, decide_eq_true h4, Bool.true_and, Bool.true_and, Bool.true_and, Bool.and_comm]
  simp only [Ctx.slotValue, hk, hd, if_true, hbytes, ofNat_eq_of_mod hv, hp]

theorem slotValue_pair {lo hi : Nat} {m : BitVec 64} {v : Row} (hk : d / 2 ^ 0 % 2 ^ 8 = 3) (hd : d / 2 ^ 16 % 2 ^ 16 < x.vlen)
    (hd2 : d / 2 ^ 48 % 2 ^ 16 < x.vlen) (hlo : lo = x.id.vbase + d / 2 ^ 16 % 2 ^ 16) (hhi : hi = x.id.vbase + d / 2 ^ 48 % 2 ^ 16)
    (hm : m.toNat = d / 2 ^ 64 % 2 ^ 64) (hv : v.toNat = val) : x.slotValue d val j = some (.pair lo hi m v) := by
  simp only [Ctx.slotValue, hk, hd, hd2, and_self, if_true, ofNat_eq_of_mod hm, ofNat_eq_of_toNat hv.symm, hlo, hhi]

theorem slotValue_pred {r : PReg} {m v : BitVec 32} (hk : d / 2 ^ 0 % 2 ^ 8 = 4) (hd : d / 2 ^ 16 % 2 ^ 16 = r.toNat)
    (hm : m.toNat = d / 2 ^ 64 % 2 ^ 32) (hv : v.toNat = val % 2 ^ 32) : x.slotValue d val j = some (.pred r m v) := by
  simp only [Ctx.slotValue, hk, hd, r.isLt, if_true, ofNat_eq_of_toNat rfl, ofNat_eq_of_mod hm, ofNat_eq_of_mod hv]

theorem slotValue_exact {r : EReg} {v : BitVec 4352} (hk : d / 2 ^ 0 % 2 ^ 8 = 5) (hd : d / 2 ^ 16 % 2 ^ 16 = r.toNat)
    (hrec : BitVec.ofNat 6 (val / 2 ^ 122) = (x.latchRec.lookup j).getD 0) (hv : x.heldMov.lookup j = some v) :
    x.slotValue d val j = some (.exact r v) := by
  simp only [Ctx.slotValue, hk, hd, r.isLt, hrec, and_self, if_true, hv, ofNat_eq_of_toNat rfl]

theorem slotValue_terms {r : EReg} (hk : d / 2 ^ 0 % 2 ^ 8 = 5) (hd : d / 2 ^ 16 % 2 ^ 16 = r.toNat)
    (hrec : BitVec.ofNat 6 (val / 2 ^ 122) = (x.latchRec.lookup j).getD 0) (hv : x.heldMov.lookup j = none) :
    x.slotValue d val j = some (.terms r ((List.range 16).map fun i => ETerm.ofBits (val / 2 ^ (128 * i) % 2 ^ 128))) := by
  simp only [Ctx.slotValue, hk, hd, r.isLt, hrec, and_self, if_true, hv, ofNat_eq_of_toNat rfl]

theorem slotValue_row {r : Nat} {m : BitVec 64} {v : Row} (hk : d / 2 ^ 0 % 2 ^ 8 = 6) (hd : d / 2 ^ 16 % 2 ^ 16 = r)
    (hr : r < x.id.snb * 256) (hm : m.toNat = d / 2 ^ 64 % 2 ^ 64) (hv : v.toNat = val) : x.slotValue d val j = some (.row r m v) := by
  simp only [Ctx.slotValue, hk, hd, hr, if_true, ofNat_eq_of_mod hm, ofNat_eq_of_toNat hv.symm]

end

/-- A valid slot goes in flight again: its unit, REMAIN and value. -/
theorem readSlot_some {f j : Nat} {u : FixUnit} {v : FlightVal} (hu : slotDir f j / 2 ^ 8 % 2 ^ 8 = if u = .ctl then 0 else 1)
    (hr : slotDir f j / 2 ^ 32 % 2 ^ 16 < 20) (hv : x.slotValue (slotDir f j) (slotVal f j) j = some v) :
    x.readSlot f j = some (u, slotDir f j / 2 ^ 32 % 2 ^ 16, v) := by
  have hok : ¬ (2 ≤ slotDir f j / 2 ^ 8 % 2 ^ 8 ∨ 20 ≤ slotDir f j / 2 ^ 32 % 2 ^ 16) := by
    rw [hu]
    split <;> omega
  rw [readSlot_eq, if_neg hok, hv, hu]
  cases u <;> rfl

/-- Validation rejects a slot whose KIND, UNIT or REMAIN says nothing, or whose destination is out of range (R90). -/
theorem readSlot_none {f j : Nat} (h : slotDir f j / 2 ^ 0 % 2 ^ 8 = 0 ∨ 6 < slotDir f j / 2 ^ 0 % 2 ^ 8 ∨ 2 ≤ slotDir f j / 2 ^ 8 % 2 ^ 8 ∨
    20 ≤ slotDir f j / 2 ^ 32 % 2 ^ 16 ∨ x.slotValue (slotDir f j) (slotVal f j) j = none) : x.readSlot f j = none := by
  rw [readSlot_eq]
  by_cases hbad : 2 ≤ slotDir f j / 2 ^ 8 % 2 ^ 8 ∨ 20 ≤ slotDir f j / 2 ^ 32 % 2 ^ 16
  · exact if_pos hbad
  · rw [if_neg hbad]
    have hnone : x.slotValue (slotDir f j) (slotVal f j) j = none := by
      rcases h with h | h | h | h | h
      · simp only [Ctx.slotValue, h]
      · unfold Ctx.slotValue
        dsimp only
        split
        any_goals omega
        rfl
      · exact absurd (.inl h) hbad
      · exact absurd (.inr h) hbad
      · exact h
    rw [hnone]
    rfl

/-- The slots of a frame that LATCHV names. -/
def validSlots (f : Nat) : List Nat := (List.range 12).filter fun j => (f / 2 ^ (8 * 48) % 2 ^ 12).testBit j

theorem readSlots_eq (x : Ctx) (f : Nat) : x.readSlots f = (validSlots f).mapM fun j =>
    (x.readSlot f j).map fun (u, rem, v) => (u, rem, v, (x.latchUid[j]?).getD (0, none)) := by
  have hvalid : validSlots f = (List.range 12).filter fun j => (f >>> (8 * 48 + j)) % 2 = 1 := List.filter_congr fun j hj => by
    rw [Nat.testBit_mod_two_pow, Nat.testBit_div_two_pow, decide_eq_true (List.mem_range.mp hj), Bool.true_and,
      Nat.testBit_eq_decide_div_mod_eq, Nat.shiftRight_eq_div_pow, Nat.add_comm]
  rw [Ctx.readSlots, hvalid]

/-- One rejected slot rejects the frame. -/
theorem readSlots_none {f j : Nat} (hj : j ∈ validSlots f) (h : x.readSlot f j = none) : x.readSlots f = none := by
  rw [readSlots_eq]
  exact mapM_eq_none hj (by rw [h]; rfl)

/-! ### Resuming (R90, log 16) -/

theorem leaveSec_eq (x : Ctx) (p : CtlPos) : x.leaveSec p =
    { x with retired := (x.leaveSec p).retired, trapRet := (x.leaveSec p).trapRet, secs := (x.leaveSec p).secs } := by
  unfold Ctx.leaveSec
  cases p.sec with
  | none => rfl
  | some c =>
    dsimp only
    split
    · unfold Ctx.setRet
      split <;> rfl
    · rfl

/-- The result of a latch slot, in flight again from the clock in which its unit first issues. -/
def slotFlight (x : Ctx) (p : FixUnit × Nat × FlightVal × Nat × Option HReg) : Flight :=
  { unit := p.1, land := (if p.1 = .ctl then x.cclk + 1 else x.xclk) + p.2.1, val := p.2.2.1, uid := p.2.2.2.1, hnd := p.2.2.2.2 }

theorem slotFlight_eq {e : Flight} {rem : Nat} {l : Nat × Option HReg} (hl : e.land = (if e.unit = .ctl then x.cclk + 1 else x.xclk) + rem)
    (hu : (e.uid, e.hnd) = l) : slotFlight x (e.unit, rem, e.val, l) = e := by
  subst hu
  rw [slotFlight, ← hl]

/-- Slots of which each gives its result in flight. -/
theorem readSlots_some {f : Nat} {es : List Flight} (hlen : es.length = (validSlots f).length)
    (h : ∀ (i j : Nat) (e : Flight), (validSlots f)[i]? = some j → es[i]? = some e → ∃ rem, x.readSlot f j = some (e.unit, rem, e.val) ∧
      e.land = (if e.unit = .ctl then x.cclk + 1 else x.xclk) + rem ∧ (e.uid, e.hnd) = (x.latchUid[j]?).getD (0, none)) :
    ∃ slots, x.readSlots f = some slots ∧ slots.map (slotFlight x) = es := by
  rw [readSlots_eq]
  refine mapM_of_images hlen fun i j e hj he => ?_
  obtain ⟨rem, hread, hland, huid⟩ := h i j e hj he
  exact ⟨_, by rw [hread]; rfl, slotFlight_eq hland huid⟩

/-- What the context is once RTT has left trap mode, wherever its control core goes on. -/
structure Resumed (x : Ctx) (slots : List (FixUnit × Nat × FlightVal × Nat × Option HReg)) (y : Ctx) : Prop where
  mode : y.trapMode = false
  flights : y.flights = x.flights ++ slots.map (slotFlight x)
  regs : y.regs = x.regs
  items : y.ql.items = x.ql.items
  cur : y.ql.cur = x.ql.saved ∧ y.qx.cur = x.qx.saved ∧ y.qs.cur = x.qs.saved
  fresh : y.ctlFresh = true ∧ y.xFresh = true
  chain : y.sys.tcause.extractLsb' 32 8 = 0

theorem clear_chain (w : Word) : (w &&& 0xFFFFFF00FFFFFFFF).extractLsb' 32 8 = 0 := by
  refine BitVec.eq_of_getLsbD_eq fun i hi => ?_
  have hzero : ∀ i, i < 8 → (0xFFFFFF00FFFFFFFF : Word).getLsbD (32 + i) = false := by decide
  rw [BitVec.getLsbD_extractLsb', BitVec.getLsbD_and, hzero i hi, Bool.and_false, Bool.and_false]
  exact BitVec.getLsbD_zero.symm

/-- At the trapped PC the control core stands where it stood; elsewhere it decodes a header. -/
theorem resume_spec (s : State) (x : Ctx) (slots : List (FixUnit × Nat × FlightVal × Nat × Option HReg)) (pc : Word) :
    ∃ y, s.resume (x.leaveSec x.ctl) slots pc = s.putCtx y ∧ Resumed x slots y ∧
      (∀ p, x.saved = some p → pc = x.trapPc → y.ctl = p) ∧ (pc ≠ x.trapPc → y.ctl = { pc := pc }) := by
  unfold State.resume
  rw [leaveSec_eq x x.ctl]
  refine ⟨_, rfl, ?_⟩
  dsimp only
  cases hsaved : x.saved with
  | none => exact ⟨⟨rfl, rfl, rfl, rfl, ⟨rfl, rfl, rfl⟩, ⟨rfl, rfl⟩, clear_chain _⟩, fun _ h => (by cases h), fun _ => rfl⟩
  | some p =>
    by_cases hpc : pc = x.trapPc
    · simp only [Ctx.unheld, hpc, if_true]
      exact ⟨⟨rfl, rfl, rfl, rfl, ⟨rfl, rfl, rfl⟩, ⟨rfl, rfl⟩, clear_chain _⟩, fun _ h _ => Option.some.inj h, fun h => absurd rfl h⟩
    · simp only [Ctx.unheld, hpc, if_false]
      rw [leaveSec_eq _ p]
      exact ⟨⟨rfl, rfl, rfl, rfl, ⟨rfl, rfl, rfl⟩, ⟨rfl, rfl⟩, clear_chain _⟩, fun _ _ h => h.elim, fun _ => trivial⟩

/-! ### RTT (R90, R115) -/

/-- The shift of a number, as the quotient that the fields are read by. -/
theorem shiftRight_eq_div (v n : Nat) : v >>> n = v / 2 ^ n := Nat.shiftRight_eq_div_pow v n

/-- A row of the frame that RTT reads is poisoned. -/
def frameBad (s : State) (x : Ctx) : Bool :=
  let first := x.id.sbank * 256 + x.frameRow
  let bad := fun i : Nat => s.myCore.spadBad.contains (first + i)
  bad 0 || bad 2 || (List.range 12).any fun j => (s.myCore.frame first).testBit (8 * 48 + j) && bad (3 + j)

/-- With its trap-mode words and results done, RTT looks for a held fault. -/
theorem rtt_idle (hf : x.flights = []) (hq : ∀ q ∈ [x.ql, x.qx, x.qs], q.head true = none ∧ q.cur = {}) :
    (x.flights != [] || [x.ql, x.qx, x.qs].any fun q => (q.head true).isSome || q.cur != {}) = false := by
  rw [hf, bne_self_eq_false, Bool.false_or]
  exact List.any_eq_false.mpr fun q hqm => by simp [hq q hqm]

section
variable {o : C3} (h : CtlRuns s o.g [] x)
include h

theorem execRtt_illegal (hm : x.trapMode = false) : exec (.rtt o) s = .next (s.trapP x .illegal) := by
  change execRtt o s = _
  rw [execRtt, ctlWord_runs h]
  exact if_pos (by simp [hm])

variable (hm : x.trapMode = true)
include hm

/-- It waits for the trap-mode words and results. -/
theorem execRtt_waits (hb : x.flights ≠ [] ∨ ∃ q ∈ [x.ql, x.qx, x.qs], (q.head true).isSome = true ∨ q.cur ≠ {}) :
    exec (.rtt o) s = .next (s.ctlBusy x) := by
  have hbusy : (x.flights != [] || [x.ql, x.qx, x.qs].any fun q => (q.head true).isSome || q.cur != {}) = true := by
    rw [Bool.or_eq_true, bne_iff_ne, List.any_eq_true]
    simp only [Bool.or_eq_true, bne_iff_ne]
    exact hb
  change execRtt o s = _
  rw [execRtt, ctlWord_runs h]
  dsimp only
  rw [if_neg (by simp [hm]), if_pos hbusy]

variable (hf : x.flights = []) (hq : ∀ q ∈ [x.ql, x.qx, x.qs], q.head true = none ∧ q.cur = {})
include hf hq

theorem execRtt_chains {r : Run} {c : Cause} (hr : (x.faultOn fun _ => true) = some r) (hc : r.fault = some c) :
    exec (.rtt o) s = .next ((s.chain x r c).passNow 3) := by
  change execRtt o s = _
  rw [execRtt, ctlWord_runs h]
  dsimp only
  rw [if_neg (by rw [hm]; decide), if_neg (by rw [rtt_idle hf hq]; decide), hr]
  dsimp only
  rw [hc]

variable (hr : (x.faultOn fun _ => true) = none)
include hr

theorem execRtt_poison (hbad : frameBad s x = true) : exec (.rtt o) s = .next (s.trapP x .poison 0x10 0 (256 * x.frameRow)) := by
  unfold frameBad at hbad
  change execRtt o s = _
  rw [execRtt, ctlWord_runs h]
  dsimp only
  rw [if_neg (by rw [hm]; decide), if_neg (by rw [rtt_idle hf hq]; decide), hr]
  dsimp only
  rw [if_pos hbad]

theorem execRtt_resumes (hgood : frameBad s x = false) {pc : Word} {slots : List (FixUnit × Nat × FlightVal × Nat × Option HReg)}
    (hpc : pc = BitVec.ofNat 64 (s.myCore.frame (x.id.sbank * 256 + x.frameRow) / 2 ^ 64))
    (hslots : x.readSlots (s.myCore.frame (x.id.sbank * 256 + x.frameRow)) = some slots) (hok : pc = x.trapPc ∨ pc.toNat % 8 = 0) :
    exec (.rtt o) s = .next (s.resume (x.leaveSec x.ctl) slots pc) := by
  have hal : pc = x.trapPc ∨ fieldNat pc 0 3 = 0 := hok.imp_right fun h8 => by
    rw [fieldNat, BitVec.extractLsb'_toNat, Nat.shiftRight_zero]
    exact h8
  unfold frameBad at hgood
  change execRtt o s = _
  rw [execRtt, ctlWord_runs h]
  dsimp only at hgood ⊢
  rw [if_neg (by rw [hm]; decide), if_neg (by rw [rtt_idle hf hq]; decide), hr]
  dsimp only
  rw [hgood, if_neg Bool.false_ne_true, shiftRight_eq_div, ← hpc, hslots]
  dsimp only
  rw [if_pos hal]

theorem execRtt_stops (hgood : frameBad s x = false) {pc : Word}
    (hpc : pc = BitVec.ofNat 64 (s.myCore.frame (x.id.sbank * 256 + x.frameRow) / 2 ^ 64))
    (hno : x.readSlots (s.myCore.frame (x.id.sbank * 256 + x.frameRow)) = none ∨ (pc ≠ x.trapPc ∧ pc.toNat % 8 ≠ 0)) :
    exec (.rtt o) s = .next (s.ctxFatal s.cur.core s.cur.bank x.sys.tcause) := by
  have hal : fieldNat pc 0 3 = pc.toNat % 8 := by
    rw [fieldNat, BitVec.extractLsb'_toNat, Nat.shiftRight_zero]
  unfold frameBad at hgood
  change execRtt o s = _
  rw [execRtt, ctlWord_runs h]
  dsimp only at hgood ⊢
  rw [if_neg (by rw [hm]; decide), if_neg (by rw [rtt_idle hf hq]; decide), hr]
  dsimp only
  rw [hgood, if_neg Bool.false_ne_true, shiftRight_eq_div, ← hpc]
  cases hslots : x.readSlots (s.myCore.frame (x.id.sbank * 256 + x.frameRow)) with
  | none => rfl
  | some slots =>
    refine if_neg fun hok => ?_
    rcases hno with hno | ⟨hne, h8⟩
    · rw [hslots] at hno
      cases hno
    · exact hok.elim hne fun h0 => h8 (hal.symm.trans h0)

end

/-! ### A chained fault (R90, log 28) -/

/-- The fields that a chained fault overwrites: the head but its PC, and the macro's. -/
def chainFields (r : Run) (c : Cause) (tc : Word) : List (Nat × Nat) :=
  (frameHead c tc 0 (qpcOf r.q.hdr r.q.idx) r.q.num).filter (·.1 != 8) ++ frameRun r

/-- The bytes of a frame that a chained fault overwrites: 0 to 7, 16 to 47 and 256 to 511. -/
def chainedByte (m : Nat) : Bool := decide (m < 8) || decide (16 ≤ m ∧ m < 48) || decide (256 ≤ m ∧ m < 512)

/-- The core once these bytes are overwritten by those of a number. -/
def chainCore (k : Core) (first new : Nat) : Core :=
  (k.putRowBytes first (BitVec.ofNat 256 (2 ^ 48 - 2 ^ 16 + 2 ^ 8 - 1)) (BitVec.ofNat 2048 new)).putRow
    (first + 1) (BitVec.ofNat 2048 (new >>> 2048))

theorem chainFields_sideBySide (r : Run) (c : Cause) (tc : Word) : SideBySide frameWidth (chainFields r c tc) := by
  refine ⟨fun f hf => ?_, frameLayout_apart.sublist ?_⟩
  · rcases List.mem_append.mp hf with hf | hf
    · exact frameHead_fit _ _ _ _ _ f (List.mem_of_mem_filter hf)
    · exact frameRun_fit r f hf
  · have hoffsets : (chainFields r c tc).map (·.1) = [0, 16, 24, 32, 40, 256, 264, 272, 336, 440, 472] := rfl
    rw [hoffsets]
    decide

theorem putRowBytes_wf {k : Core} (hk : Sparse.wf k.spad = true) (r : Nat) (en : BitVec 256) (v : Row) :
    Sparse.wf (k.putRowBytes r en v).spad = true := by
  unfold Core.putRowBytes
  split <;> exact Sparse.write_wf _ _ _ hk

theorem read_chainCore {k : Core} (hk : Sparse.wf k.spad = true) (first new q : Nat) : (chainCore k first new).spad.read q =
    if q = first + 1 then BitVec.ofNat 2048 (new >>> 2048)
    else if q = first then merge (spread 8 2048 (BitVec.ofNat 256 (2 ^ 48 - 2 ^ 16 + 2 ^ 8 - 1))) (k.spad.read first) (BitVec.ofNat 2048 new)
    else k.spad.read q := by
  refine (Sparse.read_write _ _ _ _ (putRowBytes_wf hk _ _ _)).trans ?_
  rw [read_putRowBytes hk]

theorem read_chainCore_outside {k : Core} (hk : Sparse.wf k.spad = true) (first new : Nat) {q : Nat} (h : q < first ∨ first + 15 ≤ q) :
    (chainCore k first new).spad.read q = k.spad.read q := by
  rw [read_chainCore hk, if_neg (by omega), if_neg (by omega)]

/-- Of the first row, the bytes that the enables name are overwritten. -/
theorem chainEnable_getLsbD : ∀ m, m < 256 →
    (BitVec.ofNat 256 (2 ^ 48 - 2 ^ 16 + 2 ^ 8 - 1)).getLsbD m = chainedByte m := by decide +kernel

/-- Bit i of a frame after a chained fault. -/
theorem frame_chainCore_testBit {k : Core} (hk : Sparse.wf k.spad = true) (first new i : Nat) :
    ((chainCore k first new).frame first).testBit i = if chainedByte (i / 8) then new.testBit i else (k.frame first).testBit i := by
  rw [frame_testBit, frame_testBit, read_chainCore hk]
  by_cases h0 : i < 2048
  · have hrow : i / 2048 = 0 := by omega
    have hbit : i % 2048 = i := Nat.mod_eq_of_lt h0
    have hbyte : i / 8 < 256 := by omega
    have hin : i < 15 * 2048 := by omega
    rw [hrow, hbit, Nat.add_zero, if_neg (by omega), if_pos rfl, merge_getLsbD, spread_getLsbD (by decide), decide_eq_true h0, Bool.true_and,
      chainEnable_getLsbD _ hbyte, BitVec.getLsbD_ofNat, decide_eq_true h0, decide_eq_true hin, Bool.true_and, Bool.true_and, Bool.true_and]
  · by_cases h1 : i < 4096
    · have hrow : i / 2048 = 1 := by omega
      have hbit : 2048 + i % 2048 = i := by omega
      have hin : i < 15 * 2048 := by omega
      have hch : chainedByte (i / 8) = true := by
        simp only [chainedByte, Bool.or_eq_true, decide_eq_true_eq]
        omega
      rw [hrow, if_pos rfl, hch, if_pos rfl, BitVec.getLsbD_ofNat, Nat.testBit_shiftRight, hbit, decide_eq_true hin,
        decide_eq_true (Nat.mod_lt i (by decide)), Bool.true_and, Bool.true_and]
    · have hch : chainedByte (i / 8) = false := by
        simp only [chainedByte, Bool.or_eq_false_iff, decide_eq_false_iff_not]
        omega
      rw [if_neg (by omega), if_neg (by omega), hch, if_neg Bool.false_ne_true]

/-- Numbers that agree in a field's bits agree in the field. -/
theorem field_congr {g v lo n : Nat} (h : ∀ i, i < n → g.testBit (i + lo) = v.testBit (i + lo)) : g / 2 ^ lo % 2 ^ n = v / 2 ^ lo % 2 ^ n := by
  refine Nat.eq_of_testBit_eq fun i => ?_
  rw [Nat.testBit_mod_two_pow, Nat.testBit_mod_two_pow, Nat.testBit_div_two_pow, Nat.testBit_div_two_pow]
  by_cases hi : i < n
  · rw [h i hi]
  · simp [hi]

section
variable {k : Core} {first new : Nat} (hk : Sparse.wf k.spad = true)
include hk

theorem frame_chainCore_new {a n : Nat} (h : ∀ m, a ≤ m → m < a + n → chainedByte m = true) :
    (chainCore k first new).frame first / 2 ^ (8 * a) % 2 ^ (8 * n) = new / 2 ^ (8 * a) % 2 ^ (8 * n) :=
  field_congr fun i hi => by rw [frame_chainCore_testBit hk, h _ (by omega) (by omega), if_pos rfl]

theorem frame_chainCore_old {a n : Nat} (h : ∀ m, a ≤ m → m < a + n → chainedByte m = false) :
    (chainCore k first new).frame first / 2 ^ (8 * a) % 2 ^ (8 * n) = k.frame first / 2 ^ (8 * a) % 2 ^ (8 * n) :=
  field_congr fun i hi => by rw [frame_chainCore_testBit hk, h _ (by omega) (by omega), if_neg Bool.false_ne_true]

/-- A field of the chained fault. -/
theorem frame_chained {r : Run} {c : Cause} {tc : Word} {a v : Nat} (hv : (a, v) ∈ chainFields r c tc)
    (h : ∀ m, a ≤ m → m < a + frameWidth a → chainedByte m = true) :
    (chainCore k first (placeAll (chainFields r c tc))).frame first / 2 ^ (8 * a) % 2 ^ (8 * frameWidth a) = v :=
  (frame_chainCore_new hk h).trans (placeAll_field (chainFields_sideBySide r c tc) hv)

/-- The frame after a chained fault. -/
theorem chainCore_says (r : Run) (c : Cause) (tc : Word) : let g := (chainCore k first (placeAll (chainFields r c tc))).frame first
    let new := fun (at_ bits : Nat) => g / 2 ^ (8 * at_) % 2 ^ bits
    let field := fun (at_ bits : Nat) => k.frame first / 2 ^ (8 * at_) % 2 ^ bits
    new 0 64 = tc.toNat ∧ new 8 64 = field 8 64 ∧ new 16 64 = (r.q.hdr.toNat * 2 ^ 12 + r.q.idx) % 2 ^ 64 ∧
      new 24 64 = r.q.num % 2 ^ 64 ∧ new 32 64 = c.event.toNat ∧ new 40 64 = c.addr.toNat ∧
      new 48 1664 = field 48 1664 ∧ new 512 26624 = field 512 26624 ∧
      new 256 64 = r.q.hdr.toNat ∧ (∀ k : Fin 13, new (336 + 8 * k.val) 64 = r.q.cap.desc[k].toNat) := by
  intro g new field
  have hhead : ∀ {a v : Nat}, (a, v) ∈ chainFields r c tc → (a = 0 ∨ 16 ≤ a ∧ a ≤ 40) → frameWidth a = 8 → new a 64 = v := fun hv ha hw => by
    have hf := frame_chained (k := k) (first := first) hk hv fun m h1 h2 => by
      rw [hw] at h2
      simp only [chainedByte, Bool.or_eq_true, decide_eq_true_eq]
      omega
    rw [hw] at hf
    exact hf
  have hold : ∀ {a n : Nat}, (8 ≤ a ∧ a + n ≤ 16 ∨ 48 ≤ a ∧ a + n ≤ 256 ∨ 512 ≤ a) → new a (8 * n) = field a (8 * n) := fun h =>
    frame_chainCore_old hk fun m h1 h2 => by
      simp only [chainedByte, Bool.or_eq_false_iff, decide_eq_false_iff_not]
      omega
  obtain ⟨hhdr, -, hdesc, -⟩ := frameRun_says (f := g) (r := r) fun hv => by
    have hin := frameRun_inside hv
    have hlow := frameRun_above hv
    refine frame_chained hk (List.mem_append_right _ hv) fun m h1 h2 => ?_
    simp only [chainedByte, Bool.or_eq_true, decide_eq_true_eq]
    omega
  refine ⟨hhead ?_ (by decide) rfl, hold (a := 8) (n := 8) (by decide), hhead ?_ (by decide) rfl, hhead ?_ (by decide) rfl, hhead ?_ (by decide) rfl,
    hhead ?_ (by decide) rfl, hold (a := 48) (n := 208) (by decide), hold (a := 512) (n := 3328) (by decide), hhdr, hdesc⟩
  all_goals simp [chainFields, frameHead, qpcOf]

end

/-- What the context is once a chained fault has entered the handler again. -/
structure Chained (x : Ctx) (r : Run) (tc : Word) (y : Ctx) : Prop where
  mode : y.trapMode = x.trapMode
  pos : y.ctl = { pc := x.sys.tvec }
  regs : y.regs = x.regs
  resume : y.saved = x.saved ∧ y.trapPc = x.trapPc
  flights : y.flights = x.flights
  eng : y.eng = (x.setRun { r with fault := none, held := true }).eng
  tcause : y.sys.tcause = tc

/-- TCAUSE of a chained fault: CHAIN has risen. -/
def chainCause (x : Ctx) (r : Run) (c : Cause) : Word := c.tcause r.q.kind (min ((x.sys.tcause.extractLsb' 32 8).toNat + 1) 255)

theorem chain_stops {r : Run} {c : Cause} (h : s.noHandler x = true) :
    s.chain x r c = s.ctxFatal s.cur.core s.cur.bank (chainCause x r c) := by
  rw [State.chain]
  exact if_pos h

theorem chain_enters {r : Run} {c : Cause} (h : s.noHandler x = false) : ∃ y, Chained x r (chainCause x r c) y ∧ s.chain x r c =
    (s.putCore (chainCore s.myCore (x.id.sbank * 256 + x.frameRow) (placeAll (chainFields r c (chainCause x r c))))).putCtx y := by
  rw [State.chain]
  dsimp only
  rw [if_neg (by rw [h]; exact Bool.false_ne_true)]
  refine ⟨_, ?_, rfl⟩
  exact ⟨rfl, rfl, rfl, ⟨rfl, rfl⟩, rfl, rfl, rfl⟩

/-! ### The timer (R87) -/

/-- TMR stands still for a context that is not active, and in trap mode. -/
theorem countTmr_stopped {active : Bool} (n : Nat) (h : active = false ∨ x.trapMode = true) : x.countTmr active n = x := by
  rw [Ctx.countTmr, if_neg]
  rcases h with h | h <;> simp [h]

/-- TMR counts n clocks down, and reaching 0 raises TIMER. -/
theorem countTmr_counts (n : Nat) (h : x.trapMode = false) : (x.countTmr true n).cclk = x.cclk ∧ (x.countTmr true n).regs = x.regs ∧
    (x.countTmr true n).sys.tmr.toNat = x.sys.tmr.toNat - n ∧
    (x.countTmr true n).pendE = if x.sys.tmr ≠ 0 ∧ x.sys.tmr.toNat ≤ n then x.pendE ++ [{ code := .timer, cls := .e }] else x.pendE := by
  unfold Ctx.countTmr
  by_cases h0 : x.sys.tmr = 0
  · simp [h0]
  · have hon : (true && !x.trapMode && x.sys.tmr != 0) = true := by rw [h, bne_iff_ne.mpr h0]; rfl
    rw [if_pos hon]
    by_cases hle : x.sys.tmr.toNat ≤ n
    · rw [if_pos hle, if_pos ⟨h0, hle⟩]
      exact ⟨rfl, rfl, (Nat.sub_eq_zero_of_le hle).symm, rfl⟩
    · rw [if_neg hle, if_neg fun hc => hle hc.2]
      have hlt := x.sys.tmr.isLt
      have hsub : (x.sys.tmr - BitVec.ofNat 64 n).toNat = x.sys.tmr.toNat - n := by
        rw [BitVec.toNat_sub_of_le (by rw [BitVec.le_def, BitVec.toNat_ofNat]; omega), BitVec.toNat_ofNat, Nat.mod_eq_of_lt (by omega)]
      exact ⟨rfl, rfl, hsub, rfl⟩

/-- The clocks in which results of the control core will land. -/
def ctlLands (x : Ctx) : List Nat := (x.flights.filter fun f => f.unit == .ctl && decide (x.cclk < f.land)).map (·.land)

theorem forall_ctlLands {p : Nat → Prop} : (∀ l ∈ ctlLands x, p l) ↔ ∀ f ∈ x.flights, f.unit = .ctl → x.cclk < f.land → p f.land := by
  simp only [ctlLands, List.mem_map, List.mem_filter, Bool.and_eq_true, beq_iff_eq, decide_eq_true_eq]
  exact ⟨fun h f hf hu hl => h _ ⟨f, ⟨hf, hu, hl⟩, rfl⟩, fun h l ⟨f, ⟨hf, hu, hl⟩, he⟩ => he ▸ h f hf hu hl⟩

/-- A held control core's clocks pass where no result that its word waits for lands among them (R81). -/
theorem mayPass_iff (n : Nat) : x.mayPass n = true ↔
    (x.hold = .full → ∀ f ∈ x.flights, f.unit = .ctl → x.cclk < f.land → x.cclk + n ≤ f.land) := by
  rw [← forall_ctlLands (p := fun l => x.cclk + n ≤ l)]
  by_cases hfull : x.hold = .full
  · have hpass : x.mayPass n = match (ctlLands x).min? with | some l => decide (x.cclk + n ≤ l) | none => true := by
      rw [Ctx.mayPass, hfull]
      rfl
    simp only [hfull, true_imp_iff]
    rw [hpass]
    cases hmin : (ctlLands x).min? with
    | none => simp [List.min?_eq_none_iff.mp hmin]
    | some m =>
      obtain ⟨hmem, hle⟩ := List.min?_eq_some_iff.mp hmin
      exact decide_eq_true_iff.trans ⟨fun h l hl => h.trans (hle l hl), fun h => h m hmem⟩
  · simp [Ctx.mayPass, hfull]

theorem timerExpiry_passes {c : CoreId} {b : BankId} (hx : s.ctxAt c b = some x) (ha : (s.core c).active = some b) (hm : x.trapMode = false)
    (h0 : x.sys.tmr ≠ 0) (hh : x.hold ≠ .none) (hp : x.mayPass x.sys.tmr.toNat = true) :
    ∃ y, exec (.timerExpiry c b) s = .next (s.setCtxAt c b (some y)) ∧ y.sys.tmr = 0 ∧ y.cclk = x.cclk + x.sys.tmr.toNat ∧
      y.pendE = x.pendE ++ [{ code := .timer, cls := .e }] ∧ y.regs = x.regs := by
  have hrun : ∃ z : Ctx, z.cclk = x.cclk + x.sys.tmr.toNat ∧ z.sys = x.sys ∧ z.trapMode = x.trapMode ∧ z.pendE = x.pendE ∧ z.regs = x.regs ∧
      exec (.timerExpiry c b) s = .next (s.setCtxAt c b (some (z.countTmr true x.sys.tmr.toNat))) := by
    change ∃ z : Ctx, _ ∧ _ ∧ _ ∧ _ ∧ _ ∧ execTimerExpiry c b s = _
    rw [execTimerExpiry, hx]
    dsimp only
    rw [if_pos ⟨ha, hm, h0, hh, hp⟩]
    refine ⟨_, ?_, ?_, ?_, ?_, ?_, rfl⟩ <;> split <;> rfl
  obtain ⟨z, hcclk, hsys, hmode, hpend, hregs, hexec⟩ := hrun
  obtain ⟨h1, h2, h3, h4⟩ := countTmr_counts x.sys.tmr.toNat (hmode.trans hm)
  rw [hsys] at h3 h4
  refine ⟨_, hexec, BitVec.eq_of_toNat_eq (h3.trans (Nat.sub_self _)), h1.trans hcclk, ?_, h2.trans hregs⟩
  rw [h4, if_pos ⟨h0, Nat.le_refl _⟩, hpend]

theorem timerExpiry_held {c : CoreId} {b : BankId} (hx : s.ctxAt c b = some x) (hp : x.mayPass x.sys.tmr.toNat = false) :
    exec (.timerExpiry c b) s = .next s := by
  change execTimerExpiry c b s = _
  rw [execTimerExpiry, hx]
  exact if_neg fun h => by simp [hp] at h

/-! ### The obligation -/

theorem frameBad_eq_false_iff {f : Nat} (hf : f = s.myCore.frame (x.id.sbank * 256 + x.frameRow)) : frameBad s x = false ↔
    let row := x.id.sbank * 256 + x.frameRow
    row ∉ s.myCore.spadBad ∧ row + 2 ∉ s.myCore.spadBad ∧
      ∀ j ∈ validSlots f, row + 3 + j ∉ s.myCore.spadBad := by
  have hbit : ∀ j, j < 12 → (f / 2 ^ (8 * 48) % 2 ^ 12).testBit j = f.testBit (8 * 48 + j) := fun j hj => by
    rw [Nat.testBit_mod_two_pow, Nat.testBit_div_two_pow, decide_eq_true hj, Bool.true_and, Nat.add_comm]
  simp only [frameBad, validSlots, Bool.or_eq_false_iff, List.any_eq_false, List.mem_filter, List.mem_range, ← hf, List.contains_eq_mem,
    decide_eq_false_iff_not, Bool.and_eq_true, decide_eq_true_eq, Nat.add_zero, and_assoc]
  refine and_congr_right fun _ => and_congr_right fun _ => forall_congr' fun j => ?_
  rw [Nat.add_assoc (x.id.sbank * 256 + x.frameRow) 3 j]
  refine ⟨fun h hj hmem => h hj.1 ⟨?_, hmem⟩, fun h hj hb => h ⟨hj, ?_⟩ hb.2⟩
  · rw [← hbit j hj.1]; exact hj.2
  · rw [hbit j hj]; exact hb.1

/-- RTT chains into a held fault that has a handler. -/
theorem execRtt_chained {o : C3} {r : Run} {c : Cause} (h : CtlRuns s o.g [] x) (hm : x.trapMode = true) (hf : x.flights = [])
    (hq : ∀ q ∈ [x.ql, x.qx, x.qs], q.head true = none ∧ q.cur = {}) (hr : (x.faultOn fun _ => true) = some r)
    (hc : r.fault = some c) (hh : s.noHandler x = false) : ∃ t y, exec (.rtt o) s = .next t ∧ t.ctx? = some y ∧ Chained x r (chainCause x r c) y ∧
      t.myCore.spad = (chainCore s.myCore (x.id.sbank * 256 + x.frameRow) (placeAll (chainFields r c (chainCause x r c)))).spad := by
  obtain ⟨y, hy, hchain⟩ := chain_enters (c := c) (r := r) hh
  have hstop : ∀ active, ({ y with cclk := y.cclk + 3 } : Ctx).countTmr active 3 = { y with cclk := y.cclk + 3 } := fun active =>
    countTmr_stopped 3 (.inr (hy.mode.trans hm))
  refine ⟨_, { y with cclk := y.cclk + 3 }, execRtt_chains h hm hf hq hr hc, ?_⟩
  rw [hchain, State.passNow, ctx?_putCtx]
  dsimp only
  rw [State.passCtl, hstop]
  refine ⟨ctx?_putCtx _ _, ⟨hy.mode, hy.pos, hy.regs, hy.resume, hy.flights, hy.eng, hy.tcause⟩, ?_⟩
  rw [myCore_putCtx, myCore_putCtx, myCore_putCore]

/-- Settles O32: each outcome of RTT by its condition, with the latch slots read back one by one; and the timer. -/
theorem returnFromTrapAndTimer : Obligations.ReturnFromTrapAndTimer := by
  unfold Obligations.ReturnFromTrapAndTimer
  refine ⟨fun s x o h => ⟨execRtt_illegal h, fun hm hb => ⟨_, execRtt_waits h hm hb, ctlHold_waits s x .busy⟩, fun hm hf hq => ?_⟩,
    fun s x n hn ha hm => ?_, fun s x n h => ?_, fun s c b x hx ha hm h0 hh => ⟨fun hp => ?_, fun hfull hp => ?_⟩⟩
  · intro row f field pc dir valid whole recOk again outOfRange
    have hwhole : frameBad s x = false ↔ whole := frameBad_eq_false_iff rfl
    refine ⟨fun es hfault hgood hlen hes => ?_, fun hfault hgood j hj hbad => ?_, fun hfault hgood => ?_, fun r c hr hc hh => ?_,
      fun r c hs hr hc hh => ?_⟩
    · have hvalue : ∀ (j : Nat) (e : Flight), again j e → x.slotValue (slotDir f j) (slotVal f j) j = some e.val := by
        intro j e hagain
        obtain ⟨-, -, -, hval⟩ := hagain
        cases hv : e.val with
        | scalar r v =>
          rw [hv] at hval
          obtain ⟨hk, hd, hw⟩ := hval
          exact slotValue_scalar hk hd hw
        | vec p b v =>
          rw [hv] at hval
          obtain ⟨hk, hd, hp, hw, hb⟩ := hval
          exact slotValue_vec hk hd hp hw hb
        | pair lo hi m v =>
          rw [hv] at hval
          obtain ⟨hk, hd, hd2, hlo, hhi, hm, hw⟩ := hval
          exact slotValue_pair hk hd hd2 hlo hhi hm hw
        | pred r m v =>
          rw [hv] at hval
          obtain ⟨hk, hd, hm, hw⟩ := hval
          exact slotValue_pred hk hd hm hw
        | terms r ts =>
          rw [hv] at hval
          obtain ⟨hk, hd, hrec, hmov, rfl⟩ := hval
          exact slotValue_terms hk hd hrec hmov
        | exact r v =>
          rw [hv] at hval
          obtain ⟨hk, hd, hrec, hmov⟩ := hval
          exact slotValue_exact hk hd hrec hmov
        | row r m v =>
          rw [hv] at hval
          obtain ⟨hk, hd, hin, hm, hw⟩ := hval
          exact slotValue_row hk hd hin hm hw
      obtain ⟨slots, hslots, hflights⟩ := readSlots_some (x := x) hlen fun i j e hj he => by
        obtain ⟨hagain, huid⟩ := hes i j e hj he
        have hread := hvalue j e hagain
        obtain ⟨hu, hr, hl, -⟩ := hagain
        exact ⟨_, readSlot_some hu hr hread, hl, huid⟩
      obtain ⟨y, hy, hres, hstand, hgoto⟩ := resume_spec s x slots pc
      have hes' : y.flights = es := by rw [hres.flights, hf, List.nil_append, hflights]
      refine ⟨fun p hp hpc => ?_, fun hpc hal => ?_, fun hpc hal => ?_⟩
      · exact ⟨_, y, execRtt_resumes h hm hf hq hfault (hwhole.mpr hgood) rfl hslots (.inl hpc), hy, hres.mode, hstand p hp hpc, hes', hres.regs,
          hres.items, hres.cur.1, hres.cur.2.1, hres.cur.2.2, hres.fresh.1, hres.fresh.2, hres.chain⟩
      · exact ⟨_, y, execRtt_resumes h hm hf hq hfault (hwhole.mpr hgood) rfl hslots (.inr hal), hy, hres.mode,
          congrArg CtlPos.pc (hgoto hpc), congrArg CtlPos.phase (hgoto hpc), hes'⟩
      · exact execRtt_stops h hm hf hq hfault (hwhole.mpr hgood) rfl (.inr ⟨hpc, hal⟩)
    · have hnone : outOfRange j → x.slotValue (slotDir f j) (slotVal f j) j = none := by
        intro hout
        unfold Ctx.slotValue
        dsimp only [outOfRange] at hout ⊢
        split
        next hk =>
          rw [show dir j 0 8 = 1 from hk] at hout
          exact if_neg (Nat.not_lt.mpr hout)
        next hk =>
          rw [show dir j 0 8 = 2 from hk] at hout
          exact if_neg (Nat.not_lt.mpr hout)
        next hk =>
          rw [show dir j 0 8 = 3 from hk] at hout
          exact if_neg fun hin => hout.elim (Nat.not_le.mpr hin.1) (Nat.not_le.mpr hin.2)
        next hk =>
          rw [show dir j 0 8 = 4 from hk] at hout
          exact if_neg (Nat.not_lt.mpr hout)
        next hk =>
          rw [show dir j 0 8 = 5 from hk] at hout
          exact if_neg fun hin => hout.elim (Nat.not_le.mpr hin.1) fun hrec => hrec hin.2
        next hk =>
          rw [show dir j 0 8 = 6 from hk] at hout
          exact if_neg (Nat.not_lt.mpr hout)
        next => rfl
      have hread : x.readSlot f j = none := readSlot_none (hbad.imp_right (.imp_right (.imp_right (.imp_right hnone))))
      exact execRtt_stops h hm hf hq hfault (hwhole.mpr hgood) rfl (.inl (readSlots_none hj hread))
    · exact execRtt_poison h hm hf hq hfault ((Bool.not_eq_false _).mp fun hb => hgood (hwhole.mp hb))
    · rw [execRtt_chains h hm hf hq hr hc, chain_stops hh]
      rfl
    · have hwf : Sparse.wf s.myCore.spad = true := (hs.core s.cur.core).1
      obtain ⟨t, y, hexec, hy, hch, hspad⟩ := execRtt_chained h hm hf hq hr hc hh
      obtain ⟨h0, h8, h16, h24, h32, h40, h48, h512, h256, hdesc⟩ := chainCore_says (first := row) hwf r c (chainCause x r c)
      have hg : t.myCore.frame row = (chainCore s.myCore row (placeAll (chainFields r c (chainCause x r c)))).frame row := frame_congr hspad _
      refine ⟨t, y, hexec, hy, hch.mode.trans hm, congrArg CtlPos.pc hch.pos, congrArg CtlPos.phase hch.pos, hch.regs, hch.resume.1, hch.resume.2,
        hch.flights.trans hf, hch.eng, hch.tcause, ?_⟩
      rw [← hg] at h0 h8 h16 h24 h32 h40 h48 h512 h256 hdesc
      refine ⟨h0, h8, h16, h24, h32, h40, h48, h512, h256, hdesc, fun q hout => ?_⟩
      exact (congrArg (·.read q) hspad).trans (read_chainCore_outside hwf _ _ hout)
  · obtain ⟨h1, h2, h3, h4⟩ := countTmr_counts (x := { x with cclk := x.cclk + n }) n hm
    refine ⟨_, ?_, h1, h3, h4⟩
    rw [State.passCtl, ha, beq_self_eq_true]
  · rw [State.passCtl, countTmr_stopped]
    exact h.imp_left fun hne => beq_eq_false_iff_ne.mpr hne
  · obtain ⟨y, hexec, hy⟩ := timerExpiry_passes hx ha hm h0 hh ((mayPass_iff _).mpr hp)
    exact ⟨_, y, hexec, rfl, hy⟩
  · exact timerExpiry_held hx (Bool.eq_false_iff.mpr fun hpass => hp ((mayPass_iff _).mp hpass hfull))

end Sys2Proof
end

section
/-! SUPPORT. Control integer, bit and immediate words: the value that each writes, stated on integers or bit by bit (R92 to R97). -/

namespace Sys2Proof

open Sys2Proof.Machine

/-! ### Words from registers to a register (R91) -/

/-- A word that computes f of its three sources, where f is what the result should be. -/
theorem aluWord_of {w : C3 → Instr} {lat : Nat} {result : C3 → Word → Word → Word → Word → Prop} (f : C3 → Word → Word → Word → Word)
    (hw : ∀ o s, exec (w o) s = ctlAlu o lat (f o) s) (h : ∀ o a b c, WellFormed (w o) → result o a b c (f o a b c)) :
    AluWord w (fun o => [o.sa, o.sb, o.sc]) lat result := by
  intro s x o hwf hruns hroom
  obtain ⟨t, ht, hadv⟩ := ctlAlu_runs (f := f o) hruns hroom
  exact ⟨_, t, h o _ _ _ hwf, (hw o s).trans ht, hadv⟩

/-! ### Sums, products and logic (R92) -/

/-- The upper half of a product of 128 bits is that of the product of the integers. -/
theorem mulHigh_eq (p q : Int) : mulHigh p q = (BitVec.ofInt 128 p * BitVec.ofInt 128 q).extractLsb' 64 64 := by
  apply BitVec.eq_of_toNat_eq
  rw [← BitVec.ofInt_mul, mulHigh, BitVec.extractLsb'_toNat, BitVec.toNat_ofInt, BitVec.toNat_ofInt, Nat.shiftRight_eq_div_pow]
  generalize p * q = i
  omega

/-- Settles O10: each word computes the operator that names it, and the two upper halves come from the integers' product. -/
theorem addMultiplyAndLogicWords : Obligations.AddMultiplyAndLogicWords := by
  unfold Obligations.AddMultiplyAndLogicWords
  refine ⟨aluWord_of (fun _ a b _ => a + b) (fun _ _ => rfl) fun _ _ _ _ _ => rfl,
    aluWord_of (fun _ a b _ => a - b) (fun _ _ => rfl) fun _ _ _ _ _ => rfl,
    aluWord_of (fun _ a b _ => a * b) (fun _ _ => rfl) fun _ _ _ _ _ => rfl,
    aluWord_of (fun _ a b _ => mulHigh a.toInt b.toInt) (fun _ _ => rfl) fun _ a b _ _ => mulHigh_eq a.toInt b.toInt,
    aluWord_of (fun _ a b _ => mulHigh a.toNat b.toNat) (fun _ _ => rfl) fun _ a b _ _ => ?_,
    aluWord_of (fun _ a b _ => a &&& b) (fun _ _ => rfl) fun _ _ _ _ _ => rfl,
    aluWord_of (fun _ a b _ => a ||| b) (fun _ _ => rfl) fun _ _ _ _ _ => rfl,
    aluWord_of (fun _ a b _ => a ^^^ b) (fun _ _ => rfl) fun _ _ _ _ _ => rfl,
    aluWord_of (fun _ a b _ => a &&& ~~~b) (fun _ _ => rfl) fun _ a b _ _ i hi => ?_⟩
  · rw [mulHigh_eq, BitVec.ofInt_natCast, BitVec.ofInt_natCast, BitVec.ofNat_toNat, BitVec.ofNat_toNat]
  · rw [BitVec.getLsbD_and, BitVec.getLsbD_not, decide_eq_true hi, Bool.true_and]

/-! ### Shifts (R93) -/

theorem shiftAmt_eq (o : C3) (b : Word) :
    shiftAmt o b = if o.imm.getLsbD 6 then (o.imm.extractLsb' 0 6).toNat else (b.extractLsb' 0 6).toNat := by
  unfold shiftAmt C3.shI C3.shAmt
  rw [bit_eq_getLsbD]

theorem shiftAmt_lt (o : C3) (b : Word) : shiftAmt o b < 64 := by
  unfold shiftAmt
  split <;> exact BitVec.isLt _

/-- A field that a mask leaves out is zero. -/
theorem extractLsb'_of_mask {w lo n : Nat} {v mask : BitVec w} (h : v &&& ~~~mask = 0) (hm : ∀ i, i < n → mask.getLsbD (lo + i) = false)
    (hw : lo + n ≤ w) : v.extractLsb' lo n = 0 := by
  refine BitVec.eq_of_getLsbD_eq fun i hi => ?_
  have hbit := congrArg (BitVec.getLsbD · (lo + i)) h
  have hlt : lo + i < w := by omega
  rw [BitVec.getLsbD_extractLsb', decide_eq_true hi, Bool.true_and]
  simpa only [BitVec.getLsbD_and, BitVec.getLsbD_not, hm i hi, hlt, decide_true, Bool.not_false, Bool.and_true, BitVec.getLsbD_zero,
    BitVec.ofNat_eq_ofNat] using hbit

/-- The fields of a shift: nothing above bit 6, and only one of the two sources of the amount. -/
theorem shift_fields {o : C3} (h : WellFormed (.shl o)) : o.imm.extractLsb' 7 45 = 0 ∧
    (o.imm.getLsbD 6 = false → o.imm.extractLsb' 0 6 = 0) ∧ (o.imm.getLsbD 6 = true → o.sb = 0) := by
  obtain ⟨huses, hamount⟩ : o.uses true true true false false 0x7F = true ∧ (if o.shI then o.sb == 0 else o.shAmt == 0) = true :=
    Bool.and_eq_true_iff.mp h
  have hI : o.shI = o.imm.getLsbD 6 := bit_eq_getLsbD o.imm 6
  rw [hI] at hamount
  refine ⟨extractLsb'_of_mask (C3.imm_of_uses huses) (by decide) (by decide), fun h6 => ?_, fun h6 => ?_⟩
  · rw [h6] at hamount
    exact BitVec.toNat_eq.mpr (beq_iff_eq.mp hamount)
  · rw [h6] at hamount
    exact beq_iff_eq.mp hamount

/-- Settles O11: each bit of a shifted word is a bit of the source, moved by the amount. -/
theorem shiftWords : Obligations.ShiftWords := by
  unfold Obligations.ShiftWords
  intro k
  have hk : ∀ o b, shiftAmt o b = k o b := shiftAmt_eq
  refine ⟨aluWord_of (fun o a b _ => a <<< shiftAmt o b) (fun _ _ => rfl) fun o a b _ _ i hi => ?_,
    aluWord_of (fun o a b _ => a.sshiftRight (shiftAmt o b)) (fun _ _ => rfl) fun o a b _ _ i hi => ?_,
    aluWord_of (fun o a b _ => a >>> shiftAmt o b) (fun _ _ => rfl) fun o a b _ _ i hi => ?_,
    aluWord_of (fun o a b _ => a.rotateLeft (shiftAmt o b)) (fun _ _ => rfl) fun o a b _ _ i hi => ?_, fun o w hw => ?_⟩
  · rw [BitVec.getLsbD_shiftLeft, hk, decide_eq_true hi, Bool.true_and, ← decide_not, decide_eq_decide.mpr Nat.not_lt]
  · rw [BitVec.getLsbD_sshiftRight, hk, BitVec.msb_eq_getLsbD_last, Nat.add_comm, decide_eq_false (Nat.not_le.mpr hi), Bool.not_false,
      Bool.true_and]
  · rw [BitVec.getLsbD_ushiftRight, hk, Nat.add_comm]
    by_cases hlt : i + k o b < 64
    · rw [decide_eq_true hlt, Bool.true_and]
    · rw [decide_eq_false hlt, Bool.false_and, BitVec.getLsbD_of_ge a _ (Nat.not_lt.mp hlt)]
  · have hlt : k o b < 64 := hk o b ▸ shiftAmt_lt o b
    rw [BitVec.getLsbD_rotateLeft, hk, Nat.mod_eq_of_lt hlt, Bool.cond_decide]
    by_cases hwrap : i + k o b < 64
    · rw [Nat.mod_eq_of_lt hwrap, if_neg (by omega), decide_eq_true hwrap, Bool.true_and, Nat.add_sub_cancel]
    · rw [Nat.mod_eq_sub_mod (Nat.not_lt.mp hwrap), Nat.mod_eq_of_lt (by omega), if_pos (by omega)]
      congr 1
      omega
  · simp only [List.mem_cons, List.not_mem_nil, or_false] at hw
    rcases hw with rfl | rfl | rfl | rfl <;> exact shift_fields

end Sys2Proof
end

section
/-! SUPPORT. Control words that count, select, compare and move fields, and the words that decode refuses (R92, R94, R95). -/

namespace Sys2Proof

open Sys2Proof.Machine

/-! ### Counts of bits (R92) -/

/-- How many members of a list stand before the first with the property. -/
theorem length_takeWhile_not (l : List Nat) (p : Nat → Bool) : (l.takeWhile fun i => !p i).length = l.findIdx p := by
  simp only [List.takeWhile_eq_take_findIdx_not, Bool.not_not, List.length_take]
  exact Nat.min_eq_left List.findIdx_le_length

theorem ctzNat_spec (n v : Nat) : ctzNat n v ≤ n ∧ (∀ i, i < ctzNat n v → v.testBit i = false) ∧ (ctzNat n v < n → v.testBit (ctzNat n v) = true) := by
  have hc : ctzNat n v = (List.range n).findIdx v.testBit := length_takeWhile_not _ _
  have hle : ctzNat n v ≤ (List.range n).length := hc ▸ List.findIdx_le_length
  refine ⟨hle.trans_eq List.length_range, fun i hi => ?_, fun hlt => ?_⟩
  · have h := List.not_of_lt_findIdx (xs := List.range n) (p := v.testBit) (i := i) (hc ▸ hi)
    rw [List.getElem_range] at h
    simpa using h
  · have hlt' : (List.range n).findIdx v.testBit < (List.range n).length := by rwa [← hc, List.length_range]
    simpa [← hc] using List.findIdx_getElem (w := hlt')

theorem clzNat_spec (n v : Nat) : clzNat n v ≤ n ∧ (∀ i, i < clzNat n v → v.testBit (n - 1 - i) = false) ∧
    (clzNat n v < n → v.testBit (n - 1 - clzNat n v) = true) := by
  have hc : clzNat n v = (List.range n).reverse.findIdx v.testBit := length_takeWhile_not _ _
  have hlen : (List.range n).reverse.length = n := by simp
  have hle : clzNat n v ≤ (List.range n).reverse.length := hc ▸ List.findIdx_le_length
  refine ⟨hle.trans_eq hlen, fun i hi => ?_, fun hlt => ?_⟩
  · have h := List.not_of_lt_findIdx (xs := (List.range n).reverse) (p := v.testBit) (i := i) (hc ▸ hi)
    rw [List.getElem_reverse, List.getElem_range] at h
    simpa using h
  · have hlt' : (List.range n).reverse.findIdx v.testBit < (List.range n).reverse.length := by rwa [← hc, hlen]
    simpa [← hc] using List.findIdx_getElem (w := hlt')

/-- A count of at most 64 as a word. -/
theorem toNat_count {c : Nat} (h : c ≤ 64) : (BitVec.ofNat 64 c).toNat = c := by
  rw [BitVec.toNat_ofNat]
  exact Nat.mod_eq_of_lt (by omega)

/-! ### Comparison (R95) -/

/-- CMP's conditions by their codes. -/
def cmpCond (cc : Nat) (a b : Word) : Bool :=
  match cc with
  | 0 => a == b | 1 => a != b | 2 => a.slt b | 3 => a.sle b | 4 => b.slt a | 5 => b.sle a
  | 6 => a.ult b | 7 => a.ule b | 8 => b.ult a | _ => b.ule a

theorem scalarCond_eq {cc : Nat} (h : cc < 10) (a b : Word) : scalarCond cc a b = cmpCond cc a b := by
  have heq : (a.toNat == b.toNat) = (a == b) := by rw [Bool.eq_iff_iff, beq_iff_eq, beq_iff_eq, BitVec.toNat_inj]
  unfold scalarCond intCond
  simp only [signedOf_toNat]
  interval_cases cc
  · exact heq
  · exact congrArg (!·) heq
  all_goals rfl

/-! ### Fields (R94) -/

section
variable (o : C3) (a b : Word)

/-- The field of EXTR is the bits of sa at POS, extended to a word. -/
theorem extrValue_getLsbD {i : Nat} (hi : i < 64) : (extrValue o a).getLsbD i =
    if i < o.len then a.getLsbD (o.pos + i) else o.imm.getLsbD 12 && a.getLsbD (o.pos + o.len - 1) := by
  have hf : (a.toNat >>> o.pos) % 2 ^ o.len = (a.extractLsb' o.pos o.len).toNat := (BitVec.extractLsb'_toNat ..).symm
  have hsx : o.sx = o.imm.getLsbD 12 := bit_eq_getLsbD o.imm 12
  have hlast : o.len - 1 < o.len := Nat.sub_lt (Nat.succ_pos _) Nat.one_pos
  unfold extrValue
  dsimp only
  rw [hf, hsx, signedOf_toNat]
  cases o.imm.getLsbD 12 with
  | true =>
    rw [if_pos rfl, ← BitVec.signExtend, BitVec.getLsbD_signExtend, BitVec.msb_eq_getLsbD_last, BitVec.getLsbD_extractLsb',
      BitVec.getLsbD_extractLsb', decide_eq_true hi, decide_eq_true hlast, ← Nat.add_sub_assoc (show 1 ≤ o.len from Nat.succ_pos _)]
    by_cases hlen : i < o.len <;> simp [hlen]
  | false =>
    rw [if_neg Bool.false_ne_true, BitVec.getLsbD_ofNat, BitVec.testBit_toNat, BitVec.getLsbD_extractLsb', decide_eq_true hi]
    by_cases hlen : i < o.len <;> simp [hlen]

/-- INS takes the bits of the field from sa. -/
theorem insValue_getLsbD {i : Nat} (hi : i < 64) : (insValue o a b).getLsbD i =
    if o.pos ≤ i ∧ i < o.pos + o.len then a.getLsbD (i - o.pos) else b.getLsbD i := by
  unfold insValue
  dsimp only
  rw [merge_getLsbD, BitVec.getLsbD_ofNat, Nat.testBit_shiftLeft, Nat.testBit_two_pow_sub_one, BitVec.getLsbD_shiftLeft]
  by_cases hlo : o.pos ≤ i
  · by_cases hup : i < o.pos + o.len
    · have hin : i - o.pos < o.len := by omega
      simp [hi, hlo, hup, hin]
    · have hout : ¬ i - o.pos < o.len := by omega
      simp [hlo, hup, hout]
  · simp [hlo]

end

/-! ### Words that decode refuses (R43) -/

/-- A C3 word of a C section whose fields do not pass its checks is ILLEGAL. -/
theorem decodeIn_illegal {w : IWord} {f : C3 → Instr} (hm : makers.lookup (opOf w) = some (.c3 f)) (hk : (opKinds (opOf w)).contains .c = true)
    (h : ∀ o : C3, o.imm = w.extractLsb' 0 52 → (f o).fieldsOk = false) : decodeIn .c w = .error .illegal := by
  have hnone : decode w = none := by
    rw [decode, decodeRaw, hm, Option.bind_some]
    refine Option.filter_eq_none_iff.mpr fun i hi => ?_
    obtain ⟨o, ho, rfl⟩ := Option.map_eq_some_iff.mp hi
    have himm : o.imm = w.extractLsb' 0 52 := by
      simp only [readC3, Option.bind_eq_bind, Option.bind_eq_some_iff, Option.pure_def, Option.some.injEq] at ho
      obtain ⟨_, -, _, -, rfl⟩ := ho
      rfl
    exact Bool.eq_false_iff.mp (h o himm)
  simp only [decodeIn, hm, hk, if_true, hnone]

theorem extractLsb'_imm (w : IWord) {lo n : Nat} (h : lo + n ≤ 52) : (w.extractLsb' 0 52).extractLsb' lo n = w.extractLsb' lo n := by
  refine BitVec.eq_of_getLsbD_eq fun i hi => ?_
  have hlt : lo + i < 52 := by omega
  simp [hlt, hi]

/-- Settles O12: counts by the first set bit, minima and maxima by their comparison, fields bit by bit; and what decode refuses by the
word's immediate. -/
theorem countSelectCompareAndFieldWords : Obligations.CountSelectCompareAndFieldWords := by
  unfold Obligations.CountSelectCompareAndFieldWords
  refine ⟨⟨?_, ?_, ?_, ?_, ?_, ?_, ?_, ?_, ?_⟩, ?_, fun o h => ?_, fun w hop h => ?_, fun w hop h => ?_, fun w hop h => ?_⟩
  · refine aluWord_of (fun _ a _ _ => BitVec.ofNat 64 (clzNat 64 a.toNat)) (fun _ _ => rfl) fun _ a _ _ _ => ?_
    obtain ⟨hle, hzero, hone⟩ := clzNat_spec 64 a.toNat
    simp only [toNat_count hle, ← BitVec.testBit_toNat]
    refine ⟨hle, fun i hi => ?_, hone⟩
    by_cases hlt : i < 64
    · rw [show i = 64 - 1 - (63 - i) by omega]
      exact hzero _ (by omega)
    · exact BitVec.testBit_toNat a ▸ BitVec.getLsbD_of_ge a i (Nat.not_lt.mp hlt)
  · refine aluWord_of (fun _ a _ _ => BitVec.ofNat 64 (ctzNat 64 a.toNat)) (fun _ _ => rfl) fun _ a _ _ _ => ?_
    have hspec := ctzNat_spec 64 a.toNat
    simp only [toNat_count hspec.1, ← BitVec.testBit_toNat]
    exact hspec
  · refine aluWord_of (fun _ a _ _ => BitVec.ofNat 64 (popNat 64 a.toNat)) (fun _ _ => rfl) fun _ a _ _ _ => ?_
    have hle : popNat 64 a.toNat ≤ 64 := (List.length_filter_le ..).trans_eq List.length_range
    simp only [toNat_count hle, ← BitVec.testBit_toNat]
    exact length_filter_range _ 64
  · refine aluWord_of (fun _ a b _ => if a.toInt ≤ b.toInt then a else b) (fun _ _ => rfl) fun _ a b _ _ => ?_
    simp only [BitVec.sle_eq_decide, decide_eq_true_eq]
    split <;> simp <;> omega
  · refine aluWord_of (fun _ a b _ => if b.toInt ≤ a.toInt then a else b) (fun _ _ => rfl) fun _ a b _ _ => ?_
    simp only [BitVec.sle_eq_decide, decide_eq_true_eq]
    split <;> simp <;> omega
  · refine aluWord_of (fun _ a b _ => if a.toNat ≤ b.toNat then a else b) (fun _ _ => rfl) fun _ a b _ _ => ?_
    simp only [BitVec.le_def]
    split <;> simp <;> omega
  · refine aluWord_of (fun _ a b _ => if b.toNat ≤ a.toNat then a else b) (fun _ _ => rfl) fun _ a b _ _ => ?_
    simp only [BitVec.le_def]
    split <;> simp <;> omega
  · exact aluWord_of (fun _ a b c => if c ≠ 0 then a else b) (fun _ _ => rfl) fun _ _ _ _ _ => ite_not ..
  · refine aluWord_of (fun o a b _ => if scalarCond o.ccCode a b then 1 else 0) (fun _ _ => rfl) fun o a b _ h => ?_
    have hcc : o.ccCode < 10 := of_decide_eq_true (Bool.and_eq_true_iff.mp h).2
    rw [scalarCond_eq hcc]
    rfl
  · exact ⟨aluWord_of (fun o a _ _ => extrValue o a) (fun _ _ => rfl) fun o a _ _ _ _ => extrValue_getLsbD o a,
      aluWord_of (fun o a b _ => insValue o a b) (fun _ _ => rfl) fun o a b _ _ _ => insValue_getLsbD o a b⟩
  · obtain ⟨huses, hcc⟩ : o.uses true true true false false 0xF000000000000 = true ∧ decide (o.ccCode < 10) = true := Bool.and_eq_true_iff.mp h
    exact ⟨of_decide_eq_true hcc, extractLsb'_of_mask (C3.imm_of_uses huses) (by decide) (by decide)⟩
  · have hm : makers.lookup (opOf w) = some (.c3 .cmp) := by rw [hop]; rfl
    refine decodeIn_illegal hm (by rw [hop]; rfl) fun o ho => ?_
    have hcc : o.ccCode = (w.extractLsb' 48 4).toNat := by rw [C3.ccCode, ho, fieldNat, extractLsb'_imm w (by decide)]
    exact Bool.and_eq_false_iff.mpr (.inr (decide_eq_false (by omega)))
  · have hlen : ∀ o : C3, o.imm = w.extractLsb' 0 52 → 64 < o.pos + o.len := fun o ho => by
      rw [C3.pos, C3.len, ho, fieldNat, fieldNat, extractLsb'_imm w (by decide), extractLsb'_imm w (by decide)]
      omega
    rcases hop with hop | hop
    · have hm : makers.lookup (opOf w) = some (.c3 .extr) := by rw [hop]; rfl
      exact decodeIn_illegal hm (by rw [hop]; rfl) fun o ho =>
        Bool.and_eq_false_iff.mpr (.inr (decide_eq_false (Nat.not_le.mpr (hlen o ho))))
    · have hm : makers.lookup (opOf w) = some (.c3 .ins) := by rw [hop]; rfl
      exact decodeIn_illegal hm (by rw [hop]; rfl) fun o ho =>
        Bool.and_eq_false_iff.mpr (.inr (decide_eq_false (Nat.not_le.mpr (hlen o ho))))
  · have hm : makers.lookup (opOf w) = some (.c3 .ins) := by rw [hop]; rfl
    refine decodeIn_illegal hm (by rw [hop]; rfl) fun o ho => Bool.eq_false_iff.mpr fun hok => ?_
    have huses : o.uses true true true false false 0xFFF = true := (Bool.and_eq_true_iff.mp hok).1
    refine fieldOf_ne_one_of_mask (k := 12) (C3.imm_of_uses huses) (by decide) (of_decide_eq_true ?_)
    rw [bit_eq_getLsbD, ho, BitVec.getLsbD_extractLsb', Nat.zero_add, h]
    rfl

end Sys2Proof
end

section
/-! SUPPORT. Divisions, and the words with a 64-bit immediate (R96, R97). -/

namespace Sys2Proof

open Sys2Proof.Machine
variable {s : State} {x : Ctx}

/-! ### Divisions (R96) -/

theorem ctlDiv_runs {o : C3} {f : Word → Word → Word} (h : CtlRuns s o.g [o.sa, o.sb] x) (hroom : x.hasRoom o.sd) (hb : x.rd o.sb ≠ 0) :
    ∃ t, ctlDiv o f s = .next t ∧ Advances s (x.withScalar o.sd (f (x.rd o.sa) (x.rd o.sb)) 20) 1 t :=
  ⟨_, (ctlWordRes_runs h (hroom.imp_left fun h0 => by simp [h0])).trans (if_neg hb), ctlResult_advances _ _ _ _ _ hroom⟩

theorem ctlDiv_zero {o : C3} {f : Word → Word → Word} (h : CtlRuns s o.g [o.sa, o.sb] x) (hroom : x.hasRoom o.sd) (hb : x.rd o.sb = 0) :
    ctlDiv o f s = .next (s.trapP x .divz) :=
  (ctlWordRes_runs h (hroom.imp_left fun h0 => by simp [h0])).trans (if_pos hb)

theorem sdiv_eq_ofInt {n : Nat} (a b : BitVec n) : a.sdiv b = BitVec.ofInt n (a.toInt.tdiv b.toInt) := by
  apply BitVec.eq_of_toInt_eq
  rw [BitVec.toInt_sdiv, BitVec.toInt_ofInt]

theorem srem_eq_ofInt {n : Nat} (a b : BitVec n) : a.srem b = BitVec.ofInt n (a.toInt.tmod b.toInt) := by
  rw [← BitVec.toInt_srem, BitVec.ofInt_toInt]

theorem udiv_eq_ofNat {n : Nat} (a b : BitVec n) : a / b = BitVec.ofNat n (a.toNat / b.toNat) := by
  rw [← BitVec.toNat_udiv, BitVec.ofNat_toNat, BitVec.setWidth_eq]

theorem umod_eq_ofNat {n : Nat} (a b : BitVec n) : a % b = BitVec.ofNat n (a.toNat % b.toNat) := by
  rw [← BitVec.toNat_umod, BitVec.ofNat_toNat, BitVec.setWidth_eq]

/-- Settles O13: a division whose divisor is not zero writes the integers' quotient or remainder, and each raises DIVZ on zero. -/
theorem divideWords : Obligations.DivideWords := by
  unfold Obligations.DivideWords
  intro s x o h a b
  refine ⟨fun hb hroom => ?_, fun hb hroom w hw => ?_⟩
  · rw [← sdiv_eq_ofInt, ← udiv_eq_ofNat, ← srem_eq_ofInt, ← umod_eq_ofNat]
    exact ⟨ctlDiv_runs h hroom hb, ctlDiv_runs h hroom hb, ctlDiv_runs h hroom hb, ctlDiv_runs h hroom hb⟩
  · simp only [List.mem_cons, List.not_mem_nil, or_false] at hw
    rcases hw with rfl | rfl | rfl | rfl <;> exact ctlDiv_zero h hroom hb

/-! ### Immediates (R97) -/

theorem ctlImm_runs {o : CI} {f : Ctx → Word} (h : CtlRuns s o.g [o.sa] x) (hroom : x.hasRoom o.sd) :
    ∃ t, ctlImm o f s = .next t ∧ Advances s (x.withScalar o.sd (f x) 1) 1 t :=
  ⟨_, ctlWordRes_runs h (hroom.imp_left fun h0 => by simp [h0]), ctlResult_advances _ _ _ _ _ hroom⟩

/-- LIH's two halves side by side. -/
theorem low_append_low (v w : Word) : (fieldOf v 0 32 : BitVec 32) ++ (fieldOf w 0 32 : BitVec 32) = v <<< 32 ||| (w &&& 0xFFFFFFFF) := by
  refine BitVec.eq_of_getLsbD_eq fun i hi => ?_
  have hmask : (0xFFFFFFFF : Word).getLsbD i = decide (i < 32) := by
    rw [show (0xFFFFFFFF : Word) = BitVec.ofNat 64 (2 ^ 32 - 1) from rfl, BitVec.getLsbD_ofNat, Nat.testBit_two_pow_sub_one,
      decide_eq_true hi, Bool.true_and]
  rw [BitVec.getLsbD_append, BitVec.getLsbD_or, BitVec.getLsbD_shiftLeft, BitVec.getLsbD_and, hmask]
  by_cases hlow : i < 32
  · simp [hlow]
  · have hhigh : i - 32 < 32 := by omega
    simp [hlow, hhigh, hi]

/-- Settles O14: each word writes its value of the immediate, and LIH's is the two halves side by side. -/
theorem immediateWords : Obligations.ImmediateWords := by
  unfold Obligations.ImmediateWords
  refine ⟨fun s x o h hroom => ?_, fun o => ⟨beq_iff_eq.mp, beq_iff_eq.mp, beq_iff_eq.mp⟩⟩
  rw [← low_append_low]
  exact ⟨ctlImm_runs h hroom, ctlImm_runs h hroom, ctlImm_runs (f := fun x => fieldOf o.imm 0 32 ++ fieldOf (x.rd o.sa) 0 32) h hroom, ctlImm_runs h hroom⟩

end Sys2Proof
end

section
/-! SUPPORT. Branches, the table words, DONE and YIELD (R98 to R104). -/

namespace Sys2Proof

open Sys2Proof.Machine
variable {s : State} {x : Ctx}

/-! ### Targets (R38, R99) -/

theorem fieldNat_low_three (v : Word) : fieldNat v 0 3 = v.toNat % 8 := by
  rw [fieldNat_eq, Nat.pow_zero, Nat.div_one]
  rfl

/-- A branch enters a target that is a multiple of 8. -/
theorem branchTo_enters (s : State) (x : Ctx) {target : Word} (n : Nat) (h : target.toNat % 8 = 0) :
    ∃ t, branchTo s x target n = .next t ∧ Branches s x target n t :=
  ⟨_, branchTo_aligned s x target n (fieldNat_low_three target ▸ h), ctlBranch_branches s x target n⟩

/-- Another target raises ILLEGAL. -/
theorem branchTo_traps (s : State) (x : Ctx) {target : Word} (n : Nat) (h : target.toNat % 8 ≠ 0) :
    branchTo s x target n = .next (s.trapP x .illegal) :=
  branchTo_misaligned s x target n (fieldNat_low_three target ▸ h)

/-! ### Branches and CALL (R98, log 10) -/

section
variable {o : CB}

theorem execBr_runs (h : CtlRuns s o.g [] x) : exec (.br o) s = branchTo s x (x.ctl.pc + o.off) := by
  change execBr o s = _
  rw [execBr, ctlWord_runs h]

theorem execBc_runs (h : CtlRuns s o.g [o.r] x) :
    exec (.bc o) s = if x.rd o.r ≠ 0 then branchTo s x (x.ctl.pc + o.off) else .next (s.ctlDone x) := by
  change execBc o s = _
  rw [execBc, ctlWord_runs h]

theorem execRet_runs {o : C3} (h : CtlRuns s o.g [o.sa] x) : exec (.ret o) s = branchTo s x (x.rd o.sa) := by
  change execRet o s = _
  rw [execRet, ctlWord_runs h]

theorem execCall_traps (h : CtlRuns s o.g [] x) (ht : (x.ctl.pc + o.off).toNat % 8 ≠ 0) : exec (.call o) s = .next (s.trapP x .illegal) := by
  rw [← fieldNat_low_three] at ht
  change execCall o s = _
  rw [execCall, ctlWordRes_runs h (.inl (by rw [beq_eq_false_iff_ne.mpr ht, Bool.and_false]))]
  exact if_pos ht

/-- CALL puts the address of the next header on its way to the link register, and enters its target. -/
theorem execCall_enters (h : CtlRuns s o.g [] x) {c : CtlSec} (hc : x.ctl.sec = some c) (ht : (x.ctl.pc + o.off).toNat % 8 = 0) (hroom : x.hasRoom o.r) :
    exec (.call o) s = .next (s.ctlBranch (x.withScalar o.r c.next 1) (x.ctl.pc + o.off)) := by
  rw [← fieldNat_low_three] at ht
  change execCall o s = _
  rw [execCall, ctlWordRes_runs h (hroom.imp_left fun h0 => by simp [h0])]
  simp only [ht, hc, ne_eq, not_true, if_false, Ctx.withScalar]
  split
  next => rfl
  next h0 => rw [if_pos (hroom.resolve_left h0)]

end

/-! ### Table words (R100 to R102) -/

theorem natOfBytes_lt (bs : List Byte) : natOfBytes bs < 2 ^ (8 * bs.length) := by
  simpa [natOfBytes] using ofElems_lt 8 (bs.map BitVec.toNat)

/-- Eight bytes of a view as a word. -/
theorem toNat_tableEntry (s : State) (d : DieId) (pa : Nat) :
    (BitVec.ofNat 64 (natOfBytes (s.readView d pa 8))).toNat = natOfBytes (s.readView d pa 8) := by
  have hlt := natOfBytes_lt (s.readView d pa 8)
  rw [State.readView, List.length_map, List.length_range] at hlt
  rw [BitVec.toNat_ofNat]
  exact Nat.mod_eq_of_lt hlt

theorem mustWait_nil (h : x.ops = []) (l : Loc) (n : Nat) : x.mustWait l n = false := by
  rw [Ctx.mustWait, h]
  rfl

/-- A table word that memory holds, with nothing of the thread before it, is at hand. -/
theorem tableWord_reads (hops : x.ops = []) (va pa i : Nat) (k : Word → State → Out) : tableWord s x va (.ok (.mem pa) i) k =
    k (BitVec.ofNat 64 (natOfBytes (s.readView s.myDie pa 8))) (s.noteUse x.id.asid i (.mem pa)) := by
  rw [tableWord, withXlat, mustWait_nil hops]
  rfl

/-- JTAB compares its register with the bound, and reads the entry that it selects. -/
theorem execJtab_runs {o : CB} {pb i : Nat} (h : CtlRuns s o.g [o.r] x) (hops : x.ops = []) (hb : s.xlatTable x o.off.toNat = .ok (.mem pb) i) :
    exec (.jtab o) s =
      let s' := s.noteUse x.id.asid i (.mem pb)
      let va := (o.off + 8 + x.rd o.r * 8).toNat
      if (x.rd o.r).toNat < natOfBytes (s.readView s.myDie pb 8) then
        tableWord s' x va (s'.xlatTable x va) fun t u => branchTo u x t (3 + u.freeClk)
      else .next (s'.ctlDone x (1 + s'.freeClk)) := by
  change execJtab o s = _
  rw [execJtab, ctlWord_runs h, hb, tableWord_reads hops, toNat_tableEntry]

theorem execJfrag_runs {o : C3} (h : CtlRuns s o.g [] x) : exec (.jfrag o) s =
    let va := fieldNat x.sys.ftabb 3 49 * 8 + 8 * fieldNat x.sys.frag 0 6
    tableWord s x va (s.xlat x va .fetch) fun t u => branchTo u x t (3 + u.freeClk) := by
  change execJfrag o s = _
  rw [execJfrag, ctlWord_runs h]

/-- A table's entry that is a multiple of 8 is entered. -/
theorem tableWord_enters (hops : x.ops = []) (va pa i : Nat) (hentry : natOfBytes (s.readView s.myDie pa 8) % 8 = 0) :
    ∃ t n, (tableWord s x va (.ok (.mem pa) i) fun t u => branchTo u x t (3 + u.freeClk)) = .next t ∧
      Branches (s.noteUse x.id.asid i (.mem pa)) x (BitVec.ofNat 64 (natOfBytes (s.readView s.myDie pa 8))) n t := by
  rw [tableWord_reads hops]
  obtain ⟨t, ht, hb⟩ := branchTo_enters (s.noteUse x.id.asid i (.mem pa)) x (3 + s.freeClk) ((toNat_tableEntry s s.myDie pa).symm ▸ hentry)
  exact ⟨t, _, ht, hb⟩

/-- Settles O17: a branch enters its target or traps at it; JTAB and JFRAG branch to the entry that they read. -/
theorem branchAndTableWords : Obligations.BranchAndTableWords := by
  unfold Obligations.BranchAndTableWords
  refine ⟨fun s x => ⟨fun o h => ⟨fun ht => ?_, fun ht => ⟨?_, execCall_traps h ht⟩, fun c hc ht hroom => ?_⟩,
    fun o h => ⟨fun hz => ?_, fun hz ht => ?_, fun hz ht => ?_⟩, fun o h => ⟨fun ht => ?_, fun ht => ?_⟩⟩,
    fun s x => ⟨fun o pb pt i j h hops hb => ?_, fun o pt i h hops => ?_⟩⟩
  · exact execBr_runs h ▸ branchTo_enters s x 3 ht
  · exact (execBr_runs h).trans (branchTo_traps s x 3 ht)
  · exact ⟨_, execCall_enters h hc ht hroom, ctlBranch_branches _ _ _ _⟩
  · exact ⟨_, (execBc_runs h).trans (if_neg (not_not.mpr hz)), ctlDone_advances _ _ _⟩
  · rw [execBc_runs h, if_pos hz]
    exact branchTo_enters s x 3 ht
  · rw [execBc_runs h, if_pos hz]
    exact branchTo_traps s x 3 ht
  · exact execRet_runs h ▸ branchTo_enters s x 3 ht
  · exact (execRet_runs h).trans (branchTo_traps s x 3 ht)
  · intro bound va entry
    refine ⟨fun hge => ⟨_, _, (execJtab_runs h hops hb).trans (if_neg (Nat.not_lt.mpr hge)), ctlDone_advances _ _ _⟩, fun hlt hx hentry => ?_⟩
    have hrun := (execJtab_runs h hops hb).trans (if_pos hlt)
    rw [hx] at hrun
    rw [hrun]
    exact tableWord_enters hops va pt j hentry
  · intro va entry hx hentry
    have hrun := execJfrag_runs h
    dsimp only at hrun
    rw [hx] at hrun
    rw [hrun]
    exact tableWord_enters hops va pt i hentry

end Sys2Proof
end

section
/-! SUPPORT. DONE and YIELD: when a thread has ended, and what frees or switches its context (R103, R104). -/

namespace Sys2Proof

open Sys2Proof.Machine
variable {s : State} {x : Ctx} {o : C3}

/-! ### A context that ends, and one that gives way -/

theorem ctxAt_freeBank (s : State) (c : CoreId) (b : BankId) : (s.freeBank c b).ctxAt c b = none := by
  cases hx : s.ctxAt c b with
  | none => simp only [State.freeBank, hx]
  | some x =>
    simp only [State.freeBank, hx]
    change ((s.setCore c _).core c).banks[b] = none
    rw [setCore_core, if_pos rfl]
    simp [Core.release]

theorem freeBank_cur (s : State) (c : CoreId) (b : BankId) : (s.freeBank c b).cur = s.cur := by
  unfold State.freeBank
  split <;> rfl

theorem ctx?_freeBank (s : State) : (s.freeBank s.cur.core s.cur.bank).ctx? = none := by
  rw [State.ctx?, freeBank_cur, ctxAt_freeBank]

theorem sameMemory_freeBank (s : State) (c : CoreId) (b : BankId) : SameMemory s (s.freeBank c b) := by
  unfold State.freeBank
  split
  · exact SameMemory.refl s
  · exact SameMemory.setCore s c _ rfl rfl rfl

theorem switchTo_active (s : State) (c : CoreId) (b : BankId) : ((s.switchTo c b).core c).active = some b := by
  unfold State.switchTo
  rw [setCore_core, if_pos rfl]

theorem sameMemory_switchTo (s : State) (c : CoreId) (b : BankId) : SameMemory s (s.switchTo c b) := by
  refine SameMemory.trans ?_ (SameMemory.setCore _ c _ rfl rfl rfl)
  split
  · split
    · exact SameMemory.setCtxAt s c _ _
    · exact SameMemory.refl s
  · exact SameMemory.refl s

/-! ### The end of a thread (R103) -/

/-- Outside trap mode nothing of a quiet thread goes on, and no result of it is in flight. -/
theorem ended_of_quiet (k : Core) (hm : x.trapMode = false) (hq : x.quiet = true) : x.going k = false ∧ x.flights = [] := by
  simp only [Ctx.quiet, hm, Bool.and_eq_true, List.isEmpty_iff, beq_iff_eq, Bool.false_and, List.all_eq_true] at hq
  obtain ⟨⟨⟨⟨⟨⟨⟨⟨hops, hfl⟩, hl⟩, hx⟩, hs⟩, hcx⟩, hcl⟩, hcs⟩, heng⟩ := hq
  have hgo : ∀ e, x.engGoing e = false := fun e => by
    have he := heng e (mem_allEngines e)
    unfold Ctx.engGoing
    cases hh : (x.eng.get e).head? with
    | none => rfl
    | some r => rw [hh] at he; cases he
  refine ⟨?_, hfl⟩
  simp [Ctx.going, Ctx.queueGoing, Ctx.vecReady, Ctx.xHead, Queue.head, Ctx.queue, hops, hl, hx, hs, hcx, hcl, hcs, hgo]

/-- Beside a held fault, a thread has ended as far as it can. -/
theorem doneWaits_iff (k : Core) (x : Ctx) : x.doneWaits k = true ↔
    x.going k = false ∧ ∀ f ∈ x.flights, f.unit = .vec ∧ x.xFresh = true ∧ x.qx.items ≠ [] := by
  have hunit : ∀ f : Flight, f.unit ≠ .ctl ↔ f.unit = .vec := fun f => by cases f.unit <;> decide
  simp only [Ctx.doneWaits, Bool.and_eq_true, Bool.or_eq_true, Bool.not_eq_true', List.any_eq_false, beq_iff_eq, List.isEmpty_eq_false_iff,
    and_assoc, hunit]
  refine and_congr_right fun _ => ⟨fun ⟨hctl, hvec⟩ f hf => ⟨hctl f hf, hvec.resolve_left fun h => h f hf (hctl f hf)⟩, fun h => ⟨fun f hf => (h f hf).1, ?_⟩⟩
  by_cases hfl : x.flights = []
  · exact .inl fun f hf => by rw [hfl] at hf; cases hf
  · obtain ⟨f, hf⟩ := List.exists_mem_of_ne_nil _ hfl
    exact .inr (h f hf).2

/-- The context on which DONE acts. -/
def doneCtx (x : Ctx) : Ctx := if x.trapMode then x.dropQueued else x

theorem doneCtx_id (x : Ctx) : (doneCtx x).id = x.id := by
  unfold doneCtx
  split <;> rfl

/-- The held fault that DONE delivers. -/
def doneFault (k : Core) (x : Ctx) : Option Cause := if x.trapMode || !x.doneWaits k then none else (x.faultOn fun _ => true).bind (·.fault)

theorem execDone_eq (h : CtlRuns s o.g [] x) : exec (.done o) s = match doneFault s.myCore (doneCtx x) with
    | some f => .next (s.takeTrap (doneCtx x) f)
    | none => if (doneCtx x).quiet && s.drained (s.cur.core, (doneCtx x).id.serial) then .next (s.freeBank s.cur.core s.cur.bank)
        else .next (s.ctlBusy { doneCtx x with ending := true }) := by
  change execDone o s = _
  rw [execDone, ctlWord_runs h]
  rfl

theorem execDone_frees (h : CtlRuns s o.g [] x) (hf : doneFault s.myCore (doneCtx x) = none) (hq : (doneCtx x).quiet = true)
    (hd : s.drained (s.cur.core, x.id.serial) = true) : exec (.done o) s = .next (s.freeBank s.cur.core s.cur.bank) := by
  rw [execDone_eq h, hf]
  exact if_pos (by rw [hq, doneCtx_id, hd]; rfl)

theorem execDone_waits (h : CtlRuns s o.g [] x) (hf : doneFault s.myCore (doneCtx x) = none)
    (hn : (doneCtx x).quiet = false ∨ s.drained (s.cur.core, x.id.serial) = false) :
    exec (.done o) s = .next (s.ctlBusy { doneCtx x with ending := true }) := by
  rw [execDone_eq h, hf]
  exact if_neg (by rw [doneCtx_id]; rcases hn with hn | hn <;> simp [hn])

theorem doneFault_trapMode (k : Core) (h : x.trapMode = true) : doneFault k (doneCtx x) = none := by
  unfold doneFault doneCtx
  rw [if_pos h, show x.dropQueued.trapMode = true from h]
  rfl

theorem doneFault_none (k : Core) (h : (x.faultOn fun _ => true) = none) : doneFault k x = none := by
  unfold doneFault
  rw [h]
  exact ite_self none

/-! ### YIELD (R104) -/

/-- The context that YIELD gives way to. -/
def yieldTo (s : State) (x : Ctx) : Option BankId :=
  s.myCore.best fun b y => decide (b ≠ s.cur.bank) && s.ready s.cur.core y && decide (x.id.pri ≤ y.id.pri)

theorem execYield_stays (h : CtlRuns s o.g [] x) (hn : x.trapMode = true ∨ yieldTo s x = none) : exec (.yield o) s = .next (s.ctlDone x) := by
  change execYield o s = _
  rw [execYield, ctlWord_runs h]
  rcases hn with hn | hn
  · exact if_pos hn
  · split
    · rfl
    · rw [yieldTo] at hn
      rw [hn]

theorem execYield_switches (h : CtlRuns s o.g [] x) (hm : x.trapMode = false) {b : BankId} (hb : yieldTo s x = some b) :
    exec (.yield o) s = .next ((s.ctlDone x).switchTo s.cur.core b) := by
  change execYield o s = _
  rw [execYield, ctlWord_runs h]
  rw [yieldTo] at hb
  rw [hm, hb]
  rfl

/-- Settles O18: DONE by the fault that it delivers and by whether the thread is quiet; YIELD by the context that it gives way to. -/
theorem doneAndYield : Obligations.DoneAndYield := by
  unfold Obligations.DoneAndYield
  intro s x o h y
  refine ⟨fun hn => ?_, fun _ => ⟨ctx?_freeBank s, sameMemory_freeBank s _ _⟩, ⟨fun r f hm hend hr hf => ?_, fun hm hend => ?_⟩,
    fun hm => ⟨_, execYield_stays h (.inl hm), ctlDone_advances s x 1⟩, fun hn => ⟨_, execYield_stays h (.inr hn), ctlDone_advances s x 1⟩,
    fun b hm hb => ⟨_, execYield_switches h hm hb, switchTo_active _ _ b,
      (ctlDone_advances s x 1).2.trans (sameMemory_switchTo _ _ b)⟩⟩
  · have hfault : doneFault s.myCore (doneCtx x) = none := by
      cases hm : x.trapMode with
      | true => exact doneFault_trapMode _ hm
      | false =>
        rw [doneCtx, hm]
        exact doneFault_none _ (hn.resolve_left (by simp [hm]))
    exact ⟨fun ⟨hq, hd⟩ => execDone_frees h hfault hq hd, fun hq => ⟨_, execDone_waits h hfault hq, ctlHold_waits s _ .busy⟩⟩
  · have hctx : doneCtx x = x := if_neg (by simp [hm])
    have hdeliver : doneFault s.myCore (doneCtx x) = some f := by
      rw [hctx, doneFault, hm, (doneWaits_iff _ x).mpr hend, hr]
      exact hf
    rw [execDone_eq h, hdeliver, hctx]
  · have hctx : doneCtx x = x := if_neg (by simp [hm])
    have hfault : doneFault s.myCore (doneCtx x) = none := by
      rw [hctx, doneFault, Bool.eq_false_iff.mpr (mt (doneWaits_iff _ x).mp hend), Bool.not_false, Bool.or_true]
      rfl
    have hquiet : (doneCtx x).quiet = false := Bool.eq_false_iff.mpr fun hq => hend <| by
      obtain ⟨hgo, hfl⟩ := ended_of_quiet s.myCore hm (hctx ▸ hq)
      exact ⟨hgo, fun f hf => by rw [hfl] at hf; cases hf⟩
    have hwait := execDone_waits h hfault (.inl hquiet)
    rw [hctx] at hwait
    exact ⟨_, hwait, ctlHold_waits s _ .busy⟩

end Sys2Proof
end

section
/-! SUPPORT. A word that holds the control core until its value is at hand: the clocks that pass, what lands by then, and the register
that it writes (R79, R107). -/

namespace Sys2Proof

open Sys2Proof.Machine
variable {s : State} {x y z : Ctx}

/-! ### The executing context put back twice -/

theorem putCtx_putCtx (s : State) (y z : Ctx) : (s.putCtx y).putCtx z = s.putCtx z := by
  change (s.setCore s.cur.core _).setCore s.cur.core { (s.putCtx y).myCore with banks := (s.putCtx y).myCore.banks.set s.cur.bank (some z) } = _
  rw [setCore_setCore, myCore_putCtx]
  simp only [Vector.set_set]
  rfl

/-! ### Scalar results that land -/

theorem foldl_land_scalars (l : List Flight) (a : Core × Ctx) (h : ∀ f ∈ l, ∃ r w, f.val = .scalar r w) :
    let b := l.foldl (fun a f => land f.val a.1 a.2) a
    b.1 = a.1 ∧ b.2.regs = { a.2.regs with s := b.2.regs.s } := by
  induction l generalizing a with
  | nil => exact ⟨rfl, rfl⟩
  | cons f l ih =>
    obtain ⟨r, w, hf⟩ := h f List.mem_cons_self
    obtain ⟨h1, h2⟩ := ih (land f.val a.1 a.2) fun g hg => h g (List.mem_cons_of_mem f hg)
    rw [List.foldl_cons]
    refine ⟨h1.trans (by rw [hf]; rfl), h2.trans ?_⟩
    rw [hf]
    simp only [land, Ctx.wr]
    split <;> rfl

/-- Where only scalars of the control core are in flight, landing them changes scalar registers only. -/
theorem landBefore_scalars (honly : x.onlyScalars) (n : Nat) (k : Core) :
    (landBefore .ctl n k x).1 = k ∧ (landBefore .ctl n k x).2.regs = { x.regs with s := (landBefore .ctl n k x).2.regs.s } :=
  foldl_land_scalars _ _ fun f hf => by
    have hdue := ((mem_landOrder _ []).mp hf).resolve_right List.not_mem_nil
    exact honly f (List.mem_of_mem_filter hdue) (flight_due_iff.mp (List.mem_filter.mp hdue).2).1

/-! ### Clocks that pass at a word that has issued -/

/-- z is x when n clk have passed at its word, with what was in flight at the control core landed or still in flight. -/
def Passes (x z : Ctx) (n : Nat) : Prop :=
  z = { x with cclk := x.cclk + n, hold := .none, heldClk := 0, issue := none, stall := none, ctlFresh := false, flights := z.flights,
               regs := { x.regs with s := z.regs.s }, sys := { x.sys with tmr := z.sys.tmr }, pendE := z.pendE } ∧
  ∀ r, (∀ f ∈ x.flights, ∀ w, f.val ≠ .scalar r w) → z.reg r = x.reg r

/-- The context of a word that has issued, n clk later, before anything lands. -/
def passed (s : State) (x : Ctx) (n : Nat) : Ctx := { x.issued with cclk := x.cclk + n }.countTmr (s.myCore.active == some s.cur.bank) n

theorem passed_frame (s : State) (x : Ctx) (n : Nat) : passed s x n =
    { x.issued with cclk := x.cclk + n, sys := { x.sys with tmr := (passed s x n).sys.tmr }, pendE := (passed s x n).pendE } := by
  unfold passed
  rw [countTmr_frame]
  rfl

/-- What has landed of it. -/
def passedLanded (s : State) (x : Ctx) (n : Nat) : Ctx := (landDue .ctl (s.putCtx (passed s x n)).myCore (passed s x n)).2

theorem passedLanded_passes (honly : x.onlyScalars) (s : State) (n : Nat) : Passes x (passedLanded s x n) n := by
  have hfl : (passed s x n).flights = x.flights := by rw [passed_frame]; rfl
  have hregs : (passed s x n).regs = x.regs := by rw [passed_frame]; rfl
  have honly' : (passed s x n).onlyScalars := by rw [Ctx.onlyScalars, hfl]; exact honly
  obtain ⟨-, hr⟩ := landBefore_scalars honly' ((passed s x n).clk .ctl + 1) (s.putCtx (passed s x n)).myCore
  refine ⟨?_, fun r hfree => ?_⟩
  · have hz := landBefore_ctx .ctl ((passed s x n).clk .ctl + 1) (s.putCtx (passed s x n)).myCore (passed s x n)
    rw [hr] at hz
    unfold passedLanded landDue
    rw [hz, passed_frame]
    rfl
  · refine (landBefore_reg_ne _ fun f hf _ => hfree f (hfl ▸ hf)).trans ?_
    rw [Ctx.reg, hregs, Ctx.reg]

/-- A word's effect when n clk have passed is on the context as it then stands. -/
theorem ctlAfter_eq (honly : x.onlyScalars) (s : State) (n : Nat) (f : Ctx → Ctx) : s.ctlAfter x n f = s.putCtx (f (passedLanded s x n)) := by
  have hfl : (passed s x n).flights = x.flights := by rw [passed_frame]; rfl
  have honly' : (passed s x n).onlyScalars := by rw [Ctx.onlyScalars, hfl]; exact honly
  obtain ⟨hcore, -⟩ := landBefore_scalars honly' ((passed s x n).clk .ctl + 1) (s.putCtx (passed s x n)).myCore
  have hland : (s.putCtx (passed s x n)).landAt s.cur.core s.cur.bank .ctl = s.putCtx (passedLanded s x n) := by
    have hctx : (s.putCtx (passed s x n)).ctxAt s.cur.core s.cur.bank = some (passed s x n) := ctx?_putCtx s _
    have hcore' : (landDue .ctl ((s.putCtx (passed s x n)).core s.cur.core) (passed s x n)).1 = (s.putCtx (passed s x n)).core s.cur.core := hcore
    simp only [State.landAt, hctx]
    rw [hcore', setCore_self]
    exact putCtx_putCtx s _ _
  have hpass : s.passCtl x.issued n = s.putCtx (passed s x n) := rfl
  unfold State.ctlAfter
  dsimp only
  rw [hpass, hland, ctx?_putCtx]
  exact putCtx_putCtx s _ _

/-! ### The word's end -/

theorem wr_frame (x : Ctx) (r : SReg) (v : Word) : x.wr r v = { x with regs := { x.regs with s := (x.wr r v).regs.s } } := by
  unfold Ctx.wr
  split <;> rfl

/-- The word that has passed n clk ends with v in sd, and the control core stands at ctl. -/
theorem Passes.endsAfter {n : Nat} (h : Passes x z n) (s : State) (ctl : CtlPos) (sd : SReg) (v : Word) :
    EndsAfter s x ctl n sd v (s.putCtx { z.wr sd v with ctl := ctl }) := by
  obtain ⟨hz, hregs⟩ := h
  have hissue : ({ z.wr sd v with ctl := ctl } : Ctx).issue = none := by rw [wr_frame, hz]
  have hreg : ∀ r, ({ z.wr sd v with ctl := ctl } : Ctx).rd r = if r = sd ∧ r ≠ 0 then v else z.reg r := fun r =>
    (rd_eq_reg hissue r).trans (reg_wr z sd r v)
  refine ⟨⟨_, rfl, ?_, fun hsd => ?_, fun r hr hfree => ?_⟩, SameMemory.putCtx s _⟩
  · rw [wr_frame, hz]
  · rw [hreg, if_pos ⟨rfl, hsd⟩]
  · rw [hreg, if_neg fun hq => hr hq.1, hregs r hfree]

/-- More clocks may pass once it has ended. -/
theorem endsAfter_passNow {u t : State} {ctl : CtlPos} {n : Nat} {sd : SReg} {v : Word} (h : EndsAfter u x ctl n sd v t) (m : Nat) :
    EndsAfter u x ctl (n + m) sd v (t.passNow m) := by
  obtain ⟨⟨z, rfl, hz, hsd, hregs⟩, -⟩ := h
  have hpass : (u.putCtx z).passNow m = u.putCtx ({ z with cclk := z.cclk + m }.countTmr ((u.putCtx z).myCore.active == some u.cur.bank) m) := by
    rw [State.passNow, ctx?_putCtx]
    exact putCtx_putCtx u _ _
  rw [hpass]
  refine ⟨⟨_, rfl, ?_, fun h0 => ?_, fun r hr hfree => ?_⟩, SameMemory.putCtx u _⟩
  · rw [countTmr_frame, hz]
    simp only [Nat.add_assoc]
  · rw [countTmr_frame]
    exact hsd h0
  · rw [countTmr_frame]
    exact hregs r hr hfree

/-- A word that held the control core ends with its value. -/
theorem ctlHeld_heldWord (honly : x.onlyScalars) (s : State) (sd : SReg) (v : Word) : HeldWord s x sd v (s.ctlHeld x fun x => x.wr sd v) := by
  have hpass := passedLanded_passes honly s (1 + s.freeClk)
  refine ⟨1 + s.freeClk, ?_⟩
  rw [State.ctlHeld, ctlAfter_eq honly]
  have hctl : ((passedLanded s x (1 + s.freeClk)).wr sd v).ctl = x.ctl := by rw [wr_frame, hpass.1]
  dsimp only
  rw [hctl]
  exact hpass.endsAfter s x.ctl.step sd v

end Sys2Proof
end

section
/-! SUPPORT. Scalar memory: SLD, SST, AWAIT, and the atomic words (R105 to R112). -/

namespace Sys2Proof

open Sys2Proof.Machine
variable {s s' : State} {x : Ctx} {o : C3} {l : Loc}

/-! ### Addresses and places (R105, R106) -/

theorem sub_mod_eq_div_mul (a n : Nat) : a - a % n = a / n * n := (Nat.div_mul_self_eq_mod_sub_self).symm

theorem scalarAddr_eq (x : Ctx) (o : C3) :
    scalarAddr x o = (x.rd o.sa + o.offset).toNat / 2 ^ o.size * 2 ^ o.size := sub_mod_eq_div_mul _ _

/-- The access goes to the place l, in the state s' in which its translation is noted; a read finds no poison there. -/
def GoesTo (s : State) (x : Ctx) (o : C3) (acc : AccKind) (l : Loc) (s' : State) : Prop :=
  (o.sp = false ∧ ∃ i, s.xlat x (scalarAddr x o) acc = .ok l i ∧ s' = s.noteUse x.id.asid i l) ∨
  (o.sp = true ∧ s' = s ∧ ∃ p, x.spadAddr (scalarAddr x o) = some p ∧ l = .spad p ∧ (acc = .read → p / 256 ∉ s.myCore.spadBad))

theorem scalarPlace_goes {acc : AccKind} {k : Loc → State → Out} (hw : x.watched o = false) (ht : x.tokFull o.tok = false)
    (h : GoesTo s x o acc l s') : scalarPlace s x o acc k = k l s' := by
  rcases h with ⟨hsp, i, hx, rfl⟩ | ⟨hsp, rfl, p, hp, rfl, hbad⟩
  · rw [scalarPlace_mem hw ht hsp, hx]
    rfl
  · have hread : ¬ (acc == .read && s'.myCore.spadBad.contains (p / 256)) = true := by
      rw [Bool.and_eq_true, beq_iff_eq, List.contains_iff_mem]
      exact fun ⟨ha, hm⟩ => hbad ha hm
    simp only [scalarPlace, hw, ht, hsp, hp, Bool.false_eq_true, if_false, if_true, if_neg hread]

theorem readLoc_noteUse (s : State) (a : BitVec 12) (i : Nat) (j m : Loc) (d : DieId) (k : Core) (n : Nat) :
    (s.noteUse a i j).readLoc d k m n = s.readLoc d k m n := by
  cases m <;> rfl

/-- What the access sees of the module is what it was before its translation was noted. -/
theorem GoesTo.frame {acc : AccKind} (h : GoesTo s x o acc l s') :
    s'.tick = s.tick ∧ ∀ n, s'.readLoc s'.myDie s'.myCore l n = s.readLoc s.myDie s.myCore l n := by
  rcases h with ⟨-, i, -, rfl⟩ | ⟨-, rfl, -⟩
  · exact ⟨rfl, fun n => readLoc_noteUse s _ i l l _ _ n⟩
  · exact ⟨rfl, fun n => rfl⟩

theorem ctlIssue_advances (s : State) (x : Ctx) (p : Op) :
    Advances s { (x.tokAdd p.tok) with ops := x.ops ++ [{ p with born := s.tick }] } 1 (s.ctlIssue x p) := ctlDone_advances s _ 1

/-! ### SLD and SST (R107, R108) -/

theorem execSld_runs (h : CtlRuns s o.g [o.sa] x) (hw : x.watched o = false) (ht : x.tokFull o.tok = false) (hp : GoesTo s x o .read l s') :
    exec (.sld o) s = match o.tok with
      | some t => .next (s'.ctlIssue x { kind := .load o.sd o.msx, loc := l, size := C3size o, tok := some t })
      | none => if x.mustWait l (C3size o) || (o.acq && x.posted) then .next (s'.ctlBusy x)
          else .next (s'.ctlHeld x fun x => x.wr o.sd (loadValue (C3size o) o.msx (s.readLoc s.myDie s.myCore l (C3size o)))) := by
  change execSld o s = _
  rw [execSld, ctlWord_runs h, scalarPlace_goes hw ht hp, hp.frame.2] <;> rfl

/-- The operation with which SST joins those on their way. -/
def storeOp (x : Ctx) (o : C3) (l : Loc) : Op :=
  { kind := .store ((x.rd o.sb).toNat % 2 ^ (8 * C3size o)), loc := l, size := C3size o, rel := o.rel, scope := o.scopeCode, tok := o.tok }

theorem execSst_runs (h : CtlRuns s o.g [o.sa, o.sb] x) (hw : x.watched o = false) (ht : x.tokFull o.tok = false) (hp : GoesTo s x o .write l s') :
    exec (.sst o) s = .next (s'.ctlIssue x (storeOp x o l)) := by
  change execSst o s = _
  rw [execSst, ctlWord_runs h, scalarPlace_goes hw ht hp]
  rfl

theorem loadValue_eq (size : Nat) (hs : 0 < size) (sx : Bool) (bs : List Byte) : loadValue size sx bs =
    if sx then BitVec.signExtend 64 (BitVec.ofNat (8 * size) (natOfBytes bs)) else BitVec.ofNat 64 (natOfBytes bs) := by
  rw [loadValue, signedOf_eq_toInt (Nat.mul_pos (by decide) hs)]
  rfl

theorem C3.msx_eq (o : C3) : o.msx = o.imm.getLsbD 34 := bit_eq_getLsbD o.imm 34

/-- Settles O19: a load that has its place goes on with its token, waits, or ends with the value there. -/
theorem loadWord : Obligations.LoadWord := by
  unfold Obligations.LoadWord
  intro s s' x o l h hw ht a n hplace
  have hp : GoesTo s x o .read l s' :=
    hplace.imp_right fun ⟨hsp, hs, p, hpa, hl, hbad⟩ => ⟨hsp, hs, p, hpa, hl, fun _ => hbad⟩
  have hrun := execSld_runs h hw ht hp
  refine ⟨scalarAddr_eq x o, fun k hk => ?_, fun hk hwait hacq honly => ?_, fun hk hwait => ?_⟩ <;> rw [hk] at hrun
  · have hadv := ctlIssue_advances s' x { kind := .load o.sd o.msx, loc := l, size := n, tok := some k }
    rw [hp.frame.1] at hadv
    exact ⟨_, hrun, hk ▸ hadv⟩
  · have hgo : ¬ (x.mustWait l (C3size o) || (o.acq && x.posted)) = true := by
      rw [show x.mustWait l (C3size o) = false from hwait, Bool.false_or, Bool.and_eq_true]
      exact fun ⟨ha, hpost⟩ => Bool.false_ne_true ((hacq ha).symm.trans hpost)
    rw [← C3.msx_eq, ← loadValue_eq n (Nat.two_pow_pos _)]
    exact ⟨_, hrun.trans (if_neg hgo), ctlHeld_heldWord honly s' o.sd _⟩
  · refine ⟨_, hrun.trans (if_pos ?_), ctlHold_waits s' x .busy⟩
    rcases hwait with hwait | ⟨ha, hpost⟩
    · rw [show x.mustWait l (C3size o) = true from hwait, Bool.true_or]
    · rw [ha, hpost, Bool.and_self, Bool.or_true]

/-! ### AWAIT (R112) -/

theorem QWord.tok_eq (q : QWord) : q.tok = if q.w.getLsbD 79 then some (q.w.extractLsb' 76 3) else none :=
  if_congr (by rw [← bit_eq_getLsbD, decide_eq_true_iff]) rfl rfl

/-- The mask of AWAIT names a token. -/
theorem testBit_mask (o : C3) {k : Nat} (hk : k < 8) : (fieldNat o.imm 0 8).testBit k = o.imm.getLsbD k := by
  rw [fieldNat, BitVec.testBit_toNat, BitVec.getLsbD_extractLsb', decide_eq_true hk, Bool.true_and, Nat.zero_add]

/-- The operations of a token that AWAIT waits for. -/
def tokensLeft (x : Ctx) (k : Nat) : Nat := x.tokCount (BitVec.ofNat 3 k) - (if x.trapMode then x.faulted (BitVec.ofNat 3 k) else 0)

theorem tokensDone_iff (x : Ctx) (o : C3) : x.tokensDone (fieldNat o.imm 0 8) = true ↔ ∀ k, k < 8 → o.imm.getLsbD k = true → tokensLeft x k = 0 := by
  simp only [Ctx.tokensDone, List.all_eq_true, List.mem_range, Bool.or_eq_true, Bool.not_eq_true', beq_iff_eq]
  refine forall₂_congr fun k hk => ?_
  rw [testBit_mask o hk, ← Bool.not_eq_true, ← imp_iff_not_or]
  rfl

/-- The engines that run an uncompleted macro of a token that AWAIT names. -/
def tokenUsers (x : Ctx) (o : C3) (e : Eng) : Bool := x.macros.any fun q => (q.tok.any fun k => o.imm.getLsbD k.toNat) && q.eng == e

theorem waitDelivers_tokens (x : Ctx) (o : C3) : x.waitDelivers (.tokens (fieldNat o.imm 0 8)) = tokenUsers x o := by
  funext e
  refine congrArg (x.macros.any ·) (funext fun q => congrArg (· && q.eng == e) ?_)
  dsimp only
  cases q.tok with
  | none => rfl
  | some t => exact testBit_mask o t.isLt

theorem execAwait_runs (h : CtlRuns s o.g [] x) : exec (.await o) s =
    .next (if x.tokensDone (fieldNat o.imm 0 8) && !x.posted then s.ctlDone x
      else s.deliverOr x (tokenUsers x o) (s.ctlHold x (.wait (.tokens (fieldNat o.imm 0 8))))) := by
  change execAwait o s = _
  rw [execAwait, ctlWord_runs h]
  dsimp only
  rw [State.ctlWait, waitDelivers_tokens]

/-- Settles O20: SST joins the operations on their way; AWAIT goes on, delivers a fault, or waits. -/
theorem storeAndAwaitWords : Obligations.StoreAndAwaitWords := by
  unfold Obligations.StoreAndAwaitWords
  refine ⟨fun s s' x o l h hw ht hplace => ?_, fun s x o h => ?_⟩
  · have hp : GoesTo s x o .write l s' :=
      hplace.imp_right fun ⟨hsp, hs, p, hpa, hl⟩ => ⟨hsp, hs, p, hpa, hl, fun ha => by cases ha⟩
    have hadv := ctlIssue_advances s' x (storeOp x o l)
    rw [hp.frame.1] at hadv
    rw [← show o.rel = o.imm.getLsbD 36 from bit_eq_getLsbD o.imm 36]
    exact ⟨_, execSst_runs h hw ht hp, hadv⟩
  · intro named tokOf uses stuck left allDone waits
    have htok : tokOf = QWord.tok := funext fun q => (QWord.tok_eq q).symm
    have huses : uses = tokenUsers x o := by
      funext e
      simp only [uses, named, htok]
      rfl
    have hleft : ∀ k, left k = tokensLeft x k := fun k => by
      simp only [left, stuck, htok]
      rfl
    have hdone : allDone ↔ (x.tokensDone (fieldNat o.imm 0 8) && !x.posted) = true := by
      rw [Bool.and_eq_true, tokensDone_iff, Bool.not_eq_true']
      exact and_congr_left' (forall₃_congr fun k _ _ => by rw [hleft])
    have hrun := execAwait_runs h
    refine ⟨fun hd => ?_, fun hd hquiet => ?_, fun r f hd hm hr hf => ?_⟩
    · rw [if_pos (hdone.mp hd)] at hrun
      exact ⟨_, hrun, ctlDone_advances s x 1⟩
    · rw [if_neg (mt hdone.mpr hd), deliverOr_none (huses ▸ hquiet)] at hrun
      exact ⟨_, hrun, ctlHold_waits s x _⟩
    · rw [if_neg (mt hdone.mpr hd), deliverOr_fault hm (huses ▸ hr) hf] at hrun
      exact hrun

end Sys2Proof
end

section
/-! SUPPORT. The atomic words AMO and AMOF, and the values that a bank ALU computes (R110, R111). -/

namespace Sys2Proof

open Sys2Proof.Machine
variable {s : State} {x : Ctx} {o : C3}

/-! ### What an atomic word does with its place (R110, log 4, 55) -/

/-- The atomic word accesses a place of n bytes in memory, from a thread with no held operation and a token that is not full. -/
structure AmoRuns (s : State) (x : Ctx) (o : C3) (n pa i : Nat) : Prop where
  wen : x.wen = false
  tok : x.tokFull o.tok = false
  held : x.ops.any (·.held) = false
  place : s.xlat x ((x.rd o.sa + o.offset).toNat / n * n) .write = .ok (.mem pa) i

section
variable {n pa i : Nat} {kind : OpKind} {f : Nat → Nat} {wr : Nat → Bool}

theorem amoWord_place (h : AmoRuns s x o n pa i) : amoWord s x o n kind f wr =
    let s' := s.noteUse x.id.asid i (.mem pa)
    if pa < dsmBase then .next (s'.trapP x .perm 1 0 ((x.rd o.sa + o.offset).toNat / n * n))
    else if o.tok != none || (o.sd == 0 && !o.acq) then .next (s'.ctlIssue x (amoOp o kind (.mem pa) n false))
    else if homeDie pa = s'.myDie ∧ x.ops = [] then
      match s'.bankOp s'.myDie pa n (some (s'.cur.core, x.id.serial)) f wr with
      | some (old, u) => .next (u.ctlHeld x fun x => x.wr o.sd (BitVec.ofNat 64 old))
      | none => .next (s'.ctlBusy x)
    else .next (s'.ctlBusy { x with ops := x.ops ++ [{ amoOp o kind (.mem pa) n true with born := s'.tick }] }) := by
  obtain ⟨hwen, htok, hheld, hplace⟩ := h
  unfold amoWord
  simp only [sub_mod_eq_div_mul, hheld, hwen, htok, hplace, Bool.false_and, Bool.false_eq_true, if_false]
  rfl

/-- Another tier than die shared memory raises PERM. -/
theorem amoWord_perm (h : AmoRuns s x o n pa i) (hp : pa < dsmBase) : amoWord s x o n kind f wr =
    .next ((s.noteUse x.id.asid i (.mem pa)).trapP x .perm 1 0 ((x.rd o.sa + o.offset).toNat / n * n)) :=
  (amoWord_place h).trans (if_pos hp)

/-- Posted, or with a token, the operation joins those on their way. -/
theorem amoWord_posts (h : AmoRuns s x o n pa i) (hp : dsmBase ≤ pa) (ht : o.tok ≠ none ∨ (o.sd = 0 ∧ o.acq = false)) :
    amoWord s x o n kind f wr = .next ((s.noteUse x.id.asid i (.mem pa)).ctlIssue x (amoOp o kind (.mem pa) n false)) := by
  refine (amoWord_place h).trans ((if_neg (Nat.not_lt.mpr hp)).trans (if_pos ?_))
  rcases ht with ht | ⟨hsd, hacq⟩
  · rw [bne_iff_ne.mpr ht, Bool.true_or]
  · rw [hsd, hacq]
    exact Bool.or_true _

/-- Else it holds the control core. -/
theorem amoWord_holds (h : AmoRuns s x o n pa i) (hp : dsmBase ≤ pa) (ht : o.tok = none) (hd : o.sd ≠ 0 ∨ o.acq = true) :
    amoWord s x o n kind f wr =
      let s' := s.noteUse x.id.asid i (.mem pa)
      if homeDie pa = s.myDie ∧ x.ops = [] then
        match s'.bankOp s.myDie pa n (some (s.cur.core, x.id.serial)) f wr with
        | some (old, u) => .next (u.ctlHeld x fun x => x.wr o.sd (BitVec.ofNat 64 old))
        | none => .next (s'.ctlBusy x)
      else .next (s'.ctlBusy { x with ops := x.ops ++ [{ amoOp o kind (.mem pa) n true with born := s.tick }] }) := by
  refine (amoWord_place h).trans ((if_neg (Nat.not_lt.mpr hp)).trans (if_neg ?_))
  rw [ht, Bool.or_eq_true, Bool.and_eq_true, beq_iff_eq, Bool.not_eq_true']
  rintro (hc | ⟨hsd, hacq⟩)
  · exact Bool.false_ne_true hc
  · exact hd.elim (fun h0 => h0 hsd) fun ha => Bool.false_ne_true (hacq.symm.trans ha)

end

/-- Every atomic word is one operation of its width, with its new value and when it writes. -/
theorem exec_amoWord {w : Instr} {n : Nat} {kind : OpKind} {f : Nat → Nat} {wr : Nat → Bool} (h : CtlRuns s o.g [o.sa, o.sb, o.sc] x)
    (hw : w = .amo o ∧ n = 2 ^ o.size ∧ kind = .amo o.sd o.aop ((x.rd o.sb).toNat % 2 ^ (8 * n)) ((x.rd o.sc).toNat % 2 ^ (8 * n)) ∧
        f = (fun old => amoValue o.aop (8 * n) old ((x.rd o.sb).toNat % 2 ^ (8 * n)) ((x.rd o.sc).toNat % 2 ^ (8 * n))) ∧
        wr = (fun old => decide (o.aop < 9) || old == (x.rd o.sc).toNat % 2 ^ (8 * n)) ∨
      w = .amof o ∧ n = (if o.aop = 1 then 8 else 4) ∧ kind = .amof o.sd (o.aop == 1) ((x.rd o.sb).toNat % 2 ^ (8 * n)) ∧
        f = amofValue (o.aop == 1) (b := (x.rd o.sb).toNat % 2 ^ (8 * n)) ∧ wr = fun _ => true) :
    exec w s = amoWord s x o n kind f wr := by
  rcases hw with ⟨rfl, rfl, rfl, rfl, rfl⟩ | ⟨rfl, rfl, rfl, rfl, rfl⟩
  · change execAmo o s = _
    rw [execAmo, ctlWord_runs h]
    rfl
  · have hsub : CtlRuns s o.g [o.sa, o.sb] x := h.mono (by simp)
    have hn : (if (o.aop == 1) = true then 8 else 4) = if o.aop = 1 then 8 else 4 := if_congr beq_iff_eq rfl rfl
    change execAmof o s = _
    rw [execAmof, ctlWord_runs hsub]
    dsimp only
    rw [hn]

/-! ### Values (R110) -/

/-- The table of AOP on words of n bits. -/
theorem amoValue_table {n : Nat} (old b c : BitVec n) :
    let v := fun aop => amoValue aop n old.toNat b.toNat c.toNat
    v 0 = (old + b).toNat ∧ v 1 = (old &&& b).toNat ∧ v 2 = (old ||| b).toNat ∧ v 3 = (old ^^^ b).toNat ∧
    v 4 = (if old.sle b then old else b).toNat ∧ v 5 = (if b.sle old then old else b).toNat ∧
    v 6 = min old.toNat b.toNat ∧ v 7 = max old.toNat b.toNat ∧ v 8 = b.toNat ∧ v 9 = (if old = c then b else old).toNat := by
  have hle : ∀ p q : BitVec n, signedOf n p.toNat ≤ signedOf n q.toNat ↔ p.sle q = true := fun p q => by
    rw [signedOf_toNat, signedOf_toNat, BitVec.sle_eq_decide, decide_eq_true_iff]
  refine ⟨(BitVec.toNat_add ..).symm, (BitVec.toNat_and ..).symm, (BitVec.toNat_or ..).symm, (BitVec.toNat_xor ..).symm, ?_, ?_, ?_, ?_, rfl, ?_⟩
  · exact (if_congr (hle old b) rfl rfl).trans (apply_ite BitVec.toNat _ _ _).symm
  · exact (if_congr (hle b old) rfl rfl).trans (apply_ite BitVec.toNat _ _ _).symm
  · exact (Nat.min_def ..).symm
  · exact Nat.max_def.symm.trans (Nat.max_comm ..)
  · exact (if_congr BitVec.toNat_inj rfl rfl).trans (apply_ite BitVec.toNat _ _ _).symm

/-- Settles O22: an atomic word by its tier and by whether it is posted, and AOP's table by cases. -/
theorem atomicWords : Obligations.AtomicWords := by
  unfold Obligations.AtomicWords
  refine ⟨fun s x o w n kind f writes pa i => ?_, fun n old b c _ => amoValue_table old b c⟩
  intro b c hw h hwen htok hheld a s' op hx
  have hrun : exec w s = amoWord s x o n kind f writes := exec_amoWord h hw
  have hplace : AmoRuns s x o n pa i := ⟨hwen, htok, hheld, hx⟩
  rw [hrun]
  refine ⟨amoWord_perm hplace, fun hp ht => ⟨_, amoWord_posts hplace hp ht, ctlIssue_advances s' x _⟩,
    fun hp ht hd hhome hops honly old u hu => ?_, fun hp ht hd haway => ?_⟩
  · refine ⟨_, (amoWord_holds hplace hp ht hd).trans ((if_pos ⟨hhome, hops⟩).trans ?_), ctlHeld_heldWord honly u o.sd _⟩
    rw [hu]
  · refine ⟨_, (amoWord_holds hplace hp ht hd).trans (if_neg ?_), ctlHold_waits s' _ .busy⟩
    exact fun ⟨hhome, hops⟩ => haway.elim (fun h0 => h0 hhome) fun h0 => h0 hops

end Sys2Proof
end

section
/-! SUPPORT. TRAP and BRKPT (R88, R114). -/

namespace Sys2Proof

open Sys2Proof.Machine
variable {s : State} {x : Ctx} {o : C3}

/-- The context with which a software trap is taken: past its word's section, a clk later. -/
def softTrapped (s : State) (x : Ctx) (c : CtlSec) : Ctx := passed s { x.leaveSec x.ctl with ctl := { pc := c.next } } 1

theorem softTrapped_frame (s : State) (x : Ctx) (c : CtlSec) : (softTrapped s x c).ctl.pc = c.next ∧ (softTrapped s x c).cclk = x.cclk + 1 ∧
    (softTrapped s x c).flights = x.flights ∧ (softTrapped s x c).regs = x.regs := by
  unfold softTrapped
  rw [passed_frame, leaveSec_eq]
  exact ⟨rfl, rfl, rfl, rfl⟩

theorem trapWord_runs (h : CtlRuns s o.g [] x) {c : CtlSec} (hc : x.ctl.sec = some c) (detail : Nat) : trapWord o s detail =
    .next ((s.putCtx (softTrapped s x c)).takeTrap (softTrapped s x c) { code := .swtrap, cls := .p, detail := BitVec.ofNat 8 detail } (some .c)) := by
  rw [trapWord, ctlWord_runs h, hc]
  have hpass : s.passCtl ({ x.leaveSec x.ctl with ctl := { pc := c.next } } : Ctx).issued 1 = s.putCtx (softTrapped s x c) := rfl
  dsimp only
  rw [hpass, ctx?_putCtx]

/-! ### The fields of the words -/

/-- Only the low byte of an immediate is used. -/
theorem lowByte_iff {v : BitVec 52} : v &&& ~~~0xFF = 0 ↔ v.toNat < 256 := by
  refine ⟨fun h => ?_, fun h => BitVec.eq_of_getLsbD_eq fun i hi => ?_⟩
  · have hhigh := congrArg BitVec.toNat (extractLsb'_of_mask (lo := 8) (n := 44) h (by decide) (by decide))
    rw [BitVec.extractLsb'_toNat, Nat.shiftRight_eq_div_pow] at hhigh
    have hlt := v.isLt
    simp only [BitVec.ofNat_eq_ofNat, BitVec.toNat_ofNat] at hhigh
    omega
  · have hmask : (0xFF#52).getLsbD i = decide (i < 8) := by
      rw [show 0xFF#52 = BitVec.ofNat 52 (2 ^ 8 - 1) from rfl, BitVec.getLsbD_ofNat, Nat.testBit_two_pow_sub_one, decide_eq_true hi, Bool.true_and]
    have hbit : 8 ≤ i → v.getLsbD i = false := fun h8 =>
      Nat.testBit_lt_two_pow (h.trans_le (Nat.pow_le_pow_right (n := 2) (by decide) h8))
    change (v &&& ~~~0xFF#52).getLsbD i = (0#52).getLsbD i
    rw [BitVec.getLsbD_and, BitVec.getLsbD_not, hmask, decide_eq_true hi, Bool.true_and, BitVec.getLsbD_zero]
    by_cases h8 : i < 8
    · rw [decide_eq_true h8, Bool.not_true, Bool.and_false]
    · rw [hbit (Nat.not_lt.mp h8), Bool.false_and]

theorem trap_fields (o : C3) : WellFormed (.trap o) ↔ o.imm.toNat < 255 ∧ o.sd = 0 ∧ o.sa = 0 ∧ o.sb = 0 ∧ o.sc = 0 ∧ o.tok = none := by
  have hne : o.imm ≠ 0xFF ↔ o.imm.toNat ≠ 255 := not_congr BitVec.toNat_inj.symm
  simp only [WellFormed, Instr.fieldsOk, C3.uses, Bool.false_or, Bool.and_eq_true, beq_iff_eq, bne_iff_ne, lowByte_iff, hne]
  constructor
  · rintro ⟨⟨⟨⟨⟨⟨hd, ha⟩, hb⟩, hc⟩, ht⟩, hlt⟩, hn⟩
    exact ⟨by omega, hd, ha, hb, hc, ht⟩
  · rintro ⟨hlt, hd, ha, hb, hc, ht⟩
    exact ⟨⟨⟨⟨⟨⟨hd, ha⟩, hb⟩, hc⟩, ht⟩, by omega⟩, by omega⟩

theorem brkpt_fields (o : C3) : WellFormed (.brkpt o) ↔ o.imm = 0xFF ∧ o.sd = 0 ∧ o.sa = 0 ∧ o.sb = 0 ∧ o.sc = 0 ∧ o.tok = none := by
  simp only [WellFormed, Instr.fieldsOk, C3.uses, Bool.false_or, Bool.and_eq_true, beq_iff_eq]
  constructor
  · rintro ⟨⟨⟨⟨⟨⟨hd, ha⟩, hb⟩, hc⟩, ht⟩, -⟩, himm⟩
    exact ⟨himm, hd, ha, hb, hc, ht⟩
  · rintro ⟨himm, hd, ha, hb, hc, ht⟩
    exact ⟨⟨⟨⟨⟨⟨hd, ha⟩, hb⟩, hc⟩, ht⟩, by rw [himm]; rfl⟩, himm⟩

/-- A word that has to end its section is ILLEGAL elsewhere. -/
theorem checkWord_notLast {x : Ctx} {c : CtlSec} {w : IWord} {next : Option IWord} {i : Instr} (hd : decodeIn c.h.kind w = .ok i)
    (h : structureOk c next i = false) : checkWord x c w next = .error { code := .illegal, cls := .p } := by
  simp only [checkWord, hd, h, Bool.not_false, Bool.or_true, if_true]

/-- Settles O30: both words take the trap that trap entry takes, and the check of a section refuses them elsewhere than at its end. -/
theorem softwareTraps : Obligations.SoftwareTraps := by
  unfold Obligations.SoftwareTraps
  refine ⟨fun s x o w n h hw c hc => ?_, fun o => ⟨trap_fields o, brkpt_fields o⟩, fun x c w next o hd hlast => ?_⟩
  · obtain ⟨hpc, hclk, hfl, hregs⟩ := softTrapped_frame s x c
    refine ⟨_, _, ?_, hpc, hclk, hfl, hregs, rfl⟩
    rcases hw with ⟨rfl, rfl⟩ | ⟨rfl, rfl⟩
    · refine (trapWord_runs h hc _).trans ?_
      rw [BitVec.ofNat_toNat, BitVec.setWidth_eq]
    · exact trapWord_runs h hc _
  · have hbad : (c.idx + 1 == c.h.len) = false := beq_eq_false_iff_ne.mpr hlast
    rcases hd with hd | hd <;> exact checkWord_notLast hd hbad

end Sys2Proof
end

section
/-! SUPPORT. FENCE, SFLUSH and the drain of a flush (R116, R117). -/

namespace Sys2Proof

open Sys2Proof.Machine
variable {s : State} {x : Ctx} {o : C3}

/-! ### FENCE (R116) -/

/-- Nothing that FENCE waits for is left. -/
def Fenced (s : State) (x : Ctx) (o : C3) : Prop :=
  x.ops = [] ∧ ((o.imm.extractLsb' 0 2).toNat = 2 → s.drained (s.cur.core, x.id.serial) = true)

theorem execFence_runs (h : CtlRuns s o.g [] x) : exec (.fence o) s =
    if x.ops.isEmpty && (fieldNat o.imm 0 2 != 2 || s.drained (s.cur.core, x.id.serial)) then .next (s.ctlDone x) else .next (s.ctlBusy x) := by
  change execFence o s = _
  rw [execFence, ctlWord_runs h]

theorem fenced_iff : (x.ops.isEmpty && (fieldNat o.imm 0 2 != 2 || s.drained (s.cur.core, x.id.serial))) = true ↔ Fenced s x o := by
  rw [Bool.and_eq_true, List.isEmpty_iff, Bool.or_eq_true, bne_iff_ne, ← imp_iff_not_or]
  rfl

theorem execFence_passes (h : CtlRuns s o.g [] x) (hf : Fenced s x o) : exec (.fence o) s = .next (s.ctlDone x) :=
  (execFence_runs h).trans (if_pos (fenced_iff.mpr hf))

theorem execFence_waits (h : CtlRuns s o.g [] x) (hf : ¬ Fenced s x o) : exec (.fence o) s = .next (s.ctlBusy x) :=
  (execFence_runs h).trans (if_neg (mt fenced_iff.mp hf))

/-! ### SFLUSH (R117) -/

/-- The address space that SFLUSH names. -/
def flushSpace (x : Ctx) (o : C3) : BitVec 12 := if x.id.priv then (x.rd o.sa).extractLsb' 0 12 else x.id.asid

/-- The operation of an SFLUSH: no core has discarded yet. -/
def flushKind (s : State) (x : Ctx) (o : C3) : OpKind := .sflush (flushSpace x o) allCores [] s.written

/-- SFLUSH may name the address space. -/
def MayFlush (x : Ctx) (o : C3) : Prop := x.id.priv = false ∧ o.sa = 0 ∨ x.id.priv = true ∧ (x.rd o.sa).toNat < 2 ^ 12

theorem execSflush_runs (h : CtlRuns s o.g [o.sa] x) (hheld : x.ops.any (·.held) = false) (ht : x.tokFull o.tok = false) :
    exec (.sflush o) s = if !x.id.priv && o.sa != 0 then .next (s.trapP x .perm)
      else if x.id.priv && fieldNat (x.rd o.sa) 12 52 != 0 then .next (s.trapP x .illegal)
      else match o.tok with
        | some t => .next (s.ctlIssue x { kind := flushKind s x o, tok := some t })
        | none => .next (s.ctlBusy { x with ops := x.ops ++ [{ kind := flushKind s x o, held := true, born := s.tick }] }) := by
  change execSflush o s = _
  rw [execSflush, ctlWord_runs h, hheld, ht]
  rfl

/-- What an ASID leaves of a register. -/
theorem high_of_asid (v : Word) : fieldNat v 12 52 = 0 ↔ v.toNat < 2 ^ 12 := by
  rw [fieldNat_eq]
  have := v.isLt
  omega

theorem execSflush_perm (h : CtlRuns s o.g [o.sa] x) (hheld : x.ops.any (·.held) = false) (ht : x.tokFull o.tok = false)
    (hp : x.id.priv = false) (hsa : o.sa ≠ 0) : exec (.sflush o) s = .next (s.trapP x .perm) :=
  (execSflush_runs h hheld ht).trans (if_pos (by rw [hp, bne_iff_ne.mpr hsa]; rfl))

theorem execSflush_illegal (h : CtlRuns s o.g [o.sa] x) (hheld : x.ops.any (·.held) = false) (ht : x.tokFull o.tok = false)
    (hp : x.id.priv = true) (hsa : 2 ^ 12 ≤ (x.rd o.sa).toNat) : exec (.sflush o) s = .next (s.trapP x .illegal) :=
  (execSflush_runs h hheld ht).trans ((if_neg (by rw [hp]; exact Bool.false_ne_true)).trans
    (if_pos (by rw [hp, bne_iff_ne.mpr (mt (high_of_asid _).mp (Nat.not_lt.mpr hsa))]; rfl)))

theorem execSflush_goes (h : CtlRuns s o.g [o.sa] x) (hheld : x.ops.any (·.held) = false) (ht : x.tokFull o.tok = false)
    (hm : MayFlush x o) : exec (.sflush o) s = match o.tok with
      | some t => .next (s.ctlIssue x { kind := flushKind s x o, tok := some t })
      | none => .next (s.ctlBusy { x with ops := x.ops ++ [{ kind := flushKind s x o, held := true, born := s.tick }] }) := by
  refine (execSflush_runs h hheld ht).trans ((if_neg ?_).trans (if_neg ?_)) <;> rcases hm with ⟨hp, hsa⟩ | ⟨hp, hsa⟩ <;> rw [hp]
  · rw [hsa]
    exact Bool.false_ne_true
  · exact Bool.false_ne_true
  · exact Bool.false_ne_true
  · rw [(high_of_asid _).mpr hsa]
    exact Bool.false_ne_true

/-! ### Discards (R117, R306) -/

theorem mem_allCores (c : CoreId) : c ∈ allCores :=
  List.mem_map.mpr ⟨c.val, List.mem_range.mpr c.isLt, Fin.ext (Nat.mod_eq_of_lt c.isLt)⟩

theorem discard_core (s : State) (asid : BitVec 12) (c : CoreId) : (s.discard asid).core c = (s.core c).discard asid s.tick := by
  simp [State.discard, State.core, Core.discard]

theorem icache_discard (k : Core) (asid : BitVec 12) (n : Nat) : ∀ l ∈ (k.discard asid n).icache, l.asid ≠ asid := fun _ hl =>
  bne_iff_ne.mp (List.mem_filter.mp hl).2

theorem sameMemory_discard (s : State) (asid : BitVec 12) : SameMemory s (s.discard asid) :=
  ⟨fun _ _ => rfl, fun c a => by rw [discard_core]; exact ⟨rfl, rfl, rfl⟩⟩

/-- The state after some cores have discarded. -/
def discardEach (s : State) (asid : BitVec 12) (cs : List CoreId) : State :=
  cs.foldl (fun (s : State) c => s.setCore c ((s.core c).discard asid s.tick)) s

theorem discardEach_frame (asid : BitVec 12) (cs : List CoreId) (s : State) :
    (discardEach s asid cs).views = s.views ∧ (discardEach s asid cs).segOld = s.segOld := by
  induction cs generalizing s with
  | nil => exact ⟨rfl, rfl⟩
  | cons c cs ih => exact ih (s.setCore c ((s.core c).discard asid s.tick))

theorem discardEach_core (asid : BitVec 12) (cs : List CoreId) (s : State) (d : CoreId) :
    let k := (discardEach s asid cs).core d
    k = { s.core d with icache := k.icache, discards := k.discards } ∧ (d ∉ cs → k.icache = (s.core d).icache) ∧
      ((d ∈ cs ∨ ∀ l ∈ (s.core d).icache, l.asid ≠ asid) → ∀ l ∈ k.icache, l.asid ≠ asid) := by
  induction cs generalizing s with
  | nil => exact ⟨rfl, fun _ => rfl, fun h => h.resolve_left List.not_mem_nil⟩
  | cons c cs ih =>
    obtain ⟨h1, h2, h3⟩ := ih (s.setCore c ((s.core c).discard asid s.tick))
    rw [discardEach, List.foldl_cons]
    rw [setCore_core] at h1 h2 h3
    by_cases hc : c = d
    · subst hc
      rw [if_pos rfl] at h1 h2 h3
      exact ⟨h1, fun hn => absurd List.mem_cons_self hn, fun _ => h3 (.inr (icache_discard _ _ _))⟩
    · rw [if_neg hc] at h1 h2 h3
      refine ⟨h1, fun hn => h2 fun hm => hn (List.mem_cons_of_mem c hm), fun hm => h3 (hm.imp_left fun hd => ?_)⟩
      exact (List.mem_cons.mp hd).resolve_left (Ne.symm hc)

theorem sameMemory_discardOn (s : State) (asid : BitVec 12) (cs : List CoreId) : SameMemory s (s.discardOn asid cs) := by
  refine ⟨fun d a => congrArg (fun v : Vector Memory 4 => [Sparse.read (w := 8) v[d] (a + 0)]) (discardEach_frame asid cs s).1, fun c a => ?_⟩
  have hc : (s.discardOn asid cs).core c = _ := (discardEach_core asid cs s c).1
  rw [hc]
  exact ⟨rfl, rfl, rfl⟩

theorem ctxAt_discardOn (s : State) (asid : BitVec 12) (cs : List CoreId) (c : CoreId) (b : BankId) :
    (s.discardOn asid cs).ctxAt c b = s.ctxAt c b := by
  have hc : (s.discardOn asid cs).core c = _ := (discardEach_core asid cs s c).1
  rw [State.ctxAt, hc]
  rfl

/-- Old words of other address spaces stay. -/
theorem segOld_discardOn (s : State) (asid : BitVec 12) (cs : List CoreId) : ∀ o ∈ s.segOld, o.asid ≠ asid → o ∈ (s.discardOn asid cs).segOld := by
  intro o ho ha
  refine List.mem_filter.mpr ⟨(discardEach_frame asid cs s).2 ▸ ho, ?_⟩
  rw [bne_iff_ne.mpr ha, Bool.true_or]

/-- The cores that discard next: some of those left whose die has received what the flush covers, and one at least where there is one. -/
theorem nextDiscards_eq (s : State) (left : List CoreId) (need : List Nat) : ∃ p : CoreId → Bool, s.nextDiscards left need = left.filter p ∧
    (∀ d, p d = true → s.clockReached (dieOf d) need = true) ∧
    ((∃ d ∈ left, s.clockReached (dieOf d) need = true) → ∃ d ∈ left, p d = true) := by
  unfold State.nextDiscards
  dsimp only
  split
  next => exact ⟨_, rfl, fun _ h => h, id⟩
  next hne =>
    rw [List.filter_filter] at hne ⊢
    refine ⟨_, rfl, fun d h => (Bool.and_eq_true_iff.mp h).2, fun _ => ?_⟩
    obtain ⟨d, hd⟩ := List.exists_mem_of_ne_nil _ hne
    exact ⟨d, List.mem_filter.mp hd⟩

/-! ### The drain's steps (R117, log 18) -/

/-- The flushes of a context that have not ended. -/
def flushes (x : Ctx) : List Op := x.ops.filter fun q => match q.kind with | .sflush _ _ _ _ => true | _ => false

/-- The operation of the context as it stands once some more cores have discarded. -/
def flushOn (x : Ctx) (p : Op) (kind : OpKind) : Ctx := { x with ops := x.ops.map fun r => if r = p then { p with kind := kind } else r }

section
variable {c : CoreId} {b : BankId} {p : Op} {asid : BitVec 12} {left : List CoreId} {done : List (CoreId × Nat)} {need : List Nat}

theorem execSflushDrainEnd_picks (hx : s.ctxAt c b = some x) (hp : (flushes x)[Config.choice s.tick 5 % (flushes x).length]? = some p)
    (hk : p.kind = .sflush asid left done need) : exec (.sflushDrainEnd c b) s =
      if left ≠ [] then
        let cs := s.nextDiscards left need
        .next ((s.setCtxAt c b (some (flushOn x p (.sflush asid (left.filter fun c => !cs.contains c)
          (done ++ cs.map fun c => (c, s.tick)) need)))).discardOn asid cs)
      else if s.asidDrained asid done then
        let y : Ctx := { (x.tokDone p.tok) with ops := x.ops.erase p }
        .next (s.setCtxAt c b (some (if p.held && y.fatal.isNone then y.unholdWord else y)))
      else .next s := by
  change execSflushDrainEnd c b s = _
  simp only [execSflushDrainEnd, hx]
  split
  next hn => cases hn.symm.trans hp
  next q hq =>
    obtain rfl : p = q := Option.some.inj (hp.symm.trans hq)
    rw [hk]
    rfl

/-- The access lies in the scratchpad, or is a flush itself. -/
theorem passesDrain_iff (l : Loc) (k : OpKind) : (match l, k with
    | _, .sflush _ _ _ _ => true
    | .mem _, _ => false
    | .heat _ _, _ => false
    | .spad _, _ => true) = true ↔ (∃ a, l = .spad a) ∨ ∃ a m e n, k = .sflush a m e n := by
  cases k <;> cases l <;> simp

theorem asidDrained_iff : s.asidDrained asid done = true ↔
    ∀ d ∈ done, ∀ z ∈ (s.core d.1).residents, z.id.asid = asid → ∀ q ∈ z.ops, q.born < d.2 →
      (∃ a, q.loc = .spad a) ∨ ∃ a l e n, q.kind = .sflush a l e n := by
  simp only [State.asidDrained, List.all_eq_true, Bool.or_eq_true, bne_iff_ne, decide_eq_true_iff, ne_eq, ← imp_iff_not_or]
  refine forall₂_congr fun d _ => forall₂_congr fun z _ => imp_congr_right fun _ => forall₂_congr fun q _ => ?_
  rw [← Nat.not_lt, ← imp_iff_not_or]
  exact imp_congr_right fun _ => passesDrain_iff _ _

theorem tokDone_ctl (x : Ctx) (t : Token) : (x.tokDone t).ctl = x.ctl := by
  cases t <;> rfl

theorem tokDone_fatal (x : Ctx) (t : Token) : (x.tokDone t).fatal = x.fatal := by
  cases t <;> rfl

/-- A step of the drain while cores are left: some of those whose die has received what the flush covers discard. -/
theorem execSflushDrainEnd_discards (hx : s.ctxAt c b = some x) (hp : (flushes x)[Config.choice s.tick 5 % (flushes x).length]? = some p)
    (hk : p.kind = .sflush asid left done need) (hleft : left ≠ []) : ∃ pick : CoreId → Bool,
      (∀ d, pick d = true → s.clockReached (dieOf d) need = true) ∧
      ((∃ d ∈ left, s.clockReached (dieOf d) need = true) → ∃ d ∈ left, pick d = true) ∧
      exec (.sflushDrainEnd c b) s = .next ((s.setCtxAt c b (some (flushOn x p (.sflush asid (left.filter fun d => !pick d)
        (done ++ (left.filter pick).map fun d => (d, s.tick)) need)))).discardOn asid (left.filter pick)) := by
  obtain ⟨pick, hnext, hreach, hsome⟩ := nextDiscards_eq s left need
  refine ⟨pick, hreach, hsome, (execSflushDrainEnd_picks hx hp hk).trans ((if_pos hleft).trans ?_)⟩
  have hmore : (left.filter fun d => !(left.filter pick).contains d) = left.filter fun d => !pick d :=
    List.filter_congr fun d hd => by simp [List.mem_filter, hd]
  rw [hnext]
  dsimp only
  rw [hmore]

theorem icache_setCtxAt (s : State) (c : CoreId) (b : BankId) (y : Ctx) (d : CoreId) :
    ((s.setCtxAt c b (some y)).core d).icache = (s.core d).icache := by
  rw [State.setCtxAt, setCore_core]
  split
  next h => rw [← h]
  next => rfl

end

/-- Settles O28: FENCE and SFLUSH by their conditions; a step of the drain by the cores that are left, and its end by the accesses that
were translated before. -/
theorem fenceAndFlushWords : Obligations.FenceAndFlushWords := by
  unfold Obligations.FenceAndFlushWords
  refine ⟨fun s x o h => ⟨fun hops hd => ⟨_, execFence_passes h ⟨hops, hd⟩, ctlDone_advances s x 1⟩, fun hw =>
      ⟨_, execFence_waits h fun ⟨hops, hd⟩ => ?_, ctlHold_waits s x .busy⟩⟩,
    fun s x o h hheld ht => ?_, mem_allCores, fun s c b x p asid left done need hx hk hp => ?_, fun s asid c => ⟨?_, ?_, sameMemory_discard s asid⟩⟩
  · rcases hw with hw | ⟨h2, hd'⟩
    · exact hw hops
    · exact Bool.false_ne_true (hd'.symm.trans (hd h2))
  · intro asid op
    refine ⟨execSflush_perm h hheld ht, execSflush_illegal h hheld ht, fun hm => ?_⟩
    have hrun := execSflush_goes h hheld ht hm
    refine ⟨fun k hk => ?_, fun hk => ?_⟩
    · rw [hk] at hrun
      rw [hk]
      exact ⟨_, hrun, ctlIssue_advances s x _⟩
    · rw [hk] at hrun
      exact ⟨_, hrun, ctlHold_waits s _ .busy⟩
  · refine ⟨fun hleft => ?_, fun hleft hall => ?_, fun d z q hleft hd hz ha hq hborn hspad hflush => ?_⟩
    · obtain ⟨pick, hreach, hsome, hrun⟩ := execSflushDrainEnd_discards hx hp hk hleft
      let more := left.filter fun d => !pick d
      have hmem : ∀ d, d ∈ more ↔ d ∈ left ∧ pick d = false := fun d => by simp [more]
      have hpick : ∀ d ∈ left, d ∉ more → pick d = true := fun d hd hn =>
        Bool.not_eq_false _ ▸ fun hf => hn ((hmem d).mpr ⟨hd, hf⟩)
      have hdone : left.filter pick = left.filter (· ∉ more) := List.filter_congr fun d hd => by simp [hmem, hd]
      refine ⟨_, _, more, hrun, (ctxAt_discardOn _ asid _ c b).trans (ctxAt_setCtxAt ..), ?_, fun d hd => ((hmem d).mp hd).1,
        fun d hd hn => hreach d (hpick d hd hn), fun hr => ?_, ?_, fun d hd hn => ?_, fun d hd => ?_,
        fun e he => segOld_discardOn (s.setCtxAt c b _) asid _ e he⟩
      · rw [hdone]
        rfl
      · obtain ⟨d, hd, hpd⟩ := hsome hr
        exact List.length_filter_lt_length_iff_exists.mpr ⟨d, hd, by rw [hpd]; exact Bool.false_ne_true⟩
      · exact (SameMemory.setCtxAt ..).trans (sameMemory_discardOn _ asid _)
      · exact (discardEach_core asid _ _ d).2.2 (.inl (List.mem_filter.mpr ⟨hd, hpick d hd hn⟩))
      · refine ((discardEach_core asid _ _ d).2.1 fun hm => ?_).trans (icache_setCtxAt ..)
        obtain ⟨hl, hpd⟩ := List.mem_filter.mp hm
        exact hd.elim (fun hn => hn hl) fun hn => Bool.false_ne_true (((hmem d).mp hn).2.symm.trans hpd)
    · intro y
      rw [execSflushDrainEnd_picks hx hp hk, if_neg (not_not_intro hleft), if_pos (asidDrained_iff.mpr hall)]
      refine congrArg (fun z => Host.Outcome.next (s.setCtxAt c b (some z))) ?_
      have hend : (p.held && (x.tokDone p.tok).fatal.isNone) = true ↔ p.held = true ∧ x.fatal = none := by
        rw [tokDone_fatal, Bool.and_eq_true, Option.isNone_iff_eq_none]
      have hstep : y.unholdWord = { y with ctl := x.ctl.step, hold := .none, heldClk := 0, issue := none, stall := none, ctlFresh := false } :=
        congrArg (fun ctl => { y.issued with ctl := ctl }) (congrArg CtlPos.step (tokDone_ctl x p.tok))
      exact hstep ▸ if_congr hend rfl rfl
    · rw [execSflushDrainEnd_picks hx hp hk, if_neg (not_not_intro hleft), if_neg fun hall => ?_]
      rcases asidDrained_iff.mp hall d hd z hz ha q hq hborn with ⟨a, hs⟩ | ⟨a, l, e, n, hs⟩
      · exact hspad a hs
      · exact hflush a l e n hs
  · rw [discard_core]
    exact icache_discard _ _ _
  · exact fun e he => bne_iff_ne.mp (List.mem_filter.mp he).2

end Sys2Proof
end

section
/-! SUPPORT. The entries of a tag row as numbers of 64 bits: their fields, and what a write of one leaves (R118, R235). -/

namespace Sys2Proof

open Sys2Proof.Machine
variable {k : Core} {a b v : Nat}

/-- Replaced bits are those of the new field, and every other bit stays. -/
theorem putBits_testBit (v lo len new i : Nat) :
    (putBits v lo len new).testBit i = if lo ≤ i ∧ i < lo + len then new.testBit (i - lo) else v.testBit i := by
  have hlow := Nat.mod_lt v (Nat.two_pow_pos lo)
  have hv : v = 2 ^ lo * (2 ^ len * (v / 2 ^ lo / 2 ^ len) + v / 2 ^ lo % 2 ^ len) + v % 2 ^ lo := by
    rw [Nat.div_add_mod, Nat.div_add_mod]
  have hput : putBits v lo len new = 2 ^ lo * (2 ^ len * (v / 2 ^ lo / 2 ^ len) + new % 2 ^ len) + v % 2 ^ lo := by
    have hsub := congrArg (· - v / 2 ^ lo % 2 ^ len * 2 ^ lo) hv
    rw [Nat.mul_add, Nat.mul_comm (2 ^ lo) (v / 2 ^ lo % 2 ^ len), Nat.add_right_comm] at hsub
    rw [putBits, hsub, Nat.mul_add, Nat.mul_comm (2 ^ lo) (new % 2 ^ len)]
    omega
  have hfield : ∀ n, n < 2 ^ len → (2 ^ lo * (2 ^ len * (v / 2 ^ lo / 2 ^ len) + n) + v % 2 ^ lo).testBit i =
      if i < lo then (v % 2 ^ lo).testBit i else if i - lo < len then n.testBit (i - lo) else (v / 2 ^ lo / 2 ^ len).testBit (i - lo - len) :=
    fun n hn => by rw [Nat.testBit_two_pow_mul_add _ hlow, Nat.testBit_two_pow_mul_add _ hn]
  have hold := hfield _ (Nat.mod_lt (v / 2 ^ lo) (Nat.two_pow_pos len))
  rw [← hv] at hold
  rw [hput, hfield _ (Nat.mod_lt new (Nat.two_pow_pos len)), hold]
  by_cases h1 : i < lo
  · rw [if_pos h1, if_neg (by omega), if_pos h1]
  · rw [if_neg h1, if_neg h1]
    by_cases h2 : i - lo < len
    · rw [if_pos h2, if_pos (by omega), Nat.testBit_mod_two_pow, decide_eq_true h2, Bool.true_and]
    · rw [if_neg h2, if_neg (by omega), if_neg h2]

/-! ### Rows that a write leaves nonzero -/

/-- A cell that is written with a nonzero value holds it, whatever the form of the map. -/
theorem read_write_nonzero {w : Nat} (m : Sparse w) {r : Nat} {v : BitVec w} (hv : v ≠ 0) (q : Nat) :
    (m.write r v).read q = if q = r then v else m.read q := by
  by_cases hq : q = r
  · subst hq
    rw [if_pos rfl]
    induction m with
    | nil => rw [Sparse.write, if_neg hv, Sparse.read, if_pos rfl]
    | cons c m ih =>
      obtain ⟨a, u⟩ := c
      rw [Sparse.write]
      by_cases hlt : q < a
      · rw [if_pos hlt, if_neg hv, Sparse.read, if_pos rfl]
      · rw [if_neg hlt]
        by_cases heq : q = a
        · rw [if_pos heq, if_neg hv, Sparse.read, if_pos rfl]
        · rw [if_neg heq, Sparse.read, if_neg (Ne.symm heq), ih]
  · rw [if_neg hq]
    exact Sparse.read_write_ne m r q v hq

theorem read_putRowBytes_nonzero (k : Core) (r : Nat) (en : BitVec 256) (v : Row) (hv : merge (spread 8 2048 en) (k.spad.read r) v ≠ 0) (q : Nat) :
    (k.putRowBytes r en v).spad.read q = if q = r then merge (spread 8 2048 en) (k.spad.read r) v else k.spad.read q := by
  unfold Core.putRowBytes
  split
  next he =>
    rw [he, spread_allOnes, merge_allOnes] at hv ⊢
    exact read_write_nonzero _ hv q
  next => exact read_write_nonzero _ hv q

theorem putRowBytes_frame (k : Core) (r : Nat) (en : BitVec 256) (v : Row) :
    k.putRowBytes r en v = { k with spad := (k.putRowBytes r en v).spad, spadBad := (k.putRowBytes r en v).spadBad } := by
  unfold Core.putRowBytes
  split <;> rfl

/-! ### Entries -/

/-- The entry at a physical byte address. -/
def Machine.Core.entryAt (k : Core) (a : Nat) : Nat := natOfBytes (k.spadBytes a 8)

/-- The core with an entry written. -/
def Machine.Core.putEntry (k : Core) (a v : Nat) : Core := k.putSpadBytes a (bytesOf 8 v)

theorem entryAt_testBit (k : Core) (a : Nat) {i : Nat} (hi : i < 64) : (k.entryAt a).testBit i = (k.spad.read (a / 256)).getLsbD (8 * (a % 256) + i) := by
  rw [Core.entryAt, Core.spadBytes, natOfBytes_bytesOf, Nat.testBit_mod_two_pow, Nat.testBit_shiftRight, decide_eq_true hi, Bool.true_and,
    BitVec.testBit_toNat]

/-- The bit of a row after the bytes of an entry are merged into it. -/
theorem entryRow_getLsbD (a v : Nat) (old : Row) {i : Nat} (hi : i < 2048) :
    (merge (spread 8 2048 (BitVec.ofNat 256 ((2 ^ (bytesOf 8 v).length - 1) <<< (a % 256)))) old
      (BitVec.ofNat 2048 (natOfBytes (bytesOf 8 v) <<< (8 * (a % 256))))).getLsbD i =
      if 8 * (a % 256) ≤ i ∧ i < 8 * (a % 256) + 64 then v.testBit (i - 8 * (a % 256)) else old.getLsbD i := by
  rw [merge_getLsbD, spread_getLsbD (by decide), bytesOf_length, BitVec.getLsbD_ofNat, BitVec.getLsbD_ofNat, Nat.testBit_shiftLeft,
    Nat.testBit_two_pow_sub_one, natOfBytes_bytesOf, Nat.testBit_shiftLeft, Nat.testBit_mod_two_pow]
  by_cases hon : 8 * (a % 256) ≤ i ∧ i < 8 * (a % 256) + 64
  · have hbyte : i / 8 < 256 ∧ a % 256 ≤ i / 8 ∧ i / 8 - a % 256 < 8 ∧ i - 8 * (a % 256) < 64 := by omega
    rw [if_pos hon, if_pos (by simp [hi, hbyte])]
    simp [hi, hon, hbyte]
  · rw [if_neg hon, if_neg]
    simp only [hi, decide_true, Bool.true_and, Bool.and_eq_true, decide_eq_true_eq, ge_iff_le]
    omega

/-- The rows after a write of an entry that is valid. -/
theorem putEntry_getLsbD (ha : a % 256 + 8 ≤ 256) (hv : v.testBit 0 = true) (q : Nat) {i : Nat} (hi : i < 2048) :
    ((k.putEntry a v).spad.read q).getLsbD i =
      if q = a / 256 ∧ 8 * (a % 256) ≤ i ∧ i < 8 * (a % 256) + 64 then v.testBit (i - 8 * (a % 256)) else (k.spad.read q).getLsbD i := by
  rw [Core.putEntry, Core.putSpadBytes, read_putRowBytes_nonzero]
  · by_cases hq : q = a / 256
    · simp only [hq, if_true, true_and]
      exact entryRow_getLsbD a v _ hi
    · rw [if_neg hq, if_neg fun h => hq h.1]
  · intro hzero
    have hbit := entryRow_getLsbD a v (k.spad.read (a / 256)) (i := 8 * (a % 256)) (by omega)
    rw [hzero, if_pos (by omega), Nat.sub_self, hv] at hbit
    exact Bool.false_ne_true (BitVec.getLsbD_zero.symm.trans hbit)

/-- A written entry has its new bits, and another of the row its old ones. -/
theorem putEntry_testBit (ha : a % 8 = 0) (hb : b % 8 = 0) (hv : v.testBit 0 = true) {i : Nat} (hi : i < 64) :
    ((k.putEntry a v).entryAt b).testBit i = if b = a then v.testBit i else (k.entryAt b).testBit i := by
  rw [entryAt_testBit _ _ hi, entryAt_testBit _ _ hi, putEntry_getLsbD (by omega) hv _ (by omega)]
  by_cases hba : b = a
  · rw [if_pos hba, if_pos (by omega), hba, Nat.add_sub_cancel_left]
  · rw [if_neg hba, if_neg (by omega)]

/-- Bytes outside a written entry stay. -/
theorem putEntry_bytes (ha : a % 8 = 0) (hv : v.testBit 0 = true) (hb : b < a ∨ a + 8 ≤ b) : (k.putEntry a v).spadBytes b 1 = k.spadBytes b 1 := by
  rw [spadBytes_one, spadBytes_one]
  refine congrArg (fun c => [c]) (BitVec.eq_of_getLsbD_eq fun j hj => ?_)
  rw [byte_getLsbD b hj, byte_getLsbD b hj, putEntry_getLsbD (by omega) hv _ (by omega), if_neg (by omega)]

/-- The core differs from k in its scratchpad only. -/
def SpadOnly (k k' : Core) : Prop := k' = { k with spad := k'.spad, spadBad := k'.spadBad }

theorem SpadOnly.putEntry {k' : Core} (h : SpadOnly k k') (a v : Nat) : SpadOnly k (k'.putEntry a v) :=
  (putRowBytes_frame k' _ _ _).trans
    (congrArg (fun c : Core => { c with spad := (k'.putEntry a v).spad, spadBad := (k'.putEntry a v).spadBad }) h)

end Sys2Proof
end

section
/-! SUPPORT. PROBE and PROBE.F: the lookup, the miss and its fill (R118, R241). -/

namespace Sys2Proof

open Sys2Proof.Machine
variable {s : State} {x : Ctx} {o : C3} {fill : Bool}

/-! ### What a PROBE looks up -/

/-- The block's byte address, the set, the physical byte address of its entries, the entries, and the target of a miss. -/
def probeBlk (x : Ctx) (o : C3) : Nat := (x.rd o.sa).toNat / probeBlock (x.rd o.sb) * probeBlock (x.rd o.sb)
def probeSet (x : Ctx) (o : C3) : Nat := probeBlk x o / probeBlock (x.rd o.sb) % (probeSlots (x.rd o.sb) / 4)
def probeBase (x : Ctx) (o : C3) : Nat := (x.id.sbank * 256 + fieldNat (x.rd o.sb) 0 13) * 256 + 32 * probeSet x o
def probeTags (s : State) (x : Ctx) (o : C3) : List Nat := (List.range 4).map fun j => s.myCore.entryAt (probeBase x o + 8 * j)
def probeTarget (x : Ctx) (o : C3) : Word := x.ctl.pc + o.offset

/-- The word reads the entries. -/
def ProbeReads (s : State) (x : Ctx) (o : C3) : Prop :=
  probeOk (x.rd o.sb) = true ∧ probeFits x (x.rd o.sb) = true ∧ x.mustWait (.spad (probeBase x o)) 32 = false ∧
    probeBase x o / 256 ∉ s.myCore.spadBad

/-- The state after a miss: the control core goes to the target, and sd is written with the slot. -/
def missed (s : State) (y : Ctx) (target : Word) (sd : SReg) (slot : Nat) : State :=
  (s.ctlAfter (y.goto target) 4 (·.wr sd (BitVec.ofNat 64 slot))).passNow s.freeClk

/-- The core with the replacement bits moved on past a way, where every entry is valid. -/
def movedCore (s : State) (x : Ctx) (o : C3) (way : Nat) : Core :=
  if (probeTags s x o).all tagValid then s.myCore.putEntry (probeBase x o) (putBits ((probeTags s x o).getD 0 0) 4 2 (way + 1)) else s.myCore

/-- The entry that a fill takes, as it stands then: the block's, VALID and PENDING. -/
def filledEntry (s : State) (x : Ctx) (o : C3) (way : Nat) : Nat :=
  putBits (putBits ((movedCore s x o way).entryAt (probeBase x o + 8 * way)) 10 42 (probeBlk x o / 2 ^ 10)) 0 2 3

/-- The core after a fill has taken an entry. -/
def filledCore (s : State) (x : Ctx) (o : C3) (way : Nat) : Core :=
  (movedCore s x o way).putEntry (probeBase x o + 8 * way) (filledEntry s x o way)

/-- The first row of a slot's data. -/
def slotRow (x : Ctx) (o : C3) (slot : Nat) : Nat := fieldNat (x.rd o.sb) 13 13 + slot * (probeBlock (x.rd o.sb) / 256)

/-- The context after a fill has been pushed. -/
def filledCtx (x : Ctx) (o : C3) (q : QWord) : Ctx :=
  let y := (x.tokAdd o.tok).numbered .tla
  { y with ql := { y.ql with items := y.ql.items ++ [q] } }

def probeFill (x : Ctx) (o : C3) (way : Nat) : QWord :=
  fillWord x o.tok (probeBase x o + 8 * way) (probeBlk x o) (slotRow x o (4 * probeSet x o + way)) (probeBlock (x.rd o.sb) / 256)

/-- A miss of the way that it takes. -/
def probeMiss (s : State) (x : Ctx) (o : C3) (fill : Bool) (way : Nat) : Out :=
  if fieldNat (probeTarget x o) 0 3 ≠ 0 then .next (s.trapP x .illegal)
  else if !fill then .next (missed s x (probeTarget x o) o.sd (4 * probeSet x o + way))
  else if queueWords ≤ x.filled .l ∨ x.tokFull o.tok then .next (s.ctlWait x (.room .l o.tok))
  else .next (missed (s.putCore (filledCore s x o way))
    (filledCtx x o (probeFill x o way)) (probeTarget x o) o.sd (4 * probeSet x o + way))

/-! ### The word's cases -/

theorem exec_probeWord (fill : Bool) (o : C3) (s : State) : exec (if fill then .probeF o else .probe o) s = probeWord o fill s := by
  cases fill <;> rfl

theorem probeWord_runs (h : CtlRuns s o.g [o.sa, o.sb] x) : probeWord o fill s =
    if !probeOk (x.rd o.sb) then .next (s.trapP x .illegal)
    else if !probeFits x (x.rd o.sb) then .next (s.trapP x .allot)
    else if x.mustWait (.spad (probeBase x o)) 32 then .next (s.ctlBusy x)
    else if s.myCore.spadBad.contains (probeBase x o / 256) then
      .next (s.trapP x .poison 0x10 0 (fieldNat (x.rd o.sb) 0 13 * 256 + 32 * probeSet x o))
    else match probeHit (probeTags s x o) (probeBlk x o) with
      | some w => .next (s.ctlAfter x 4 fun y => { y.wr o.sd (BitVec.ofNat 64 (4 * probeSet x o + w)) with ctl := y.ctl.step })
      | none => probeMiss s x o fill (probeVictim (probeTags s x o)) := by
  rw [probeWord, ctlWord_runs h]
  rfl

theorem probeWord_illegal (h : CtlRuns s o.g [o.sa, o.sb] x) (hok : probeOk (x.rd o.sb) = false) :
    probeWord o fill s = .next (s.trapP x .illegal) := by
  rw [probeWord_runs h, hok]
  rfl

theorem probeWord_allot (h : CtlRuns s o.g [o.sa, o.sb] x) (hok : probeOk (x.rd o.sb) = true) (hfits : probeFits x (x.rd o.sb) = false) :
    probeWord o fill s = .next (s.trapP x .allot) := by
  rw [probeWord_runs h, hok, hfits]
  rfl

theorem probeWord_waits (h : CtlRuns s o.g [o.sa, o.sb] x) (hok : probeOk (x.rd o.sb) = true) (hfits : probeFits x (x.rd o.sb) = true)
    (hwait : x.mustWait (.spad (probeBase x o)) 32 = true) : probeWord o fill s = .next (s.ctlBusy x) := by
  rw [probeWord_runs h, hok, hfits, hwait]
  rfl

theorem probeWord_poison (h : CtlRuns s o.g [o.sa, o.sb] x) (hok : probeOk (x.rd o.sb) = true) (hfits : probeFits x (x.rd o.sb) = true)
    (hwait : x.mustWait (.spad (probeBase x o)) 32 = false) (hbad : probeBase x o / 256 ∈ s.myCore.spadBad) :
    probeWord o fill s = .next (s.trapP x .poison 0x10 0 (fieldNat (x.rd o.sb) 0 13 * 256 + 32 * probeSet x o)) := by
  rw [probeWord_runs h, hok, hfits, hwait]
  exact if_pos (List.contains_iff_mem.mpr hbad)

theorem probeWord_reads (h : CtlRuns s o.g [o.sa, o.sb] x) (hr : ProbeReads s x o) : probeWord o fill s =
    match probeHit (probeTags s x o) (probeBlk x o) with
    | some w => .next (s.ctlAfter x 4 fun y => { y.wr o.sd (BitVec.ofNat 64 (4 * probeSet x o + w)) with ctl := y.ctl.step })
    | none => probeMiss s x o fill (probeVictim (probeTags s x o)) := by
  obtain ⟨hok, hfits, hwait, hbad⟩ := hr
  rw [probeWord_runs h, hok, hfits, hwait]
  exact if_neg (mt List.contains_iff_mem.mp hbad)

/-! ### The lookup -/

theorem tagValid_eq (t : Nat) : tagValid t = t.testBit 0 := (Nat.testBit_zero t).symm

/-- Entry j holds the block. -/
def Holds (tags : List Nat) (blk j : Nat) : Prop :=
  (tags.getD j 0).testBit 0 = true ∧ tags.getD j 0 / 2 ^ 10 % 2 ^ 42 = blk / 2 ^ 10 % 2 ^ 42

theorem holds_iff (tags : List Nat) (blk j : Nat) :
    (tagValid (tags.getD j 0) && tagBlock (tags.getD j 0) == blk / 2 ^ 10 % 2 ^ 42) = true ↔ Holds tags blk j := by
  rw [tagValid_eq, Bool.and_eq_true, beq_iff_eq]
  rfl

theorem probeHit_some {tags : List Nat} {blk j : Nat} (hj : j < 4) (hholds : Holds tags blk j) (hfirst : ∀ i, i < j → ¬ Holds tags blk i) :
    probeHit tags blk = some j :=
  List.find?_range_eq_some.mpr ⟨(holds_iff ..).mpr hholds, List.mem_range.mpr hj, fun i hi => by
    rw [Bool.not_eq_true', Bool.eq_false_iff]
    exact mt (holds_iff ..).mp (hfirst i hi)⟩

theorem probeHit_none {tags : List Nat} {blk : Nat} (hmiss : ∀ j, j < 4 → ¬ Holds tags blk j) : probeHit tags blk = none :=
  List.find?_range_eq_none.mpr fun j hj => by
    rw [Bool.not_eq_true', Bool.eq_false_iff]
    exact mt (holds_iff ..).mp (hmiss j hj)

/-- The way that a miss takes, by the valid bits of the entries. -/
theorem probeVictim_eq (tags : List Nat) :
    probeVictim tags = ((List.range 4).find? fun j => !(tags.getD j 0).testBit 0).getD (tags.getD 0 0 / 2 ^ 4 % 4) := by
  simp only [probeVictim, tagValid_eq]
  rfl

theorem probeVictim_lt (tags : List Nat) : probeVictim tags < 4 := by
  unfold probeVictim
  cases hfind : (List.range 4).find? fun w => !tagValid (tags.getD w 0) with
  | none => exact Nat.mod_lt _ (by decide)
  | some w => exact List.mem_range.mp (List.mem_of_find?_eq_some hfind)

theorem probeTags_getD (s : State) (x : Ctx) (o : C3) {j : Nat} (hj : j < 4) :
    (probeTags s x o).getD j 0 = s.myCore.entryAt (probeBase x o + 8 * j) := by
  simp [probeTags, hj]

/-- Every entry is valid. -/
theorem all_valid_iff (s : State) (x : Ctx) (o : C3) :
    (probeTags s x o).all tagValid = true ↔ ∀ j, j < 4 → ((probeTags s x o).getD j 0).testBit 0 = true := by
  simp only [probeTags, List.all_map, List.all_eq_true, List.mem_range, Function.comp_apply, tagValid_eq]
  exact forall₂_congr fun j hj => by rw [← probeTags_getD s x o hj, probeTags]

/-! ### Hits and misses -/

theorem goto_frame (y : Ctx) (target : Word) : y.goto target =
    { y with ctl := { pc := target, phase := .header, sec := none }, retired := (y.goto target).retired,
             trapRet := (y.goto target).trapRet, secs := (y.goto target).secs } := by
  rw [Ctx.goto, leaveSec_eq]

/-- A word that has passed n clk and writes sd at its own place. -/
theorem ctlAfter_hit (honly : x.onlyScalars) (s : State) (sd : SReg) (v : Word) :
    EndsAfter s x x.ctl.step 4 sd v (s.ctlAfter x 4 fun y => { y.wr sd v with ctl := y.ctl.step }) := by
  have hpass := passedLanded_passes honly s 4
  rw [ctlAfter_eq honly]
  have hctl : (passedLanded s x 4).ctl = x.ctl := by rw [hpass.1]
  rw [hctl]
  exact hpass.endsAfter s x.ctl.step sd v

/-- A miss leaves the section for the target, and sd is written when 4 clk have passed. -/
theorem missed_endsAfter {y : Ctx} (honly : y.onlyScalars) (s : State) (target : Word) (sd : SReg) (slot : Nat) :
    EndsAfter s (y.leaveSec y.ctl) { pc := target, phase := .header, sec := none } (4 + s.freeClk) sd (BitVec.ofNat 64 slot)
      (missed s y target sd slot) := by
  have hgo : (y.goto target).onlyScalars := by rw [goto_frame]; exact honly
  have hpass := passedLanded_passes hgo s 4
  have hctl : (passedLanded s (y.goto target) 4).wr sd (BitVec.ofNat 64 slot) =
      { (passedLanded s (y.goto target) 4).wr sd (BitVec.ofNat 64 slot) with ctl := (y.goto target).ctl } := by
    rw [wr_frame, hpass.1]
  rw [missed, ctlAfter_eq hgo, hctl]
  exact endsAfter_passNow (hpass.endsAfter s (y.goto target).ctl sd _) s.freeClk

theorem probeMiss_trap {way : Nat} (ht : (probeTarget x o).toNat % 8 ≠ 0) : probeMiss s x o fill way = .next (s.trapP x .illegal) :=
  if_pos (fieldNat_low_three _ ▸ ht)

theorem probeMiss_leaves {way : Nat} (ht : (probeTarget x o).toNat % 8 = 0) :
    probeMiss s x o false way = .next (missed s x (probeTarget x o) o.sd (4 * probeSet x o + way)) :=
  (if_neg (not_not_intro (fieldNat_low_three _ ▸ ht))).trans (if_pos rfl)

theorem probeMiss_fill {way : Nat} (ht : (probeTarget x o).toNat % 8 = 0) : probeMiss s x o true way =
    if queueWords ≤ x.filled .l ∨ x.tokFull o.tok then .next (s.ctlWait x (.room .l o.tok))
    else .next (missed (s.putCore (filledCore s x o way))
      (filledCtx x o (probeFill x o way)) (probeTarget x o) o.sd (4 * probeSet x o + way)) :=
  (if_neg (not_not_intro (fieldNat_low_three _ ▸ ht))).trans (if_neg Bool.false_ne_true)

theorem faultOn_no_engine (x : Ctx) : x.faultOn (fun _ => false) = none := by
  simp [Ctx.faultOn]

theorem ctlWait_room (s : State) (x : Ctx) (k : Kind) (t : Token) : s.ctlWait x (.room k t) = s.ctlHold x (.wait (.room k t)) :=
  deliverOr_none (.inr (faultOn_no_engine x))

/-! ### The entry that a fill takes (R118) -/

section
variable {way : Nat}

theorem probeBase_aligned (x : Ctx) (o : C3) : probeBase x o % 32 = 0 := by
  unfold probeBase
  omega

/-- The first entry is valid still when its replacement bits have moved on. -/
theorem moved_valid (hall : (probeTags s x o).all tagValid = true) :
    (putBits ((probeTags s x o).getD 0 0) 4 2 (way + 1)).testBit 0 = true := by
  rw [putBits_testBit, if_neg (by omega)]
  exact (all_valid_iff s x o).mp hall 0 (by decide)

theorem filledEntry_testBit (s : State) (x : Ctx) (o : C3) (way i : Nat) : (filledEntry s x o way).testBit i =
    if i < 2 then true else if 10 ≤ i ∧ i < 52 then (probeBlk x o).testBit i
    else ((movedCore s x o way).entryAt (probeBase x o + 8 * way)).testBit i := by
  rw [filledEntry, putBits_testBit, putBits_testBit, Nat.testBit_div_two_pow]
  by_cases h2 : i < 2
  · rw [if_pos (by omega), if_pos h2]
    interval_cases i <;> rfl
  · rw [if_neg (by omega), if_neg h2]
    by_cases h10 : 10 ≤ i ∧ i < 52
    · rw [if_pos (by omega), if_pos h10, Nat.sub_add_cancel h10.1]
    · rw [if_neg (by omega), if_neg h10]

theorem filledEntry_valid (s : State) (x : Ctx) (o : C3) (way : Nat) : (filledEntry s x o way).testBit 0 = true := by
  rw [filledEntry_testBit, if_pos (by decide)]

theorem movedCore_testBit (s : State) (x : Ctx) (o : C3) (way : Nat) {j i : Nat} (hi : i < 64) :
    ((movedCore s x o way).entryAt (probeBase x o + 8 * j)).testBit i =
      if j = 0 ∧ (probeTags s x o).all tagValid = true ∧ (i = 4 ∨ i = 5) then (way + 1).testBit (i - 4)
      else (s.myCore.entryAt (probeBase x o + 8 * j)).testBit i := by
  have hbase := probeBase_aligned x o
  unfold movedCore
  by_cases hall : (probeTags s x o).all tagValid = true
  · rw [if_pos hall, putEntry_testBit (by omega) (by omega) (moved_valid hall) hi, putBits_testBit, probeTags_getD s x o (by decide)]
    by_cases hj : j = 0
    · subst hj
      rw [Nat.mul_zero, Nat.add_zero, if_pos rfl]
      by_cases hbits : i = 4 ∨ i = 5
      · rw [if_pos (by omega), if_pos ⟨rfl, hall, hbits⟩]
      · rw [if_neg (by omega), if_neg fun h => hbits h.2.2]
    · rw [if_neg (by omega), if_neg fun h => hj h.1]
  · rw [if_neg hall, if_neg fun h => hall h.2.1]

/-- The entries after a fill. -/
theorem filledCore_testBit (s : State) (x : Ctx) (o : C3) (way : Nat) {j i : Nat} (hi : i < 64) :
    ((filledCore s x o way).entryAt (probeBase x o + 8 * j)).testBit i =
      if j = way ∧ i < 2 then true else if j = way ∧ 10 ≤ i ∧ i < 52 then (probeBlk x o).testBit i
      else if j = 0 ∧ (probeTags s x o).all tagValid = true ∧ (i = 4 ∨ i = 5) then (way + 1).testBit (i - 4)
      else (s.myCore.entryAt (probeBase x o + 8 * j)).testBit i := by
  have hbase := probeBase_aligned x o
  rw [filledCore, putEntry_testBit (by omega) (by omega) (filledEntry_valid s x o way) hi]
  by_cases hj : j = way
  · subst hj
    rw [if_pos rfl, filledEntry_testBit, movedCore_testBit s x o j hi]
    simp only [true_and]
  · rw [if_neg (by omega), movedCore_testBit s x o way hi]
    simp only [hj, false_and, if_false]

/-- Bytes outside the set's entries stay. -/
theorem filledCore_bytes (s : State) (x : Ctx) (o : C3) (hw : way < 4) {a : Nat} (ha : a < probeBase x o ∨ probeBase x o + 32 ≤ a) :
    (filledCore s x o way).spadBytes a 1 = s.myCore.spadBytes a 1 := by
  have hbase := probeBase_aligned x o
  rw [filledCore, putEntry_bytes (by omega) (filledEntry_valid s x o way) (by omega), movedCore]
  split
  next hall => exact putEntry_bytes (by omega) (moved_valid hall) (by omega)
  next => rfl

theorem filledCore_frame (s : State) (x : Ctx) (o : C3) (way : Nat) : SpadOnly s.myCore (filledCore s x o way) := by
  have hself : SpadOnly s.myCore s.myCore := rfl
  refine SpadOnly.putEntry ?_ _ _
  unfold movedCore
  split
  next => exact hself.putEntry _ _
  next => exact hself

end

theorem filledCtx_eq (x : Ctx) (o : C3) (q : QWord) : filledCtx x o q =
    { (x.tokAdd o.tok) with tl := { x.tl with a := { x.tl.a with pushed := x.tl.a.pushed + 1 } },
                            ql := { x.ql with items := x.ql.items ++ [q] } } := by
  unfold filledCtx Ctx.tokAdd
  cases o.tok <;> rfl

theorem filledCtx_onlyScalars (honly : x.onlyScalars) (q : QWord) : (filledCtx x o q).onlyScalars := by
  rw [filledCtx_eq]
  have hfl : (x.tokAdd o.tok).flights = x.flights := by
    unfold Ctx.tokAdd
    cases o.tok <;> rfl
  rw [Ctx.onlyScalars, hfl]
  exact honly

/-- Settles O29: the word's refusals in their order, and behind them the hit, the miss, and the fill with the entries that it leaves. -/
theorem probeWords : Obligations.ProbeWords := by
  unfold Obligations.ProbeWords
  intro s x o fill h w v bsz blk set base tags tag target holds full way slot miss leaves
  have hw : exec w s = probeWord o fill s := exec_probeWord fill o s
  have hway : probeVictim (probeTags s x o) = way := probeVictim_eq (probeTags s x o)
  have hway4 : way < 4 := hway ▸ probeVictim_lt (probeTags s x o)
  rw [hw]
  refine ⟨probeWord_illegal h, probeWord_allot h, fun hok hfits hwait => ⟨_, probeWord_waits h hok hfits hwait, ctlHold_waits s x .busy⟩,
    probeWord_poison h, fun hok hfits hwait hbad honly => ?_⟩
  have hr := probeWord_reads (fill := fill) h ⟨hok, hfits, hwait, hbad⟩
  have hmiss : miss → probeWord o fill s = probeMiss s x o fill way := fun hm => by
    rw [hr, probeHit_none (tags := probeTags s x o) (blk := probeBlk x o) hm, hway]
  refine ⟨fun j hj hholds hfirst => ?_, fun hm ht => (hmiss hm).trans (probeMiss_trap ht), fun hm ht hf => ?_, fun hm ht hf hfull => ?_,
    fun hm ht hf hroom htok => ?_⟩
  · rw [probeHit_some (tags := probeTags s x o) (blk := probeBlk x o) hj hholds hfirst] at hr
    exact ⟨_, hr, ctlAfter_hit honly s o.sd _⟩
  · subst hf
    exact ⟨_, _, hw.trans ((hmiss hm).trans (probeMiss_leaves ht)), Nat.le_add_right 4 _, missed_endsAfter honly s target o.sd slot⟩
  · subst hf
    have hrun := (hmiss hm).trans ((probeMiss_fill ht).trans (if_pos hfull))
    rw [ctlWait_room] at hrun
    exact ⟨_, hrun, ctlHold_waits s x _⟩
  · subst hf
    intro rows
    have hrun := (hmiss hm).trans ((probeMiss_fill ht).trans (if_neg (not_or.mpr ⟨Nat.not_le.mpr hroom, by rw [htok]; exact Bool.false_ne_true⟩)))
    have hends := missed_endsAfter (filledCtx_onlyScalars (o := o) honly (probeFill x o way)) (s.putCore (filledCore s x o way)) target o.sd slot
    rw [filledCtx_eq] at hrun hends
    refine ⟨filledCore s x o way, probeFill x o way, ⟨_, _, hw.trans hrun, Nat.le_add_right 4 _, hends⟩, rfl, rfl, rfl, rfl,
      filledCore_frame s x o way, fun a ha => filledCore_bytes s x o hway4 ha, fun j i hj hi => ?_⟩
    have hfull : (probeTags s x o).all tagValid = true ↔ full := all_valid_iff s x o
    have htag : (s.myCore.entryAt (probeBase x o + 8 * j)).testBit i = (tag j).testBit i :=
      congrArg (Nat.testBit · i) (probeTags_getD s x o hj).symm
    exact (filledCore_testBit s x o way hi).trans (if_congr Iff.rfl rfl (if_congr Iff.rfl rfl
      (if_congr (and_congr_right fun _ => and_congr_left fun _ => hfull) rfl htag)))

end Sys2Proof
end
